-- ==== Sys2Proof/Word.lean ====
section
/-!
DEFINITION. The word types of the package: 64-bit words, bytes, 128-bit tokens (R22, R87),
and the sparse tables the state is built from.
-/
namespace Sys2Proof

/-- A 64-bit register, instruction or memory word (R87). -/
abbrev Word := BitVec 64

/-- One byte of memory. -/
abbrev Byte := BitVec 8

/-- A 128-bit token (R22). -/
abbrev Token := BitVec 128

/-- A 6-bit operand specifier (R93, R98). -/
abbrev Spec := BitVec 6

/-- A sparse table: entries by rising key, none equal to the table's default. -/
abbrev Table (α : Type) := List (Nat × α)

end Sys2Proof
end

