-- ==== Sys2Proof/Machine/Payload.lean ====
section
/-!
DEFINITION. The plain data that an event of the package carries: the agent that executes a word,
a held access on its way to its home, a rod add, a lock request, a trap record, a link packet.
-/
namespace Sys2Proof.Machine

/-- The agents that execute Vegon words (R100): the pass in a slot of an engine (global number,
slot 0 matrix, 1 vector/stream), a control core, a program slot of a collective sequencer. -/
inductive Agent where
  | pass (e slot : Nat)
  | core (d : Nat)
  | seq (d k : Nat)
deriving DecidableEq, Repr, Inhabited

/-- Who made an effect, as trap records and fault rules need it (R274, R341): the context
(64 for a supervisor core with ASEL = 64), the instance when a pass made it, the die, the unit
number of R23 (255 for none), the operator and colour. -/
structure Origin where
  ctx  : Nat
  inst : Option Nat
  die  : Nat
  unit : Nat
  op   : Nat
  col  : Nat
deriving DecidableEq, Repr, Inhabited

/-- What a token on its way to a matching store carries beside its bits: whether it is an initial token of its instance (R313), and who
sent it (R20), as 256 · die + unit. -/
structure Sender where
  initial : Bool := false
  src     : Nat := 0
deriving DecidableEq, Repr, Inhabited

/-- A command on its way to a device queue (R302): the engine that made it and its eight words. -/
structure DevicePost where
  eng   : Nat := 0
  words : List Word := []
deriving DecidableEq, Repr, Inhabited

/-- A trap record by its fields (R274). `key` names the fault that the record opens (FIDV = 1), `fid` the fault
identifier once the core has assigned it (R271); `tok` is the token of words 4 and 5. -/
structure Record where
  cause  : BitVec 8
  ctx    : Option Nat
  inst   : Option Nat
  die    : Nat
  unit   : Nat
  op     : Nat
  col    : Nat
  key    : Option Nat
  fid    : BitVec 32
  addr   : Word
  detail : Word
  tok    : Option Token
  tick   : Word
deriving DecidableEq, Repr, Inhabited

/-- What an access does when it reaches its home (R234, R249, R250). Sizes are in bytes. -/
inductive AccOp where
  | store (bytes : List Byte)
  | atom (op size : Nat) (v : Word)
  | cas (size : Nat) (new cmp : Word)
deriving DecidableEq, Repr, Inhabited

/-- A result or completion token to be sent when an operation completes (R241): the token with its payload still 0, the
output reference of a remote consumer (R403), and who sends it. -/
structure Reply where
  tok    : Token
  remote : Option Word
  who    : Origin
deriving DecidableEq, Repr, Inhabited

/-- A store or atomic released at commit, on its way to its home (R51, R225): the home of each byte, the operation, and
the acquire code of an atomic (R227): 0 where it is no acquire, else the scope code plus one. -/
structure Access where
  homes : List Nat
  op    : AccOp
  acq   : Nat
  who   : Origin
  reply : Option Reply
deriving DecidableEq, Repr, Inhabited

/-- A rod add on its way to the rod's home (R341). `home` is the byte home of a MEMORY rod. -/
structure RodAdd where
  ref    : Word
  home   : Nat
  amount : Nat
  who    : Origin
  tag    : Nat
deriving DecidableEq, Repr, Inhabited

/-- A lock request on its way to the home Reckoner (R364). -/
structure LockReq where
  ctx   : Nat
  age   : Word
  name  : Word
  mode  : Nat
  hold  : Bool
  eng   : Nat
  fid   : Nat
deriving DecidableEq, Repr, Inhabited

/-- What a lock release frees (R362, R367, R373), or the setting that LKM.LD or LKE.SET brings the Reckoners (R375). -/
inductive RelKind where
  | below (name : Word)
  | all
  | passEnd (fid : Nat)
  | revert (fid : Nat)
  | matrix (v : BitVec 36)
  | esc (v : BitVec 6)
deriving DecidableEq, Repr, Inhabited

/-- A lock release on its way to a home Reckoner (R365). -/
structure LockRel where
  die  : Nat
  ctx  : Nat
  age  : Word
  kind : RelKind
deriving DecidableEq, Repr, Inhabited

/-- A link packet: the header fields of R397 and the payload bytes; `inAt` is the port of this package at which a collective packet
has arrived, 4 × die + port (R399). -/
structure Packet where
  kind    : BitVec 8
  die     : BitVec 8
  dnode   : BitVec 16
  snode   : BitVec 16
  age     : BitVec 16
  gkey    : BitVec 32
  srank   : BitVec 16
  drank   : BitVec 16
  gen     : BitVec 16
  tag     : BitVec 16
  len     : BitVec 32
  addr    : Word
  xdata   : BitVec 192
  payload : List Byte
  inAt    : Nat := 0
deriving DecidableEq, Repr, Inhabited

end Sys2Proof.Machine
end

