-- ==== Sys2Proof/Syntax.lean ====
section
/-!
DEFINITION. The instructions and steps of the package: one constructor for each row of the table of
operations and events. An instruction of an agent carries the fields of its word format (R87, R261)
and its extension word; a step of a unit carries the data that the step is about.
-/
namespace Sys2Proof
open Sys2Proof.Machine

/-- Format A below the common fields (R87). -/
structure FmtA where
  dst : Spec
  sa  : Spec
  sb  : Spec
  sc  : Spec
  rm  : BitVec 3
  f1  : BitVec 4
  f2  : BitVec 4
  red : BitVec 2
  ms  : BitVec 2
  me  : BitVec 1
  imm : BitVec 11
deriving DecidableEq, Repr, Inhabited

/-- Format B (R87). -/
structure FmtB where
  dst  : Spec
  qual : BitVec 10
  imm  : BitVec 35
deriving DecidableEq, Repr, Inhabited

/-- Format M (R87). -/
structure FmtM where
  dv    : Spec
  sa    : Spec
  sb    : Spec
  lsid  : BitVec 5
  scope : BitVec 3
  ord   : BitVec 2
  size  : BitVec 3
  aop   : BitVec 4
  nt    : BitVec 1
  off   : BitVec 15
deriving DecidableEq, Repr, Inhabited

/-- Format E (R87); `rsv` is the reserved field [17:0]. -/
structure FmtE where
  sa   : Spec
  out  : BitVec 3
  cto  : BitVec 1
  ct   : BitVec 3
  cimm : BitVec 12
  ef   : BitVec 1
  ofl  : BitVec 1
  sb   : Spec
  rsv  : BitVec 18
deriving DecidableEq, Repr, Inhabited

/-- Control-core format CM (R261). -/
structure FmtCM where
  gd    : Spec
  ga    : Spec
  size  : BitVec 3
  ord   : BitVec 2
  scope : BitVec 3
  off   : BitVec 31
deriving DecidableEq, Repr, Inhabited

/-- Control-core format CB (R261). -/
structure FmtCB where
  ga  : Spec
  gb  : Spec
  cc  : BitVec 4
  off : BitVec 35
deriving DecidableEq, Repr, Inhabited

/-- Control-core format CJ (R261); `rsv` is [38:35]. -/
structure FmtCJ where
  gd  : Spec
  ga  : Spec
  rsv : BitVec 4
  off : BitVec 35
deriving DecidableEq, Repr, Inhabited

/-- Control-core format CS (R261); `rsv` is [26:0]. -/
structure FmtCS where
  gd  : Spec
  ga  : Spec
  csr : BitVec 12
  rsv : BitVec 27
deriving DecidableEq, Repr, Inhabited

/-- Control-core format CG (R261). -/
structure FmtCG where
  gd  : Spec
  ga  : Spec
  gb  : Spec
  gc  : Spec
  imm : BitVec 27
deriving DecidableEq, Repr, Inhabited

/-- The rows of the table of operations and events. -/
inductive Instr where
  /-- TOKEN_ARRIVAL (R58). -/
  | tokenArrival (die unit : Nat) (tok : Token) (sent : Sender)
  /-- LOOP_ARM (R39). -/
  | loopArm (e op : Nat)
  /-- LOOP_HAND_OUT (R39). -/
  | loopHandOut (e op : Nat)
  /-- OVERFLOW_REINJECT (R28). -/
  | overflowReinject (die eng frame : Nat)
  /-- FIRING_ISSUE (R55). -/
  | firingIssue (e slot : Nat)
  /-- PASS_COMMIT (R50). -/
  | passCommit (e slot : Nat)
  /-- PASS_ABORT (R52). -/
  | passAbort (e fid : Nat)
  /-- PUSH_LANDING (R46). -/
  | pushLanding (die unit : Nat) (tok : Token) (rows : List (List Byte)) (tans : List (List (List Byte)))
  /-- STREAM_CHUNK_TRANSFER (R225). -/
  | streamChunkTransfer (owner n chunk : Nat)
  /-- STREAM_COMPLETION (R242). -/
  | streamCompletion (owner n : Nat)
  /-- TRANSLATION_WALK_COMPLETE (R386). -/
  | translationWalkComplete (owner n : Nat)
  /-- ROD_ADD_ARRIVAL (R341). -/
  | rodAddArrival (a : RodAdd)
  /-- SUSPENDED_PASS_RESUME (R349). -/
  | suspendedPassResume (e fid : Nat)
  /-- WINDOW_ACCESS_ARRIVAL (R332). -/
  | windowAccessArrival (a : Access)
  /-- LOCK_REQUEST_DECIDE (R364). -/
  | lockRequestDecide (r : LockReq)
  /-- WOUND_ARRIVAL (R366). -/
  | woundArrival (e fid : Nat) (name : Word)
  /-- LOCK_RELEASE_ARRIVAL (R365). -/
  | lockReleaseArrival (r : LockRel)
  /-- TRAP_RECORD_ENQUEUE (R275). -/
  | trapRecordEnqueue (d : Nat) (r : Record)
  /-- TRAP_DELIVERY (R276). -/
  | trapDelivery (d : Nat)
  /-- HANDLER_TIMEOUT (R277). -/
  | handlerTimeout (d : Nat)
  /-- EXIT_TOKEN (R314). -/
  | exitToken (tok : Token) (who : Origin)
  /-- INSTANCE_QUIESCE (R315). -/
  | instanceQuiesce (k : Nat)
  /-- STALL (R320). -/
  | stall (d ctx : Nat)
  /-- POOL_DISPATCH (R337). -/
  | poolDispatch (d : Nat)
  /-- POOL_PRIORITY_PROMOTE (R338). -/
  | poolPriorityPromote (d n : Nat)
  /-- GROUP_CLEAR_COMPLETE (R330). -/
  | groupClearComplete (d g : Nat)
  /-- CONTEXT_RUN_GRANT (R282). -/
  | contextRunGrant (c : Nat)
  /-- TEARDOWN_COMPLETE (R290). -/
  | teardownComplete (c : Nat)
  /-- QUANTUM_EXPIRY (R283). -/
  | quantumExpiry (c : Nat)
  /-- HARD_DEADLINE_EXPIRY (R282). -/
  | hardDeadlineExpiry (c : Nat)
  /-- CONTEXT_DRAIN_COMPLETE (R284). -/
  | contextDrainComplete (c : Nat)
  /-- HARD_PREEMPT_COMPLETE (R285). -/
  | hardPreemptComplete (c : Nat)
  /-- CMD_LAUNCH (R296). -/
  | cmdLaunch (q : Nat)
  /-- CMD_ROD_ADD (R296). -/
  | cmdRodAdd (q : Nat)
  /-- CMD_ROD_WAIT (R296). -/
  | cmdRodWait (q : Nat)
  /-- CMD_COPY (R296). -/
  | cmdCopy (q : Nat)
  /-- CMD_COLL (R296). -/
  | cmdColl (q : Nat)
  /-- CMD_FENCE (R296). -/
  | cmdFence (q : Nat)
  /-- CMD_MARK (R296). -/
  | cmdMark (q : Nat)
  /-- LNCH_RESERVATION (R302). -/
  | lnchReservation (e fid : Nat)
  /-- DEVICE_QUEUE_POST (R301). -/
  | deviceQueuePost (ctx inst : Nat) (post : DevicePost)
  /-- WALKER_INV_COMPLETE (R391). -/
  | walkerInvComplete (d : Nat)
  /-- LINK_TRAIN_ATTEMPT_DONE (R395). -/
  | linkTrainAttemptDone (d i : Nat) (ok : Bool)
  /-- FLIT_RECEIVE (R393). -/
  | flitReceive (d i : Nat) (flit : BitVec 512)
  /-- REPLAY_REQUEST (R394). -/
  | replayRequest (d i : Nat)
  /-- REPLAY_TIMEOUT (R394). -/
  | replayTimeout (d i : Nat)
  /-- PACKET_FORWARD (R399). -/
  | packetForward (d i : Nat) (p : Packet)
  /-- TOKEN_PACKET (R403). -/
  | tokenPacket (d i ctx : Nat) (p : Packet)
  /-- REMOTE_OP_ARRIVAL (R404). -/
  | remoteOpArrival (d i ctx : Nat) (p : Packet)
  /-- RACK (R254). -/
  | rack (ctx : Nat) (p : Packet)
  /-- RFAIL (R253). -/
  | rfail (ctx : Nat) (p : Packet)
  /-- CREQ (R409). -/
  | creq (ctx t : Nat) (p : Packet)
  /-- CCLR (R409). -/
  | cclr (ctx t : Nat) (p : Packet)
  /-- CDATA (R409). -/
  | cdata (ctx t : Nat) (p : Packet)
  /-- CDONE (R409). -/
  | cdone (ctx t : Nat) (p : Packet)
  /-- CBUSY (R410). -/
  | cbusy (ctx t : Nat) (p : Packet)
  /-- CREQ_RESEND (R410). -/
  | creqResend (d k n : Nat)
  /-- CABT (R423). -/
  | cabt (ctx t : Nat) (p : Packet)
  /-- CACK (R423). -/
  | cack (ctx t : Nat) (p : Packet)
  /-- ABORT_ACK_TIMEOUT (R423). -/
  | abortAckTimeout (ctx t gen : Nat)
  /-- COLL_STEP_TIMEOUT (R410). -/
  | collStepTimeout (d k n : Nat)
  /-- RECV_PORT_TIMEOUT (R405). -/
  | recvPortTimeout (e op port col : Nat)
  /-- PGT_VALIDATE (R401). -/
  | pgtValidate (ctx t : Nat)
  /-- IMAGE_VERIFY_DONE (R452). -/
  | imageVerifyDone
  /-- RESET_RELEASE (R452). -/
  | resetRelease
  /-- ROM_TESTS_DONE (R452). -/
  | romTestsDone
  /-- REPLAY_DIVERGENCE (R457). -/
  | replayDivergence
  /-- EMIT (R110). -/
  | emit (f : FmtE)
  /-- NULL (R111). -/
  | null (f : FmtE)
  /-- STEER (R115). -/
  | steer (f : FmtA) (x : Option Word)
  /-- LGEN (R113). -/
  | lgen (f : FmtA)
  /-- DMND (R112). -/
  | dmnd (f : FmtA)
  /-- RELS (R119). -/
  | rels (f : FmtA)
  /-- KEEP (R118). -/
  | keep (f : FmtA)
  /-- COLR (R114). -/
  | colr (f : FmtA)
  /-- NOP (R122). -/
  | nop (f : FmtA)
  /-- EXIT (R121). -/
  | exit (f : FmtA)
  /-- ADD (R124). -/
  | add (f : FmtA)
  /-- SUB (R124). -/
  | sub (f : FmtA)
  /-- MUL (R124). -/
  | mul (f : FmtA)
  /-- MULH (R124). -/
  | mulh (f : FmtA)
  /-- MULHU (R124). -/
  | mulhu (f : FmtA)
  /-- DIVU (R124). -/
  | divu (f : FmtA)
  /-- REMU (R124). -/
  | remu (f : FmtA)
  /-- AND (R124). -/
  | and (f : FmtA)
  /-- OR (R124). -/
  | or (f : FmtA)
  /-- XOR (R124). -/
  | xor (f : FmtA)
  /-- ANDN (R124). -/
  | andn (f : FmtA)
  /-- SHL (R124). -/
  | shl (f : FmtA)
  /-- SHR (R124). -/
  | shr (f : FmtA)
  /-- SRA (R124). -/
  | sra (f : FmtA)
  /-- MIN (R124). -/
  | min (f : FmtA)
  /-- MAX (R124). -/
  | max (f : FmtA)
  /-- MINU (R124). -/
  | minu (f : FmtA)
  /-- MAXU (R124). -/
  | maxu (f : FmtA)
  /-- CMP (R125). -/
  | cmp (f : FmtA)
  /-- SEL (R125). -/
  | sel (f : FmtA)
  /-- MOV (R125). -/
  | mov (f : FmtA)
  /-- CLZ (R126). -/
  | clz (f : FmtA)
  /-- POPC (R126). -/
  | popc (f : FmtA)
  /-- BFX (R127). -/
  | bfx (f : FmtA)
  /-- BFI (R127). -/
  | bfi (f : FmtA)
  /-- LI (R128). -/
  | li (f : FmtB) (x : Option Word)
  /-- TDMK (R131). -/
  | tdmk (f : FmtA)
  /-- TDGET (R130). -/
  | tdget (f : FmtA)
  /-- TDSET (R130). -/
  | tdset (f : FmtA)
  /-- TDADV (R131). -/
  | tdadv (f : FmtA)
  /-- TDSUB (R132). -/
  | tdsub (f : FmtA)
  /-- FADD (R134). -/
  | fadd (f : FmtA)
  /-- FSUB (R134). -/
  | fsub (f : FmtA)
  /-- FMUL (R134). -/
  | fmul (f : FmtA)
  /-- FFMA (R134). -/
  | ffma (f : FmtA)
  /-- FMIN (R134). -/
  | fmin (f : FmtA)
  /-- FMAX (R134). -/
  | fmax (f : FmtA)
  /-- FCMP (R135). -/
  | fcmp (f : FmtA)
  /-- FCVT (R136). -/
  | fcvt (f : FmtA)
  /-- FRCP (R137). -/
  | frcp (f : FmtA)
  /-- FRSQ (R137). -/
  | frsq (f : FmtA)
  /-- VADD (R145). -/
  | vadd (f : FmtA)
  /-- VSUB (R145). -/
  | vsub (f : FmtA)
  /-- VMUL (R145). -/
  | vmul (f : FmtA)
  /-- VFMA (R145). -/
  | vfma (f : FmtA)
  /-- VMIN (R145). -/
  | vmin (f : FmtA)
  /-- VMAX (R145). -/
  | vmax (f : FmtA)
  /-- VABS (R145). -/
  | vabs (f : FmtA)
  /-- VNEG (R145). -/
  | vneg (f : FmtA)
  /-- VAND (R146). -/
  | vand (f : FmtA)
  /-- VOR (R146). -/
  | vor (f : FmtA)
  /-- VXOR (R146). -/
  | vxor (f : FmtA)
  /-- VSHL (R146). -/
  | vshl (f : FmtA)
  /-- VSHR (R146). -/
  | vshr (f : FmtA)
  /-- VSRA (R146). -/
  | vsra (f : FmtA)
  /-- VCMP (R147). -/
  | vcmp (f : FmtA)
  /-- VSEL (R148). -/
  | vsel (f : FmtA)
  /-- VMSK (R149). -/
  | vmsk (f : FmtA)
  /-- VCVT (R150). -/
  | vcvt (f : FmtA)
  /-- VRCP (R151). -/
  | vrcp (f : FmtA)
  /-- VRSQ (R151). -/
  | vrsq (f : FmtA)
  /-- VNRS (R152). -/
  | vnrs (f : FmtA)
  /-- VEXP2 (R151). -/
  | vexp2 (f : FmtA)
  /-- VLOG2 (R151). -/
  | vlog2 (f : FmtA)
  /-- VTANH (R151). -/
  | vtanh (f : FmtA)
  /-- VSUMR (R154). -/
  | vsumr (f : FmtA)
  /-- VMAXR (R154). -/
  | vmaxr (f : FmtA)
  /-- VSCAN (R154). -/
  | vscan (f : FmtA)
  /-- VBCST (R155). -/
  | vbcst (f : FmtA)
  /-- VLSH (R156). -/
  | vlsh (f : FmtA)
  /-- VPERM (R157). -/
  | vperm (f : FmtA)
  /-- VTRN (R158). -/
  | vtrn (f : FmtA)
  /-- VQNT (R159). -/
  | vqnt (f : FmtA)
  /-- VDQNT (R160). -/
  | vdqnt (f : FmtA)
  /-- VADDC (R162). -/
  | vaddc (f : FmtA)
  /-- VMULW (R163). -/
  | vmulw (f : FmtA)
  /-- VTOPK (R164). -/
  | vtopk (f : FmtA)
  /-- MMA (R176). -/
  | mma (f : FmtA)
  /-- MMAQ (R177). -/
  | mmaq (f : FmtA)
  /-- MMAX (R178). -/
  | mmax (f : FmtA)
  /-- MMAG (R180). -/
  | mmag (f : FmtA) (x : Word)
  /-- MZRO (R181). -/
  | mzro (f : FmtA)
  /-- MLDQ (R182). -/
  | mldq (f : FmtA)
  /-- MSTQ (R183). -/
  | mstq (f : FmtA)
  /-- ABX_CLR (R189). -/
  | abxClr (f : FmtA)
  /-- ABX_ADD (R188). -/
  | abxAdd (f : FmtA)
  /-- ABX_DOT (R188). -/
  | abxDot (f : FmtA)
  /-- ABX_MRG (R190). -/
  | abxMrg (f : FmtA)
  /-- ABX_RND (R189). -/
  | abxRnd (f : FmtA)
  /-- ABX_OUT (R190). -/
  | abxOut (f : FmtA)
  /-- LDT (R245). -/
  | ldt (f : FmtM) (x : Word)
  /-- STT (R245). -/
  | stt (f : FmtM) (x : Word)
  /-- LDG (R247). -/
  | ldg (f : FmtM)
  /-- STG (R247). -/
  | stg (f : FmtM)
  /-- LDS (R247). -/
  | lds (f : FmtM)
  /-- STS (R247). -/
  | sts (f : FmtM)
  /-- CLRM (R246). -/
  | clrm (f : FmtM) (x : Word)
  /-- ORDJ (R248). -/
  | ordj (f : FmtM)
  /-- FENCE (R248). -/
  | fence (f : FmtM)
  /-- ATOM (R249). -/
  | atom (f : FmtM) (x : Option Word)
  /-- CAS (R250). -/
  | cas (f : FmtM) (x : Option Word)
  /-- REDT (R252). -/
  | redt (f : FmtM) (x : Word)
  /-- RMT_FAA (R254). -/
  | rmtFaa (f : FmtM) (x : Option Word)
  /-- RMT_ST (R254). -/
  | rmtSt (f : FmtM)
  /-- RMT_STT (R254). -/
  | rmtStt (f : FmtM) (x : Word)
  /-- RMT_FLAG (R255). -/
  | rmtFlag (f : FmtM)
  /-- ROD_ADD (R347). -/
  | rodAdd (f : FmtM)
  /-- ROD_WAIT (R348). -/
  | rodWait (f : FmtM)
  /-- ROD_RD (R350). -/
  | rodRd (f : FmtM)
  /-- ROD_INIT (R351). -/
  | rodInit (f : FmtM)
  /-- ROD_INIT_FREE (R351). -/
  | rodInitFree (f : FmtM)
  /-- LK_ACQ (R372). -/
  | lkAcq (f : FmtM)
  /-- LK_UPG (R372). -/
  | lkUpg (f : FmtM)
  /-- LK_REL (R373). -/
  | lkRel (f : FmtM)
  /-- LK_RALL (R373). -/
  | lkRall (f : FmtM)
  /-- LK_QRY (R374). -/
  | lkQry (f : FmtM)
  /-- LKM_LD (R375). -/
  | lkmLd (f : FmtM)
  /-- LKE_SET (R375). -/
  | lkeSet (f : FmtM)
  /-- LNCH (R301). -/
  | lnch (f : FmtM)
  /-- TRIG (R303). -/
  | trig (f : FmtM)
  /-- DSEED (R206). -/
  | dseed (f : FmtA)
  /-- DTGET (R207). -/
  | dtget (f : FmtA)
  /-- DTSET (R208). -/
  | dtset (f : FmtA)
  /-- DTZRO (R209). -/
  | dtzro (f : FmtA)
  /-- CS_SEND (R412). -/
  | csSend (f : FmtA) (x : Option Word)
  /-- CS_SEND_G (R412). -/
  | csSendG (f : FmtA) (x : Word)
  /-- CS_RECV (R413). -/
  | csRecv (f : FmtA) (x : Option Word)
  /-- CS_RRS (R414). -/
  | csRrs (f : FmtA) (x : Option Word)
  /-- CS_COPY (R415). -/
  | csCopy (f : FmtA) (x : Option Word)
  /-- CS_WAIT (R416). -/
  | csWait (f : FmtA)
  /-- CS_LOOP (R417). -/
  | csLoop (f : FmtA)
  /-- CS_PEER (R418). -/
  | csPeer (f : FmtA)
  /-- CS_END (R419). -/
  | csEnd (f : FmtA)
  /-- LD (R263). -/
  | ld (f : FmtCM)
  /-- ST (R263). -/
  | st (f : FmtCM)
  /-- BR (R265). -/
  | br (f : FmtCB)
  /-- JAL (R265). -/
  | jal (f : FmtCJ)
  /-- JALR (R265). -/
  | jalr (f : FmtCJ)
  /-- CSRR (R266). -/
  | csrr (f : FmtCS)
  /-- CSRW (R266). -/
  | csrw (f : FmtCS)
  /-- CSRS (R266). -/
  | csrs (f : FmtCS)
  /-- CSRC (R266). -/
  | csrc (f : FmtCS)
  /-- TRAPC (R267). -/
  | trapc (f : FmtCG)
  /-- ERET (R278). -/
  | eret (f : FmtCG)
  /-- WFE (R267). -/
  | wfe (f : FmtCG)
  /-- GLOAD (R269). -/
  | gload (f : FmtCG)
  /-- GARM (R316). -/
  | garm (f : FmtCG)
  /-- GDISARM (R316). -/
  | gdisarm (f : FmtCG)
  /-- INJ (R270). -/
  | inj (f : FmtCG)
  /-- PURGE (R323). -/
  | purge (f : FmtCG)
  /-- RETRYF (R271). -/
  | retryf (f : FmtCG)
  /-- RETRYF_FAIL (R271). -/
  | retryfFail (f : FmtCG)
  /-- SNAP (R286). -/
  | snap (f : FmtCG)
  /-- RSTOR (R288). -/
  | rstor (f : FmtCG)
  /-- QDRN (R272). -/
  | qdrn (f : FmtCG)
  /-- MSRD (R272). -/
  | msrd (f : FmtCG)
  /-- MSWR (R272). -/
  | mswr (f : FmtCG)
  /-- ACCESS_AT_HOME (R234). -/
  | accessAtHome (a : Access)
  /-- TOKEN_AT_LINK_PORT (R23). -/
  | tokenAtLinkPort (die unit : Nat) (tok : Token) (remote : Option Word) (who : Origin)
  /-- WORD_DECODE_FAULT (R100). -/
  | wordDecodeFault (ag : Agent) (cause : Nat) (val : Word)
  /-- GROUP_RESERVE (R330). -/
  | groupReserve (d g : Nat) (v : Word)
  /-- GROUP_FREE (R330). -/
  | groupFree (d g : Nat) (v : Word)
  /-- CONTEXT_ALLOC (R282). -/
  | contextAlloc (c : Nat) (v : Word)
  /-- CONTEXT_SOFT (R284). -/
  | contextSoft (c : Nat) (v : Word)
  /-- CONTEXT_HARD (R285). -/
  | contextHard (c : Nat) (v : Word)
  /-- CONTEXT_RELEASE (R282). -/
  | contextRelease (c : Nat) (v : Word)
  /-- CONTEXT_RUN (R282). -/
  | contextRun (c : Nat) (v : Word)
  /-- CONTEXT_TEAR (R290). -/
  | contextTear (c : Nat) (v : Word)
  /-- CONTEXT_ROOT_WRITE (R391). -/
  | contextRootWrite (c : Nat) (v : Word)
  /-- QUEUE_ENABLE (R294). -/
  | queueEnable (q : Nat) (v : Word)
  /-- QUEUE_DISABLE (R294). -/
  | queueDisable (q : Nat) (v : Word)
  /-- QUEUE_FLUSH (R294). -/
  | queueFlush (q : Nat) (v : Word)
  /-- QUEUE_TAIL_WRITE (R293). -/
  | queueTailWrite (q : Nat) (v : Word)
  /-- RECKONER_RELALL (R376). -/
  | reckonerRelall (d : Nat) (v : Word)
  /-- WALKER_INV (R391). -/
  | walkerInv (d : Nat) (v : Word)
  /-- LINK_TRAIN (R395). -/
  | linkTrain (d i : Nat)
  /-- LINK_DOWN (R396). -/
  | linkDown (d i : Nat)
  /-- HOST_APERTURE_ACCESS (R447). -/
  | hostApertureAccess (off len : Nat) (data : Option (List Byte))
  /-- HOST_ATOMICOP (R234). -/
  | hostAtomicop (off : Nat) (op : AccOp)
  /-- MCTP_CONTROL_MESSAGE (R449). -/
  | mctpControlMessage (msg : List Byte)
  /-- MCTP_READ_ROOT_BLOCK (R449). -/
  | mctpReadRootBlock
  /-- MCTP_READ_ERROR_LOG (R449). -/
  | mctpReadErrorLog
  /-- MCTP_READ_SENSORS (R449). -/
  | mctpReadSensors
  /-- ATTESTATION_REPORT_REQUEST (R453). -/
  | attestationReportRequest (nonce : List Byte)
  /-- PACKAGE_RESET (R449). -/
  | packageReset
  /-- FREEZE (R455). -/
  | freeze
  /-- BOOT (R452). -/
  | boot
  /-- CAPTURE (R456). -/
  | capture
  /-- REPLAY (R457). -/
  | replay
  /-- CAPSTOP (R456). -/
  | capstop
  /-- POWER_WINDOW (R458). -/
  | powerWindow (watts : Nat) (hot : Bool)
  /-- DEBUG_STEP_WORD (R455). -/
  | debugStepWord (d : Nat) (w x : Word)
  /-- REGISTER_WRITE (R6). -/
  | registerWrite (off : Nat) (v : Word)
deriving DecidableEq, Repr, Inhabited

end Sys2Proof
end

