-- ==== Sys2Proof/WellFormed.lean ====
section
/-!
DEFINITION. The checks that depend only on the fields of an instruction word: fields that must be zero and reserved
codes (R88).
-/
namespace Sys2Proof

/-- The named fields of a format A word are free; every other field is 0 (R88). -/
def FmtA.only (f : FmtA) (dst sa sb sc rm f1 f2 red msk imm : Bool := false) : Bool :=
  (dst || f.dst == 0) && (sa || f.sa == 0) && (sb || f.sb == 0) && (sc || f.sc == 0) && (rm || f.rm == 0) &&
  (f1 || f.f1 == 0) && (f2 || f.f2 == 0) && (red || f.red == 0) && (msk || (f.ms == 0 && f.me == 0)) &&
  (imm || f.imm == 0)

/-- The named fields of a format M word are free; every other field is 0, SCOPE is 0 to 4 (R88, R236). -/
def FmtM.only (f : FmtM) (dv sa sb lsid scope ord size aop nt off : Bool := false) : Bool :=
  (dv || f.dv == 0) && (sa || f.sa == 0) && (sb || f.sb == 0) && (lsid || f.lsid == 0) &&
  (if scope then f.scope.toNat ≤ 4 else f.scope == 0) && (ord || f.ord == 0) && (size || f.size == 0) &&
  (aop || f.aop == 0) && (nt || f.nt == 0) && (off || f.off == 0)

/-- The named register fields of a format CG word are free; every other field is 0 (R261, R268). -/
def FmtCG.only (f : FmtCG) (gd ga gb gc : Bool := false) (imm : BitVec 27 := 0) : Bool :=
  (gd || f.gd == 0) && (ga || f.ga == 0) && (gb || f.gb == 0) && (gc || f.gc == 0) && f.imm &&& ~~~ imm == 0

/-- A rounding mode of R68. -/
def rmOk (r : BitVec 3) : Bool := r.toNat ≤ 4
/-- A floating scalar format, 0 to 3 (R134). -/
def fmtF (c : BitVec 4) : Bool := c.toNat ≤ 3
/-- A format code of R59. -/
def fmtAny (c : BitVec 4) : Bool := c.toNat ≤ 13

/-- CT and CIMM are 0 unless CTO = 1, and CT is a code of R45 (R110). -/
def FmtE.ctOk (f : FmtE) : Bool :=
  f.rsv == 0 && f.sb == 0 && (if f.cto == 1 then f.ct.toNat ≤ 4 else f.ct == 0 && f.cimm == 0)

/-- The completion word of a stream (R240): reserved bits 0; SB is 0 unless CR = 1. -/
def extStreamOk (f : FmtM) (x : Word) : Bool :=
  x.extractLsb' 0 3 == 0 && (x.getLsbD 35 || f.sb == 0)
/-- The result word of an atomic (R240): CO = 1, and MSTR, CR, CADD and the reserved bits are 0. -/
def extResultOk (x : Option Word) : Bool :=
  match x with
  | none => true
  | some w => w.getLsbD 39 && (w.extractLsb' 40 24 == 0) && (w.extractLsb' 0 36 == 0)

/-- The fields of a two-source integer word (R123). -/
def FmtA.int2 (f : FmtA) : Bool := f.only (dst := true) (sa := true) (sb := true) (imm := true)
/-- The fields of a one-source word (R125, R126). -/
def FmtA.int1 (f : FmtA) : Bool := f.only (dst := true) (sa := true)
/-- The fields of a two-source scalar floating word (R134). -/
def FmtA.fp2 (f : FmtA) (rm : Bool) : Bool :=
  f.only (dst := true) (sa := true) (sb := true) (rm := rm) (f1 := true) && fmtF f.f1 && rmOk f.rm
/-- IMM11 of DMND, LGEN and COLR names an output; [10:3] are 0. -/
def FmtA.outImm (f : FmtA) : Bool := f.imm.extractLsb' 3 8 == 0

/-- IMM11 of the tangent instructions (R205): t, and the bits allowed besides. -/
def FmtA.tanImm (f : FmtA) (zero : Bool) (bs reg : Bool) : Bool :=
  let t := (f.imm.extractLsb' 0 3).toNat
  (decide (1 ≤ t) || zero) && decide (t ≤ 4) && (bs || !f.imm.getLsbD 3) && (reg || !f.imm.getLsbD 4) &&
    f.imm.extractLsb' 5 6 == 0

/-- A vector format of R145: 0 to 3 or 8 to 12. -/
def fmtV (c : BitVec 4) : Bool := c.toNat ≤ 3 || (decide (8 ≤ c.toNat) && c.toNat ≤ 12)
/-- Bits of IMM11 outside a mask are 0. -/
def FmtA.immOnly (f : FmtA) (m : BitVec 11) : Bool := f.imm &&& ~~~ m == 0
/-- Element-wise arithmetic (R144, R145). -/
def FmtA.vElem (f : FmtA) (sb sc rm : Bool) (m : BitVec 11) : Bool :=
  f.only (dst := true) (sa := true) (sb := sb) (sc := sc) (rm := rm) (f1 := true) (msk := true) (imm := true) &&
    fmtV f.f1 && rmOk f.rm && f.immOnly m && (if f.f1.toNat ≤ 3 then !f.imm.getLsbD 2 else f.rm == 0)
/-- Element-wise logic and shifts (R146). -/
def FmtA.vLogic (f : FmtA) : Bool :=
  f.only (dst := true) (sa := true) (sb := true) (f1 := true) (msk := true) (imm := true) &&
    decide (8 ≤ f.f1.toNat) && f.f1.toNat ≤ 12 && f.immOnly 1
/-- One-source special functions (R151). -/
def FmtA.vFun (f : FmtA) (lo : Nat) (rm : Bool) : Bool :=
  f.only (dst := true) (sa := true) (rm := rm) (f1 := true) (msk := true) && decide (lo ≤ f.f1.toNat) &&
    f.f1.toNat ≤ 3 && rmOk f.rm
/-- Reductions and scans (R142, R144, R153): `all` says that IMM11[8] is ALL. -/
def FmtA.vRed (f : FmtA) (red all : Bool) (m : BitVec 11) : Bool :=
  f.only (dst := true) (sa := true) (rm := true) (f1 := true) (red := red) (msk := true) (imm := true) &&
    (f.f1.toNat ≤ 3 || (decide (8 ≤ f.f1.toNat) && f.f1.toNat ≤ 10)) && f.rm.toNat ≤ 3 && f.red.toNat ≤ 2 &&
    !(f.red == 2 && f.f1 == 0) && (f.f1.toNat ≤ 3 || (f.rm == 0 && f.red == 0)) && f.immOnly m &&
    !(all && f.imm.getLsbD 8 && f.me == 1)
/-- Element movement (R144, R155–R158). -/
def FmtA.vMove (f : FmtA) (sb msk : Bool) (m : BitVec 11) : Bool :=
  f.only (dst := true) (sa := true) (sb := sb) (f1 := true) (msk := msk) (imm := true) && fmtAny f.f1 && f.immOnly m
/-- A pairing of R174. -/
def pairOk (a b : BitVec 4) : Bool :=
  (a == b && a.toNat ≤ 3) || (decide (4 ≤ a.toNat) && a.toNat ≤ 7 && decide (4 ≤ b.toNat) && b.toNat ≤ 7) ||
    (decide (10 ≤ a.toNat) && a.toNat ≤ 12 && decide (10 ≤ b.toNat) && b.toNat ≤ 12)
/-- A multiply-array word (R173, R177, R178, R179). -/
def FmtA.mm (f : FmtA) (msk imm : Bool) : Bool :=
  f.only (dst := true) (sa := true) (sb := true) (sc := true) (f1 := true) (f2 := true) (msk := msk) (imm := imm) &&
    f.immOnly 3
/-- The lane field of R187: a first lane and a count that stay within 128 lanes. -/
def FmtA.lanesOk (f : FmtA) : Bool :=
  decide ((f.imm.extractLsb' 7 4).toNat ≤ 7) &&
    decide ((f.imm.extractLsb' 0 7).toNat + 2 ^ (f.imm.extractLsb' 7 4).toNat ≤ 128)
/-- The lane base, MAP and EZ of R187. -/
def FmtA.lanesAdd (f : FmtA) : Bool := !f.imm.getLsbD 10 && f.imm.extractLsb' 7 2 != 3
/-- A format that an Abacus lane takes: 1 to 12 (R188). -/
def fmtAbx (c : BitVec 4) : Bool := decide (1 ≤ c.toNat) && c.toNat ≤ 12

/-- A word of an agent, apart from the operand kinds and what depends on tables (R88). Steps of units are no words. VABS and
VNEG may have BS = 1, which R144 lists for them (log 24); an LI with the extension word does not use IMM35, which is then
reserved (log 116). -/
def Instr.wellFormed : Instr → Bool
  | .emit f => f.ctOk && (f.ef == 0 || f.sa == 0)
  | .null f => f.ctOk && f.sa == 0 && f.ef == 0
  | .steer f x =>
    f.only (sa := true) (sb := true) (f1 := true) (imm := true) && f.f1.toNat ≤ 9 && f.imm.extractLsb' 8 3 == 0 &&
      (match x with | some w => w.extractLsb' 32 32 == 0 | none => true)
  | .lgen f => f.only (sa := true) (sb := true) (imm := true) && f.outImm
  | .dmnd f => f.only (imm := true) && f.outImm
  | .colr f => f.only (sa := true) (imm := true) && f.outImm
  | .rels f => f.only (sa := true) (imm := true) && f.imm.extractLsb' 2 9 == 0
  | .keep f => f.only (imm := true) && f.imm.extractLsb' 2 9 == 0
  | .nop f => f.only
  | .exit f => f.only
  | .add f => f.int2
  | .sub f => f.int2
  | .mul f => f.int2
  | .mulh f => f.int2
  | .mulhu f => f.int2
  | .divu f => f.int2
  | .remu f => f.int2
  | .and f => f.int2
  | .or f => f.int2
  | .xor f => f.int2
  | .andn f => f.int2
  | .shl f => f.int2
  | .shr f => f.int2
  | .sra f => f.int2
  | .min f => f.int2
  | .max f => f.int2
  | .minu f => f.int2
  | .maxu f => f.int2
  | .cmp f => f.only (dst := true) (sa := true) (sb := true) (f1 := true) (imm := true) && f.f1.toNat ≤ 9
  | .sel f => f.only (dst := true) (sa := true) (sb := true) (sc := true) (imm := true)
  | .mov f => f.int1
  | .clz f => f.int1
  | .popc f => f.int1
  | .bfx f => f.int2
  | .bfi f => f.only (dst := true) (sa := true) (sb := true) (sc := true) (imm := true)
  | .li f x => f.qual == 0 && (x.isNone || f.imm == 0)
  | .tdmk f => f.only (dst := true) (sa := true) (sb := true)
  | .tdget f => f.only (dst := true) (sa := true) (imm := true) && f.imm.toNat ≤ 9
  | .tdset f => f.only (dst := true) (sa := true) (sb := true) (imm := true) && f.imm.toNat ≤ 9
  | .tdadv f => f.int2
  | .tdsub f => f.int2
  | .fadd f => f.fp2 true
  | .fsub f => f.fp2 true
  | .fmul f => f.fp2 true
  | .ffma f =>
    f.only (dst := true) (sa := true) (sb := true) (sc := true) (rm := true) (f1 := true) && fmtF f.f1 && rmOk f.rm
  | .fmin f => f.fp2 false
  | .fmax f => f.fp2 false
  | .fcmp f =>
    f.only (dst := true) (sa := true) (sb := true) (f1 := true) (f2 := true) && fmtF f.f1 && f.f2.toNat ≤ 7
  | .fcvt f => f.only (dst := true) (sa := true) (rm := true) (f1 := true) (f2 := true) && fmtAny f.f1 &&
      fmtAny f.f2 && rmOk f.rm
  | .frcp f => f.only (dst := true) (sa := true) (rm := true) (f1 := true) && fmtF f.f1 && rmOk f.rm
  | .frsq f => f.only (dst := true) (sa := true) (rm := true) (f1 := true) && fmtF f.f1 && rmOk f.rm
  | .ldt f x => f.only (dv := true) (sa := true) (sb := true) (lsid := true) (scope := true) (ord := true) (nt := true)
      (off := true) && (f.ord == 0 || f.ord == 2) && extStreamOk f x
  | .stt f x => f.only (dv := true) (sa := true) (sb := true) (lsid := true) (scope := true) (ord := true) (nt := true)
      (off := true) && (f.ord == 0 || f.ord == 2) && extStreamOk f x
  | .ldg f => f.only (dv := true) (sa := true) (lsid := true) (scope := true) (ord := true) (size := true)
      (off := true) && f.ord.toNat ≤ 1 && f.size.toNat ≤ 6
  | .stg f => f.only (dv := true) (sa := true) (lsid := true) (scope := true) (ord := true) (size := true) (nt := true)
      (off := true) && (f.ord == 0 || f.ord == 2) && f.size.toNat ≤ 3
  | .lds f => f.only (dv := true) (sa := true) (lsid := true) (scope := true) (ord := true) (size := true)
      (off := true) && f.ord.toNat ≤ 1 && f.size.toNat ≤ 6
  | .sts f => f.only (dv := true) (sa := true) (lsid := true) (scope := true) (ord := true) (size := true) (nt := true)
      (off := true) && (f.ord == 0 || f.ord == 2) && f.size.toNat ≤ 3
  | .clrm f x => f.only (dv := true) (sa := true) (sb := true) (lsid := true) (scope := true) (ord := true)
      (nt := true) (off := true) && (f.ord == 0 || f.ord == 2) && extStreamOk f x && x.extractLsb' 40 24 == 0
  | .ordj f => f.only (lsid := true) (scope := true)
  | .fence f => f.only (lsid := true) (scope := true)
  | .atom f x => f.only (dv := true) (sa := true) (lsid := true) (scope := true) (ord := true) (size := true)
      (aop := true) (off := true) && (f.size == 2 || f.size == 3) && f.aop.toNat ≤ 11 && extResultOk x
  | .cas f x => f.only (dv := true) (sa := true) (sb := true) (lsid := true) (scope := true) (ord := true)
      (size := true) (off := true) && (f.size == 2 || f.size == 3) && extResultOk x
  | .redt f x => f.only (dv := true) (sa := true) (sb := true) (lsid := true) (scope := true) (ord := true)
      (size := true) (aop := true) (off := true) && (f.ord == 0 || f.ord == 2) && f.size.toNat ≤ 1 &&
      f.aop.toNat ∈ [0, 4, 5, 9, 10, 11] && extStreamOk f x
  | .rmtFaa f x => f.only (dv := true) (sa := true) (lsid := true) (scope := true) (ord := true) (size := true)
      (off := true) && (f.ord == 0 || f.ord == 2) && f.size == 3 && extResultOk x
  | .rmtSt f => f.only (dv := true) (sa := true) (lsid := true) (scope := true) (ord := true) (size := true)
      (off := true) && (f.ord == 0 || f.ord == 2) && f.size.toNat ≤ 3
  | .rmtStt f x => f.only (dv := true) (sa := true) (sb := true) (lsid := true) (scope := true) (ord := true)
      (nt := true) (off := true) && (f.ord == 0 || f.ord == 2) && extStreamOk f x
  | .rmtFlag f => f.only (dv := true) (sa := true) (lsid := true) (scope := true) (size := true) (aop := true)
      (off := true) && f.size == 3 && f.aop.toNat ≤ 1
  | .rodAdd f => f.only (dv := true) (sa := true) (lsid := true) (scope := true) (ord := true) (off := true) &&
      (f.ord == 0 || f.ord == 2)
  | .rodWait f => f.only (sa := true) (sb := true) (lsid := true) (scope := true) (ord := true) && f.ord.toNat ≤ 1
  | .rodRd f => f.only (dv := true) (sa := true) (lsid := true) (scope := true) (ord := true) && f.ord.toNat ≤ 1
  | .rodInit f => f.only (dv := true) (sa := true) (sb := true)
  | .rodInitFree f => f.only (sa := true) (aop := true) && f.aop == 1
  | .lkAcq f => f.only (sa := true) (lsid := true) (scope := true) (size := true) (aop := true) && f.size.toNat ≤ 1 &&
      decide (1 ≤ f.aop.toNat) && f.aop.toNat ≤ 6
  | .lkUpg f => f.only (sa := true) (lsid := true) (scope := true) (size := true) (aop := true) && f.size.toNat ≤ 1 &&
      decide (1 ≤ f.aop.toNat) && f.aop.toNat ≤ 6
  | .lkRel f => f.only (sa := true) (lsid := true) (scope := true)
  | .lkRall f => f.only (lsid := true) (scope := true)
  | .lkQry f => f.only (dv := true) (sa := true) (lsid := true) (scope := true) (ord := true) && f.ord.toNat ≤ 1
  | .lkmLd f => f.only (sa := true) (lsid := true)
  | .lkeSet f => f.only (lsid := true) (off := true) && f.off.extractLsb' 6 9 == 0
  | .lnch f => f.only (dv := true) (sa := true) (lsid := true) (scope := true) (size := true) (off := true) &&
      (f.scope == 3 || f.scope == 4) && f.size.toNat ≤ 1
  | .trig f => f.only (lsid := true) (scope := true) && (f.scope == 3 || f.scope == 4)
  | .dseed f => f.only (dst := true) (sa := true) (f1 := true) (msk := true) (imm := true) && f.f1.toNat ≤ 7 &&
      f.tanImm false true false
  | .dtget f =>
    if f.imm.getLsbD 4 then f.only (dst := true) (sa := true) (imm := true) && f.tanImm false false true
    else f.only (dst := true) (sa := true) (rm := true) (f1 := true) (msk := true) (imm := true) && fmtF f.f1 &&
      rmOk f.rm && f.tanImm false false true
  | .dtset f => f.only (dst := true) (sa := true) (imm := true) && f.tanImm false false false
  | .dtzro f => f.only (dst := true) (msk := !f.imm.getLsbD 4) (imm := true) && f.tanImm true false true
  | .csSend f _ => f.only (sa := true) (sb := true) (sc := true) (f2 := true) (imm := true) && f.f2 == 0
  | .csSendG f x => f.only (dst := true) (sa := true) (sb := true) (sc := true) (f2 := true) (imm := true) &&
      f.f2 == 1 && x.extractLsb' 0 35 == 0
  | .csRecv f _ => f.only (sa := true) (sb := true) (sc := true) (imm := true)
  | .csRrs f _ => f.only (dst := true) (sa := true) (sb := true) (sc := true) (f1 := true) (f2 := true) (red := true)
      (imm := true) &&
      (if f.red == 2 then f.f1 == 12 && f.f2 == 0
       else f.red.toNat ≤ 1 && (f.f1.toNat ≤ 3 || f.f1 == 8) && f.f2.toNat ≤ 2)
  | .csCopy f _ => f.only (sa := true) (sb := true) (sc := true)
  | .csWait f => f.only (sa := true) (sb := true) (imm := true) && f.imm.toNat ≤ 1 &&
      (f.imm == 1 || (f.sa == 0 && f.sb == 0))
  | .csLoop f => f.only (dst := true) (imm := true) && f.imm != 0
  | .csPeer f => f.only (dst := true) (sa := true) (sb := true) (f1 := true) (f2 := true) (imm := true) &&
      f.f1.toNat ≤ 9 && f.f2.toNat ≤ 1 && (f.f1 != 9 || f.sa == 56)
  | .csEnd f => f.only
  | .ld f => f.size.toNat ≤ 6 && f.scope.toNat ≤ 4 && (f.ord == 0 || f.ord == 1 || f.ord == 3)
  | .st f => f.size.toNat ≤ 3 && f.scope.toNat ≤ 4 && (f.ord == 0 || f.ord == 2 || f.ord == 3)
  | .br f => f.cc.toNat ≤ 9
  | .jal f => f.ga == 0 && f.rsv == 0
  | .jalr f => f.rsv == 0
  | .csrr f => f.ga == 0 && f.rsv == 0
  | .csrw f => f.rsv == 0
  | .csrs f => f.rsv == 0
  | .csrc f => f.rsv == 0
  | .trapc f => f.only (imm := 0xFF)
  | .eret f => f.only
  | .wfe f => f.only
  | .gload f => f.only (gd := true) (ga := true) (gb := true) (gc := true)
  | .garm f => f.only (gd := true) (ga := true) (gb := true)
  | .gdisarm f => f.only (gd := true) (ga := true) (gb := true)
  | .inj f => f.only (ga := true) (gb := true)
  | .purge f => f.only (gd := true) (ga := true) (gb := true)
  | .retryf f => f.only (gd := true) (ga := true)
  | .retryfFail f => f.only (gd := true) (ga := true) (imm := 1) && f.imm == 1
  | .snap f => f.only (gd := true) (ga := true) (gb := true)
  | .rstor f => f.only (gd := true) (ga := true) (gb := true)
  | .qdrn f => f.only (gd := true) (ga := true) (gb := true) (imm := 7)
  | .msrd f => f.only (gd := true) (ga := true) (gb := true) (gc := true)
  | .mswr f => f.only (gd := true) (ga := true) (gb := true) (gc := true) (imm := 1)
  | .vadd f => f.vElem true false true 5
  | .vsub f => f.vElem true false true 5
  | .vmul f => f.vElem true false true 5
  | .vfma f => f.vElem true true true 7
  | .vmin f => f.vElem true false false 5
  | .vmax f => f.vElem true false false 5
  | .vabs f => f.vElem false false false 5
  | .vneg f => f.vElem false false false 5
  | .vand f => f.vLogic
  | .vor f => f.vLogic
  | .vxor f => f.vLogic
  | .vshl f => f.vLogic
  | .vshr f => f.vLogic
  | .vsra f => f.vLogic
  | .vcmp f => f.only (dst := true) (sa := true) (sb := true) (f1 := true) (f2 := true) (msk := true) (imm := true) &&
      f.f1.toNat ≤ 12 && f.f2.toNat ≤ (if f.f1.toNat ≤ 7 then 7 else 9) && f.immOnly 1
  | .vsel f => f.only (dst := true) (sa := true) (sb := true) (sc := true) (f1 := true) (msk := true) (imm := true) &&
      f.f1.toNat ≤ 12 && f.immOnly 1
  | .vmsk f => f.only (dst := true) (sa := true) (f1 := true) (imm := true) && f.f1.toNat ≤ 12 && f.immOnly 0x3FF
  | .vcvt f => f.only (dst := true) (sa := true) (rm := true) (f1 := true) (f2 := true) (msk := true) &&
      fmtAny f.f1 && fmtAny f.f2 && rmOk f.rm
  | .vrcp f => f.vFun 0 false
  | .vrsq f => f.vFun 0 false
  | .vnrs f => f.only (dst := true) (sa := true) (sb := true) (rm := true) (f1 := true) (msk := true) (imm := true) &&
      fmtF f.f1 && rmOk f.rm && f.immOnly 1
  | .vexp2 f => f.vFun 1 true
  | .vlog2 f => f.vFun 1 true
  | .vtanh f => f.vFun 1 true
  | .vsumr f => f.vRed true true 0x1FF
  | .vmaxr f => f.vRed false true 0x3FF
  | .vscan f => f.vRed true false 1
  | .vbcst f => f.vMove false true 0x3FF && f.imm.extractLsb' 8 2 != 3
  | .vlsh f => f.vMove true true 0x7FF
  | .vperm f => f.vMove true true 0x600
  | .vtrn f => f.vMove false false 0
  | .vqnt f => f.only (dst := true) (sa := true) (sc := true) (rm := true) (f1 := true) (f2 := true) (msk := true)
      (imm := true) && decide (1 ≤ f.f1.toNat) && f.f1.toNat ≤ 3 && (f.f2.toNat ∈ [4, 5, 6, 7, 10, 11]) && rmOk f.rm &&
      f.immOnly 3
  | .vdqnt f => f.only (dst := true) (sa := true) (rm := true) (f1 := true) (f2 := true) (msk := true) &&
      (f.f1.toNat ∈ [4, 5, 6, 7, 10, 11]) && decide (1 ≤ f.f2.toNat) && f.f2.toNat ≤ 3 && rmOk f.rm
  | .vaddc f => f.only (dst := true) (sa := true) (sb := true) (f1 := true) (msk := true) (imm := true) && f.me == 0 &&
      f.f1 == 8 && f.immOnly 0x3F
  | .vmulw f => f.only (dst := true) (sa := true) (sb := true) (f1 := true) (imm := true) && f.f1 == 8 &&
      f.immOnly 0xF && f.imm.extractLsb' 0 3 != 7
  | .vtopk f => f.only (dst := true) (sa := true) (sb := true) (f1 := true) (msk := true) (imm := true) &&
      (f.f1.toNat ∈ [1, 2, 3, 4, 5, 8, 9, 10, 12]) && f.immOnly 0x1FF
  | .mma f => f.mm true true && pairOk f.f1 f.f2
  | .mmaq f => f.mm false true && (f.f1.toNat ∈ [2, 3, 10]) && (f.f2.toNat ∈ [10, 11])
  | .mmax f => f.mm true true && decide (4 ≤ f.f1.toNat) && f.f1.toNat ≤ 7 && decide (4 ≤ f.f2.toNat) && f.f2.toNat ≤ 7
  | .mmag f x => f.mm false false && pairOk f.f1 f.f2 && x.extractLsb' 6 58 == 0
  | .mzro f => f.only (dst := true) (msk := true)
  | .mldq f => f.only (dst := true) (sa := true) (sc := true) (f1 := true) (f2 := true) (msk := true) &&
      ((f.f2 == 1 && decide (1 ≤ f.f1.toNat) && f.f1.toNat ≤ 7) || (f.f2 == 0 && f.f1.toNat ≤ 1) ||
        (f.f2 == 8 && decide (8 ≤ f.f1.toNat) && f.f1.toNat ≤ 12))
  | .mstq f => f.only (dst := true) (sa := true) (sc := true) (rm := true) (f1 := true) (f2 := true) (msk := true) &&
      (f.f1 == 0 || f.f1 == 1 || f.f1 == 8) && f.f2.toNat ≤ 12 && rmOk f.rm
  | .abxClr f => f.only (imm := true) && f.lanesOk
  | .abxAdd f => f.only (sa := true) (f1 := true) (msk := true) (imm := true) && fmtAbx f.f1 && f.lanesAdd
  | .abxDot f => f.only (sa := true) (sb := true) (f1 := true) (f2 := true) (msk := true) (imm := true) &&
      fmtAbx f.f1 && fmtAbx f.f2 && f.lanesAdd
  | .abxMrg f => f.only (sa := true) (imm := true) && f.lanesOk
  | .abxRnd f => f.only (dst := true) (f1 := true) (imm := true) && f.f1 == 1 && f.lanesOk
  | .abxOut f => f.only (dst := true) (imm := true) && f.lanesOk
  | _ => false

end Sys2Proof
end

