-- ==== Sys2Proof/Decode.lean ====
section
/-!
DEFINITION. Decoding of instruction words (R87, R88, R99, R104) and the encoder beside it. The words of an agent are
64 bits, a following extension word when XT = 1, stored little-endian (R1).
-/
namespace Sys2Proof

/-- Why a word is no instruction. -/
inductive DecErr where
  /-- Fewer bytes than the word, or its extension word, needs. -/
  | truncated
  /-- A major or minor that R99 does not list. -/
  | badOpcode
  /-- An H or P word, which is no instruction of its own (R87, R90). -/
  | structural
  /-- XT = 1 on an instruction that has no use for an extension word (R88). -/
  | extForbidden
  /-- XT = 0 on an instruction that requires one (R88). -/
  | extRequired
  /-- A field that must be zero is not, or a used field holds a reserved code (R88). -/
  | reservedField
deriving DecidableEq, Repr, Inhabited

/-- MAJ of a word (R87). -/
def wordMaj (w : Word) : Nat := (w.extractLsb' 58 6).toNat
/-- MIN of a word (R87). -/
def wordMin (w : Word) : Nat := (w.extractLsb' 52 6).toNat
/-- XT of a word (R87). -/
def wordXt (w : Word) : Bool := w.getLsbD 51

/-- The word with the common fields and `body` in [50:0] (R87). -/
def packWord (maj mn : Nat) (xt : Bool) (body : BitVec 51) : Word :=
  (BitVec.ofNat 6 maj ++ BitVec.ofNat 6 mn ++ BitVec.ofBool xt ++ body).setWidth 64

/-- The fields of a format A word (R87). -/
def unpackA (w : Word) : FmtA where
  dst := w.extractLsb' 45 6
  sa := w.extractLsb' 39 6
  sb := w.extractLsb' 33 6
  sc := w.extractLsb' 27 6
  rm := w.extractLsb' 24 3
  f1 := w.extractLsb' 20 4
  f2 := w.extractLsb' 16 4
  red := w.extractLsb' 14 2
  ms := w.extractLsb' 12 2
  me := w.extractLsb' 11 1
  imm := w.extractLsb' 0 11

/-- Bits [50:0] of a format A word. -/
def packA (f : FmtA) : BitVec 51 :=
  (f.dst ++ f.sa ++ f.sb ++ f.sc ++ f.rm ++ f.f1 ++ f.f2 ++ f.red ++ f.ms ++ f.me ++ f.imm).setWidth 51

/-- The fields of a format B word (R87). -/
def unpackB (w : Word) : FmtB where
  dst := w.extractLsb' 45 6
  qual := w.extractLsb' 35 10
  imm := w.extractLsb' 0 35

/-- Bits [50:0] of a format B word. -/
def packB (f : FmtB) : BitVec 51 :=
  (f.dst ++ f.qual ++ f.imm).setWidth 51

/-- The fields of a format M word (R87). -/
def unpackM (w : Word) : FmtM where
  dv := w.extractLsb' 45 6
  sa := w.extractLsb' 39 6
  sb := w.extractLsb' 33 6
  lsid := w.extractLsb' 28 5
  scope := w.extractLsb' 25 3
  ord := w.extractLsb' 23 2
  size := w.extractLsb' 20 3
  aop := w.extractLsb' 16 4
  nt := w.extractLsb' 15 1
  off := w.extractLsb' 0 15

/-- Bits [50:0] of a format M word. -/
def packM (f : FmtM) : BitVec 51 :=
  (f.dv ++ f.sa ++ f.sb ++ f.lsid ++ f.scope ++ f.ord ++ f.size ++ f.aop ++ f.nt ++ f.off).setWidth 51

/-- The fields of a format E word (R87). -/
def unpackE (w : Word) : FmtE where
  sa := w.extractLsb' 45 6
  out := w.extractLsb' 42 3
  cto := w.extractLsb' 41 1
  ct := w.extractLsb' 38 3
  cimm := w.extractLsb' 26 12
  ef := w.extractLsb' 25 1
  ofl := w.extractLsb' 24 1
  sb := w.extractLsb' 18 6
  rsv := w.extractLsb' 0 18

/-- Bits [50:0] of a format E word. -/
def packE (f : FmtE) : BitVec 51 :=
  (f.sa ++ f.out ++ f.cto ++ f.ct ++ f.cimm ++ f.ef ++ f.ofl ++ f.sb ++ f.rsv).setWidth 51

/-- The fields of a format CM word (R261). -/
def unpackCM (w : Word) : FmtCM where
  gd := w.extractLsb' 45 6
  ga := w.extractLsb' 39 6
  size := w.extractLsb' 36 3
  ord := w.extractLsb' 34 2
  scope := w.extractLsb' 31 3
  off := w.extractLsb' 0 31

/-- Bits [50:0] of a format CM word. -/
def packCM (f : FmtCM) : BitVec 51 :=
  (f.gd ++ f.ga ++ f.size ++ f.ord ++ f.scope ++ f.off).setWidth 51

/-- The fields of a format CB word (R261). -/
def unpackCB (w : Word) : FmtCB where
  ga := w.extractLsb' 45 6
  gb := w.extractLsb' 39 6
  cc := w.extractLsb' 35 4
  off := w.extractLsb' 0 35

/-- Bits [50:0] of a format CB word. -/
def packCB (f : FmtCB) : BitVec 51 :=
  (f.ga ++ f.gb ++ f.cc ++ f.off).setWidth 51

/-- The fields of a format CJ word (R261). -/
def unpackCJ (w : Word) : FmtCJ where
  gd := w.extractLsb' 45 6
  ga := w.extractLsb' 39 6
  rsv := w.extractLsb' 35 4
  off := w.extractLsb' 0 35

/-- Bits [50:0] of a format CJ word. -/
def packCJ (f : FmtCJ) : BitVec 51 :=
  (f.gd ++ f.ga ++ f.rsv ++ f.off).setWidth 51

/-- The fields of a format CS word (R261). -/
def unpackCS (w : Word) : FmtCS where
  gd := w.extractLsb' 45 6
  ga := w.extractLsb' 39 6
  csr := w.extractLsb' 27 12
  rsv := w.extractLsb' 0 27

/-- Bits [50:0] of a format CS word. -/
def packCS (f : FmtCS) : BitVec 51 :=
  (f.gd ++ f.ga ++ f.csr ++ f.rsv).setWidth 51

/-- The fields of a format CG word (R261). -/
def unpackCG (w : Word) : FmtCG where
  gd := w.extractLsb' 45 6
  ga := w.extractLsb' 39 6
  gb := w.extractLsb' 33 6
  gc := w.extractLsb' 27 6
  imm := w.extractLsb' 0 27

/-- Bits [50:0] of a format CG word. -/
def packCG (f : FmtCG) : BitVec 51 :=
  (f.gd ++ f.ga ++ f.gb ++ f.gc ++ f.imm).setWidth 51

/-- The instruction with no extension word. -/
def noExt (x : Option Word) (i : Instr) : Except DecErr Instr :=
  if x.isSome then .error .extForbidden else .ok i

/-- The instruction that requires its extension word. -/
def needExt (x : Option Word) (i : Word → Instr) : Except DecErr Instr :=
  match x with
  | some e => .ok (i e)
  | none => .error .extRequired

/-- The instructions of major 0x02 (R99). -/
def decodeMaj02 (mn : Nat) (w : Word) (x : Option Word) : Except DecErr Instr :=
  match mn with
  | 0 => noExt x (.emit (unpackE w))
  | 1 => noExt x (.null (unpackE w))
  | _ => .error .badOpcode

/-- The instructions of major 0x03 (R99). -/
def decodeMaj03 (mn : Nat) (w : Word) (x : Option Word) : Except DecErr Instr :=
  match mn with
  | 0 => .ok (.steer (unpackA w) x)
  | _ => .error .badOpcode

/-- The instructions of major 0x04 (R99). -/
def decodeMaj04 (mn : Nat) (w : Word) (x : Option Word) : Except DecErr Instr :=
  match mn with
  | 0 => noExt x (.lgen (unpackA w))
  | 1 => noExt x (.dmnd (unpackA w))
  | 2 => noExt x (.rels (unpackA w))
  | 3 => noExt x (.keep (unpackA w))
  | 4 => noExt x (.colr (unpackA w))
  | _ => .error .badOpcode

/-- The instructions of major 0x05 (R99). -/
def decodeMaj05 (mn : Nat) (w : Word) (x : Option Word) : Except DecErr Instr :=
  match mn with
  | 0 => noExt x (.nop (unpackA w))
  | 1 => noExt x (.exit (unpackA w))
  | _ => .error .badOpcode

/-- The instructions of major 0x06 (R99). -/
def decodeMaj06 (mn : Nat) (w : Word) (x : Option Word) : Except DecErr Instr :=
  match mn with
  | 0 => noExt x (.add (unpackA w))
  | 1 => noExt x (.sub (unpackA w))
  | 2 => noExt x (.mul (unpackA w))
  | 3 => noExt x (.mulh (unpackA w))
  | 4 => noExt x (.mulhu (unpackA w))
  | 5 => noExt x (.divu (unpackA w))
  | 6 => noExt x (.remu (unpackA w))
  | _ => .error .badOpcode

/-- The instructions of major 0x07 (R99). -/
def decodeMaj07 (mn : Nat) (w : Word) (x : Option Word) : Except DecErr Instr :=
  match mn with
  | 0 => noExt x (.and (unpackA w))
  | 1 => noExt x (.or (unpackA w))
  | 2 => noExt x (.xor (unpackA w))
  | 3 => noExt x (.andn (unpackA w))
  | 4 => noExt x (.shl (unpackA w))
  | 5 => noExt x (.shr (unpackA w))
  | 6 => noExt x (.sra (unpackA w))
  | _ => .error .badOpcode

/-- The instructions of major 0x08 (R99). -/
def decodeMaj08 (mn : Nat) (w : Word) (x : Option Word) : Except DecErr Instr :=
  match mn with
  | 0 => noExt x (.min (unpackA w))
  | 1 => noExt x (.max (unpackA w))
  | 2 => noExt x (.minu (unpackA w))
  | 3 => noExt x (.maxu (unpackA w))
  | 4 => noExt x (.cmp (unpackA w))
  | 5 => noExt x (.sel (unpackA w))
  | _ => .error .badOpcode

/-- The instructions of major 0x09 (R99). -/
def decodeMaj09 (mn : Nat) (w : Word) (x : Option Word) : Except DecErr Instr :=
  match mn with
  | 0 => noExt x (.mov (unpackA w))
  | 1 => noExt x (.clz (unpackA w))
  | 2 => noExt x (.popc (unpackA w))
  | 3 => noExt x (.bfx (unpackA w))
  | 4 => noExt x (.bfi (unpackA w))
  | _ => .error .badOpcode

/-- The instructions of major 0x0A (R99). -/
def decodeMaj0A (mn : Nat) (w : Word) (x : Option Word) : Except DecErr Instr :=
  match mn with
  | 0 => .ok (.li (unpackB w) x)
  | _ => .error .badOpcode

/-- The instructions of major 0x0B (R99). -/
def decodeMaj0B (mn : Nat) (w : Word) (x : Option Word) : Except DecErr Instr :=
  match mn with
  | 0 => noExt x (.tdmk (unpackA w))
  | 1 => noExt x (.tdget (unpackA w))
  | 2 => noExt x (.tdset (unpackA w))
  | 3 => noExt x (.tdadv (unpackA w))
  | 4 => noExt x (.tdsub (unpackA w))
  | _ => .error .badOpcode

/-- The instructions of major 0x0E (R99). -/
def decodeMaj0E (mn : Nat) (w : Word) (x : Option Word) : Except DecErr Instr :=
  match mn with
  | 0 => noExt x (.fadd (unpackA w))
  | 1 => noExt x (.fsub (unpackA w))
  | 2 => noExt x (.fmul (unpackA w))
  | 3 => noExt x (.ffma (unpackA w))
  | 4 => noExt x (.fmin (unpackA w))
  | 5 => noExt x (.fmax (unpackA w))
  | _ => .error .badOpcode

/-- The instructions of major 0x0F (R99). -/
def decodeMaj0F (mn : Nat) (w : Word) (x : Option Word) : Except DecErr Instr :=
  match mn with
  | 0 => noExt x (.fcmp (unpackA w))
  | 1 => noExt x (.fcvt (unpackA w))
  | 2 => noExt x (.frcp (unpackA w))
  | 3 => noExt x (.frsq (unpackA w))
  | _ => .error .badOpcode

/-- The instructions of major 0x10 (R99). -/
def decodeMaj10 (mn : Nat) (w : Word) (x : Option Word) : Except DecErr Instr :=
  match mn with
  | 0 => noExt x (.vadd (unpackA w))
  | 1 => noExt x (.vsub (unpackA w))
  | 2 => noExt x (.vmul (unpackA w))
  | 3 => noExt x (.vfma (unpackA w))
  | 4 => noExt x (.vmin (unpackA w))
  | 5 => noExt x (.vmax (unpackA w))
  | 6 => noExt x (.vabs (unpackA w))
  | 7 => noExt x (.vneg (unpackA w))
  | _ => .error .badOpcode

/-- The instructions of major 0x11 (R99). -/
def decodeMaj11 (mn : Nat) (w : Word) (x : Option Word) : Except DecErr Instr :=
  match mn with
  | 0 => noExt x (.vand (unpackA w))
  | 1 => noExt x (.vor (unpackA w))
  | 2 => noExt x (.vxor (unpackA w))
  | 3 => noExt x (.vshl (unpackA w))
  | 4 => noExt x (.vshr (unpackA w))
  | 5 => noExt x (.vsra (unpackA w))
  | _ => .error .badOpcode

/-- The instructions of major 0x12 (R99). -/
def decodeMaj12 (mn : Nat) (w : Word) (x : Option Word) : Except DecErr Instr :=
  match mn with
  | 0 => noExt x (.vcmp (unpackA w))
  | 1 => noExt x (.vsel (unpackA w))
  | 2 => noExt x (.vmsk (unpackA w))
  | _ => .error .badOpcode

/-- The instructions of major 0x13 (R99). -/
def decodeMaj13 (mn : Nat) (w : Word) (x : Option Word) : Except DecErr Instr :=
  match mn with
  | 0 => noExt x (.vcvt (unpackA w))
  | _ => .error .badOpcode

/-- The instructions of major 0x14 (R99). -/
def decodeMaj14 (mn : Nat) (w : Word) (x : Option Word) : Except DecErr Instr :=
  match mn with
  | 0 => noExt x (.vrcp (unpackA w))
  | 1 => noExt x (.vrsq (unpackA w))
  | 2 => noExt x (.vnrs (unpackA w))
  | 3 => noExt x (.vexp2 (unpackA w))
  | 4 => noExt x (.vlog2 (unpackA w))
  | 5 => noExt x (.vtanh (unpackA w))
  | _ => .error .badOpcode

/-- The instructions of major 0x15 (R99). -/
def decodeMaj15 (mn : Nat) (w : Word) (x : Option Word) : Except DecErr Instr :=
  match mn with
  | 0 => noExt x (.vsumr (unpackA w))
  | 1 => noExt x (.vmaxr (unpackA w))
  | 2 => noExt x (.vscan (unpackA w))
  | _ => .error .badOpcode

/-- The instructions of major 0x16 (R99). -/
def decodeMaj16 (mn : Nat) (w : Word) (x : Option Word) : Except DecErr Instr :=
  match mn with
  | 0 => noExt x (.vbcst (unpackA w))
  | 1 => noExt x (.vlsh (unpackA w))
  | 2 => noExt x (.vperm (unpackA w))
  | 3 => noExt x (.vtrn (unpackA w))
  | _ => .error .badOpcode

/-- The instructions of major 0x17 (R99). -/
def decodeMaj17 (mn : Nat) (w : Word) (x : Option Word) : Except DecErr Instr :=
  match mn with
  | 0 => noExt x (.vqnt (unpackA w))
  | 1 => noExt x (.vdqnt (unpackA w))
  | _ => .error .badOpcode

/-- The instructions of major 0x18 (R99). -/
def decodeMaj18 (mn : Nat) (w : Word) (x : Option Word) : Except DecErr Instr :=
  match mn with
  | 0 => noExt x (.vaddc (unpackA w))
  | 1 => noExt x (.vmulw (unpackA w))
  | _ => .error .badOpcode

/-- The instructions of major 0x19 (R99). -/
def decodeMaj19 (mn : Nat) (w : Word) (x : Option Word) : Except DecErr Instr :=
  match mn with
  | 0 => noExt x (.vtopk (unpackA w))
  | _ => .error .badOpcode

/-- The instructions of major 0x1A (R99). -/
def decodeMaj1A (mn : Nat) (w : Word) (x : Option Word) : Except DecErr Instr :=
  match mn with
  | 0 => noExt x (.mma (unpackA w))
  | 1 => noExt x (.mmaq (unpackA w))
  | 2 => noExt x (.mmax (unpackA w))
  | 3 => needExt x (.mmag (unpackA w))
  | _ => .error .badOpcode

/-- The instructions of major 0x1B (R99). -/
def decodeMaj1B (mn : Nat) (w : Word) (x : Option Word) : Except DecErr Instr :=
  match mn with
  | 0 => noExt x (.mzro (unpackA w))
  | 1 => noExt x (.mldq (unpackA w))
  | 2 => noExt x (.mstq (unpackA w))
  | _ => .error .badOpcode

/-- The instructions of major 0x1C (R99). -/
def decodeMaj1C (mn : Nat) (w : Word) (x : Option Word) : Except DecErr Instr :=
  match mn with
  | 0 => noExt x (.abxClr (unpackA w))
  | 1 => noExt x (.abxAdd (unpackA w))
  | 2 => noExt x (.abxDot (unpackA w))
  | 3 => noExt x (.abxMrg (unpackA w))
  | 4 => noExt x (.abxRnd (unpackA w))
  | 5 => noExt x (.abxOut (unpackA w))
  | _ => .error .badOpcode

/-- The instructions of major 0x20 (R99). -/
def decodeMaj20 (mn : Nat) (w : Word) (x : Option Word) : Except DecErr Instr :=
  match mn with
  | 0 => needExt x (.ldt (unpackM w))
  | 1 => needExt x (.stt (unpackM w))
  | _ => .error .badOpcode

/-- The instructions of major 0x21 (R99). -/
def decodeMaj21 (mn : Nat) (w : Word) (x : Option Word) : Except DecErr Instr :=
  match mn with
  | 0 => noExt x (.ldg (unpackM w))
  | 1 => noExt x (.stg (unpackM w))
  | _ => .error .badOpcode

/-- The instructions of major 0x22 (R99). -/
def decodeMaj22 (mn : Nat) (w : Word) (x : Option Word) : Except DecErr Instr :=
  match mn with
  | 0 => noExt x (.lds (unpackM w))
  | 1 => noExt x (.sts (unpackM w))
  | _ => .error .badOpcode

/-- The instructions of major 0x23 (R99). -/
def decodeMaj23 (mn : Nat) (w : Word) (x : Option Word) : Except DecErr Instr :=
  match mn with
  | 0 => needExt x (.clrm (unpackM w))
  | _ => .error .badOpcode

/-- The instructions of major 0x24 (R99). -/
def decodeMaj24 (mn : Nat) (w : Word) (x : Option Word) : Except DecErr Instr :=
  match mn with
  | 0 => noExt x (.ordj (unpackM w))
  | 1 => noExt x (.fence (unpackM w))
  | _ => .error .badOpcode

/-- The instructions of major 0x26 (R99). -/
def decodeMaj26 (mn : Nat) (w : Word) (x : Option Word) : Except DecErr Instr :=
  match mn with
  | 0 => .ok (.atom (unpackM w) x)
  | 1 => .ok (.cas (unpackM w) x)
  | 2 => needExt x (.redt (unpackM w))
  | _ => .error .badOpcode

/-- The instructions of major 0x27 (R99). -/
def decodeMaj27 (mn : Nat) (w : Word) (x : Option Word) : Except DecErr Instr :=
  match mn with
  | 0 => .ok (.rmtFaa (unpackM w) x)
  | 1 => noExt x (.rmtSt (unpackM w))
  | 2 => needExt x (.rmtStt (unpackM w))
  | 3 => noExt x (.rmtFlag (unpackM w))
  | _ => .error .badOpcode

/-- The instructions of major 0x28 (R99). -/
def decodeMaj28 (mn : Nat) (w : Word) (x : Option Word) : Except DecErr Instr :=
  match mn with
  | 0 => noExt x (.rodAdd (unpackM w))
  | 1 => noExt x (.rodWait (unpackM w))
  | 2 => noExt x (.rodRd (unpackM w))
  | 3 => noExt x (if (unpackM w).aop = 1 then .rodInitFree (unpackM w) else .rodInit (unpackM w))
  | _ => .error .badOpcode

/-- The instructions of major 0x29 (R99). -/
def decodeMaj29 (mn : Nat) (w : Word) (x : Option Word) : Except DecErr Instr :=
  match mn with
  | 0 => noExt x (.lkAcq (unpackM w))
  | 1 => noExt x (.lkUpg (unpackM w))
  | 2 => noExt x (.lkRel (unpackM w))
  | 3 => noExt x (.lkRall (unpackM w))
  | 4 => noExt x (.lkQry (unpackM w))
  | 5 => noExt x (.lkmLd (unpackM w))
  | 6 => noExt x (.lkeSet (unpackM w))
  | _ => .error .badOpcode

/-- The instructions of major 0x2A (R99). -/
def decodeMaj2A (mn : Nat) (w : Word) (x : Option Word) : Except DecErr Instr :=
  match mn with
  | 0 => noExt x (.lnch (unpackM w))
  | 1 => noExt x (.trig (unpackM w))
  | _ => .error .badOpcode

/-- The instructions of major 0x2B (R99). -/
def decodeMaj2B (mn : Nat) (w : Word) (x : Option Word) : Except DecErr Instr :=
  match mn with
  | 0 => noExt x (.dseed (unpackA w))
  | 1 => noExt x (.dtget (unpackA w))
  | 2 => noExt x (.dtset (unpackA w))
  | 3 => noExt x (.dtzro (unpackA w))
  | _ => .error .badOpcode

/-- The instructions of major 0x2C (R99). -/
def decodeMaj2C (mn : Nat) (w : Word) (x : Option Word) : Except DecErr Instr :=
  match mn with
  | 0 => if (unpackA w).f2.getLsbD 0 then needExt x (.csSendG (unpackA w)) else .ok (.csSend (unpackA w) x)
  | 1 => .ok (.csRecv (unpackA w) x)
  | 2 => .ok (.csRrs (unpackA w) x)
  | _ => .error .badOpcode

/-- The instructions of major 0x2D (R99). -/
def decodeMaj2D (mn : Nat) (w : Word) (x : Option Word) : Except DecErr Instr :=
  match mn with
  | 0 => .ok (.csCopy (unpackA w) x)
  | 1 => noExt x (.csWait (unpackA w))
  | _ => .error .badOpcode

/-- The instructions of major 0x2E (R99). -/
def decodeMaj2E (mn : Nat) (w : Word) (x : Option Word) : Except DecErr Instr :=
  match mn with
  | 0 => noExt x (.csLoop (unpackA w))
  | 1 => noExt x (.csPeer (unpackA w))
  | 2 => noExt x (.csEnd (unpackA w))
  | _ => .error .badOpcode

/-- The instructions of major 0x30 (R99). -/
def decodeMaj30 (mn : Nat) (w : Word) (x : Option Word) : Except DecErr Instr :=
  match mn with
  | 0 => noExt x (.ld (unpackCM w))
  | 1 => noExt x (.st (unpackCM w))
  | _ => .error .badOpcode

/-- The instructions of major 0x31 (R99). -/
def decodeMaj31 (mn : Nat) (w : Word) (x : Option Word) : Except DecErr Instr :=
  match mn with
  | 0 => noExt x (.br (unpackCB w))
  | 1 => noExt x (.jal (unpackCJ w))
  | 2 => noExt x (.jalr (unpackCJ w))
  | _ => .error .badOpcode

/-- The instructions of major 0x32 (R99). -/
def decodeMaj32 (mn : Nat) (w : Word) (x : Option Word) : Except DecErr Instr :=
  match mn with
  | 0 => noExt x (.csrr (unpackCS w))
  | 1 => noExt x (.csrw (unpackCS w))
  | 2 => noExt x (.csrs (unpackCS w))
  | 3 => noExt x (.csrc (unpackCS w))
  | _ => .error .badOpcode

/-- The instructions of major 0x33 (R99). -/
def decodeMaj33 (mn : Nat) (w : Word) (x : Option Word) : Except DecErr Instr :=
  match mn with
  | 0 => noExt x (.trapc (unpackCG w))
  | 1 => noExt x (.eret (unpackCG w))
  | 2 => noExt x (.wfe (unpackCG w))
  | _ => .error .badOpcode

/-- The instructions of major 0x34 (R99). -/
def decodeMaj34 (mn : Nat) (w : Word) (x : Option Word) : Except DecErr Instr :=
  match mn with
  | 0 => noExt x (.gload (unpackCG w))
  | 1 => noExt x (.garm (unpackCG w))
  | 2 => noExt x (.gdisarm (unpackCG w))
  | _ => .error .badOpcode

/-- The instructions of major 0x35 (R99). -/
def decodeMaj35 (mn : Nat) (w : Word) (x : Option Word) : Except DecErr Instr :=
  match mn with
  | 0 => noExt x (.inj (unpackCG w))
  | 1 => noExt x (.purge (unpackCG w))
  | 2 => noExt x (if (unpackCG w).imm.getLsbD 0 then .retryfFail (unpackCG w) else .retryf (unpackCG w))
  | _ => .error .badOpcode

/-- The instructions of major 0x36 (R99). -/
def decodeMaj36 (mn : Nat) (w : Word) (x : Option Word) : Except DecErr Instr :=
  match mn with
  | 0 => noExt x (.snap (unpackCG w))
  | 1 => noExt x (.rstor (unpackCG w))
  | 2 => noExt x (.qdrn (unpackCG w))
  | 3 => noExt x (.msrd (unpackCG w))
  | 4 => noExt x (.mswr (unpackCG w))
  | _ => .error .badOpcode

/-- The instruction whose word is `w`, with the extension word `x` when XT = 1, before the checks of R88. -/
def decodeRaw (w : Word) (x : Option Word) : Except DecErr Instr :=
  match wordMaj w with
  | 0x01 => .error .structural
  | 0x3E => .error .structural
  | 0x02 => decodeMaj02 (wordMin w) w x
  | 0x03 => decodeMaj03 (wordMin w) w x
  | 0x04 => decodeMaj04 (wordMin w) w x
  | 0x05 => decodeMaj05 (wordMin w) w x
  | 0x06 => decodeMaj06 (wordMin w) w x
  | 0x07 => decodeMaj07 (wordMin w) w x
  | 0x08 => decodeMaj08 (wordMin w) w x
  | 0x09 => decodeMaj09 (wordMin w) w x
  | 0x0A => decodeMaj0A (wordMin w) w x
  | 0x0B => decodeMaj0B (wordMin w) w x
  | 0x0E => decodeMaj0E (wordMin w) w x
  | 0x0F => decodeMaj0F (wordMin w) w x
  | 0x10 => decodeMaj10 (wordMin w) w x
  | 0x11 => decodeMaj11 (wordMin w) w x
  | 0x12 => decodeMaj12 (wordMin w) w x
  | 0x13 => decodeMaj13 (wordMin w) w x
  | 0x14 => decodeMaj14 (wordMin w) w x
  | 0x15 => decodeMaj15 (wordMin w) w x
  | 0x16 => decodeMaj16 (wordMin w) w x
  | 0x17 => decodeMaj17 (wordMin w) w x
  | 0x18 => decodeMaj18 (wordMin w) w x
  | 0x19 => decodeMaj19 (wordMin w) w x
  | 0x1A => decodeMaj1A (wordMin w) w x
  | 0x1B => decodeMaj1B (wordMin w) w x
  | 0x1C => decodeMaj1C (wordMin w) w x
  | 0x20 => decodeMaj20 (wordMin w) w x
  | 0x21 => decodeMaj21 (wordMin w) w x
  | 0x22 => decodeMaj22 (wordMin w) w x
  | 0x23 => decodeMaj23 (wordMin w) w x
  | 0x24 => decodeMaj24 (wordMin w) w x
  | 0x26 => decodeMaj26 (wordMin w) w x
  | 0x27 => decodeMaj27 (wordMin w) w x
  | 0x28 => decodeMaj28 (wordMin w) w x
  | 0x29 => decodeMaj29 (wordMin w) w x
  | 0x2A => decodeMaj2A (wordMin w) w x
  | 0x2B => decodeMaj2B (wordMin w) w x
  | 0x2C => decodeMaj2C (wordMin w) w x
  | 0x2D => decodeMaj2D (wordMin w) w x
  | 0x2E => decodeMaj2E (wordMin w) w x
  | 0x30 => decodeMaj30 (wordMin w) w x
  | 0x31 => decodeMaj31 (wordMin w) w x
  | 0x32 => decodeMaj32 (wordMin w) w x
  | 0x33 => decodeMaj33 (wordMin w) w x
  | 0x34 => decodeMaj34 (wordMin w) w x
  | 0x35 => decodeMaj35 (wordMin w) w x
  | 0x36 => decodeMaj36 (wordMin w) w x
  | _ => .error .badOpcode

/-- The instruction whose word is `w`, with the extension word `x` when XT = 1 (R87, R88, R99). -/
def decodeWord (w : Word) (x : Option Word) : Except DecErr Instr :=
  match decodeRaw w x with
  | .ok i => if i.wellFormed then .ok i else .error .reservedField
  | .error e => .error e

/-- The 64-bit word in the first eight bytes, little-endian (R1). -/
def wordOfBytes (bs : List Byte) : Word :=
  BitVec.ofNat 64 ((bs.take 8).foldr (fun b n => b.toNat + 256 * n) 0)

/-- The eight bytes of a word, little-endian (R1). -/
def bytesOfWord (w : Word) : List Byte :=
  (List.range 8).map fun i => w.extractLsb' (8 * i) 8

/-- The instruction at the head of a list of bytes, and the bytes after it. -/
def decode (bs : List Byte) : Except DecErr (Instr × List Byte) :=
  if bs.length < 8 then .error .truncated
  else
    let w := wordOfBytes bs
    let rest := bs.drop 8
    if wordXt w then
      if rest.length < 8 then .error .truncated
      else (decodeWord w (some (wordOfBytes rest))).map fun i => (i, rest.drop 8)
    else (decodeWord w none).map fun i => (i, rest)

/-- Major, minor, extension word and bits [50:0] of an instruction; none for a step of a unit, which has no word. -/
def encodeParts : Instr → Option (Nat × Nat × Option Word × BitVec 51)
  | .emit f => some (0x02, 0, none, packE f)
  | .null f => some (0x02, 1, none, packE f)
  | .steer f x => some (0x03, 0, x, packA f)
  | .lgen f => some (0x04, 0, none, packA f)
  | .dmnd f => some (0x04, 1, none, packA f)
  | .rels f => some (0x04, 2, none, packA f)
  | .keep f => some (0x04, 3, none, packA f)
  | .colr f => some (0x04, 4, none, packA f)
  | .nop f => some (0x05, 0, none, packA f)
  | .exit f => some (0x05, 1, none, packA f)
  | .add f => some (0x06, 0, none, packA f)
  | .sub f => some (0x06, 1, none, packA f)
  | .mul f => some (0x06, 2, none, packA f)
  | .mulh f => some (0x06, 3, none, packA f)
  | .mulhu f => some (0x06, 4, none, packA f)
  | .divu f => some (0x06, 5, none, packA f)
  | .remu f => some (0x06, 6, none, packA f)
  | .and f => some (0x07, 0, none, packA f)
  | .or f => some (0x07, 1, none, packA f)
  | .xor f => some (0x07, 2, none, packA f)
  | .andn f => some (0x07, 3, none, packA f)
  | .shl f => some (0x07, 4, none, packA f)
  | .shr f => some (0x07, 5, none, packA f)
  | .sra f => some (0x07, 6, none, packA f)
  | .min f => some (0x08, 0, none, packA f)
  | .max f => some (0x08, 1, none, packA f)
  | .minu f => some (0x08, 2, none, packA f)
  | .maxu f => some (0x08, 3, none, packA f)
  | .cmp f => some (0x08, 4, none, packA f)
  | .sel f => some (0x08, 5, none, packA f)
  | .mov f => some (0x09, 0, none, packA f)
  | .clz f => some (0x09, 1, none, packA f)
  | .popc f => some (0x09, 2, none, packA f)
  | .bfx f => some (0x09, 3, none, packA f)
  | .bfi f => some (0x09, 4, none, packA f)
  | .li f x => some (0x0A, 0, x, packB f)
  | .tdmk f => some (0x0B, 0, none, packA f)
  | .tdget f => some (0x0B, 1, none, packA f)
  | .tdset f => some (0x0B, 2, none, packA f)
  | .tdadv f => some (0x0B, 3, none, packA f)
  | .tdsub f => some (0x0B, 4, none, packA f)
  | .fadd f => some (0x0E, 0, none, packA f)
  | .fsub f => some (0x0E, 1, none, packA f)
  | .fmul f => some (0x0E, 2, none, packA f)
  | .ffma f => some (0x0E, 3, none, packA f)
  | .fmin f => some (0x0E, 4, none, packA f)
  | .fmax f => some (0x0E, 5, none, packA f)
  | .fcmp f => some (0x0F, 0, none, packA f)
  | .fcvt f => some (0x0F, 1, none, packA f)
  | .frcp f => some (0x0F, 2, none, packA f)
  | .frsq f => some (0x0F, 3, none, packA f)
  | .vadd f => some (0x10, 0, none, packA f)
  | .vsub f => some (0x10, 1, none, packA f)
  | .vmul f => some (0x10, 2, none, packA f)
  | .vfma f => some (0x10, 3, none, packA f)
  | .vmin f => some (0x10, 4, none, packA f)
  | .vmax f => some (0x10, 5, none, packA f)
  | .vabs f => some (0x10, 6, none, packA f)
  | .vneg f => some (0x10, 7, none, packA f)
  | .vand f => some (0x11, 0, none, packA f)
  | .vor f => some (0x11, 1, none, packA f)
  | .vxor f => some (0x11, 2, none, packA f)
  | .vshl f => some (0x11, 3, none, packA f)
  | .vshr f => some (0x11, 4, none, packA f)
  | .vsra f => some (0x11, 5, none, packA f)
  | .vcmp f => some (0x12, 0, none, packA f)
  | .vsel f => some (0x12, 1, none, packA f)
  | .vmsk f => some (0x12, 2, none, packA f)
  | .vcvt f => some (0x13, 0, none, packA f)
  | .vrcp f => some (0x14, 0, none, packA f)
  | .vrsq f => some (0x14, 1, none, packA f)
  | .vnrs f => some (0x14, 2, none, packA f)
  | .vexp2 f => some (0x14, 3, none, packA f)
  | .vlog2 f => some (0x14, 4, none, packA f)
  | .vtanh f => some (0x14, 5, none, packA f)
  | .vsumr f => some (0x15, 0, none, packA f)
  | .vmaxr f => some (0x15, 1, none, packA f)
  | .vscan f => some (0x15, 2, none, packA f)
  | .vbcst f => some (0x16, 0, none, packA f)
  | .vlsh f => some (0x16, 1, none, packA f)
  | .vperm f => some (0x16, 2, none, packA f)
  | .vtrn f => some (0x16, 3, none, packA f)
  | .vqnt f => some (0x17, 0, none, packA f)
  | .vdqnt f => some (0x17, 1, none, packA f)
  | .vaddc f => some (0x18, 0, none, packA f)
  | .vmulw f => some (0x18, 1, none, packA f)
  | .vtopk f => some (0x19, 0, none, packA f)
  | .mma f => some (0x1A, 0, none, packA f)
  | .mmaq f => some (0x1A, 1, none, packA f)
  | .mmax f => some (0x1A, 2, none, packA f)
  | .mmag f x => some (0x1A, 3, some x, packA f)
  | .mzro f => some (0x1B, 0, none, packA f)
  | .mldq f => some (0x1B, 1, none, packA f)
  | .mstq f => some (0x1B, 2, none, packA f)
  | .abxClr f => some (0x1C, 0, none, packA f)
  | .abxAdd f => some (0x1C, 1, none, packA f)
  | .abxDot f => some (0x1C, 2, none, packA f)
  | .abxMrg f => some (0x1C, 3, none, packA f)
  | .abxRnd f => some (0x1C, 4, none, packA f)
  | .abxOut f => some (0x1C, 5, none, packA f)
  | .ldt f x => some (0x20, 0, some x, packM f)
  | .stt f x => some (0x20, 1, some x, packM f)
  | .ldg f => some (0x21, 0, none, packM f)
  | .stg f => some (0x21, 1, none, packM f)
  | .lds f => some (0x22, 0, none, packM f)
  | .sts f => some (0x22, 1, none, packM f)
  | .clrm f x => some (0x23, 0, some x, packM f)
  | .ordj f => some (0x24, 0, none, packM f)
  | .fence f => some (0x24, 1, none, packM f)
  | .atom f x => some (0x26, 0, x, packM f)
  | .cas f x => some (0x26, 1, x, packM f)
  | .redt f x => some (0x26, 2, some x, packM f)
  | .rmtFaa f x => some (0x27, 0, x, packM f)
  | .rmtSt f => some (0x27, 1, none, packM f)
  | .rmtStt f x => some (0x27, 2, some x, packM f)
  | .rmtFlag f => some (0x27, 3, none, packM f)
  | .rodAdd f => some (0x28, 0, none, packM f)
  | .rodWait f => some (0x28, 1, none, packM f)
  | .rodRd f => some (0x28, 2, none, packM f)
  | .rodInit f => some (0x28, 3, none, packM f)
  | .rodInitFree f => some (0x28, 3, none, packM f)
  | .lkAcq f => some (0x29, 0, none, packM f)
  | .lkUpg f => some (0x29, 1, none, packM f)
  | .lkRel f => some (0x29, 2, none, packM f)
  | .lkRall f => some (0x29, 3, none, packM f)
  | .lkQry f => some (0x29, 4, none, packM f)
  | .lkmLd f => some (0x29, 5, none, packM f)
  | .lkeSet f => some (0x29, 6, none, packM f)
  | .lnch f => some (0x2A, 0, none, packM f)
  | .trig f => some (0x2A, 1, none, packM f)
  | .dseed f => some (0x2B, 0, none, packA f)
  | .dtget f => some (0x2B, 1, none, packA f)
  | .dtset f => some (0x2B, 2, none, packA f)
  | .dtzro f => some (0x2B, 3, none, packA f)
  | .csSend f x => some (0x2C, 0, x, packA f)
  | .csSendG f x => some (0x2C, 0, some x, packA f)
  | .csRecv f x => some (0x2C, 1, x, packA f)
  | .csRrs f x => some (0x2C, 2, x, packA f)
  | .csCopy f x => some (0x2D, 0, x, packA f)
  | .csWait f => some (0x2D, 1, none, packA f)
  | .csLoop f => some (0x2E, 0, none, packA f)
  | .csPeer f => some (0x2E, 1, none, packA f)
  | .csEnd f => some (0x2E, 2, none, packA f)
  | .ld f => some (0x30, 0, none, packCM f)
  | .st f => some (0x30, 1, none, packCM f)
  | .br f => some (0x31, 0, none, packCB f)
  | .jal f => some (0x31, 1, none, packCJ f)
  | .jalr f => some (0x31, 2, none, packCJ f)
  | .csrr f => some (0x32, 0, none, packCS f)
  | .csrw f => some (0x32, 1, none, packCS f)
  | .csrs f => some (0x32, 2, none, packCS f)
  | .csrc f => some (0x32, 3, none, packCS f)
  | .trapc f => some (0x33, 0, none, packCG f)
  | .eret f => some (0x33, 1, none, packCG f)
  | .wfe f => some (0x33, 2, none, packCG f)
  | .gload f => some (0x34, 0, none, packCG f)
  | .garm f => some (0x34, 1, none, packCG f)
  | .gdisarm f => some (0x34, 2, none, packCG f)
  | .inj f => some (0x35, 0, none, packCG f)
  | .purge f => some (0x35, 1, none, packCG f)
  | .retryf f => some (0x35, 2, none, packCG f)
  | .retryfFail f => some (0x35, 2, none, packCG f)
  | .snap f => some (0x36, 0, none, packCG f)
  | .rstor f => some (0x36, 1, none, packCG f)
  | .qdrn f => some (0x36, 2, none, packCG f)
  | .msrd f => some (0x36, 3, none, packCG f)
  | .mswr f => some (0x36, 4, none, packCG f)
  | _ => none

/-- The word and the extension word of an instruction (R87, R99). -/
def encodeWord (i : Instr) : Option (Word × Option Word) :=
  (encodeParts i).map fun (maj, mn, x, body) => (packWord maj mn x.isSome body, x)

/-- The bytes of an instruction as they are stored (R1). -/
def encode (i : Instr) : Option (List Byte) :=
  (encodeWord i).map fun (w, x) =>
    bytesOfWord w ++ (match x with | some e => bytesOfWord e | none => [])

/-- The instruction that the decoder reads from the bits `w` of an instruction, bit 0 the least significant of
its first byte, the bits at and above `nbits` being 0. -/
def decodeTableWord (nbits w : Nat) : Option Instr :=
  let v := w % 2 ^ nbits
  match decode (bytesOfWord (BitVec.ofNat 64 v) ++ bytesOfWord (BitVec.ofNat 64 (v / 2 ^ 64))) with
  | .ok (i, _) => some i
  | .error _ => none

end Sys2Proof
end

