-- ==== Sys2Proof/Machine/EngineState.lean ====
section
/-!
DEFINITION. The state of one tile engine and of the passes it runs: tables (R25, R36, R44), matching store
(R26), firings and passes (R33, R50–R55, R94, R95), streams (R243, R383, R386), rods (R340), intakes (R337).
-/
namespace Sys2Proof.Machine

/-- A frame-table entry (R25) with NEXT, the retired-colour map of colours WBASE to WBASE + 63 (R39, R288)
and the image's WBASE, which arming restores (R311). `w` and `spc` are W and SPC, not W − 1. -/
structure Frame where
  v       : Bool := false
  inst    : Nat := 0
  ctx     : Nat := 0
  w       : Nat := 1
  wbase   : Nat := 0
  spc     : Nat := 1
  base    : Nat := 0
  owner   : Nat := 0
  next    : Nat := 0
  retired : BitVec 64 := 0
  wbase0  : Nat := 0
deriving DecidableEq, Repr, Inhabited

/-- KIND of an operator (R36, R38). -/
inductive OpKind where
  | none | compute | loop | load | store | recv
deriving DecidableEq, Repr, Inhabited

/-- MODE of a port (R36, R40). -/
inductive PortMode where
  | token | sticky | order | demand | any | rod
deriving DecidableEq, Repr, Inhabited

/-- EPOL of a port (R36, R42). -/
inductive EPol where
  | absorb | forward | replace
deriving DecidableEq, Repr, Inhabited

/-- The configuration of one port (R36). -/
structure PortCfg where
  mode : PortMode := .token
  epol : EPol := .absorb
  tile : Bool := false
  sc   : Bool := false
deriving DecidableEq, Repr, Inhabited

/-- The words 8 and 9 of an operator entry (R36), decoded. `gate` is none for code 7. -/
structure OpHead where
  kind   : OpKind := .none
  nin    : Nat := 0
  gate   : Option Nat := none
  cls    : Nat := 0
  prio   : Nat := 0
  pool   : Bool := false
  dualk  : Nat := 0
  qlive  : BitVec 8 := 0
  body   : Nat := 0
  blen   : Nat := 0
  olbase : Nat := 0
  olcnt  : Nat := 0
deriving DecidableEq, Repr, Inhabited

/-- An operator-table entry (R36), GATE 0 at reset: `rsize`, `rcnt` hold the fields plus one; `up` the references UP0–UP3. `serial` says
that its firings follow one another (R97), `abx` that its body holds an ABX word (R186), as GLOAD finds them. -/
structure OpEntry where
  h       : OpHead := { gate := some 0 }
  sinit   : List Word := []
  frame   : Nat := 0
  slotoff : Nat := 0
  ports   : List PortCfg := []
  inner   : Nat := 0
  rbase   : Nat := 0
  rsize   : Nat := 1
  rcnt    : Nat := 1
  rstr    : Nat := 0
  up      : List (BitVec 32) := []
  serial  : Bool := false
  abx     : Bool := false
deriving DecidableEq, Repr, Inhabited

/-- An open arming of a LOOP operator (R39, R288). -/
structure Arming where
  first   : Nat := 0
  n       : Nat := 0
  handed  : Nat := 0
  retired : Nat := 0
  outer   : Nat := 0
  start   : Word := 0
deriving DecidableEq, Repr, Inhabited

/-- A tile sub-slot replaced at a STICKY port, waiting for its release (R40): the port, the token that
carried the tile. -/
structure StickyOld where
  port : Nat := 0
  tok  : Token := 0
deriving DecidableEq, Repr, Inhabited

/-- The kept-map changes of a committed pass that wait for an earlier-issued pass to end (R120): the pass, the entries it
releases, those it keeps with their tokens, and for whom the credit returns go. -/
structure KeptChange where
  uid   : Nat := 0
  rels  : List (Nat × Nat) := []
  keeps : List (Nat × Nat × Token) := []
  who   : Origin := default
deriving DecidableEq, Repr, Inhabited

/-- A wait of an agent that is no pass for a rod (R262, R348, R416, R296): the rod as its waiters name it, the target, the
context, and whether a change or a notification has shown the target reached. -/
structure RodWaiter where
  key    : Nat := 0
  target : Nat := 0
  ctx    : Nat := 64
  met    : Bool := false
deriving DecidableEq, Repr, Inhabited

/-- The running state of one operator on one engine (R94, R200, R117, R47, R39). Shadow j of register i
is entry 4i + (j − 1); `keptTok` holds the token of each kept tile, at 64 port + entry; `fired` are the colours of the window that have
fired without a token of their own (R40, R48). -/
structure OpRun where
  s      : Table Word := []
  ssh    : Table Word := []
  kept   : Table (BitVec 64) := []
  keptTok : Table Token := []
  keptq  : List KeptChange := []
  busy   : Table (BitVec 64) := []
  arms   : List Arming := []
  sticky : List StickyOld := []
  fired  : List Nat := []
  pushed : Table Nat := []
deriving DecidableEq, Repr, Inhabited

/-- A matching-store slot (R26): presence bit, 128 bits, and whether a ROD port's test has been satisfied
(R352). -/
structure Slot where
  p     : Bool := false
  tok   : Token := 0
  rodOk : Bool := false
deriving DecidableEq, Repr, Inhabited

/-- One Abacus lane (R76). -/
structure Lane where
  v    : BitVec 640 := 0
  nan  : Bool := false
  pinf : Bool := false
  ninf : Bool := false
deriving DecidableEq, Repr, Inhabited

/-- What a port delivers to a pass: the token taken at issue, if the port is in use and has one. -/
structure PortIn where
  mode : PortMode := .token
  tile : Bool := false
  tok  : Option Token := none
deriving DecidableEq, Repr, Inhabited

/-- Whether a firing is held by a fault (R52, R271): by the open fault `key`, or, after RETRYF.FAIL has closed its
identifier, until PURGE removes it. -/
inductive Hold where
  | free
  | fault (key : Nat)
  | closed
deriving DecidableEq, Repr, Inhabited

/-- One run firing, or what is left of it (R33, R34): the operator, the colours of its passes still to
run, each with the tokens it holds. `uid` names its open pass in lock records and waits; `len` and `j` are L and
j of R33; `sent` the message of the last token sent on an output, which the next pass's may join (R35). -/
structure Firing where
  uid     : Nat := 0
  op      : Nat := 0
  ctx     : Nat := 0
  inst    : Nat := 0
  seq     : Word := 0
  prio    : Nat := 0
  off     : Nat := 0
  since   : Nat := 0
  len     : Nat := 0
  j       : Nat := 0
  passes  : List (Nat × List PortIn) := []
  group   : Option Nat := none
  requeued : Bool := false
  hold    : Hold := .free
  sent    : List (Nat × Nat) := []
deriving DecidableEq, Repr, Inhabited

/-- A token that an output is to send at commit (R108): flags, payload, colour and run length minus one. `tile` says
that the payload names the tile of the output sub-slot. -/
structure OutTok where
  n    : Bool := false
  e    : Bool := false
  o    : Bool := false
  q    : Bool := false
  s    : Bool := false
  d    : Bool := false
  tile : Bool := false
  join : Bool := false
  val  : Word := 0
  col  : Nat := 0
  run  : Nat := 0
deriving DecidableEq, Repr, Inhabited

/-- The record of one output of a pass (R108): the count of emits and nulls, the dynamic colour of COLR, the token to
send. `co` says that the completion token of a stream or atomic is to be sent there (R241). -/
structure OutRec where
  count : Nat := 0
  dyn   : Option Nat := none
  tok   : Option OutTok := none
  co    : Bool := false
deriving DecidableEq, Repr, Inhabited

/-- What a stream does (R245, R246, R252). -/
inductive StreamKind where
  | ldt | stt | clrm | redt | rmtStt
deriving DecidableEq, Repr, Inhabited

/-- A stream as its instruction made it (R240–R246, R252): the M word and the extension word, the memory address and
row pitch, the scratch descriptor (for CLRM the byte length), the shadow stride, the tangents it moves or zeroes and
whether their planes move with it (R211), the completion token, rod, amount and scope. `acq` is the moment of the latest acquire at
PACKAGE scope that comes before it (R230). -/
structure StreamReq where
  kind    : StreamKind := .ldt
  scope   : Nat := 0
  acq     : Nat := 0
  f       : Word := 0
  ext     : Word := 0
  addr    : Word := 0
  desc    : Word := 0
  pitch   : Nat := 0
  str     : Nat := 0
  k       : Nat := 0
  planes  : Bool := false
  rod     : Option Word := none
  rodHome : Nat := 0
  cadd    : Nat := 0
  comp    : Option Token := none
  push    : Bool := false
  remote  : Option Word := none
deriving DecidableEq, Repr, Inhabited

/-- What a held effect does at commit (R51). `scratch` is a tile write as (home, byte) (R141). A remote operation is
held as the packet it becomes (R253); `lockRel none` is LK.RALL. -/
inductive Effect where
  | access (a : Access)
  | scratch (cells : List (Nat × Byte))
  | rodAdd (r : RodAdd)
  | stream (q : StreamReq)
  | remote (kind : BitVec 8) (addr : Word) (xdata : BitVec 192) (payload : List Byte) (reply : Option Reply)
  | fence
  | ordj
  | lockRel (below : Option Word)
  | lockMatrix (v : Word)
  | lockEsc (n : Nat)
  | lnch (cmd : List Word)
  | trig
deriving DecidableEq, Repr, Inhabited

/-- A held effect with the ordering fields of its word, and the output that its completion or result token uses
(R241). -/
structure Held where
  lsid  : Nat := 0
  ord   : Nat := 0
  scope : Nat := 0
  co    : Option Nat := none
  eff   : Effect := .fence
deriving DecidableEq, Repr, Inhabited

/-- Why a pass is not executing its next word: a ROD.WAIT (R348), a lock request (R365), the reservations of
its LNCHs (R302), free streams at its commit point (R243), or the end of its body. -/
inductive Wait where
  | none
  | rod (ref : Word) (target : Word) (home : Nat) (acq : Nat)
  | lock (name : Word) (acq : Nat)
deriving DecidableEq, Repr, Inhabited

/-- The registers of a pass (R93–R95, R200): working copies, published at commit. -/
structure PassRegs where
  w     : Table Word := []
  wsh   : Table Word := []
  s     : Table Word := []
  ssh   : Table Word := []
  c     : List Word := []
  p     : List Word := []
  m     : Table Word := []
  q     : Table (BitVec 32) := []
  lanes : Table Lane := []
deriving DecidableEq, Repr, Inhabited

/-- The block state of a pass (R50, R51, R108–R121): outputs, steering, LSIDs, held effects. -/
structure PassBlock where
  outs   : Table OutRec := []
  steers : Nat := 0
  keep   : BitVec 8 := 255
  lnull  : BitVec 32 := 0
  lsids  : List Nat := []
  dup    : Bool := false
  keeps  : List (Nat × Nat) := []
  rels   : List (Nat × Nat) := []
  held   : List Held := []
  locks  : List Word := []
  lnches : Nat := 0
deriving DecidableEq, Repr, Inhabited

/-- A floating value: a NaN with its sign and its fraction field of `fb` bits, an infinity, or the exact number
(−1)^neg · m · 2^e, where m = 0 is a signed zero. -/
inductive FV where
  | nan (neg : Bool) (frac fb : Nat)
  | inf (neg : Bool)
  | fin (neg : Bool) (m : Nat) (e : Int)
deriving DecidableEq, Repr, Inhabited

/-- A byte of memory as it was before the load that returns it (R225, R226): the loads of a pass to disjoint bytes are unordered. Bytes
with one `t0` were read at one moment, in cycle `cyc`. -/
structure PreByte where
  home : Nat := 0
  t0   : Nat := 0
  b    : Byte := 0
  cyc  : Nat := 0
deriving DecidableEq, Repr, Inhabited

/-- One pass in execution: position in the body, mode, registers and block state. `idx` is the word that is
executing (WIDX of R69), `next` the word after it; `kfire` is the tangent count of the pass (R194), `all` whether
every word with a dual meaning runs in dual mode, `kp` the tangents the current word computes (R195). `step` counts the
steps that the word at `idx` has made while it has more to make (R184): the slot then runs that word again. `after` are the
effects that must act before the next word, as a value that the pass has read is ordered after them (R226); `acq` is the moment of the
latest acquire at PACKAGE scope before it (R230), `pre` what it has read ahead of its loads. `mm` are the tangents of A and the
values of B that the step A′B of a matrix word has read, until its step AB′ adds both (R192, R215). -/
structure Pass where
  col    : Nat := 0
  run    : Word := 0
  rank   : Word := 0
  eid    : Word := 0
  gid    : Word := 0
  instr  : Word := 0
  idx    : Nat := 0
  next   : Nat := 1
  step   : Nat := 0
  done   : Bool := false
  kfire  : Nat := 0
  all    : Bool := false
  kp     : Nat := 0
  ins    : List PortIn := []
  r      : PassRegs := {}
  b      : PassBlock := {}
  wait   : Wait := .none
  after  : List Nat := []
  acq    : Nat := 0
  pre    : List PreByte := []
  mm     : List (List FV) × List (List FV) := ([], [])
deriving DecidableEq, Repr, Inhabited

/-- A firing with the pass of it that is open. -/
structure Active where
  fr   : Firing := {}
  pass : Pass := {}
deriving DecidableEq, Repr, Inhabited

/-- A translation: the virtual page it maps, the leaf's bits and the home of the leaf entry (R377–R382). -/
structure Trans where
  pte  : Nat := 0
  base : Nat := 0
  log  : Nat := 16
  pa   : Nat := 0
  host : Bool := false
  r    : Bool := false
  w    : Bool := false
  a    : Bool := false
  sa   : Bool := false
  ro   : Bool := false
  d    : Bool := false
deriving DecidableEq, Repr, Inhabited

/-- The state of a stream's translation (R386); a walk is for the entry of one plane (R383). -/
inductive StreamPhase where
  | running
  | walking (plane : Nat) (va : Word)
  | stalled (key : Nat)
deriving DecidableEq, Repr, Inhabited

/-- One stream in flight (R243–R246, R252, R253): its request, the pieces not yet moved, the translation entry of each plane (R383).
`deps` is what its chunks follow, `rel` what its completion add follows beside them (R227), `ordj` whether an ORDJ of its pass stands
above it (R248). `buf` are the bytes read and not yet written, by home: a chunk of either side is read or written at once (R223). `acks`
are the remote operations it has made, `holds` the ring entries whose output sub-slot it holds (R244); `dropTok` and `dropAdd` are set
when a purge or tear-down drops what its completion would send (R323, R290). `miss` are the plane and the address of its latest walk,
`pre` what that walk has read of the page table so far, `asked` the cycle of its request (R384–R386). -/
structure Stream where
  id      : Nat := 0
  n       : Nat := 0
  eng     : Nat := 0
  q       : StreamReq := {}
  who     : Origin := default
  todo    : List Nat := []
  ents    : Table Trans := []
  phase   : StreamPhase := .running
  deps    : List Nat := []
  rel     : List Nat := []
  ordj    : Bool := false
  buf     : Table Byte := []
  acks    : List Nat := []
  holds   : List Nat := []
  dropTok : Bool := false
  dropAdd : Bool := false
  miss    : Option (Nat × Word) := none
  pre     : List PreByte := []
  asked   : Nat := 0
deriving DecidableEq, Repr, Inhabited

/-- A message being received into a RECV port (R405, R409): the port's colour, the sender, the
sender's step and the chunks still missing. -/
structure RecvMsg where
  op    : Nat := 0
  port  : Nat := 0
  col   : Nat := 0
  ctx   : Nat := 0
  tbl   : Nat := 0
  gen   : Nat := 0
  tag   : Nat := 0
  srank : Nat := 0
  snode : Nat := 0
  len   : Nat := 0
  die   : Nat := 0
  mark  : Nat := 0
  todo  : List Nat := []
deriving DecidableEq, Repr, Inhabited

/-- A running RECV port timer (R405): when it started, in ticks. -/
structure RecvTimer where
  op    : Nat := 0
  port  : Nat := 0
  col   : Nat := 0
  start : Nat := 0
deriving DecidableEq, Repr, Inhabited

/-- One issue slot (R53): the firing in it, whether it has issued in this cycle, and its pool intake (R337). -/
structure IssueSlot where
  act    : Option Active := none
  issued : Bool := false
  intake : List Firing := []
deriving DecidableEq, Repr, Inhabited

/-- What GLOAD records about an output reference from the image (R109, R210, R241): whether the consumer port is a
tile port, whether it is in ORDER mode, and the consumer's tangent count. -/
structure OutInfo where
  tile  : Bool := false
  order : Bool := false
  kc    : Nat := 0
deriving DecidableEq, Repr, Inhabited

/-- The tables of an engine (R25, R36, R44, R90, R96) and its matching store (R26). `parked` keeps, for the operators of a
context that has left the engine, what the save area's layout does not hold of them (R288). -/
structure EngineTables where
  ft     : Table Frame := []
  ot     : Table OpEntry := []
  orun   : Table OpRun := []
  ol     : Table Word := []
  olx    : Table OutInfo := []
  body   : Table Word := []
  ms     : Table Slot := []
  banks  : Table (List Word) := []
  opBank : Table Nat := []
  parked : Table OpRun := []
deriving DecidableEq, Repr, Inhabited

/-- One tile engine. `elig` lists the colours that are eligible, with the cycle since which they have been
(R55 rule 2); `frozen` is set while the multiply array is frozen (R185). -/
structure Engine where
  t       : EngineTables := {}
  q       : Table (BitVec 32) := []
  lanes   : Table Lane := []
  rods    : Table Word := []
  mat     : IssueSlot := {}
  vec     : IssueSlot := {}
  susp    : List Active := []
  ready   : List Active := []
  requeue : List Firing := []
  streams : List Stream := []
  elig    : List (Nat × Nat × Nat) := []
  recvs   : List RecvMsg := []
  timers  : List RecvTimer := []
  frozen  : Bool := false
deriving DecidableEq, Repr, Inhabited

end Sys2Proof.Machine
end

