-- ==== Sys2Proof/Machine/DieState.lean ====
section
/-!
DEFINITION. The state of one die beside its engines: control core (R257–R260), trap queue (R275), rods and watch
units (R345), pool (R335–R338), groups (R328), deadlock detector (R321), page walker (R384, R390), Lock Reckoner
(R363, R376), collective sequencer (R406–R410), link ports (R393–R395).
-/
namespace Sys2Proof.Machine

/-- The control and status registers that software writes or exceptions save into (R260). -/
structure CoreCsr where
  xbusy  : Bool := false
  ebusy  : Bool := false
  mode   : Bool := true
  ie     : Bool := false
  epc    : Word := 0
  est    : Word := 0
  xpc    : Word := 0
  xst    : Word := 0
  xcause : Word := 0
  xval   : Word := 0
  stvec  : Word := 0
  sxvec  : Word := 0
  htmo   : Word := 0
  asel   : Word := 64
  trec   : Table Word := []
  cctx   : Nat := 64
  pend   : Bool := false
deriving DecidableEq, Repr, Inhabited

/-- The control core of a die (R257, R258, R267, R277, R455). `npc` is the address of the word after the one
that executes; `step` holds the words fed through the step instrument; `htEnd` is the tick at which the limit of the user
handler ends. `busy` is set while a word of R268 that must wait has not ended, with the next message number and the tick at
which it first executed; `held` is that word where the core fetched it itself, `img` what a GLOAD that waits has read. `after`, `acq`
and `pre` are as for a pass (R264). -/
structure CoreState where
  g       : Table Word := []
  pc      : Word := 0
  npc     : Word := 0
  csr     : CoreCsr := {}
  run     : Bool := false
  halted  : Bool := false
  wfe     : Bool := false
  step    : Option (Word × Word) := none
  htEnd   : Option Nat := none
  busy    : Option (Nat × Nat) := none
  held    : Option Word := none
  img     : Option (List Byte × List Byte × List Byte) := none
  rodw    : Option RodWaiter := none
  after   : List Nat := []
  acq     : Nat := 0
  pre     : List PreByte := []
deriving DecidableEq, Repr, Inhabited

/-- A die or group rod (R344, R345). `grp` is the owning group of a group rod. -/
structure Rod where
  count : Word := 0
  a     : Bool := false
  ctx   : Nat := 0
  grp   : Nat := 0
deriving DecidableEq, Repr, Inhabited

/-- A watch unit (R345, R346). `addr` is ADDR, bits [47:3] of the word's virtual address. -/
structure Watch where
  v    : Bool := false
  ctx  : Nat := 0
  addr : Nat := 0
  last : Word := 0
deriving DecidableEq, Repr, Inhabited

/-- STATE of a group (R328). -/
inductive GroupSt where
  | free | reserved | active | parked
deriving DecidableEq, Repr, Inhabited

/-- A group block (R328) and the cycle at which its clearing ends (R289). -/
structure Group where
  ctx    : Nat := 0
  rm1    : Nat := 0
  cm1    : Nat := 0
  origin : Nat := 0
  st     : GroupSt := .free
  rcode  : Nat := 0
  nmem   : Nat := 0
  clear  : Option Nat := none
deriving DecidableEq, Repr, Inhabited

/-- A ready colour of the pool (R335–R338): operator, colour, priority, bin, group, the cycle it became ready
and the cycles it has waited at its priority. -/
structure PoolReady where
  op    : Nat := 0
  col   : Nat := 0
  prio  : Nat := 0
  bin   : Nat := 0
  grp   : Nat := 0
  since : Nat := 0
  wait  : Nat := 0
deriving DecidableEq, Repr, Inhabited

/-- The pool of a die (R56, R335–R338). `opGrp` is the group of each pooled operator; `cur` is indexed by
8 × group + priority; `did` is set once the dispatcher has acted in this cycle. -/
structure Pool where
  ft     : Table Frame := []
  ms     : Table Slot := []
  busy   : Table (BitVec 64) := []
  ready  : List PoolReady := []
  lastG  : Nat := 71
  cur    : Table Nat := []
  lastM  : Table Nat := []
  agelim : BitVec 32 := 4096
  did    : Bool := false
deriving DecidableEq, Repr, Inhabited

/-- The deadlock detector (R319–R321). -/
structure Detector where
  en   : Bool := true
  log2 : Nat := 20
  cnt  : Table Nat := []
  rep  : List Nat := []
deriving DecidableEq, Repr, Inhabited

/-- A 64-byte chunk as a path 0x1 read may still return it (R230): the engine or core (288 + die) that keeps it, the address space
and the chunk of the virtual address that mapped it, its home chunk, the moment at which it was current, its bytes. -/
structure ConstChunk where
  unit  : Nat := 0
  ctx   : Nat := 64
  va    : Nat := 0
  home  : Nat := 0
  t0    : Nat := 0
  bytes : List Byte := []
deriving DecidableEq, Repr, Inhabited

/-- The walker block (R390) with the accesses that an INV waits for, and the passes that may hold some (R391), what walks for other agents than engines and cores have
read so far (R385), the second-level translation cache (R384) and the constant-path buffer (R230). -/
structure Walker where
  bcast : Bool := false
  kind  : Nat := 0
  ctx   : Nat := 0
  vpn   : Nat := 0
  npg   : BitVec 32 := 0
  busy  : Bool := false
  await : List Nat := []
  opens : List (Nat × Nat) := []
  pre   : List PreByte := []
  stc   : List (Nat × Trans) := []
  cbuf  : List ConstChunk := []
deriving DecidableEq, Repr, Inhabited

/-- State of a lock record (R367). -/
inductive LockSt where
  | granted | held
deriving DecidableEq, Repr, Inhabited

/-- What an uncommitted pass has taken of an object (R362, R367): the pass, the mode code of R357, and whether it has duration
HOLD. -/
structure LockTake where
  eng  : Nat := 0
  uid  : Nat := 0
  mode : Nat := 0
  hold : Bool := false
deriving DecidableEq, Repr, Inhabited

/-- One owner's record on one object (R361–R367): `base` is the mode that committed passes took with duration HOLD, 0 for NL; `takes`
is what passes that have not committed have taken. `hit` is set while a wound is on its way to one of them (R366). `whole` is the mode
that an escalation has put in place of all of it, with the pass it belongs to (R369). -/
structure LockRec where
  ctx   : Nat := 0
  name  : Word := 0
  age   : Word := 0
  base  : Nat := 0
  takes : List LockTake := []
  hit   : Bool := false
  whole : Option (Nat × Nat) := none
deriving DecidableEq, Repr, Inhabited

/-- One entry of an object's queue (R364): `req` is the request it belongs to. -/
structure LockWaiter where
  ctx   : Nat := 0
  name  : Word := 0
  age   : Word := 0
  want  : Nat := 0
  req   : LockReq := default
deriving DecidableEq, Repr, Inhabited

/-- The Lock Reckoner of a die (R363, R376). -/
structure Reckoner where
  recs  : List LockRec := []
  queue : List LockWaiter := []
  owner : Word := 0
  ctx   : Nat := 0
  last  : BitVec 32 := 0
deriving DecidableEq, Repr, Inhabited

/-- What an asynchronous step of a collective program is doing (R408, R409, R414). -/
inductive CStepKind where
  | send
  | recv
  | rrs (arr : Bool) (count : Nat) (fwd : Option Nat)
  | copy
deriving DecidableEq, Repr, Inhabited

/-- An outstanding step of a collective program (R408–R415): its word index, peer, local address, length and tag.
`todo` are the byte offsets still to arrive or to copy, `cleared` the peer whose message is being received and `mark` its step there,
`done` the messages already combined, `buf` the bytes of the message being received by an EXACT CS.RRS, `trace` the trace
entries to be written at completion (R425). -/
structure CStep where
  id      : Nat := 0
  word    : Nat := 0
  kind    : CStepKind := .send
  peer    : Nat := 0
  addr    : Word := 0
  addr2   : Word := 0
  len     : Nat := 0
  tag     : Nat := 0
  graph   : Option Word := none
  col     : Nat := 0
  fmt     : Nat := 0
  op      : Nat := 0
  lanes   : Bool := false
  rod     : Option Word := none
  start   : Nat := 0
  resend  : Option Nat := none
  cleared : Option Nat := none
  mark    : Nat := 0
  snode   : Nat := 0
  todo    : List Nat := []
  done    : Nat := 0
  buf     : Table Byte := []
  trace   : List (Nat × Word) := []
deriving DecidableEq, Repr, Inhabited

/-- A program in a sequencer (R406–R408): the COLL it serves, its words, registers, next word, outstanding steps. -/
structure CProg where
  ctx   : Nat := 0
  tbl   : Nat := 0
  gen   : Nat := 0
  mask  : BitVec 4 := 0
  addr  : Word := 0
  rod   : Option Word := none
  cadd  : BitVec 32 := 0
  words : List Word := []
  w     : Table Word := []
  pc    : Nat := 0
  npc   : Nat := 0
  outs  : List CStep := []
  stop  : Bool := false
  rodw  : Option RodWaiter := none
deriving DecidableEq, Repr, Inhabited

/-- A request waiting in the request table (R410). -/
structure CReqEntry where
  ctx : Nat := 0
  tbl : Nat := 0
  pkt : Packet := default
deriving DecidableEq, Repr, Inhabited

/-- STATE of a link port (R395). -/
inductive PortSt where
  | down | training | up
deriving DecidableEq, Repr, Inhabited

/-- One flit of the replay buffer (R393, R394): its sequence number, bytes 0 to 55 and kind, how often it has been
replayed, and the packet that ends in it, with its maker where a pass made it and the tick at which it came to the port. -/
structure TxFlit where
  seq   : Nat := 0
  body  : BitVec 448 := 0
  fk    : Nat := 0
  tries : Nat := 0
  pkt   : Option Packet := none
  who   : Option Origin := none
  since : Nat := 0
deriving DecidableEq, Repr, Inhabited

/-- One Abnal Link port (R393–R396). `rx` holds the flits of the packet being received, `sent` the flits put on
the wire and not yet taken by the far end. -/
structure LinkPort where
  st      : PortSt := .down
  replay  : BitVec 32 := 0
  crcerr  : BitVec 32 := 0
  drops   : BitVec 32 := 0
  lost    : BitVec 32 := 0
  tx      : List TxFlit := []
  nextSeq : Nat := 0
  expSeq  : Nat := 0
  ackTick : Nat := 0
  tries   : Nat := 0
  rx      : List (BitVec 448) := []
  rxTick  : Nat := 0
  wire    : List (BitVec 512) := []
  queue   : List (Packet × Nat × Option Origin) := []
deriving DecidableEq, Repr, Inhabited

/-- An open fault (R271, R387): what it holds is found on the firings and streams that name its key; `fid` is 0 until
the record has been queued. -/
structure OpenFid where
  key   : Nat := 0
  fid   : BitVec 32 := 0
  ctx   : Nat := 0
  inst  : Nat := 0
  cause : Nat := 0
  page  : Nat := 0
deriving DecidableEq, Repr, Inhabited

/-- The lock matrix, threshold and TIDN of one context as this die's block shows them, kept on die 0 (R376). -/
structure LockCfg where
  matrix : BitVec 36 := 0x100450CF
  esc    : BitVec 6 := 32
  tidn   : BitVec 21 := 0
deriving DecidableEq, Repr, Inhabited

/-- The service units of a die. -/
structure DieUnits where
  rods   : Table Rod := []
  grods  : Table Rod := []
  watch  : Table Watch := []
  groups : Table Group := []
  pool   : Pool := {}
  kslots : Table (Option Nat) := []
  det    : Detector := {}
  spill  : Nat := 0
  walk   : Walker := {}
  rk     : Reckoner := {}
deriving DecidableEq, Repr, Inhabited

/-- One compute die beside its engines. -/
structure Die where
  core   : CoreState := {}
  trapq  : List Record := []
  fidNext : Nat := 1
  fids   : List OpenFid := []
  u      : DieUnits := {}
  progs  : Table (Option CProg) := []
  reqs   : List CReqEntry := []
  ports  : Table LinkPort := []
deriving DecidableEq, Repr, Inhabited

end Sys2Proof.Machine
end

