-- ==== Sys2Proof/Machine/PackageState.lean ====
section
/-!
DEFINITION. The state of the package beside its dies: contexts (R279), process-group tables (R400), queues (R292),
kernels and instances (R305–R309), collectives in progress (R420), routing (R392), remote operations (R253),
the host block (R446) and the Root Core (R450, R451).
-/
namespace Sys2Proof.Machine

/-- STATE of a context (R279). -/
inductive CtxSt where
  | free | ready | running | draining | stopped | tearing
deriving DecidableEq, Repr, Inhabited

/-- A process-group table (R400); `live` are the generations running, `retired` the tick at which each
generation value last retired (R420). -/
structure Pgt where
  v     : Bool := false
  own   : Nat := 0
  n     : Nat := 0
  gkey  : BitVec 32 := 0
  base  : BitVec 48 := 0
  gen   : BitVec 16 := 0
  tmo   : BitVec 32 := 0
  tmode : Nat := 0
  tbase : Word := 0
  tlen  : BitVec 32 := 0
  tpos  : BitVec 32 := 0
  live  : List Nat := []
  retired : Table Nat := []
deriving DecidableEq, Repr, Inhabited

/-- The vault window of a context on one die (R279). -/
structure VWin where
  cnt   : Nat := 0
  first : Nat := 0
deriving DecidableEq, Repr, Inhabited

/-- The words 2 to 8 and 14 of a context block (R279). -/
structure CtxRegs where
  root    : BitVec 32 := 0
  quantum : BitVec 32 := 0
  hdead   : BitVec 32 := 0
  hentry  : Word := 0
  ovbase  : Word := 0
  ovsize  : BitVec 32 := 0
  dshb    : BitVec 48 := 0
  seed    : Word := 0
  age     : Word := 0
  win     : Table VWin := []
  pcnt    : Nat := 0
  pfirst  : Nat := 0
  savea   : Word := 0
deriving DecidableEq, Repr, Inhabited

/-- A context (R279, R282, R283): block, state, the ticks its quantum and deadline started, whether a RUN or a
scheduler's RUN is waiting, the tick since which it waits for a turn, the lock configuration (R376) and the
process-group tables (R400). `hardReq` marks a hard stop in progress (R285); `pausedAt` is the tick at which it last left
RUNNING (R423); `torn` is set from the end of a tear-down to the next allocation (R290); `acq` is the moment of the latest acquire at
PACKAGE or SYSTEM scope that an agent made for the context (R230). -/
structure Ctx where
  r       : CtxRegs := {}
  st      : CtxSt := .free
  hv      : Bool := false
  prio    : Nat := 0
  rstd    : BitVec 4 := 0
  snapd   : BitVec 4 := 0
  hards   : Bool := false
  svalid  : Bool := false
  qStart  : Nat := 0
  hStart  : Option Nat := none
  hardReq : Bool := false
  runReq  : Bool := false
  next    : Option Nat := none
  since   : Nat := 0
  pausedAt : Nat := 0
  torn    : Bool := false
  acq     : Nat := 0
  lk      : LockCfg := {}
  pgts    : Table Pgt := []
deriving DecidableEq, Repr, Inhabited

/-- STATE of a queue (R292). -/
inductive QueueSt where
  | disabled | idle | ready | waiting | halted
deriving DecidableEq, Repr, Inhabited

/-- A command queue (R292); `unfin` are the indices of started commands that have not completed (R296), `after` the messages in
flight that a FENCE follows though their commands have completed (R300). -/
structure Queue where
  devq  : Bool := false
  ctx   : Nat := 0
  prio  : Nat := 0
  st    : QueueSt := .disabled
  base  : Word := 0
  log2n : Nat := 0
  head  : BitVec 32 := 0
  tail  : BitVec 32 := 0
  ecode : Nat := 0
  eidx  : BitVec 32 := 0
  unfin : List Nat := []
  after : List Nat := []
  rodw  : Option RodWaiter := none
deriving DecidableEq, Repr, Inhabited

/-- STATE of a kernel (R309). -/
inductive KernelSt where
  | image | placed | armed | running | draining | quiesced | faulted | purging
deriving DecidableEq, Repr, Inhabited

/-- What a LAUNCH gives its instance (R295, R303, R194): command, rods and attributes; `trigIds` is the trigger add on its way. -/
structure Launch where
  queue  : Option (Nat × Nat) := none
  tag    : Nat := 0
  seq    : Word := 0
  dual   : Nat := 0
  pgtm   : BitVec 8 := 0
  crod   : Option Word := none
  cadd   : BitVec 32 := 0
  trod   : Option Word := none
  tadd   : BitVec 32 := 0
  scope  : Nat := 0
  trigDone : Bool := false
  trigIds : List Nat := []
deriving DecidableEq, Repr, Inhabited

/-- A frame, operator, output-list or body range that a kernel owns: unit (engine 0–287, or 288 + die for the
pool), first index and count. -/
structure TRange where
  unit  : Nat := 0
  first : Nat := 0
  cnt   : Nat := 0
deriving DecidableEq, Repr, Inhabited

/-- Where a kernel's tables lie (R306–R308): the placement of its image engines (as global engines), the dies that have loaded,
their kernel slots, what it owns, and its initial tokens. -/
structure Placement where
  map    : List (Nat × Nat) := []
  dremap : List Nat := []
  loaded : BitVec 4 := 0
  slots  : List (Nat × Nat) := []
  frames : List (Nat × Nat) := []
  ops    : List (Nat × Nat) := []
  ols    : List TRange := []
  bodies : List TRange := []
  inject : List (Nat × Token) := []
deriving DecidableEq, Repr, Inhabited

/-- A kernel and its current instance (R305, R309). -/
structure Kernel where
  used   : Bool := false
  kid    : BitVec 16 := 0
  ctx    : Nat := 0
  dmask  : BitVec 4 := 0
  st     : KernelSt := .image
  inst   : Nat := 0
  nexit  : BitVec 32 := 0
  exits  : BitVec 32 := 0
  left   : BitVec 32 := 0
  fids   : BitVec 32 := 0
  last   : Nat := 0
  place  : Placement := {}
  launch : Launch := {}
deriving DecidableEq, Repr, Inhabited

/-- A reservation of a device-queue entry (R302): the engine and firing that asked, and whether it is granted. -/
structure Reservation where
  ctx     : Nat := 0
  eng     : Nat := 0
  uid     : Nat := 0
  granted : Bool := false
deriving DecidableEq, Repr, Inhabited

/-- A COPY in progress (R296). -/
structure CopyStream where
  n     : Nat := 0
  id    : Nat := 0
  queue : Nat × Nat := (0, 0)
  tag   : Nat := 0
  ctx   : Nat := 0
  src   : Word := 0
  dst   : Word := 0
  rod   : Option Word := none
  cadd  : BitVec 32 := 0
  scope : Nat := 0
  todo  : List Nat := []
  phase : StreamPhase := .running
  deps  : List Nat := []
deriving DecidableEq, Repr, Inhabited

/-- A COLL in progress (R296, R420). -/
structure Coll where
  queue : Nat × Nat := (0, 0)
  tag   : Nat := 0
  ctx   : Nat := 0
  tbl   : Nat := 0
  gen   : Nat := 0
  mask  : BitVec 4 := 0
  ended : BitVec 4 := 0
  rod   : Option Word := none
  cadd  : BitVec 32 := 0
  scope : Nat := 0
deriving DecidableEq, Repr, Inhabited

/-- An abort of a generation that this rank has forwarded and not yet answered (R423); `early` is set while the generation has not
started here. -/
structure AbortWait where
  ctx    : Nat := 0
  tbl    : Nat := 0
  gen    : Nat := 0
  reason : Nat := 0
  det    : Nat := 0
  toward : Option Nat := none
  await  : List Nat := []
  start  : Nat := 0
  recs   : List Record := []
  done   : Bool := false
  early  : Bool := false
deriving DecidableEq, Repr, Inhabited

/-- A remote operation of a pass that has not been acknowledged (R253–R255); `plane` is set for a run of a tangent plane (R388). -/
structure RemoteOp where
  id     : Nat := 0
  tag    : Nat := 0
  node   : Nat := 0
  kind   : BitVec 8 := 0
  left   : Nat := 1
  who    : Origin := default
  reply  : Option Reply := none
  rod    : Option Word := none
  plane  : Bool := false
deriving DecidableEq, Repr, Inhabited

/-- The command processor (R292, R296, R299, R302, R420). -/
structure Cp where
  queues  : Table Queue := []
  last    : Table Nat := []
  lastAt  : Option Nat := none
  resv    : List Reservation := []
  kernels : Table Kernel := []
  copies  : List CopyStream := []
  colls   : List Coll := []
  aborts  : List AbortWait := []
deriving DecidableEq, Repr, Inhabited

/-- A virtual function's binding (R446). -/
structure VfBind where
  en  : Bool := false
  ctx : Nat := 0
deriving DecidableEq, Repr, Inhabited

/-- The host block (R446), MSI-X vectors fired (R448) and the answers given to the host and the management
controller, newest first. -/
structure HostBlock where
  apmode : Bool := false
  aplog2 : Nat := 30
  apbase : BitVec 48 := 0
  apctx  : Nat := 0
  vf     : Table VfBind := []
  cacnt  : BitVec 32 := 0
  msix   : Table Nat := []
  out    : List (List Byte) := []
  pre    : List PreByte := []
deriving DecidableEq, Repr, Inhabited

/-- NODEID and the routing table (R392), and the remote operations awaiting their answers (R253). `routes` keeps
V and PORT of each byte. -/
structure Net where
  nodeid  : BitVec 16 := 0
  routes  : Table (BitVec 8) := []
  remotes : List RemoteOp := []
deriving DecidableEq, Repr, Inhabited

/-- BSTATE (R450). -/
inductive BootSt where
  | rom | waitimg | verify | running | failed | frozen
deriving DecidableEq, Repr, Inhabited

/-- An entry of the error log (R451). -/
structure LogEntry where
  word0  : Word := 0
  tick   : Word := 0
  detail : Word := 0
  src    : Word := 0
deriving DecidableEq, Repr, Inhabited

/-- The Root Core (R450–R458). `digest` is the image prehash of the last boot, `winStart` the tick at which the
power window began, `divAt` the tick at which replay began to wait for its next decision, `capDie` the entries of each
die that replay has imposed. -/
structure Root where
  berr    : Nat := 0
  bstate  : BootSt := .rom
  imgaddr : BitVec 48 := 0
  imglen  : BitVec 32 := 0
  capbase : BitVec 48 := 0
  caplen  : BitVec 32 := 0
  cappos  : BitVec 32 := 0
  div     : Bool := false
  cmode   : Nat := 0
  pcap    : BitVec 16 := 3000
  overCap : Bool := false
  mult    : Nat := 32
  halt    : BitVec 4 := 0
  log     : List LogEntry := []
  digest  : List Byte := []
  winStart : Nat := 0
  divAt   : Table Nat := []
  capDie  : Table Nat := []
  patches : List Byte := []
  fixes   : Nat := 0
deriving DecidableEq, Repr, Inhabited

/-- The package clock: the tick counter (R13), the count of arithmetic cycles and the fraction of a cycle carried
over, in 32nds (R3, R458). `came` are the requests that units have taken in this cycle, where the spec orders those of one cycle:
what takes them, its number, the request's rank (R275, R302, R310, R324, R329, R333). -/
structure Clock where
  tick : Word := 0
  cyc  : Nat := 0
  frac : Nat := 0
  came : List (Nat × Nat × Nat) := []
deriving DecidableEq, Repr, Inhabited

end Sys2Proof.Machine
end

