-- ==== Sys2Proof/Machine/State.lean ====
section
/-!
DEFINITION. The state of the package, the reasons a step can stop, and the state after reset.
-/
namespace Sys2Proof.Machine

/-- A message in flight inside the package (R21, R225, R226): the event that its arrival is, and the ids of the
messages, streams and remote operations that it follows. -/
structure Msg where
  id   : Nat
  deps : List Nat
  ev   : Instr
deriving DecidableEq, Repr, Inhabited

/-- What a debug instrument reads of a frozen package (R449): bytes of a memory, a register of control space, or a register of a core, its
PC above the 32 of them. -/
inductive Probe where
  | mem (home len : Nat)
  | reg (off : Nat)
  | core (d n : Nat)
deriving DecidableEq, Repr, Inhabited

/-- Which agent moves next: one tick of the clock, the arrival of message n of `pend`, a step of a unit or an
input from outside, a word of a pass, of a control core, of a sequencer program, the loss of STC entry n of a die
(R384), the capture of a constant-path chunk for a unit, or the choice of captured chunk `n` of a die over the others (R230), bytes of the 64 from a memory word on that a pass or a core (engine 288 + die) reads
ahead of a load or of a tile line, or the host (unit 292) of an access that is not one, or the walker of
die `e` − 293 for an agent that is neither (R171, R223, R225, R226, R385), or the walk of the stream in slot `slot` − 2 of an engine before it ends (R385), a write of the host to its own memory (R220), the
negotiation of the aperture's size (R445), an MSI-X vector that the firmware writes (R448), a reading of an instrument (R449), an uncorrectable error in the 8-byte word `w` of memory or a
corrected one in any SRAM word, an uncorrectable error that is read in slot `n` of a matching store (of an engine, or of the pool
of die `e` − 288), or in another SRAM word of a unit, whose data belongs to a context or, above 63, to none (R454; log entry
113). -/
inductive Move where
  | clock
  | deliver (n : Nat)
  | occur (i : Instr)
  | engine (e slot : Nat)
  | core (d : Nat)
  | seq (d k : Nat)
  | evict (d n : Nat)
  | constFill (unit chunk : Nat)
  | early (e slot w mask : Nat)
  | constPick (d n : Nat)
  | hostStore (a : Nat) (bytes : List Byte)
  | barSize (n : Nat)
  | vector (v : Nat)
  | probe (p : Probe)
  | eccFail (w : Nat)
  | eccFix (w : Nat)
  | eccSlot (e n : Nat)
  | eccUnit (d unit ctx w : Nat)
deriving DecidableEq, Repr, Inhabited

/-- Why a step stops with a fault. -/
inductive Fault where
  /-- A move of the schedule names an agent that the package does not have (an engine above 287, a die above 3, a unit above 291,
  a sequencer slot above 7). Safe: no such agent exists, so no behaviour of the part is lost. -/
  | noSuchAgent
deriving DecidableEq, Repr, Inhabited

/-- Why a step stops with a refusal. -/
inductive Refusal where
  /-- The instruction has no meaning in the model. Safe: nothing is claimed of it. -/
  | notModelled (mnemonic : String)
deriving DecidableEq, Repr, Inhabited

/-- A release, or a store behind a FENCE, that has gone ahead of effects ordered before it, as an observer outside its scope may see
it (R222): its message, the bytes or the rod that show it, its scope code, who made it, the effects that it goes ahead of. An observer
within the scope waits for those. -/
structure Soft where
  id    : Nat
  keys  : List Nat
  scope : Nat
  who   : Origin
  deps  : List Nat
deriving DecidableEq, Repr, Inhabited

/-- The package. `arr` is the number of the message that arrived last, and `relay` says of a token that a link port has passed on under
a new number with which one it set out (R324). `held` are the collective packets that wait in the receive buffers for their context, with its number and
the tick since which they wait (R287). -/
structure State where
  mem    : List Host.Cell := []
  ecc    : List Nat := []
  clock  : Clock := {}
  dies   : Table Die := []
  eng    : Table Engine := []
  ctxs   : Table Ctx := []
  cp     : Cp := {}
  net    : Net := {}
  host   : HostBlock := {}
  root   : Root := {}
  pend   : List Msg := []
  held   : List (Nat × Nat × Instr) := []
  soft   : List Soft := []
  cur    : Agent := .core 0
  sched  : List Move := []
  choices : Nat := 0
  free   : Nat := 0
  nextId : Nat := 1
  arr    : Nat := 0
  relay  : List (Nat × Nat) := []
deriving DecidableEq, Repr, Inhabited

/-- The package right after reset (R6, R279, R292, R309, R321, R328, R338, R345, R376, R390, R392, R395, R400, R446,
R450): every register at its reset value, memory with nothing listed, the reset release on its way (R452). -/
def State.reset : State := { pend := [⟨0, [], .resetRelease⟩] }

end Sys2Proof.Machine
end

