-- ==== Sys2Proof/Config.lean ====
section
/-!
DEFINITION. What the spec leaves open or leaves to an implementation: free values, as constants without a body.
-/
namespace Sys2Proof
open Sys2Proof.Machine

/-- Which agent moves next when the schedule in the state is empty (R18, R21, R225): a free value of the count of
choices made. Log entry 1. -/
opaque Config.nextMove : Nat → Move

/-- A fresh 64-bit value where the spec states no result: a free value of the count of values drawn. Log entry 1. -/
opaque Config.freeWord : Nat → Word

/-- SHAKE256 with the given output length in bytes (R451, R453): a standard the spec names and does not restate.
Log entry 4. -/
opaque Config.shake256 : List Byte → Nat → List Byte

/-- Whether an Ed448ph signature over a prehash verifies under Tlaevo's firmware key (R451), which is in the Root Core
ROM and is not in the spec. Log entry 4. -/
opaque Config.firmwareSigOk : List Byte → List Byte → Bool

/-- The contents of the Root Core ROM, whose digest a report holds (R453). Log entry 4. -/
opaque Config.romImage : List Byte

/-- The PUF response of this package (R453). Log entry 4. -/
opaque Config.pufResponse : List Byte

/-- The public half of the Ed448 identity key derived from a secret (R453). Log entry 4. -/
opaque Config.ed448Public : List Byte → List Byte

/-- The Ed448 signature of a message under the identity key derived from a secret (R453). Log entry 4. -/
opaque Config.ed448Sign : List Byte → List Byte → List Byte

/-- The class code of a capture entry (R456), for the classes 0 host write, 1 packet arrival, 2 pool dispatch, 3 ARRIVAL
combine, 4 lock grant: the spec gives none. Log entry 43. -/
opaque Config.captureClass : Nat → BitVec 8

/-- The 16 bytes by which a capture entry identifies an outcome (R456), of the class and the numbers that describe it: the
spec gives no layout. Log entry 43. -/
opaque Config.captureId : Nat → List Nat → BitVec 128

/-- STRM of the record of a remote operation that fails at a peer (R388 names no value for a link port). Log entry 44. -/
opaque Config.linkStrm : BitVec 8

/-- The physical location that DETAIL of an ECC record holds (R454), of the home of the byte, or of a number for another SRAM word:
the spec gives no layout. Log entry 113. -/
opaque Config.eccPlace : Nat → Word

/-- The source code of an error-log entry (R451) for a kind of failure, 0 an aperture request, 1 a corrected
error: the spec gives no codes. Log entry 48. -/
opaque Config.logSource : Nat → Word

/-- DETAIL of the error-log entry of a failed host request (R447, R451), of the cause and the offset: the spec states none. Log
entry 48. -/
opaque Config.hostDetail : Nat → Nat → Word

/-- How many streams the command processor's copy engines have beside the first (R297 names no number). Log entry 108. -/
opaque Config.moreCopies : Nat

/-- Where control space shows the tables that every agent may read (R25, R36, R44), of an offset at which the spec names no register: the
table (0 the frame table, 1 the output list, 2 + w word w of the operator table), the unit (an engine, or 288 + die for the pool of a
die) and the entry. The spec gives no addresses for them. Log entry 119. -/
opaque Config.tableAt : Nat → Option (Nat × Nat × Nat)

/-- The sensor values that the Root Core reads at a tick (R449). Log entry 5. -/
opaque Config.sensors : Word → List Byte

/-- The answer to an MCTP control message (R449), whose content the spec leaves to the MCTP standard. Log entry 5. -/
opaque Config.mctpReply : List Byte → List Byte

end Sys2Proof
end

