-- ==== Sys2Proof/Machine/Table.lean ====
section
/-!
DEFINITION. Sparse tables: entries by rising key. `get` reads an absent key as the default; `set` keeps the canonical
form, in which no entry holds the default; `put` keeps every entry it is given.
-/
namespace Sys2Proof.Machine

/-- The entry of key `k`, or `d`. -/
def tget {α : Type} (d : α) (t : Table α) (k : Nat) : α :=
  match t with
  | [] => d
  | (j, v) :: r => if j = k then v else tget d r k

/-- The table with `v` at key `k`. -/
def tput {α : Type} (t : Table α) (k : Nat) (v : α) : Table α :=
  match t with
  | [] => [(k, v)]
  | (j, u) :: r =>
    if j < k then (j, u) :: tput r k v
    else if j = k then (k, v) :: r
    else (k, v) :: (j, u) :: r

/-- The table without key `k`. -/
def tdel {α : Type} (t : Table α) (k : Nat) : Table α :=
  match t with
  | [] => []
  | (j, u) :: r => if j = k then tdel r k else (j, u) :: tdel r k

/-- The table with `v` at key `k`, listing nothing where `v` is the default. -/
def tset {α : Type} [DecidableEq α] (d : α) (t : Table α) (k : Nat) (v : α) : Table α :=
  if v = d then tdel t k else tput t k v

/-- Keys rise strictly from above `lo`, and no entry is the default. -/
def twfFrom {α : Type} [DecidableEq α] (d : α) (lo : Nat) : Table α → Bool
  | [] => true
  | (j, v) :: r => decide (lo ≤ j) && decide (v ≠ d) && twfFrom d (j + 1) r

/-- The canonical form of a table with default `d`. -/
def twf {α : Type} [DecidableEq α] (d : α) (t : Table α) : Bool := twfFrom d 0 t

/-- The values at keys `k`, `k + 1`, …, `n` of them. -/
def tgets {α : Type} (d : α) (t : Table α) (k : Nat) : Nat → List α
  | 0 => []
  | n + 1 => tget d t k :: tgets d t (k + 1) n

/-- The table with a list of values at keys `k`, `k + 1`, …. -/
def tsets {α : Type} [DecidableEq α] (d : α) (t : Table α) (k : Nat) : List α → Table α
  | [] => t
  | v :: r => tsets d (tset d t k v) (k + 1) r

/-- The first element of a list that `p` picks, replaced by `f`; the list unchanged where none is. -/
def modifyFirst {α : Type} (p : α → Bool) (f : α → α) : List α → List α
  | [] => []
  | a :: r => if p a then f a :: r else a :: modifyFirst p f r

/-- Insert before the first element that `lt` puts after `a`. -/
def insertBy {α : Type} (lt : α → α → Bool) (a : α) : List α → List α
  | [] => [a]
  | b :: r => if lt a b then a :: b :: r else b :: insertBy lt a r

/-- The first element that no other precedes under `lt`, if the list is not empty. -/
def pickMin {α : Type} (lt : α → α → Bool) : List α → Option α
  | [] => none
  | a :: r =>
    match pickMin lt r with
    | none => some a
    | some b => if lt b a then some b else some a

end Sys2Proof.Machine
end

