-- ==== Sys2Proof/Machine/Ops.lean ====
section
/-!
DEFINITION. The named operations over the state that every family uses: access to the units, memory by home, tokens
(R22), messages, trap records (R273–R275), faults of instances, taking an exception of a control core (R277), the
delivery of a record (R276) and the return from both (R278).
-/
namespace Sys2Proof.Machine

/-! ## Units -/

/-- Engine `e`, 0 to 287 (R8). -/
def State.engine (s : State) (e : Nat) : Engine := tget {} s.eng e
/-- The state with engine `e` replaced. -/
def State.setEngine (s : State) (e : Nat) (x : Engine) : State := { s with eng := tput s.eng e x }
/-- Die `d`, 0 to 3 (R7). -/
def State.die (s : State) (d : Nat) : Die := tget {} s.dies d
/-- The state with die `d` replaced. -/
def State.setDie (s : State) (d : Nat) (x : Die) : State := { s with dies := tput s.dies d x }
/-- Context `c`, 0 to 63 (R279). -/
def State.ctx (s : State) (c : Nat) : Ctx := tget {} s.ctxs c
/-- The state with context `c` replaced. -/
def State.setCtx (s : State) (c : Nat) (x : Ctx) : State := { s with ctxs := tput s.ctxs c x }
/-- The control core of die `d` (R257). -/
def State.core (s : State) (d : Nat) : CoreState := (s.die d).core
/-- The state with the control core of die `d` replaced. -/
def State.setCore (s : State) (d : Nat) (c : CoreState) : State := s.setDie d { s.die d with core := c }
/-- The service units of die `d` (R10). -/
def State.units (s : State) (d : Nat) : DieUnits := (s.die d).u
/-- The state with the service units of die `d` replaced. -/
def State.setUnits (s : State) (d : Nat) (u : DieUnits) : State := s.setDie d { s.die d with u := u }
/-- A context that is being torn down or has been since its last allocation: its tokens are dropped silently (R290). -/
def Ctx.isTorn (x : Ctx) : Bool := x.st == .tearing || (x.st == .free && x.torn)
/-- Kernel number `k` of the command processor's table (R305). -/
def State.kernel (s : State) (k : Nat) : Kernel := tget {} s.cp.kernels k
/-- The state with kernel `k` replaced. -/
def State.setKernel (s : State) (k : Nat) (x : Kernel) : State :=
  { s with cp := { s.cp with kernels := tput s.cp.kernels k x } }
/-- Queue `q` (R292). -/
def State.queue (s : State) (q : Nat) : Queue := tget {} s.cp.queues q
/-- The state with queue `q` replaced. -/
def State.setQueue (s : State) (q : Nat) (x : Queue) : State :=
  { s with cp := { s.cp with queues := tput s.cp.queues q x } }
/-- Process-group table `t` of context `c` (R400). -/
def State.pgt (s : State) (c t : Nat) : Pgt := tget {} (s.ctx c).pgts t
/-- The state with a process-group table replaced. -/
def State.setPgt (s : State) (c t : Nat) (x : Pgt) : State :=
  s.setCtx c { s.ctx c with pgts := tput (s.ctx c).pgts t x }
/-- Group block `g` of die `d` (R328). -/
def State.group (s : State) (d g : Nat) : Group := tget {} (s.units d).groups g
/-- The state with a group block replaced. -/
def State.setGroup (s : State) (d g : Nat) (x : Group) : State :=
  s.setUnits d { s.units d with groups := tput (s.units d).groups g x }
/-- The pool of die `d` (R335). -/
def State.pool (s : State) (d : Nat) : Pool := (s.units d).pool
/-- The state with the pool of die `d` replaced. -/
def State.setPool (s : State) (d : Nat) (p : Pool) : State := s.setUnits d { s.units d with pool := p }
/-- The Lock Reckoner of die `d` (R363). -/
def State.reckoner (s : State) (d : Nat) : Reckoner := (s.units d).rk
/-- The state with the Lock Reckoner of die `d` replaced. -/
def State.setReckoner (s : State) (d : Nat) (r : Reckoner) : State := s.setUnits d { s.units d with rk := r }
/-- Program slot `k` of the sequencer of die `d` (R406). -/
def State.prog (s : State) (d k : Nat) : Option CProg := tget none (s.die d).progs k
/-- The state with a sequencer slot replaced. -/
def State.setProg (s : State) (d k : Nat) (p : Option CProg) : State :=
  s.setDie d { s.die d with progs := tset none (s.die d).progs k p }
/-- Link port `i` of die `d` (R395). -/
def State.port (s : State) (d i : Nat) : LinkPort := tget {} (s.die d).ports i
/-- The state with a link port replaced. -/
def State.setPort (s : State) (d i : Nat) (p : LinkPort) : State :=
  s.setDie d { s.die d with ports := tput (s.die d).ports i p }

/-- The issue slot of class `sl`: 0 matrix, 1 vector/stream (R53). -/
def Engine.slot (x : Engine) (sl : Nat) : IssueSlot := if sl = 0 then x.mat else x.vec
/-- The engine with an issue slot replaced. -/
def Engine.setSlot (x : Engine) (sl : Nat) (y : IssueSlot) : Engine :=
  if sl = 0 then { x with mat := y } else { x with vec := y }
/-- The firing in slot `sl` of engine `e`, with its open pass. -/
def State.active (s : State) (e sl : Nat) : Option Active := ((s.engine e).slot sl).act
/-- The state with the firing of a slot replaced. -/
def State.setActive (s : State) (e sl : Nat) (a : Option Active) : State :=
  let x := s.engine e
  s.setEngine e (x.setSlot sl { x.slot sl with act := a })

/-- Run `f` over a list of numbers, threading the state. -/
def State.each (s : State) (l : List Nat) (f : Nat → State → State) : State :=
  l.foldl (fun t n => f n t) s

/-! ## Time and free values -/

/-- The tick counter (R13). -/
def State.tick (s : State) : Word := s.clock.tick

/-- A fresh free value and the state after drawing it (log entry 1). -/
def State.drawFree (s : State) : Word × State := (Config.freeWord s.free, { s with free := s.free + 1 })

/-! ## Memory by home. A home is one number: HBM byte a is a; host byte a is 2^48 + a; byte o of vault v of die d is
2^49 + (72d + v) 2^22 + o; scratch byte o of engine e is 2^50 + e 2^20 + o. -/

/-- Home of an HBM byte (R14). -/
def hbmHome (a : Nat) : Nat := a
/-- The HBM stack of a physical address (R14). -/
def hbmStack (a : Nat) : Nat := a / 2 ^ 12 % 8
/-- The die whose stacks hold a physical HBM address (R14). -/
def hbmDie (a : Nat) : Nat := hbmStack a / 2
/-- Home of a host-memory byte (R216). -/
def hostHome (a : Nat) : Nat := 2 ^ 48 + a
/-- Home of a vault byte (R10). -/
def vaultHome (d v off : Nat) : Nat := 2 ^ 49 + (72 * d + v) * 2 ^ 22 + off
/-- Home of a scratch byte of a global engine (R9). -/
def scratchHome (e off : Nat) : Nat := 2 ^ 50 + e * 2 ^ 20 + off
/-- Whether a home is scratch, and of which engine. -/
def homeEngine (h : Nat) : Option Nat := if 2 ^ 50 ≤ h then some ((h - 2 ^ 50) / 2 ^ 20) else none

/-- The die at which an access to a home acts (R14, R234): the owner of its HBM stack, vault or engine, and die 0 for the host port. -/
def homeDie (h : Nat) : Nat :=
  if h < 2 ^ 48 then hbmDie h
  else if h < 2 ^ 49 then 0
  else if h < 2 ^ 50 then (h - 2 ^ 49) / 2 ^ 22 / 72
  else (h - 2 ^ 50) / 2 ^ 20 / 72

/-- What an unlisted byte of memory reads as (log entry 2). -/
def memDefault : Byte := 0

/-- The byte at a home. -/
def State.rdByte (s : State) (h : Nat) : Byte := tget memDefault s.mem h
/-- The bytes at a home and after it. -/
def State.rdBytes (s : State) (h n : Nat) : List Byte := tgets memDefault s.mem h n
/-- The state with bytes written at a home and after it; a word that was faulty is good again (R454). -/
def State.wrBytes (s : State) (h : Nat) (bs : List Byte) : State :=
  { s with mem := tsets memDefault s.mem h bs
           ecc := s.ecc.filter fun w => decide (w * 8 + 8 ≤ h) || decide (h + bs.length ≤ w * 8) }

/-- The unsigned value of bytes, little-endian (R1). -/
def leNat (bs : List Byte) : Nat := bs.foldr (fun b n => b.toNat + 256 * n) 0
/-- `n` bytes of a value, little-endian (R1). -/
def leBytes (n v : Nat) : List Byte := (List.range n).map fun i => BitVec.ofNat 8 (v / 256 ^ i)
/-- The 64-bit word at a home. -/
def State.rdWord (s : State) (h : Nat) : Word := BitVec.ofNat 64 (leNat (s.rdBytes h 8))
/-- The state with a 64-bit word written at a home. -/
def State.wrWord (s : State) (h : Nat) (v : Word) : State := s.wrBytes h (leBytes 8 v.toNat)
/-- Whether a read of bytes meets an uncorrectable error (R454). -/
def State.eccAt (s : State) (h n : Nat) : Bool :=
  s.ecc.any fun w => decide (w * 8 < h + n) && decide (h < w * 8 + 8)

/-! ## Bit fields -/

/-- Bits [lo + n − 1 : lo] of a word as a number (R1). -/
def fld {w : Nat} (x : BitVec w) (lo n : Nat) : Nat := (x.extractLsb' lo n).toNat
/-- A number placed at bit `lo`, `n` bits wide, in a 64-bit word. -/
def put (lo n v : Nat) : Word := BitVec.ofNat 64 ((v % 2 ^ n) * 2 ^ lo)
/-- A word with bits [lo + n − 1 : lo] replaced. -/
def setField (d : Word) (lo n v : Nat) : Word := (d &&& ~~~ put lo n (2 ^ n - 1)) ||| put lo n v
/-- 1 for true. -/
def b2n (b : Bool) : Nat := if b then 1 else 0

/-! ## Tokens (R22) -/

def tokDie (t : Token) : Nat := fld t 126 2
def tokUnit (t : Token) : Nat := fld t 118 8
def tokOp (t : Token) : Nat := fld t 108 8
def tokPort (t : Token) : Nat := fld t 106 2
def tokCol (t : Token) : Nat := fld t 94 12
def tokRun (t : Token) : Nat := fld t 88 5
def tokFrame (t : Token) : Nat := fld t 78 10
def tokE (t : Token) : Bool := t.getLsbD 77
def tokN (t : Token) : Bool := t.getLsbD 76
def tokS (t : Token) : Bool := t.getLsbD 75
def tokD (t : Token) : Bool := t.getLsbD 74
def tokQ (t : Token) : Bool := t.getLsbD 73
def tokO (t : Token) : Bool := t.getLsbD 72
def tokCtx (t : Token) : Nat := fld t 66 6
def tokPay (t : Token) : Word := t.extractLsb' 0 64

/-- The fields of a token, reserved bits 0 (R22, R24). -/
structure TokF where
  die   : Nat := 0
  unit  : Nat := 0
  op    : Nat := 0
  port  : Nat := 0
  col   : Nat := 0
  run   : Nat := 0
  frame : Nat := 0
  e     : Bool := false
  n     : Bool := false
  s     : Bool := false
  d     : Bool := false
  q     : Bool := false
  o     : Bool := false
  ctx   : Nat := 0
  pay   : Word := 0
deriving DecidableEq, Repr, Inhabited

/-- The token with the given fields (R22). -/
def TokF.mk128 (f : TokF) : Token :=
  (BitVec.ofNat 2 f.die ++ BitVec.ofNat 8 f.unit ++ 0#2 ++ BitVec.ofNat 8 f.op ++ BitVec.ofNat 2 f.port ++
    BitVec.ofNat 12 f.col ++ 0#1 ++ BitVec.ofNat 5 f.run ++ BitVec.ofNat 10 f.frame ++ BitVec.ofBool f.e ++
    BitVec.ofBool f.n ++ BitVec.ofBool f.s ++ BitVec.ofBool f.d ++ BitVec.ofBool f.q ++ BitVec.ofBool f.o ++
    BitVec.ofNat 6 f.ctx ++ 0#2 ++ f.pay).setWidth 128

/-- The fields of a token; reserved bits are ignored (R24). -/
def tokFields (t : Token) : TokF where
  die := tokDie t
  unit := tokUnit t
  op := tokOp t
  port := tokPort t
  col := tokCol t
  run := tokRun t
  frame := tokFrame t
  e := tokE t
  n := tokN t
  s := tokS t
  d := tokD t
  q := tokQ t
  o := tokO t
  ctx := tokCtx t
  pay := tokPay t

/-- The token with another first colour and run length minus one. -/
def tokWithRun (t : Token) (col run : Nat) : Token := { tokFields t with col := col, run := run }.mk128

/-- Whether R23 names the unit. -/
def unitOk (u : Nat) : Bool :=
  decide (u ≤ 71) || (decide (128 ≤ u) && decide (u ≤ 199)) || (decide (224 ≤ u) && decide (u ≤ 227)) ||
    u == 240 || u == 248 || u == 252

/-- Whether a token is a credit return (R47). -/
def tokCredit (t : Token) : Bool := tokQ t && fld (tokPay t) 62 2 == 2

/-- Colours of a token, in order (R22). -/
def tokCols (t : Token) : List Nat := (List.range (tokRun t + 1)).map fun i => (tokCol t + i) % 4096

/-! ## Messages in flight -/

/-- Put a message in flight behind the ids it follows (R225, R226). What is in flight leaves in any order that its ids allow: the
write-combining buffers and the posted queues of R231 are among it, with the host port's order that in which writes reach the host. -/
def State.postDep (s : State) (deps : List Nat) (ev : Instr) : State :=
  { s with pend := s.pend ++ [⟨s.nextId, deps, ev⟩], nextId := s.nextId + 1 }
/-- Put a message in flight. -/
def State.post (s : State) (ev : Instr) : State := s.postDep [] ev
/-- Bytes go on their way to homes, those of each `g` bytes of memory by themselves (R223). -/
def State.postPieces (s : State) (deps : List Nat) (g : Nat) (hs : List Nat) (bs : List Byte) (who : Origin) : State :=
  (hs.map (· / g)).eraseDups.foldl (fun t k =>
    let mine := (hs.zip bs).filter fun x => x.1 / g == k
    t.postDep deps (.accessAtHome ⟨mine.map (·.1), .store (mine.map (·.2)), 0, who, none⟩)) s
/-- Whether nothing in flight bears the id: no message, stream, remote operation. -/
def State.idDone (s : State) (n : Nat) : Bool :=
  s.pend.all (fun m => m.id != n) &&
  s.eng.all (fun (_, x) => x.streams.all fun st => st.id != n) &&
  s.cp.copies.all (fun c => c.id != n) &&
  s.net.remotes.all (fun r => r.id != n)
/-- The ids that a state has given out since an earlier one. -/
def State.idsSince (t s : State) : List Nat := (List.range (t.nextId - s.nextId)).map (s.nextId + ·)
/-- The context of an access that has been translated and is on its way to its home in memory. -/
def accessCtx : Instr → Option Nat
  | .accessAtHome a => if (homeEngine (a.homes.headD 0)).isNone then some a.who.ctx else none
  | .rodAddArrival a => if fld a.ref 62 2 = 3 then some a.who.ctx else none
  | _ => none
/-- Whether a held effect makes an access that has been translated: to memory, or to a memory rod at once or as a stream completes. -/
def Effect.paged : Effect → Bool
  | .access a => (homeEngine (a.homes.headD 0)).isNone
  | .rodAdd r => fld r.ref 62 2 == 3
  | .stream q => q.rod.any fun r => fld r 62 2 == 3
  | _ => false
/-- The accesses of the contexts that `p` picks which have been translated and have not taken effect (R391): those on their way, and the
completion adds of streams to memory rods. -/
def State.translated (s : State) (p : Nat → Bool) : List Nat :=
  ((s.pend.filter fun m => (accessCtx m.ev).any p).map (·.id)) ++
  s.eng.flatMap fun (_, x) =>
    (x.streams.filter fun y => p y.who.ctx && y.q.rod.any fun r => fld r 62 2 == 3).map (·.id)
/-- The open passes, as engine and number, that hold such an access until they commit (R391). -/
def State.holding (s : State) (p : Nat → Bool) : List (Nat × Nat) :=
  s.eng.flatMap fun (e, x) =>
    ((x.mat.act.toList ++ x.vec.act.toList ++ x.susp ++ x.ready).filter fun a => p a.fr.ctx && a.pass.b.held.any fun h => h.eff.paged).map
      fun a => (e, a.fr.uid)
/-- The walkers that wait for a stream wait for the adds made at its end, those of the numbers from `n` on (R391). -/
def State.awaitMore (s : State) (id n : Nat) : State :=
  let ids := (List.range (s.nextId - n)).map (n + ·)
  s.each (s.dies.map (·.1)) fun d t =>
    let u := t.units d
    if u.walk.await.contains id then t.setUnits d { u with walk := { u.walk with await := u.walk.await ++ ids } } else t
/-- The walkers that wait for an open pass wait, from its commit on, for what it has let go (R391). -/
def State.awaitPass (s : State) (e uid : Nat) (ids : List Nat) : State :=
  let mine := (s.translated fun _ => true).filter ids.contains
  s.each (s.dies.map (·.1)) fun d t =>
    let u := t.units d
    if u.walk.opens.contains (e, uid) then
      t.setUnits d { u with walk := { u.walk with await := u.walk.await ++ mine, opens := u.walk.opens.erase (e, uid) } }
    else t
/-- The walker of a die has removed entries of the contexts that `p` picks: it waits for what has been translated through them (R391). -/
def State.awaitUsers (s : State) (d : Nat) (p : Nat → Bool) : State :=
  let u := s.units d
  s.setUnits d { u with walk := { u.walk with
    await := u.walk.await ++ s.translated p, opens := u.walk.opens ++ s.holding p } }
/-- The number with which a message set out (R324). -/
def State.bornAs (s : State) (n : Nat) : Nat := ((s.relay.find? fun x => x.1 == n).map (·.2)).getD n
/-- The token that arrived last goes on under the numbers that `t` has given out: they stand for its own (R324). -/
def State.relayed (s t : State) : State :=
  { t with relay := (t.relay.filter fun x => t.pend.any fun m => m.id == x.1) ++ (t.idsSince s).map fun n => (n, s.bornAs s.arr) }
/-- Whether a message may arrive now. -/
def State.depsDone (s : State) (deps : List Nat) : Bool := deps.all s.idDone

/-! ## Trap records (R273, R274) -/

def cDouble : Nat := 0x01
def cSpill : Nat := 0x02
def cScaletag : Nat := 0x03
def cDesc : Nat := 0x04
def cXlate : Nat := 0x05
def cPerm : Nat := 0x06
def cWound : Nat := 0x07
def cLocktab : Nat := 0x08
def cRodovf : Nat := 0x09
def cStall : Nat := 0x0A
def cCabort : Nat := 0x0B
def cLinkerr : Nat := 0x0C
def cEcc : Nat := 0x0D
def cIllegal : Nat := 0x0E
def cPriv : Nat := 0x0F
def cSnap : Nat := 0x10
def cWindow : Nat := 0x11
def cRagged : Nat := 0x12
def cCommit : Nat := 0x13
def cSysatom : Nat := 0x14
def cBadpath : Nat := 0x15
def cFrame : Nat := 0x16

/-- Whether a record of the cause may go to a context's handler: column User of R273. -/
def userCause (c : Nat) : Bool := c != cLinkerr && c != cEcc && c != cSnap
/-- Whether the cause makes its instance FAULTED: column Instance of R273. -/
def faultsInstance (c : Nat) : Bool := c != cWound && c != cStall && c != cCabort && c != cSnap

/-- The eight words of a record, TREC0 to TREC7 (R274). -/
def Record.words (r : Record) : List Word :=
  [ put 56 8 r.cause.toNat ||| put 50 6 (r.ctx.getD 0) ||| put 42 8 (r.inst.getD 0) ||| put 40 2 r.die |||
      put 32 8 r.unit ||| put 24 8 r.op ||| put 12 12 r.col ||| put 11 1 (b2n r.ctx.isSome) |||
      put 10 1 (b2n r.inst.isSome) ||| put 9 1 (b2n r.key.isSome) ||| put 8 1 (b2n r.tok.isSome),
    r.fid.setWidth 64, r.addr, r.detail,
    ((r.tok.getD 0).extractLsb' 64 64), ((r.tok.getD 0).extractLsb' 0 64), r.tick, 0 ]

/-- A record of a cause met by `who` now, with ADDR, DETAIL and token. -/
def State.record (s : State) (cause : Nat) (who : Origin) (addr detail : Word) (tok : Option Token) : Record where
  cause := BitVec.ofNat 8 cause
  ctx := if who.ctx < 64 then some who.ctx else none
  inst := who.inst
  die := who.die
  unit := who.unit
  op := who.op
  col := who.col
  key := none
  fid := 0
  addr := addr
  detail := detail
  tok := tok
  tick := s.tick

/-- The kernel whose current instance is `inst` of context `c`, in a state from RUNNING onward (R309, R310). -/
def State.instKernel (s : State) (c inst : Nat) : Option Nat :=
  (s.cp.kernels.find? fun (_, k) => k.used && k.ctx == c && k.inst == inst &&
    (k.st != .image && k.st != .placed && k.st != .armed)).map (·.1)

/-- A fault of the instance is detected: RUNNING and DRAINING become FAULTED, every other state stays (R310). -/
def State.faultInst (s : State) (c inst : Nat) : State :=
  match s.instKernel c inst with
  | none => s
  | some k =>
    let x := s.kernel k
    if x.st = .running ∨ x.st = .draining then s.setKernel k { x with st := .faulted } else s

/-- Send a record to the core of die `d`, and mark the instance it names FAULTED where R273 says so. -/
def State.raise (s : State) (d : Nat) (r : Record) : State :=
  let s1 := match r.ctx, r.inst with
    | some c, some i => if faultsInstance r.cause.toNat then s.faultInst c i else s
    | _, _ => s
  s1.post (.trapRecordEnqueue d r)

/-- Report a cause met by `who` at the core of die `d`. -/
def State.report (s : State) (d cause : Nat) (who : Origin) (addr detail : Word) (tok : Option Token) : State :=
  s.raise d (s.record cause who addr detail tok)

/-- Open a fault that holds a firing or a stream (R271, R387), with the 64 KiB page of the failing address: its key, and the state, in which FIDS counts it. -/
def State.openFault (s : State) (d c inst cause page : Nat) : Nat × State :=
  let key := s.nextId
  let x := s.die d
  let s1 := { s with nextId := key + 1 }.setDie d
    { x with fids := x.fids ++ [(⟨key, 0, c, inst, cause, page⟩ : OpenFid)] }
  (key, match s1.instKernel c inst with
    | none => s1
    | some k => let y := s1.kernel k; s1.setKernel k { y with fids := y.fids + 1 })

/-- Close an open fault (R271): FIDS counts it no more. -/
def State.closeFault (s : State) (d key : Nat) : State :=
  let x := s.die d
  match x.fids.find? (fun f => f.key == key) with
  | none => s
  | some f =>
    let s1 := s.setDie d { x with fids := x.fids.filter fun g => g.key != key }
    match s1.instKernel f.ctx f.inst with
    | none => s1
    | some k => let y := s1.kernel k; s1.setKernel k { y with fids := y.fids - 1 }

/-- The effects in flight of the agents that `p` picks: stores, rod adds, shipped accesses and remote operations. -/
def State.effectIds (s : State) (p : Origin → Bool) : List Nat :=
  (s.pend.filterMap fun m => match m.ev with
    | .accessAtHome a => if p a.who then some m.id else none
    | .windowAccessArrival a => if p a.who then some m.id else none
    | .rodAddArrival a => if p a.who then some m.id else none
    | _ => none) ++ (s.net.remotes.filter fun r => p r.who).map (·.id)
/-- Command `i` of queue `q` has completed; a FENCE after it still follows the messages `ids` (R296, R300). -/
def State.commandDone (s : State) (q i : Nat) (ids : List Nat) : State :=
  let x := s.queue q
  s.setQueue q { x with unfin := x.unfin.filter (· != i), after := (x.after.filter fun n => !s.idDone n) ++ ids }

/-- An event of R319 of context `c` on die `d`: the detector's counter restarts. -/
def State.touch (s : State) (d c : Nat) : State :=
  let u := s.units d
  s.setUnits d { u with det := { u.det with
    cnt := tset 0 u.det.cnt c 0, rep := u.det.rep.filter (· != c) } }

/-- Set EVT.PEND of a core (R260): a doorbell of the Root Core or the command processor. -/
def State.ring (s : State) (d : Nat) : State :=
  let c := s.core d
  s.setCore d { c with csr := { c.csr with pend := true } }

/-! ## Root Core reports -/

/-- The package is frozen (R455). -/
def State.isFrozen (s : State) : Bool := s.root.bstate == .frozen

/-- Fire an MSI-X vector (R448). -/
def State.fireMsix (s : State) (v : Nat) : State :=
  { s with host := { s.host with msix := tset 0 s.host.msix v (tget 0 s.host.msix v + 1) } }
/-- Append an entry to the error log, a ring of 256 entries (R451); vector 0 fires (R448). -/
def State.logError (s : State) (w0 detail src : Word) : State :=
  let l := s.root.log ++ [(⟨w0, s.tick, detail, src⟩ : LogEntry)]
  { s with root := { s.root with log := l.drop (l.length - 256) } }.fireMsix 0

/-! ## Capture and replay (R456, R457) -/

/-- A capture entry: class, die and unit, the tick, what identifies the outcome. -/
def State.captureEntry (s : State) (cls die unit : Nat) (what : List Nat) : List Byte :=
  leBytes 8 ((Config.captureClass cls).toNat + die % 4 * 256 + unit % 256 * 1024) ++ leBytes 8 s.tick.toNat ++
    leBytes 16 (Config.captureId cls what).toNat
/-- The bytes of entry `i` of the capture buffer. -/
def State.capEntryAt (s : State) (i : Nat) : List Byte := s.rdBytes (hbmHome (s.root.capbase.toNat + 32 * i)) 32
/-- The die that an entry names. -/
def entryDie (b : List Byte) : Nat := (b.getD 1 0).toNat % 4
/-- The next entry that replay imposes on a die, if the log has one. -/
def State.nextEntry (s : State) (d : Nat) : Option (List Byte) :=
  (((List.range s.root.caplen.toNat).map s.capEntryAt).filter fun b => entryDie b == d)[tget 0 s.root.capDie d]?

/-! ## Exceptions of a control core (R276–R278) -/

/-- PC holds a multiple of 8 (R257): an address that is loaded into it from a CSR or a context block loses its low bits. -/
def pcOf (a : Word) : Word := a &&& ~~~ 7

/-- EST and XST layout (R260, R276). -/
def CoreCsr.status (c : CoreCsr) : Word := put 8 7 c.cctx ||| put 1 1 (b2n c.mode) ||| put 0 1 (b2n c.ie)
/-- `restore(x)` of R278. -/
def CoreCsr.restore (c : CoreCsr) (x : Word) : CoreCsr :=
  { c with mode := x.getLsbD 1, ie := x.getLsbD 0, cctx := fld x 8 7 }

/-- A core halts (R277): it executes nothing more, HALT shows it (R450), vector 1 fires (R448). -/
def State.haltCore (s : State) (d : Nat) : State :=
  let c := s.core d
  let s1 := s.setCore d { c with halted := true }
  { s1 with root := { s1.root with halt := s1.root.halt ||| BitVec.ofNat 4 (2 ^ d) } }.fireMsix 1

/-- A synchronous exception (R277): `pc` is the address to save, `xc` the value of XCAUSE. -/
def State.exception (s : State) (d : Nat) (pc xc val : Word) : State :=
  let c := s.core d
  if c.csr.xbusy then s.haltCore d
  else
    let csr := { c.csr with xpc := pc, xst := c.csr.status, xcause := xc, xval := val,
                            xbusy := true, ie := false, mode := true }
    let s1 := s.setCore d { c with csr := csr, wfe := false, step := none, rodw := none, busy := none, held := none, img := none }
    if csr.sxvec = 0 then s1.haltCore d
    else s1.setCore d { s1.core d with pc := pcOf csr.sxvec }

/-- The exception of a faulting word: it has no other effect, and XPC is its address (R277). -/
def State.coreFault (s : State) (d cause : Nat) (val : Word) : State :=
  s.exception d (s.core d).pc (BitVec.ofNat 64 cause) val

/-- The return from an exception or a record (R278); `w` is the word, for the exception where neither is handled. -/
def State.eret (s : State) (d : Nat) (w : Word) : State :=
  let x := s.die d
  let c := x.core
  if c.csr.mode = false ∧ c.csr.ebusy = false then s.coreFault d cIllegal w
  else if c.csr.xbusy then
    s.setCore d { c with pc := pcOf c.csr.xpc, csr := { c.csr.restore c.csr.xst with xbusy := false } }
  else if c.csr.ebusy then
    s.setDie d { x with trapq := x.trapq.drop 1, core :=
      { c with pc := pcOf c.csr.epc, htEnd := none, csr := { c.csr.restore c.csr.est with ebusy := false } } }
  else s.coreFault d cIllegal w

/-- The delivery of the oldest record (R276). -/
def State.deliverRecord (s : State) (d : Nat) : State :=
  let x := s.die d
  let c := x.core
  match x.trapq with
  | [] => s
  | r :: _ =>
    let user := match r.ctx with
      | some n => userCause r.cause.toNat && (s.ctx n).hv && (s.ctx n).st != .tearing
      | none => false
    if user = false ∧ c.csr.stvec = 0 then s.haltCore d
    else
      let csr := { c.csr with epc := c.pc, est := c.csr.status, ebusy := true, ie := false,
                              trec := tsets 0 c.csr.trec 0 r.words }
      if user then
        let n := r.ctx.getD 0
        s.setCore d { c with pc := pcOf (s.ctx n).r.hentry, wfe := false, rodw := none,
                             htEnd := if c.csr.htmo = (0 : Word) then none else some (s.tick.toNat + c.csr.htmo.toNat), csr := { csr with mode := false, cctx := n } }
      else
        s.setCore d { c with pc := pcOf csr.stvec, wfe := false, rodw := none,
                             csr := { csr with mode := true, cctx := r.ctx.getD 64 } }

/-! ## Bytes read ahead -/

/-- Bytes as a load returns them: those of `live`, or those read ahead at an earlier moment, an aligned access all at one moment (R223,
R225, R226). -/
def earlyBytes (pre : List PreByte) (aligned : Bool) (hs : List Nat) (live : List Byte) : List Byte :=
  let got := hs.map fun h => pre.find? fun x => x.home == h
  if aligned then
    match got.head? with
    | some (some x) => if got.all fun y => y.any fun z => z.t0 == x.t0 then got.map fun y => (y.getD {}).b else live
    | _ => live
  else (got.zip live).map fun (y, b) => (y.map (·.b)).getD b

end Sys2Proof.Machine
end

