-- ==== Sys2Proof/Machine/Registers.lean ====
section
/-!
DEFINITION. The map of control space (R6, R216): where the registers of every block lie, which of their bits are not reserved, and
what a write from outside that sets a reserved bit meets.
-/
namespace Sys2Proof.Machine

/-- A register of control space: the block, its unit numbers and the word. -/
inductive CtlReg where
  | ctx (c w : Nat)
  | queue (q w : Nat)
  | kernel (d slot w : Nat)
  | det (d w : Nat)
  | group (d g w : Nat)
  | pool (d w : Nat)
  | rod (d n w : Nat)
  | grod (d n w : Nat)
  | watch (d u w : Nat)
  | lock (d w : Nat)
  | walker (d w : Nat)
  | port (d i w : Nat)
  | nodeid
  | routes (n : Nat)
  | pgt (c t w : Nat)
  | host (w : Nat)
  | root (w : Nat)
  | frame (u n : Nat)
  | outRef (e n : Nat)
  | oper (e n w : Nat)
deriving DecidableEq, Repr, Inhabited

/-- The register at an offset of a block of dies: the die and the offset in its part of `size` bytes. -/
def dieBlock (o size : Nat) (k : Nat → Nat → Option CtlReg) : Option CtlReg :=
  if o < 4 * size then k (o / size) (o % size) else none

/-- The register of 8 bytes at a control-space offset (R279, R292, R309, R321, R328, R338, R345, R376, R390, R392, R395, R400,
R446, R450); none where the spec names no offset. -/
def blockReg (off : Nat) : Option CtlReg :=
  let o := off % 0x100000
  match off / 0x100000 with
  | 1 => if o < 0x2000 then some (.ctx (o / 128) (o % 128 / 8)) else none
  | 2 => if o < 0x4000 then some (.queue (o / 64) (o % 64 / 8)) else none
  | 3 => dieBlock o 0x2000 fun d p =>
      if p < 0x400 then some (.kernel d (p / 32) (p % 32 / 8))
      else if 0x1000 ≤ p ∧ p < 0x1000 + 8 * 65 then some (.det d ((p - 0x1000) / 8))
      else none
  | 4 => dieBlock o 0x2000 fun d p =>
      if p < 32 * 72 then some (.group d (p / 32) (p % 32 / 8))
      else if 0x1000 ≤ p ∧ p < 0x1020 then some (.pool d ((p - 0x1000) / 8))
      else none
  | 5 => dieBlock o 0x4000 fun d p =>
      if p < 0x1000 then some (.rod d (p / 16) (p % 16 / 8))
      else if p < 0x1400 then some (.grod d ((p - 0x1000) / 16) (p % 16 / 8))
      else if p < 0x1600 then some (.watch d ((p - 0x1400) / 16) (p % 16 / 8))
      else none
  | 6 => dieBlock o 0x2000 fun d p => if p < 8 * 136 then some (.lock d (p / 8)) else none
  | 7 => dieBlock o 0x2000 fun d p => if p < 32 then some (.walker d (p / 8)) else none
  | 8 => dieBlock o 0x2000 fun d p => if p < 256 then some (.port d (p / 64) (p % 64 / 8)) else none
  | 9 => if o < 8 then some .nodeid else if 0x10000 ≤ o ∧ o < 0x20000 then some (.routes ((o - 0x10000) / 8 * 8)) else none
  | 10 => if o < 0x10000 then some (.pgt (o / 0x400) (o % 0x400 / 0x80) (o % 0x80 / 8)) else none
  | 11 => if o < 8 * 20 then some (.host (o / 8)) else none
  | 12 => if o < 80 then some (.root (o / 8)) else none
  | _ => none

/-- The entry of a frame table, an output list or an operator table that an offset shows (R25, R36, R44; log entry 119). -/
def tableReg (off : Nat) : Option CtlReg :=
  match Config.tableAt off with
  | some (0, u, n) => if u < 292 ∧ n < 1024 then some (.frame u n) else none
  | some (1, e, n) => if e < 288 ∧ n < 1024 then some (.outRef e n) else none
  | some (w + 2, e, n) => if e < 288 ∧ n < 256 ∧ w < 16 then some (.oper e n w) else none
  | none => none

/-- The register of 8 bytes at a control-space offset; none where there is none. -/
def ctlReg (off : Nat) : Option CtlReg :=
  match blockReg off with
  | some r => some r
  | none => tableReg off

/-! ## Reserved bits (R6) -/

/-- The bits of a register that are not reserved. -/
def CtlReg.used : CtlReg → Word
  | .ctx _ w => (match w with
    | 0 => 0xFF7 | 1 => 0x0000FFFFFFFF0000 | 2 => BitVec.allOnes 64 | 3 => BitVec.allOnes 64 | 4 => BitVec.allOnes 64
    | 5 => 0xFFFFFFFF | 6 => 0x0000FFFFFFFFFFFF | 7 => BitVec.allOnes 64 | 8 => BitVec.allOnes 64 | 13 => 0x0FFFFFFF
    | 14 => BitVec.allOnes 64 | 15 => 0xFF3 | _ => 0x7F7F)
  | .queue _ w => (match w with
    | 0 => 0xFFF77 | 1 => BitVec.allOnes 64 | 2 => 0x1F | 3 => 0xFFFFFFFF | 4 => 0xFFFFFFFF | 5 => 0xFFFFFFFFFF | _ => 0)
  | .kernel _ _ w => (match w with | 0 => 0xFFFFFF3F000000FF | 1 => BitVec.allOnes 64 | 2 => BitVec.allOnes 64 | _ => 3)
  | .det _ w => if w = 0 then 0x7F else 0x3FFFFFFFFFF
  | .group _ _ w => (match w with | 0 => 0xF3F07 | 1 => 0x3FFF | 2 => 0xFF1F | _ => 0)
  | .pool _ w => (match w with | 0 => 0xFFFFFFFF | 1 => 0xFFFF | _ => 0)
  | .rod _ _ w => if w = 0 then BitVec.allOnes 64 else 0x7FFF
  | .grod _ _ w => if w = 0 then BitVec.allOnes 64 else 0x7FFF
  | .watch _ _ w => if w = 0 then 0x803FFFFFFFFFFFF8 else BitVec.allOnes 64
  | .lock d w =>
    if w = 0 then 0x1FFFF else if w = 1 then BitVec.allOnes 64 else if w = 2 then 0xF3F else if w = 3 then 0xFFFFFFFF
    else if d ≠ 0 ∨ w < 8 then 0 else if w < 72 then 0x7FFFFFF else 0xFFFFFFFFF
  | .walker _ w => (match w with | 0 => 0xF83 | 1 => 0x003FFFFFFFFF0000 | 2 => 0xFFFFFFFF | _ => 1)
  | .port _ _ w => (match w with | 0 => 0xF03 | 1 => BitVec.allOnes 64 | 2 => BitVec.allOnes 64 | _ => 0)
  | .nodeid => 0xFFFF
  | .routes _ => 0x8F8F8F8F8F8F8F8F
  | .pgt _ _ w => (match w with
    | 0 => 0x8FFF1FFFFFFFFFFF | 1 => 0x0000FFFFFFFFFFFF | 2 => 0x0000FFFFFFFFFFFF | 3 => 3 | 4 => BitVec.allOnes 64
    | 5 => 0xFFFFFFFF | 6 => 0xFFFFFFFF | _ => 0)
  | .host w => if w = 0 then 0x13F else if w = 1 then 0x0000FFFFFFFFFFFF else if w = 2 then 0x3F
    else if w ≤ 18 then 0xBF else 0xFFFFFFFF
  | .root w => (match w with
    | 0 => 0xFF07 | 1 => 0x0000FFFFFFFFFFFF | 2 => 0xFFFFFFFF | 3 => 0xFF | 4 => 0x0000FFFFFFFFFFFF | 5 => 0xFFFFFFFF
    | 6 => 0xFFFFFFFF00000007 | 7 => 0xFFFF | 8 => 0x23F | _ => 0xF)
  | .frame _ _ => BitVec.allOnes 64
  | .outRef _ _ => BitVec.allOnes 64
  | .oper _ _ w => (match w with
    | 8 => 0xFFFFFFFFFFFFFF00 | 9 => 0xFFFFFFFFFFFFFFC0 | 10 => 0xFFFFFFFFFFC00000 | 13 => 0 | 14 => 0 | 15 => 0
    | _ => BitVec.allOnes 64)

/-- Whether a write to an offset sets a reserved bit, or any bit where no register is (R6). -/
def ctlReserved (off : Nat) (v : Word) : Bool :=
  v != 0 && match ctlReg off with
    | some r => v &&& ~~~ r.used != 0
    | none => true

/-! ## Writes from outside -/

/-- Whose the bytes of a posted write are while they are on their way: unit 253 stands for the host port, which has no unit number. -/
def State.hostWho (s : State) : Origin := ⟨if s.host.apmode then s.host.apctx else 64, none, 0, 253, 0, 0⟩

/-- A request of the host fails: CACNT and the error log count it (R447, R451). -/
def State.hostCount (s : State) (cause off : Nat) : State :=
  let h := s.host
  let n := if h.cacnt = BitVec.allOnes 32 then h.cacnt else h.cacnt + 1
  { s with host := { h with cacnt := n } }.logError 0 (Config.hostDetail cause off) (Config.logSource 0)

/-- A write of a register from outside: one that sets a reserved bit is dropped and counted as a failed request of cause ILLEGAL
(R6; log 125), any other does what `k` says. -/
def State.regEvent (s : State) (off : Nat) (v : Word) (k : State) : State :=
  if ctlReserved off v then s.hostCount cIllegal off else k

/-- Offset of a word of a context's block (R279), of a queue's (R292), of a group's (R328), of a Reckoner's (R376) and of a
walker's (R390). -/
def ctxOff (c w : Nat) : Nat := 0x100000 + 128 * c + 8 * w
def queueOff (q w : Nat) : Nat := 0x200000 + 64 * q + 8 * w
def groupOff (d g w : Nat) : Nat := 0x400000 + 0x2000 * d + 32 * g + 8 * w
def lockOff (d w : Nat) : Nat := 0x600000 + 0x2000 * d + 8 * w
def walkerOff (d w : Nat) : Nat := 0x700000 + 0x2000 * d + 8 * w
/-- Offset of a word of a link port's block (R395) and of the Root Core's (R450). -/
def portOff (d i w : Nat) : Nat := 0x800000 + 0x2000 * d + 64 * i + 8 * w
def rootOff (w : Nat) : Nat := 0xC00000 + 8 * w

/-- The offset and the value of the register write that a row of the table is, where it comes about by itself: the host's (R445, R456). -/
def outsideWrite : Instr → Option (Nat × Word)
  | .contextAlloc c v | .contextSoft c v | .contextHard c v | .contextRelease c v | .contextRun c v | .contextTear c v =>
    some (ctxOff c 0, v)
  | .contextRootWrite c v => some (ctxOff c 1, v)
  | .groupReserve d g v | .groupFree d g v => some (groupOff d g 0, v)
  | .queueEnable q v | .queueDisable q v | .queueFlush q v => some (queueOff q 0, v)
  | .queueTailWrite q v => some (queueOff q 4, v)
  | .reckonerRelall d v => some (lockOff d 2, v)
  | .walkerInv d v => some (walkerOff d 0, v)
  | .linkTrain d i => some (portOff d i 0, put 8 4 1)
  | .linkDown d i => some (portOff d i 0, put 8 4 2)
  | .boot => some (rootOff 3, 1)
  | .capture => some (rootOff 3, 3)
  | .replay => some (rootOff 3, 4)
  | .capstop => some (rootOff 3, 5)
  | _ => none

end Sys2Proof.Machine
end

