-- ==== Sys2Proof/Machine/Address.lean ====
section
/-!
DEFINITION. Addresses and translation: the paths and their checks (R216–R219), groups and members (R325), the page
walk (R377–R382) with the second-level cache (R384), and the homes that an access reaches (R220).
-/
namespace Sys2Proof.Machine

/-- The agents that make accesses, as R216 lists them. -/
inductive Accessor where
  | engine (e : Nat)
  | core (d : Nat)
  | seq (d : Nat)
  | cp
  | link (d : Nat)
deriving DecidableEq, Repr, Inhabited

/-- The die on which an accessor sits. -/
def Accessor.die : Accessor → Nat
  | .engine e => e / 72
  | .core d => d
  | .seq d => d
  | .cp => 0
  | .link d => d

/-- What an access is, with the codes of ACC in DETAIL (R388). -/
inductive AccKind where
  | load | store | atomic | sread | swrite | fetch | remote
deriving DecidableEq, Repr, Inhabited

/-- ACC of R388. -/
def AccKind.code : AccKind → Nat
  | .load => 0 | .store => 1 | .atomic => 2 | .sread => 3 | .swrite => 4 | .fetch => 5 | .remote => 6

/-- Why an access fails: the cause, the address and DETAIL. -/
structure Failure where
  cause  : Nat
  addr   : Word
  detail : Word
deriving DecidableEq, Repr, Inhabited

/-- Path code of an address (R216). -/
def addrPath (a : Word) : Nat := fld a 60 4
/-- The cause of an access on a path that the accessor may not use: PRIV on path 0xF, else BADPATH (R216; log 13). -/
def pathCause (by_ : Accessor) (a : Word) : Nat :=
  match by_ with
  | .core _ => cBadpath
  | _ => if addrPath a = 0xF then cPriv else cBadpath
/-- Bits [47:0] of an address. -/
def addrVa (a : Word) : Nat := fld a 0 48

/-- The zero bits and the number ranges of R216 hold. -/
def fieldsOk (a : Word) : Bool :=
  match addrPath a with
  | 0x0 => fld a 48 12 == 0
  | 0x1 => fld a 48 12 == 0
  | 0x2 => fld a 48 12 == 0
  | 0x3 => true
  | 0x8 => fld a 29 31 == 0 && decide (fld a 22 7 < 72)
  | 0x9 => fld a 31 29 == 0 && decide (fld a 22 7 < 72)
  | 0xA => fld a 20 40 == 0 && decide (fld a 0 20 < 786432)
  | 0xB => fld a 24 36 == 0 && decide (fld a 0 20 < 786432)
  | 0xF => true
  | _ => false

/-- Whether the agent may use the path: the last column of R216, path 0xF apart. -/
def pathAccepted : Accessor → Nat → Bool
  | .engine _, p => p ∈ [0x0, 0x1, 0x2, 0x3, 0x8, 0x9, 0xA, 0xB]
  | .core _, p => p ∈ [0x0, 0x1, 0x2, 0x8, 0x9]
  | .seq _, p => p ∈ [0x0, 0x3, 0x9]
  | .cp, p => p ∈ [0x0, 0x2]
  | .link _, p => p ∈ [0x0]

/-! ## Groups (R325, R326) -/

/-- NMEM engines of the rectangle of a group on die `d`, in member order, as global engine numbers (R325). -/
def groupMembers (d : Nat) (g : Group) : List Nat :=
  let rows := g.rm1 + 1
  let cols := g.cm1 + 1
  (List.range (rows * cols)).map fun m =>
    72 * d + 8 * (g.origin / 8 + m / cols) + (g.origin % 8 + m % cols)

/-- Whether the shape and origin obey R325. -/
def groupShapeOk (g : Group) : Bool :=
  let rows := g.rm1 + 1
  let cols := g.cm1 + 1
  decide (rows ≤ 9) && decide (cols ≤ 8) && (rows * cols) ∈ [1, 2, 4, 6, 8, 9, 12, 16] &&
    decide (g.origin < 72) && decide (g.origin / 8 + rows ≤ 9) && decide (g.origin % 8 + cols ≤ 8)

/-- Whether the group holds its engines: RESERVED or ACTIVE (R326). -/
def Group.holds (g : Group) : Bool := g.st == .reserved || g.st == .active

/-- The group that holds engine `e`, and the engine's member number in it. -/
def State.groupOf (s : State) (e : Nat) : Option (Nat × Nat) :=
  let d := e / 72
  ((s.units d).groups.filterMap fun (g, x) =>
    if x.holds then
      let m := (groupMembers d x).idxOf e
      if m < (groupMembers d x).length then some (g, m) else none
    else none).head?

/-- Whether engine `e` is being cleared for a new holder (R289). -/
def State.clearing (s : State) (e : Nat) : Bool :=
  match s.groupOf e with
  | some (g, _) => (s.group (e / 72) g).clear.isSome
  | none => false

/-! ## Scopes (R221) -/

/-- The agent that made an effect, as its unit number names it (R23). -/
def Origin.party (w : Origin) : Accessor :=
  if w.unit < 72 then .engine (72 * w.die + w.unit)
  else if 224 ≤ w.unit ∧ w.unit ≤ 227 then .link w.die
  else if w.unit = 240 then .core w.die
  else if w.unit = 252 then .cp
  else .seq w.die

/-- Whether a scope of party `a` includes agent `b` (R221): of an engine, ENGINE is the engine with its streams and GROUP the members of
its group; of any other party both mean DIE. -/
def State.inScope (s : State) (sc : Nat) (a b : Accessor) : Bool :=
  let onDie := b != .cp && a.die == b.die
  a == b || decide (3 ≤ sc) ||
  match a with
  | .engine e =>
    (match sc with
     | 0 => false
     | 1 => (match b with
       | .engine f => onDie && (s.groupOf e).isSome && (s.groupOf e).map (·.1) == (s.groupOf f).map (·.1)
       | _ => false)
     | _ => onDie)
  | _ => onDie

/-- The bytes at homes, as what an observer reads (R222). -/
def byteKeys (hs : List Nat) : List Nat := hs.map (2 ^ 64 + ·)

/-- A release, or a store behind a FENCE, goes ahead of effects that come before it within a scope narrower than SYSTEM (R222). -/
def State.noteSoft (s : State) (id : Nat) (keys : List Nat) (who : Origin) (scope : Nat) (deps : List Nat) : State :=
  if deps = [] then s
  else { s with soft := (s.soft.filter fun x => !s.depsDone x.deps) ++ [⟨id, keys, scope, who, deps⟩] }

/-- The effects that an agent must see before anything it does after reading `keys`: those that come before a release or store that it
may have read, where the scope of that includes the agent and, for an acquire, the acquire's scope includes its maker (R222, R227). -/
def State.seen (s : State) (b : Accessor) (acq : Nat) (keys : List Nat) : List Nat :=
  (s.soft.filter fun x => x.keys.any keys.contains && s.idDone x.id && s.inScope x.scope x.who.party b &&
    (acq == 0 || s.inScope (acq - 1) b x.who.party)).flatMap fun x => x.deps.filter fun n => !s.idDone n

/-- The engine that is member `m` of group `g` of die `d`, when the group has it. -/
def State.member (s : State) (d g m : Nat) : Option Nat := (groupMembers d (s.group d g))[m]?

/-! ## The page walk (R378–R381) -/

/-- The 64-bit entry at a physical HBM address (R378): as it is now, or as the walk has read it at an earlier moment (R385). -/
def State.pte (s : State) (pre : List PreByte) (a : Nat) : Word :=
  if pre = [] then s.rdWord (hbmHome a)
  else
    let h := hbmHome a
    BitVec.ofNat 64 (leNat (earlyBytes pre true ((List.range 8).map (h + ·)) (s.rdBytes h 8)))

/-- Whether the read of the entry meets an uncorrectable error (R454). -/
def State.pteBad (s : State) (pre : List PreByte) (a : Nat) : Bool :=
  s.eccAt (hbmHome a) 8 && !((List.range 8).all fun i => pre.any fun x => x.home == hbmHome a + i)

/-- A leaf entry turned into a translation, after the checks of R380 and R381. -/
def leafTrans (e : Word) (home va log : Nat) : Option Nat × Trans :=
  let pfn := fld e 16 32
  let frame := if log = 16 then pfn else if log = 21 then pfn / 32 * 32 else pfn
  let t : Trans := { pte := home, base := va / 2 ^ log * 2 ^ log, log := log, pa := frame * 65536,
                     host := e.getLsbD 9, r := e.getLsbD 1, w := e.getLsbD 2, a := e.getLsbD 3,
                     sa := e.getLsbD 4, ro := e.getLsbD 5, d := e.getLsbD 6 }
  let bad := fld e 48 16 != 0 || fld e 10 6 != 0 ||
    (log == 29 && pfn % 8192 != 0) || (log == 21 && pfn % 32 != (va / 65536) % 32)
  if bad then (some 4, t)
  else if t.host = false ∧ pfn / 2 ^ 23 ≠ 0 then (some 5, t)
  else (none, t)

/-- The walk of a virtual address from a root frame (R380): a translation, or the level and reason of R388; 16 and the address of an entry
stand for an uncorrectable error met there (R454). `pre` is what the walk has read of memory before this moment (R385). -/
def State.walk (s : State) (root va : Nat) (pre : List PreByte := []) : Except (Nat × Nat) Trans :=
  if 2 ^ 23 ≤ root then .error (0, 5)
  else
    let h1 := root * 65536 + 8 * (va / 2 ^ 42 % 64)
    let e1 := s.pte pre h1
    if s.pteBad pre h1 then .error (1, 16 + h1)
    else if e1.getLsbD 0 = false then .error (1, 1)
    else if 2 ^ 23 ≤ fld e1 16 32 then .error (1, 5)
    else
      let h2 := fld e1 16 32 * 65536 + 8 * (va / 2 ^ 29 % 8192)
      let e2 := s.pte pre h2
      if s.pteBad pre h2 then .error (2, 16 + h2)
      else if e2.getLsbD 0 = false then .error (2, 2)
      else if e2.getLsbD 8 then
        match leafTrans e2 h2 va 29 with
        | (some r, _) => .error (2, r)
        | (none, t) => .ok t
      else if 2 ^ 23 ≤ fld e2 16 32 then .error (2, 5)
      else
        let h3 := fld e2 16 32 * 65536 + 8 * (va / 2 ^ 16 % 8192)
        let e3 := s.pte pre h3
        if s.pteBad pre h3 then .error (3, 16 + h3)
        else if e3.getLsbD 0 = false then .error (3, 3)
        else
          match leafTrans e3 h3 va (if e3.getLsbD 7 then 21 else 16) with
          | (some r, _) => .error (3, r)
          | (none, t) => .ok t

/-- Whether a translation maps a virtual address. -/
def Trans.covers (t : Trans) (va : Nat) : Bool := decide (t.base ≤ va) && decide (va < t.base + 2 ^ t.log)

/-- The translation of a virtual address of context `c` by the walker of die `d`: from the second-level cache, or by
a walk whose result the cache keeps where the walk has read everything now (R384, R385; log entry 137). A core in user mode with CCTX
above 63 has no address space (log entry 47). -/
def State.translate (s : State) (d c va : Nat) (pre : List PreByte := []) : Except (Nat × Nat) Trans × State :=
  let u := s.units d
  if 64 ≤ c then (.error (0, 5), s)
  else match u.walk.stc.find? (fun (c', t) => c' == c && t.covers va) with
  | some (_, t) => (.ok t, s)
  | none =>
    match s.walk (s.ctx c).r.root.toNat va pre with
    | .error e => (.error e, s)
    | .ok t =>
      if pre ≠ [] then (.ok t, s) else
      let stc := (c, t) :: u.walk.stc
      (.ok t, s.setUnits d { u with walk := { u.walk with stc := stc.take 4096 } })

/-- The walker sets D in the leaf (R382), in memory and in what the caches keep of it; a watch unit bound to that word is notified of the
write, which is sent on as a store of nothing to it (R346). -/
def State.setDirty (s : State) (d c : Nat) (t : Trans) : State :=
  if t.d then s
  else
    let s1 := s.wrWord (hbmHome t.pte) (s.rdWord (hbmHome t.pte) ||| 0x40)
    let u := s1.units d
    let s2 := s1.setUnits d { u with walk := { u.walk with
      stc := u.walk.stc.map fun (c', t') => if c' = c ∧ t'.pte = t.pte then (c', { t' with d := true }) else (c', t') } }
    if s.dies.any fun (_, x) => x.u.watch.any fun (_, w) => w.v then
      s2.post (.accessAtHome ⟨(List.range 8).map (hbmHome t.pte + ·), .store [], 0, ⟨c, none, d, 254, 0, 0⟩, none⟩)
    else s2

/-- The checks of R218, R234 and R382 on a leaf: the cause of the first that fails. `hostAtomic` says that the
atomic is one that PCI Express carries. -/
def leafCheck (t : Trans) (path : Nat) (k : AccKind) (hostAtomic : Bool) : Option Nat :=
  if t.host != (path == 2) then some cPerm
  else
    match k with
    | .load | .sread | .fetch => if t.r && (path != 1 || t.ro) then none else some cPerm
    | .store | .swrite => if path != 1 && t.w then none else some cPerm
    | .atomic | .remote =>
      if path != 1 && t.r && t.w && t.a then
        (if path == 2 && !(t.sa && hostAtomic) then some cSysatom else none)
      else some cPerm

/-- Whether the access needs D in the leaf (R382). -/
def AccKind.writes : AccKind → Bool
  | .store | .swrite | .atomic | .remote => true
  | _ => false

/-- How an access is made: by whom, in which context (none for the physical space of R259), as what; STRM and
PLANE for DETAIL (R388); what its walk has read of memory before this moment (R385). -/
structure Via where
  by_   : Accessor
  ctx   : Option Nat
  kind  : AccKind
  strm  : Nat := 0xFF
  plane : Bool := false
  hostAtomic : Bool := false
  pre   : List PreByte := []
deriving DecidableEq, Repr, Inhabited

/-- ENG of R388. -/
def Accessor.eng : Accessor → Nat
  | .engine e => e % 72
  | _ => 0xFF

/-- DETAIL of an XLATE or PERM record (R388). -/
def Via.detail (v : Via) (level reason : Nat) : Word :=
  put 48 8 v.strm ||| put 40 8 v.by_.eng ||| put 16 1 (b2n v.plane) ||| put 12 4 v.kind.code |||
    put 4 4 level ||| put 0 4 reason

/-- The failure that a walk ends in (R386, R388), or the uncorrectable error that it has met (R454). -/
def Via.walkFail (v : Via) (a : Word) (l r : Nat) : Failure :=
  if r < 16 then ⟨cXlate, a, v.detail l r⟩ else ⟨cEcc, a, Config.eccPlace (r - 16)⟩

/-- The window checks of R219 on a vault or scratch address. -/
def State.windowOk (s : State) (v : Via) (a : Word) : Bool :=
  match addrPath a with
  | 0x8 => (match v.ctx with
    | none => true
    | some c => let w := tget {} (s.ctx c).r.win v.by_.die
                decide (w.first ≤ fld a 22 7) && decide (fld a 22 7 < w.first + w.cnt))
  | 0x9 => (match v.ctx with
    | none => true
    | some c => let w := tget {} (s.ctx c).r.win (fld a 29 2)
                decide (w.first ≤ fld a 22 7) && decide (fld a 22 7 < w.first + w.cnt))
  | 0xB => (match v.by_ with
    | .engine e => (match s.groupOf e with
      | some (g, _) => decide (fld a 20 4 < (s.group (e / 72) g).nmem)
      | none => false)
    | _ => false)
  | _ => true

/-- What the walk of an access has read of the page table before this moment (R385): what its pass, stream or core has, or for any other agent
what its die's walker has. -/
def State.walkPre (s : State) (v : Via) : List PreByte :=
  match v.by_ with
  | .engine _ => v.pre
  | .core _ => v.pre
  | b => (s.units b.die).walk.pre

/-- The home of one byte, after the checks of translation (R218, R234, R382); the earlier checks have been made. -/
def State.byteHome (s : State) (v : Via) (a : Word) : Except Failure Nat × State :=
  let va := addrVa a
  match addrPath a with
  | 0x8 => (.ok (vaultHome v.by_.die (fld a 22 7) (fld a 0 22)), s)
  | 0x9 => (.ok (vaultHome (fld a 29 2) (fld a 22 7) (fld a 0 22)), s)
  | 0xA => (match v.by_ with
    | .engine e => (.ok (scratchHome e (fld a 0 20)), s)
    | _ => (.error ⟨cBadpath, a, 0⟩, s))
  | 0xB => (match v.by_ with
    | .engine e => (match s.groupOf e with
      | some (g, _) => (match s.member (e / 72) g (fld a 20 4) with
        | some m => (.ok (scratchHome m (fld a 0 20)), s)
        | none => (.error ⟨cWindow, a, 0⟩, s))
      | none => (.error ⟨cWindow, a, 0⟩, s))
    | _ => (.error ⟨cBadpath, a, 0⟩, s))
  | p =>
    match v.ctx with
    | none =>
      if p = 1 ∧ v.kind.writes then (.error ⟨cPerm, a, v.detail 0 0⟩, s)
      else if p = 2 then (.ok (hostHome va), s)
      else if va < 2 ^ 39 then (.ok (hbmHome va), s) else (.error ⟨cBadpath, a, 0⟩, s)
    | some c =>
      match s.translate v.by_.die c va (s.walkPre v) with
      | (.error (l, r), s1) => (.error (v.walkFail a l r), s1)
      | (.ok t, s1) =>
        match leafCheck t p v.kind v.hostAtomic with
        | some cause => (.error ⟨cause, a, if cause = cPerm then v.detail 0 0 else 0⟩, s1)
        | none =>
          let s2 := if v.kind.writes then s1.setDirty v.by_.die c t else s1
          (.ok ((if t.host then hostHome else hbmHome) (t.pa + (va - t.base))), s2)

/-- The homes of `n` bytes from `a` up, each checked by itself; the first failure ends it. -/
def State.byteHomes (s : State) (v : Via) (a : Word) : Nat → Except Failure (List Nat) × State
  | 0 => (.ok [], s)
  | n + 1 =>
    match s.byteHome v a with
    | (.error f, s1) => (.error f, s1)
    | (.ok h, s1) =>
      match s1.byteHomes v (a + 1) n with
      | (.error f, s2) => (.error f, s2)
      | (.ok hs, s2) => (.ok (h :: hs), s2)

/-- The checks of R238 from step 2 on for `n` bytes at `a`: path and fields, alignment, windows, translation. -/
def State.resolve (s : State) (v : Via) (paths : List Nat) (a : Word) (n : Nat) (aligned : Bool) :
    Except Failure (List Nat) × State :=
  let z := a + BitVec.ofNat 64 (n - 1)
  if addrPath a ∉ paths ∨ pathAccepted v.by_ (addrPath a) = false ∨ fieldsOk a = false ∨ fieldsOk z = false ∨
      addrPath z ≠ addrPath a then (.error ⟨pathCause v.by_ a, a, 0⟩, s)
  else if aligned ∧ a.toNat % n ≠ 0 then (.error ⟨cBadpath, a, 0⟩, s)
  else if s.windowOk v a = false ∨ s.windowOk v z = false then (.error ⟨cWindow, a, 0⟩, s)
  else s.byteHomes v a n

/-- How a core's accesses are made (R259): its context, or the physical space of ASEL = 64. -/
def State.coreVia (s : State) (d : Nat) (k : AccKind) : Via :=
  let c := (s.core d).csr
  { by_ := .core d, kind := k, strm := 0xFE, hostAtomic := true, pre := (s.core d).pre,
    ctx := if c.mode then (if c.asel.toNat < 64 then some c.asel.toNat else none) else some c.cctx }

/-- How a collective sequencer makes an access for a context. -/
def seqVia (d c : Nat) (k : AccKind) : Via := { by_ := .seq d, ctx := some c, kind := k, strm := 0xFE }

/-- The bytes at a list of homes. -/
def State.rdHomes (s : State) (hs : List Nat) : List Byte := hs.map s.rdByte
/-- The state with bytes written at a list of homes. -/
def State.wrHomes (s : State) (hs : List Nat) (bs : List Byte) : State :=
  (hs.zip bs).foldl (fun t (h, b) => t.wrBytes h [b]) s
/-- Whether a read of the homes meets an uncorrectable error (R454). -/
def State.eccHomes (s : State) (hs : List Nat) : Bool := hs.any fun h => s.eccAt h 1

/-! ## The constant path (R230). A unit, which is an engine or 288 + die for a core, may return a chunk as it was at any moment after the
latest acquire at PACKAGE or SYSTEM scope that comes before the read, and while its page was mapped (log entry 6). -/

/-- The bytes that a path 0x1 read of a unit returns for the homes: those of a chunk kept since the acquire at `acq`, else those of now. -/
def State.rdConst (s : State) (unit acq : Nat) (hs : List Nat) : List Byte :=
  let d := if unit < 288 then unit / 72 else unit - 288
  let kept := (s.units d).walk.cbuf.filter fun x => x.unit == unit && decide (acq < x.t0)
  hs.map fun h =>
    match kept.find? fun x => x.home == h / 64 with
    | some x => x.bytes.getD (h % 64) 0
    | none => s.rdByte h

/-- The moment from which the constant path of what follows an acquire is bounded, with acquire code `acq`, in a context: that of the
acquire itself at PACKAGE or SYSTEM scope, else that of the context's latest such acquire (R226, R230; log entry 6). -/
def State.acquireAt (s : State) (c acq : Nat) : Nat × State :=
  if acq = 0 then (0, s)
  else if acq < 4 then ((s.ctx c).acq, s)
  else
    let t := { s with nextId := s.nextId + 1 }
    (s.nextId, if c < 64 then t.setCtx c { s.ctx c with acq := s.nextId } else t)

end Sys2Proof.Machine
end

