-- ==== Sys2Proof/Machine/Operands.lean ====
section
/-!
DEFINITION. Operand forms: the registers of a pass (R93–R95, R200), of a control core (R98) and of a collective program
(R407), and what every meaning does around its own effect: the agent it runs for, the fault of a pass (R52), the
illegal word (R100).
-/
namespace Sys2Proof.Machine

/-! ## Registers of a pass -/

/-- The value of an operand specifier in a pass (R93, R95); an accumulator specifier has no 64-bit value and reads 0. -/
def Pass.rd (p : Pass) (tick : Word) (sp : Spec) : Word :=
  let n := sp.toNat
  if n < 16 then tget 0 p.r.w n
  else if n < 24 then tget 0 p.r.s (n - 16)
  else if n < 40 then p.r.c.getD (n - 24) 0
  else if n < 44 then p.r.p.getD (n - 40) 0
  else if n < 52 then 0
  else if n < 56 then tget 0 p.r.m (n - 52)
  else if n = 57 then BitVec.ofNat 64 p.col
  else if n = 58 then p.run
  else if n = 59 then p.rank
  else if n = 60 then p.eid
  else if n = 61 then p.gid
  else if n = 62 then p.instr
  else if n = 63 then tick
  else 0

/-- Write a register of a pass (R93): w, s or m; z discards, and no other kind is a destination. -/
def Pass.wr (p : Pass) (sp : Spec) (v : Word) : Pass :=
  let n := sp.toNat
  if n < 16 then { p with r := { p.r with w := tset 0 p.r.w n v } }
  else if n < 24 then { p with r := { p.r with s := tset 0 p.r.s (n - 16) v } }
  else if 52 ≤ n ∧ n < 56 then { p with r := { p.r with m := tset 0 p.r.m (n - 52) v } }
  else p

/-- Shadow t (1 to 4) of a register; every kind but w and s has shadows that read 0 (R200). -/
def Pass.rdSh (p : Pass) (sp : Spec) (t : Nat) : Word :=
  let n := sp.toNat
  if n < 16 then tget 0 p.r.wsh (4 * n + (t - 1))
  else if n < 24 then tget 0 p.r.ssh (4 * (n - 16) + (t - 1))
  else 0

/-- Write shadow t of a w or s register (R200). -/
def Pass.wrSh (p : Pass) (sp : Spec) (t : Nat) (v : Word) : Pass :=
  let n := sp.toNat
  if n < 16 then { p with r := { p.r with wsh := tset 0 p.r.wsh (4 * n + (t - 1)) v } }
  else if n < 24 then { p with r := { p.r with ssh := tset 0 p.r.ssh (4 * (n - 16) + (t - 1)) v } }
  else p

/-- Write shadows 1, 2, … of a register from a list. -/
def Pass.wrShs (p : Pass) (sp : Spec) (t : Nat) : List Word → Pass
  | [] => p
  | v :: r => (p.wrSh sp t v).wrShs sp (t + 1) r

/-- Write a register as an instruction with no dual meaning does: tangents 1 to kp of the pass become 0 (R195). -/
def Pass.wrP (p : Pass) (sp : Spec) (v : Word) : Pass := (p.wr sp v).wrShs sp 1 (List.replicate p.kfire 0)

/-- The tangent numbers that the current word computes (R195, R197). -/
def Pass.tans (p : Pass) : List Nat := (List.range p.kp).map (· + 1)

/-- Write a register with its tangents: those of a dual-mode word, or zeros (R195). -/
def Pass.wrD (p : Pass) (sp : Spec) (v : Word) (tan : Nat → Word) : Pass :=
  (p.wr sp v).wrShs sp 1 (if p.kp = 0 then List.replicate p.kfire 0 else p.tans.map tan)

/-- Whether two words of the pass carry one LSID: noted for the commit test (R50). -/
def Pass.useLsid (p : Pass) (l : Nat) : Pass :=
  if l ∈ p.b.lsids then { p with b := { p.b with dup := true } }
  else { p with b := { p.b with lsids := l :: p.b.lsids } }

/-- What an acquire, or the reading of what another agent has ordered behind its effects, leaves in a pass (R226): `acq` is the acquire
code, `n` the moment of R230, `after` the effects that come first. What a pass has read ahead of an acquire is void. -/
def Pass.acquire (p : Pass) (acq n : Nat) (after : List Nat) : Pass :=
  if acq = 0 ∧ after = [] then p
  else { p with after := p.after ++ after, acq := Nat.max p.acq n, pre := if acq = 0 then p.pre else [] }

/-- What stays read ahead once the bytes at homes have been loaded: a later load of a byte returns no older value (R224). -/
def forget (pre : List PreByte) (hs : List Nat) : List PreByte := pre.filter fun x => !hs.contains x.home

/-- A core has stored to the bytes at homes, or read them otherwise than by a load: what it has read ahead of them is void (R224, R264). -/
def State.coreForget (s : State) (d : Nat) (hs : List Nat) : State :=
  let c := s.core d
  s.setCore d { c with pre := forget c.pre hs }

/-- Add a held effect (R51). -/
def Pass.hold (p : Pass) (h : Held) : Pass := { p with b := { p.b with held := p.b.held ++ [h] } }

/-! ## Registers of a control core and of a collective program -/

/-- Register g of a core: g0 reads 0 (R98). -/
def CoreState.rd (c : CoreState) (sp : Spec) : Word := if sp.toNat = 0 then 0 else tget 0 c.g sp.toNat
/-- Write register g of a core: g0 discards (R98). -/
def CoreState.wr (c : CoreState) (sp : Spec) (v : Word) : CoreState :=
  if sp.toNat = 0 then c else { c with g := tset 0 c.g sp.toNat v }
/-- The PC advances past the word (R257). -/
def CoreState.adv (c : CoreState) : CoreState := { c with pc := c.npc }

/-- A register of a collective program: w0–w15, z, rank, gid (R407). -/
def State.progRd (s : State) (d : Nat) (p : CProg) (sp : Spec) : Word :=
  let n := sp.toNat
  if n < 16 then tget 0 p.w n
  else if n = 59 then BitVec.ofNat 64 (s.pgt p.ctx p.tbl).own
  else if n = 61 then put 12 2 d
  else 0
/-- Write a register of a collective program (R407). -/
def CProg.wr (p : CProg) (sp : Spec) (v : Word) : CProg :=
  if sp.toNat < 16 then { p with w := tset 0 p.w sp.toNat v } else p

/-! ## Agents -/

/-- Who a pass is, for records and rods (R274). -/
def Active.origin (a : Active) (e : Nat) : Origin where
  ctx := a.fr.ctx
  inst := some a.fr.inst
  die := e / 72
  unit := e % 72
  op := a.fr.op
  col := a.pass.col

/-- The age of a pass: launch sequence number and colour (R54, R361). -/
def ageOf (seq : Word) (col : Nat) : Word := BitVec.ofNat 64 (seq.toNat * 4096 + col % 4096)
/-- The age of the open pass of a firing. -/
def Active.age (a : Active) : Word := ageOf a.fr.seq a.pass.col

/-- The die that homes the objects of a lock name (R356). -/
def lockHome (name : Word) : Nat :=
  let tid := fld name 30 20
  (List.range 10).foldl (fun h i => h ^^^ (tid / 4 ^ i % 4)) 0

/-- What an abort does with an open pass (R52): held effects and private copies vanish, its locks revert (R367), its
reservations are given back (R302), and the pass and those after it are queued again with its age. -/
def State.abortActive (s : State) (e : Nat) (a : Active) (hold : Hold) : State :=
  let lockNames := a.pass.b.locks ++ (match a.pass.wait with | .lock n _ => [n] | _ => [])
  let homes := (lockNames.map lockHome).dedup
  let s1 := { s with cp := { s.cp with resv := s.cp.resv.filter fun r => !(r.eng == e && r.uid == a.fr.uid) } }
  let x := s1.engine e
  let s2 := s1.setEngine e { x with requeue := x.requeue ++ [{ a.fr with requeued := true, hold := hold }] }
  let s3 := s2.each homes fun h t =>
    t.post (.lockReleaseArrival ⟨h, a.fr.ctx, a.age, .revert a.fr.uid⟩)
  s3.touch (e / 72) a.fr.ctx

/-- The pass in slot `sl` of engine `e` aborts. -/
def State.abortSlot (s : State) (e sl : Nat) (hold : Hold) : State :=
  match s.active e sl with
  | none => s
  | some a => (s.setActive e sl none).abortActive e a hold

/-- A pass that has been taken out of its place aborts as a fault (R52): a record with a fault identifier is sent to the
die's core, the instance becomes FAULTED (R273), and the firing is held. A stream that fails in the same page joins the fault (R387). -/
def State.faultActive (s : State) (e : Nat) (a : Active) (f : Failure) : State :=
  let page := if f.cause = cXlate ∨ f.cause = cPerm then addrVa f.addr / 65536 else 0
  let (key, s1) := s.openFault (e / 72) a.fr.ctx a.fr.inst f.cause page
  let r := { s1.record f.cause (a.origin e) f.addr f.detail none with key := some key }
  (s1.raise (e / 72) r).abortActive e a (.fault key)

/-- The pass in slot `sl` of engine `e` aborts as a fault (R52). -/
def State.passFault (s : State) (e sl : Nat) (f : Failure) : State :=
  match s.active e sl with
  | none => s
  | some a => (s.setActive e sl none).faultActive e a f

/-- The state with every pass of engine `e` that `p` picks taken out of its slot or of the suspended or ready passes, and
those passes. -/
def State.takePasses (s : State) (e : Nat) (p : Active → Bool) : List Active × State :=
  let x := s.engine e
  let out := fun sl : IssueSlot => if sl.act.any p then { sl with act := none } else sl
  ((x.mat.act.toList ++ x.vec.act.toList ++ x.susp ++ x.ready).filter p,
   s.setEngine e { x with mat := out x.mat, vec := out x.vec, susp := x.susp.filter (fun a => !p a),
                          ready := x.ready.filter (fun a => !p a) })

/-- Every pass of engine `e` that `p` picks aborts as a fault. -/
def State.faultPasses (s : State) (e : Nat) (p : Active → Bool) (f : Failure) : State :=
  let (l, t) := s.takePasses e p
  l.foldl (fun u a => u.faultActive e a f) t

/-- Every pass of engine `e` that `p` picks aborts and is queued again, without a trap (R52). -/
def State.abortPasses (s : State) (e : Nat) (p : Active → Bool) : State :=
  let (l, t) := s.takePasses e p
  l.foldl (fun u a => u.abortActive e a .free) t

/-- A collective is to abort (R422): the report reaches the command processor's abort logic as a message to itself. -/
def State.collAbort (s : State) (d k reason : Nat) (addr : Word) : State :=
  match s.prog d k with
  | none => s
  | some p =>
    let g := s.pgt p.ctx p.tbl
    let p1 := { p with stop := true }
    let pkt : Packet :=
      { kind := 0x28, die := 0, dnode := s.net.nodeid, snode := s.net.nodeid, age := 0, gkey := g.gkey,
        srank := BitVec.ofNat 16 g.own, drank := BitVec.ofNat 16 g.own, gen := BitVec.ofNat 16 p.gen, tag := 0, len := 0,
        addr := addr, xdata := BitVec.ofNat 192 (reason + 16 * g.own), payload := [] }
    (s.setProg d k (some p1)).post (.cabt p.ctx p.tbl pkt)

/-- The word of an instruction, for XVAL (R260). -/
def wordOf (i : Instr) : Word := ((encodeWord i).map (·.1)).getD 0

/-- A word that the agent does not accept (R100): ILLEGAL for a pass or a core, reason 3 for a collective. -/
def State.illegal (s : State) (i : Instr) : State :=
  match s.cur with
  | .pass e sl => s.passFault e sl ⟨cIllegal, 0, 0⟩
  | .core d => s.coreFault d cIllegal (wordOf i)
  | .seq d k => s.collAbort d k 3 0

/-- The outcome of a word of a tile-engine body: `k` runs for the open pass, any other agent takes ILLEGAL (R100). -/
def onPass (i : Instr) (s : State) (k : Nat → Nat → Active → State) : Host.Outcome State Fault Refusal :=
  match s.cur with
  | .pass e sl =>
    match s.active e sl with
    | some a => .next (k e sl a)
    | none => .next s
  | _ => .next (s.illegal i)

/-- The outcome of a word of a control core; any other agent takes ILLEGAL (R100). -/
def onCore (i : Instr) (s : State) (k : Nat → CoreState → State) : Host.Outcome State Fault Refusal :=
  match s.cur with
  | .core d => .next (k d (s.core d))
  | _ => .next (s.illegal i)

/-- The outcome of a word of a collective program; any other agent takes ILLEGAL (R100). -/
def onSeq (i : Instr) (s : State) (k : Nat → Nat → CProg → State) : Host.Outcome State Fault Refusal :=
  match s.cur with
  | .seq d n =>
    match s.prog d n with
    | some p => .next (k d n p)
    | none => .next s
  | _ => .next (s.illegal i)

/-- A privileged word of a core: in user mode it raises PRIV (R258). -/
def onSup (i : Instr) (s : State) (k : Nat → CoreState → State) : Host.Outcome State Fault Refusal :=
  onCore i s fun d c => if c.csr.mode then k d c else s.coreFault d cPriv (wordOf i)

/-- A word of R268 that cannot end yet stays, and is not fetched again, with what was in flight when it first executed (R268, R324); a
word fed through the step instrument is fed again (R455). -/
def State.stayBusy (s : State) (d : Nat) (i : Instr) : State :=
  let c := s.core d
  s.setCore d { c with busy := some (c.busy.getD (s.nextId, s.tick.toNat)),
                       held := if c.npc = c.pc then none else some (wordOf i),
                       step := if c.npc = c.pc then some (wordOf i, 0) else none }
/-- A word of R268 ends: `gd` receives a value and the core goes on. -/
def State.endWord (s : State) (d : Nat) (gd : Spec) (v : Word) : State :=
  s.setCore d { ((s.core d).wr gd v).adv with busy := none, held := none, img := none }

/-! ## The accesses of a core that are on their way (R264) -/

/-- The stores and rod adds of a core that have not acted yet: the message, and the bytes it is to touch. -/
def State.corePend (s : State) (d : Nat) : List (Nat × List Nat) :=
  s.pend.filterMap fun m => match m.ev with
    | .accessAtHome a => if a.who.unit = 240 ∧ a.who.die = d then some (m.id, a.homes) else none
    | .rodAddArrival a => if a.who.unit = 240 ∧ a.who.die = d then
        some (m.id, if fld a.ref 62 2 = 3 then (List.range 8).map (a.home + ·) else []) else none
    | _ => none

/-- The bytes at homes as a core sees them: under its own stores that are on their way, in program order (R264). -/
def State.coreView (s : State) (d : Nat) (hs : List Nat) (live : List Byte) : List Byte :=
  let mine := s.pend.filterMap fun m => match m.ev with
    | .accessAtHome a => (match a.op with
      | .store bs => if a.who.unit = 240 ∧ a.who.die = d then some (a.homes.zip bs) else none
      | _ => none)
    | _ => none
  (hs.zip live).map fun (h, b) => mine.foldl (fun v l => ((l.find? fun x => x.1 == h).map (·.2)).getD v) b

/-- What an effect of a core on the bytes at homes must follow, and what it goes ahead of though it follows it for an observer in its
scope (R264): its accesses to the same bytes, and, where it is a release, every earlier access. -/
def State.coreDeps (s : State) (d : Nat) (hs : List Nat) (release : Bool) (scope : Nat) : List Nat × List Nat :=
  let l := s.corePend d
  let hard := fun (x : Nat × List Nat) => x.2.any hs.contains || (release && scope == 4)
  ((l.filter hard).map (·.1), if release then (l.filter fun x => !hard x).map (·.1) else [])

/-- What an acquire of a core, or its reading of what another agent has ordered, leaves in it (R264). -/
def State.coreAcquired (s : State) (d acq : Nat) (keys : List Nat) : State :=
  let after := s.seen (.core d) acq keys
  if acq = 0 ∧ after = [] then s
  else
    let (n, t) := s.acquireAt ((s.coreVia d .load).ctx.getD 64) acq
    let c := t.core d
    t.setCore d { c with after := c.after ++ after, acq := Nat.max c.acq n, pre := if acq = 0 then c.pre else [] }

/-- A word of a core that cannot act yet stays where it is (R264). -/
def State.coreAgain (s : State) (d : Nat) (i : Instr) : State :=
  let c := s.core d
  s.setCore d { c with step := if c.npc = c.pc then some (wordOf i, 0) else none }

/-- Publish the open pass. -/
def State.setPass (s : State) (e sl : Nat) (a : Active) (p : Pass) : State :=
  s.setActive e sl (some { a with pass := p })

/-- What a word does to a pass: it goes on, or it meets a fault. -/
inductive PassRes where
  | ok (p : Pass)
  | trap (f : Failure)
deriving Repr

/-- A word that changes nothing but the pass, or traps (R52, R92). -/
def passWord (i : Instr) (s : State) (k : Nat → Active → PassRes) : Host.Outcome State Fault Refusal :=
  onPass i s fun e sl a =>
    match k e a with
    | .ok p => s.setPass e sl a p
    | .trap f => s.passFault e sl f

/-! ## Scalar operands -/

/-- The second operand of a two-source integer form (R123): `v` is value(SB). -/
def immB (f : FmtA) (v : Word) : Word := v + f.imm.signExtend 64

/-- A scalar word that writes `g a b c old` to DST, on a pass or on a control core (R123, R262); `i` is the word. -/
def scalarWord (i : Instr) (f : FmtA) (s : State) (g : Word → Word → Word → Word) :
    Host.Outcome State Fault Refusal :=
  match s.cur with
  | .pass e sl =>
    match s.active e sl with
    | none => .next s
    | some a =>
      let p := a.pass
      .next (s.setPass e sl a
        (p.wrP f.dst (g (p.rd s.tick f.sa) (immB f (p.rd s.tick f.sb)) (p.rd s.tick f.sc))))
  | .core d =>
    let c := s.core d
    .next (s.setCore d (c.wr f.dst (g (c.rd f.sa) (immB f (c.rd f.sb)) (c.rd f.sc))).adv)
  | .seq _ _ => .next (s.illegal i)

/-- A scalar word with a dual meaning that copies one operand: `pick` names the operand chosen (R125, R138). -/
def copyWord (i : Instr) (f : FmtA) (s : State) (pick : Word → Word → Word → Bool) :
    Host.Outcome State Fault Refusal :=
  match s.cur with
  | .pass e sl =>
    match s.active e sl with
    | none => .next s
    | some a =>
      let p := a.pass
      let va := p.rd s.tick f.sa
      let vb := immB f (p.rd s.tick f.sb)
      let first := pick va vb (p.rd s.tick f.sc)
      .next (s.setPass e sl a
        (p.wrD f.dst (if first then va else vb) fun t => p.rdSh (if first then f.sa else f.sb) t))
  | .core d =>
    let c := s.core d
    let va := c.rd f.sa
    let vb := immB f (c.rd f.sb)
    .next (s.setCore d (c.wr f.dst (if pick va vb (c.rd f.sc) then va else vb)).adv)
  | .seq _ _ => .next (s.illegal i)

end Sys2Proof.Machine
end

