-- ==== Sys2Proof/Machine/Tile.lean ====
section
/-!
DEFINITION. Tile descriptors and the placement of tiles in scratch (R59, R65–R67, R82–R85), rings (R46) and output
references (R44, R45, R109).
-/
namespace Sys2Proof.Machine

/-! ## Formats (R59) -/

/-- Bits of an element (R59). -/
def fmtBits : Nat → Nat
  | 0 => 64 | 1 => 32 | 2 => 16 | 3 => 16 | 4 => 8 | 5 => 8 | 6 => 6 | 7 => 4
  | 8 => 32 | 9 => 16 | 10 => 8 | 11 => 4 | 12 => 8 | 13 => 8 | _ => 8
/-- Tangent slices of an element (R199); 0 where the format has no tangent. -/
def fmtSlices : Nat → Nat
  | 0 => 1 | 1 => 1 | 2 => 2 | 3 => 2 | 4 => 4 | 5 => 4 | 6 => 6 | 7 => 8 | _ => 0

/-! ## Descriptor fields (R82) -/

def dMember (d : Word) : Nat := fld d 57 4
def dLoc (d : Word) : Nat := fld d 55 2
def dSbase (d : Word) : Nat := fld d 41 14
def dGs (d : Word) : Nat := fld d 39 2
def dRot (d : Word) : Nat := fld d 36 3
def dFmt (d : Word) : Nat := fld d 32 4
def dPitch (d : Word) : Nat := fld d 24 8
def dRbc (d : Word) : Nat := fld d 20 3
/-- Number of rows: ROWS + 1. -/
def dRows (d : Word) : Nat := fld d 14 6 + 1
def dBase (d : Word) : Nat := fld d 0 14
/-- Row bytes (R82). -/
def dRowBytes (d : Word) : Nat := 16 * (dRbc d + 1)
/-- Distance of rows when ROT = 0 (R82). -/
def dStride (d : Word) : Nat := if dPitch d = 0 then dRowBytes d else 16 * dPitch d
/-- Elements per row (R65). -/
def dEpr (d : Word) : Nat := dRowBytes d * 8 / fmtBits (dFmt d)
/-- Step of a bank strip (R82). -/
def rotStep : Nat → Nat
  | 1 => 1 | 2 => 2 | 3 => 3 | 4 => 4 | 5 => 6 | 6 => 8 | 7 => 12 | _ => 0
/-- Elements per scale group (R66). -/
def gsSize : Nat → Nat
  | 1 => 32 | 2 => 64 | 3 => 128 | _ => 1
/-- Groups in a row (R67). -/
def dGroups (d : Word) : Nat := (dEpr d + gsSize (dGs d) - 1) / gsSize (dGs d)
/-- Whether the scale table holds E8M0 bytes and not integer entries (R66). -/
def dMx (d : Word) : Bool := decide (4 ≤ dFmt d) && decide (dFmt d ≤ 7)
/-- Scale bytes per row (R67). -/
def dScaleRow (d : Word) : Nat := if dGs d = 0 then 0 else if dMx d then dGroups d else 4 * dGroups d

/-- Whether FMT and GS may stand together (R66). -/
def gsOk (fmt gs : Nat) : Bool :=
  gs == 0 || (decide (4 ≤ fmt) && decide (fmt ≤ 7) && gs == 1) || fmt == 10 || fmt == 11

/-- The checks of R83 in order, with the end of the scale table (R67); `nmem` is the member count of the engine's group
(0 where it has none). The cause of the first that fails. -/
def descFault (nmem : Nat) (d : Word) : Option Nat :=
  if fld d 61 3 ≠ 0 ∨ d.getLsbD 23 ∨ 2 ≤ dLoc d ∨ (dLoc d = 0 ∧ dMember d ≠ 0) ∨ 14 ≤ dFmt d ∨
      gsOk (dFmt d) (dGs d) = false then some cDesc
  else if 12288 ≤ dBase d ∨ (dGs d ≠ 0 ∧ 12288 ≤ dSbase d) then some cDesc
  else if dFmt d = 6 ∧ dRbc d ≠ 2 ∧ dRbc d ≠ 5 then some cDesc
  else if dRot d = 0 ∧ ((dPitch d ≠ 0 ∧ 16 * dPitch d < dRowBytes d) ∨
      786432 < dBase d * 64 + (dRows d - 1) * dStride d + dRowBytes d) then some cDesc
  else if dRot d ≠ 0 ∧ (dPitch d ≠ 0 ∨ 63 < dBase d / 192 + (dRows d - 1)) then some cDesc
  else if dGs d ≠ 0 ∧ 786432 < dSbase d * 64 + dRows d * dScaleRow d then some cDesc
  else if dLoc d = 1 ∧ nmem ≤ dMember d then some cWindow
  else none

/-- Scratch byte of byte `b` of row `r` (R84). -/
def tileByte (d : Word) (r b : Nat) : Nat :=
  if dRot d = 0 then dBase d * 64 + r * dStride d + b
  else
    let depth := dBase d / 192 + r
    let bank := (dBase d % 192 + r * rotStep (dRot d) + b / 64) % 192
    (depth * 192 + bank) * 64 + b % 64

/-- The descriptor with BASE replaced. -/
def dWithBase (d : Word) (b : Nat) : Word := (d &&& ~~~ 0x3FFF#64) ||| put 0 14 b

/-- Member count of the group of engine `e`, 0 without one. -/
def State.nmemOf (s : State) (e : Nat) : Nat :=
  match s.groupOf e with
  | some (g, _) => (s.group (e / 72) g).nmem
  | none => 0

/-- The engine whose scratch a descriptor of engine `e` names (R82). -/
def State.descEngine (s : State) (e : Nat) (d : Word) : Nat :=
  if dLoc d = 0 then e
  else match s.groupOf e with
    | some (g, _) => (s.member (e / 72) g (dMember d)).getD e
    | none => e

/-- The BASE of slice `i` of tangent `t` of a tile, and whether it can be named (R202); `str` is the shadow stride S. -/
def tanBase (d : Word) (str t i : Nat) : Nat := dBase d + t * str + i * (str / 8)

/-- The first failure of R83 among the descriptors of tangent `t` of a tile (R202). -/
def tanFaultAt (nmem str t : Nat) (d : Word) : Option Nat :=
  (List.range (fmtSlices (dFmt d))).findSome? fun i =>
    let b := tanBase d str t i
    if 16384 ≤ b then some cDesc else descFault nmem (dWithBase d b)
/-- The first failure of R83 among the descriptors of tangents 1 to k of a tile (R202). -/
def tanFault (nmem str k : Nat) (d : Word) : Option Nat :=
  (List.range k).findSome? fun t => tanFaultAt nmem str (t + 1) d

/-! ## Rings (R46) -/

/-- Whether the operator runs a body (R38): every kind but NONE and LOOP; a RECV operator's ports are filled by messages, and
it then fires its body as the others do. -/
def OpHead.runs (h : OpHead) : Bool := h.kind != .none && h.kind != .loop
/-- Tile ports that take a ring sub-slot: none for a pooled operator (R335). Only ports in use count (log 123). -/
def OpEntry.tilePorts (o : OpEntry) : Nat :=
  if o.h.pool then 0 else ((o.ports.take o.h.nin).filter (·.tile)).length
/-- First line of ring entry `j` (R46). -/
def OpEntry.entryLine (o : OpEntry) (j : Nat) : Nat := o.rbase + j * (o.tilePorts + 1) * o.rsize
/-- First line of the input sub-slot of port `k` for entry `j` (R46). -/
def OpEntry.inLine (o : OpEntry) (k j : Nat) : Nat :=
  o.entryLine j + ((o.ports.take k).filter (·.tile)).length * o.rsize
/-- First line of the output sub-slot of entry `j` (R46). -/
def OpEntry.outLine (o : OpEntry) (j : Nat) : Nat := o.entryLine j + o.tilePorts * o.rsize

/-- The scratch bytes of a tile, row by row, as (first byte, length) pieces of at most 64 bytes. -/
def tilePieces (d : Word) : List (Nat × Nat) :=
  (List.range (dRows d)).flatMap fun r =>
    (List.range ((dRowBytes d + 15) / 16)).map fun c => (tileByte d r (16 * c), 16)

/-- Whether every element byte of the tile lies in the lines `first` to `first + n − 1`. DESIGN CHOICE (log 128): `bytes_of` of R110 is
the element bytes alone; the scale table of a scaled tile is not among them. -/
def tileWithin (d : Word) (first n : Nat) : Bool :=
  (tilePieces d).all fun (b, l) => decide (first * 64 ≤ b) && decide (b + l ≤ (first + n) * 64)

/-! ## Output references (R44) -/

def refDie (r : Word) : Nat := fld r 62 2
def refUnit (r : Word) : Nat := fld r 54 8
def refOp (r : Word) : Nat := fld r 46 8
def refPort (r : Word) : Nat := fld r 44 2
def refMode (r : Word) : Nat := fld r 42 2
def refCt (r : Word) : Nat := fld r 39 3
def refCimm (r : Word) : Nat := fld r 27 12
def refFrame (r : Word) : Nat := fld r 17 10
/-- DRCM1 + 1 (R44). -/
def refDrc (r : Word) : Nat := fld r 11 6 + 1
def refRmt (r : Word) : Nat := fld r 0 11

/-- Colour transform (R45). -/
def colourTo (ct cimm c : Nat) : Nat :=
  match ct with
  | 1 => (c + cimm) % 4096
  | 2 => cimm
  | 3 => c / 2 ^ (cimm % 16)
  | 4 => c &&& cimm
  | _ => c

/-- Operator `op` of an engine (R36). -/
def Engine.op (x : Engine) (op : Nat) : OpEntry := tget {} x.t.ot op
/-- Running state of an operator. -/
def Engine.run (x : Engine) (op : Nat) : OpRun := tget {} x.t.orun op
/-- Output reference `o` of an operator (R36, R44). -/
def Engine.ref (x : Engine) (o : OpEntry) (n : Nat) : Word := tget 0 x.t.ol (o.h.olbase + n)
/-- What GLOAD recorded about output reference `n` of an operator (R109). -/
def Engine.refInfo (x : Engine) (o : OpEntry) (n : Nat) : OutInfo := tget {} x.t.olx (o.h.olbase + n)

/-- The operator of the open pass. -/
def State.opOf (s : State) (e : Nat) (a : Active) : OpEntry := (s.engine e).op a.fr.op

/-- The first process-group table that a launch names (R295), for the instance of a context. -/
def State.launchTable (s : State) (c inst : Nat) : Option Nat :=
  match s.instKernel c inst with
  | none => none
  | some k => (List.range 8).find? fun t => (s.kernel k).launch.pgtm.getLsbD t

/-- The shadow stride of the image of an operator's engine tables: the common non-zero RSTR (R202). -/
def State.shadowStride (s : State) (e op : Nat) : Nat :=
  let x := s.engine e
  if (x.op op).rstr ≠ 0 then (x.op op).rstr
  else
    let b := tget 0 x.t.opBank op
    ((x.t.ot.filterMap fun (n, o) => if tget 0 x.t.opBank n = b ∧ o.rstr ≠ 0 then some o.rstr else none).head?).getD 0

end Sys2Proof.Machine
end

