-- ==== Sys2Proof/Machine/Float.lean ====
section
/-!
DEFINITION. Number formats (R59–R65): values of encodings, exact arithmetic, rounding in the five modes (R68, R69),
conversion (R61–R63, R136), and the special functions (R137, R151).
-/
namespace Sys2Proof.Machine

/-- The default NaN (R62): positive, quiet, payload 0. -/
def FV.dnan : FV := .nan false 1 1
/-- +0. -/
def FV.zero : FV := .fin false 0 0
/-- The integer `n`. -/
def FV.ofInt (n : Int) : FV := .fin (decide (n < 0)) n.natAbs 0
def FV.isNan : FV → Bool
  | .nan .. => true
  | _ => false
def FV.isInf : FV → Bool
  | .inf _ => true
  | _ => false
/-- Whether the value is ±0. -/
def FV.isZero : FV → Bool
  | .fin _ 0 _ => true
  | _ => false
/-- The sign bit. -/
def FV.sign : FV → Bool
  | .nan s _ _ => s
  | .inf s => s
  | .fin s _ _ => s
/-- A NaN made quiet (R62). -/
def FV.quiet : FV → FV
  | .nan s f b => .nan s (f ||| 2 ^ (b - 1)) b
  | v => v

/-! ## Encodings (R59, R60) -/

/-- Exponent bits, fraction bits and bias of a floating format (R59). -/
def fmtParams : Nat → Nat × Nat × Nat
  | 0 => (11, 52, 1023) | 1 => (8, 23, 127) | 2 => (8, 7, 127) | 3 => (5, 10, 15)
  | 4 => (4, 3, 7) | 5 => (5, 2, 15) | 6 => (2, 3, 1) | _ => (2, 1, 1)
/-- Whether the format has infinities and IEEE NaNs (R59). -/
def fmtIeee (f : Nat) : Bool := f ∈ [0, 1, 2, 3, 5]
/-- Whether the format is floating (R59). -/
def fmtIsFloat (f : Nat) : Bool := decide (f ≤ 7)
/-- Encoding of the largest finite magnitude (R59). -/
def fmtMax (f : Nat) : Nat :=
  let (eb, fb, _) := fmtParams f
  if fmtIeee f then (2 ^ eb - 1) * 2 ^ fb - 1 else if f = 4 then 0x7E else 2 ^ (eb + fb) - 1

/-- The canonical empty encoding (R61), where the format has one. -/
def fmtEmpty : Nat → Option Nat
  | 0 => some 0x7FFF000000000000 | 1 => some 0x7FF80000 | 2 => some 0x7FF8 | 3 => some 0x7FC0 | 4 => some 0x7F
  | 5 => some 0x7F | _ => none
/-- Whether an element is empty: its encoding, sign ignored, is the empty encoding (R61). -/
def isEmptyEnc (f bits : Nat) : Bool := fmtEmpty f == some (bits % 2 ^ (fmtBits f - 1))

/-- A signed integer of `n` bits. -/
def sintOf (n bits : Nat) : Int := if bits % 2 ^ n < 2 ^ (n - 1) then (bits % 2 ^ n : Int) else (bits % 2 ^ n : Int) - 2 ^ n
/-- The integer value of an element of an integer format (R64). -/
def intVal (f bits : Nat) : Int := if f = 12 then (bits % 256 : Int) else sintOf (fmtBits f) bits

/-- The value of an encoding (R59, R60, R64). -/
def fvOf (f bits : Nat) : FV :=
  if fmtIsFloat f then
    let (eb, fb, bias) := fmtParams f
    let b := bits % 2 ^ (1 + eb + fb)
    let s := b.testBit (eb + fb)
    let ex := b / 2 ^ fb % 2 ^ eb
    let fr := b % 2 ^ fb
    if fmtIeee f && ex == 2 ^ eb - 1 then (if fr = 0 then .inf s else .nan s fr fb)
    else if f = 4 ∧ b % 128 = 127 then .nan s fr fb
    else if ex = 0 then .fin s fr (1 - bias - fb)
    else .fin s (2 ^ fb + fr) ((ex : Int) - bias - fb)
  else if f = 13 then
    (if bits % 256 = 255 then .dnan else .fin false 1 ((bits % 256 : Int) - 127))
  else .ofInt (intVal f bits)

/-! ## Rounding (R63, R68, R69) -/

/-- Whether the magnitude q · g rounds up to (q + 1) · g, with remainder `rem` of `unit`: RNE, RZ, RD, RU, SR with
random bits `k`. -/
def roundUp (mode : Nat) (neg : Bool) (q rem unit k : Nat) : Bool :=
  match mode with
  | 0 => decide (unit < 2 * rem) || (2 * rem == unit && q % 2 == 1)
  | 1 => false
  | 2 => neg && rem != 0
  | 3 => !neg && rem != 0
  | _ => decide (65536 ≤ rem * 65536 / unit + k)

/-- m · 2^e rounded to a multiple of 2^g: the multiple. -/
def roundGrid (mode : Nat) (neg : Bool) (m : Nat) (e g : Int) (k : Nat) : Nat :=
  if g ≤ e then m * 2 ^ (e - g).toNat
  else
    let u := 2 ^ (g - e).toNat
    let q := m / u
    if roundUp mode neg q (m % u) u k then q + 1 else q

/-- floor(log2(m · 2^e)) for m > 0. -/
def fvExp (m : Nat) (e : Int) : Int := (Nat.log2 m : Int) + e

/-- The encoding of a finite overflow in a floating format (R63). -/
def overflowEnc (f mode : Nat) (neg : Bool) : Nat :=
  let (eb, fb, _) := fmtParams f
  let mag :=
    if fmtIeee f = false then fmtMax f
    else if mode = 0 ∨ mode = 4 ∨ (mode = 3 ∧ neg = false) ∨ (mode = 2 ∧ neg) then (2 ^ eb - 1) * 2 ^ fb
    else fmtMax f
  mag + b2n neg * 2 ^ (eb + fb)

/-- The NaN of a floating format with a given sign and fraction (R62, R63). -/
def nanEnc (f : Nat) (neg : Bool) (frac fb : Nat) : Nat :=
  let (eb, tb, _) := fmtParams f
  if f = 4 then 0x7F
  else if fmtIeee f = false then 0
  else
    let p := if tb ≤ fb then frac / 2 ^ (fb - tb) else frac * 2 ^ (tb - fb)
    b2n neg * 2 ^ (eb + tb) + (2 ^ eb - 1) * 2 ^ tb + (p % 2 ^ tb ||| 2 ^ (tb - 1))

/-- A value rounded into a floating format (R63, R68, R69). -/
def encFloat (f mode k : Nat) (v : FV) : Nat :=
  let (eb, fb, bias) := fmtParams f
  match v with
  | .nan s fr w => nanEnc f s fr w
  | .inf s => if fmtIeee f then b2n s * 2 ^ (eb + fb) + (2 ^ eb - 1) * 2 ^ fb else fmtMax f + b2n s * 2 ^ (eb + fb)
  | .fin s m e =>
    if m = 0 then b2n s * 2 ^ (eb + fb)
    else
      let g := max (fvExp m e - fb) (1 - bias - fb)
      let q := roundGrid mode s m e g k
      let mag := if q < 2 ^ fb then q else ((g + fb + bias).toNat - 1) * 2 ^ fb + q
      if fmtMax f < mag then overflowEnc f mode s else mag + b2n s * 2 ^ (eb + fb)

/-- Range of an integer format (R64). -/
def intRange (f : Nat) : Int × Int :=
  if f = 12 then (0, 255) else (-(2 ^ (fmtBits f - 1)), 2 ^ (fmtBits f - 1) - 1)
/-- The encoding of an integer in a format, modulo 2^bits. -/
def intEnc (f : Nat) (n : Int) : Nat := (n % 2 ^ fmtBits f).toNat
/-- An integer clamped to the format's range. -/
def intClamp (f : Nat) (n : Int) : Int := max (intRange f).1 (min n (intRange f).2)

/-- A value rounded into an integer format, saturating (R63). -/
def encInt (f mode k : Nat) (v : FV) : Nat :=
  match v with
  | .nan .. => 0
  | .inf s => intEnc f (if s then (intRange f).1 else (intRange f).2)
  | .fin s m e =>
    let q : Int := roundGrid mode s m e 0 k
    intEnc f (intClamp f (if s then -q else q))

/-- A value rounded to a power of two as E8M0 (R136). DEDUCED (log 141): under RU an exact power of two stays (R68). -/
def encE8M0 (mode k : Nat) (v : FV) : Nat :=
  match v with
  | .nan .. => 0xFF
  | .inf s => if s then 0 else 254
  | .fin s m e =>
    if s ∨ m = 0 then 0
    else
      let a := fvExp m e
      let l := Nat.log2 m
      let rem := m - 2 ^ l
      let up := match mode with
        | 0 => decide (2 ^ l < 2 * rem) || (2 * rem == 2 ^ l && (a + 127) % 2 == 1)
        | 1 => false
        | 2 => false
        | 3 => rem != 0
        | _ => decide (65536 ≤ rem * 65536 / 2 ^ l + k)
      (max 0 (min 254 ((if up then a + 1 else a) + 127))).toNat

/-- A value rounded into any format. -/
def encAny (f mode k : Nat) (v : FV) : Nat :=
  if fmtIsFloat f then encFloat f mode k v else if f = 13 then encE8M0 mode k v else encInt f mode k v

/-- An element converted from one format into another (R61–R63, R136). -/
def convEnc (src dst mode k bits : Nat) : Nat :=
  if isEmptyEnc src bits then (fmtEmpty dst).getD (if dst = 13 then 0xFF else 0)
  else if src = dst ∧ fmtIsFloat src then
    (match fvOf src bits with
     | .nan s fr w => nanEnc dst s fr w
     | _ => bits % 2 ^ fmtBits src)
  else if src = dst then bits % 2 ^ fmtBits src
  else encAny dst mode k (fvOf src bits)

/-- The random bits of SR (R69). -/
def srBits (seed : Word) (l op col widx tj elem : Nat) : Nat :=
  let v := ((((l % 1024 * 256 + op % 256) * 4096 + col % 4096) * 64 + widx % 64) * 8 + tj % 8) * 16384 + elem % 16384
  let z := seed + BitVec.ofNat 64 (v * 0x9E3779B97F4A7C15)
  let z := (z ^^^ (z >>> 30)) * 0xBF58476D1CE4E5B9#64
  let z := (z ^^^ (z >>> 27)) * 0x94D049BB133111EB#64
  let z := z ^^^ (z >>> 31)
  fld z 48 16

/-! ## Exact arithmetic -/

/-- The first NaN of a list of operands, made quiet (R62). -/
def firstNan (l : List FV) : Option FV := (l.find? (·.isNan)).map (·.quiet)

/-- −v, the sign bit inverted. -/
def FV.neg : FV → FV
  | .nan s f b => .nan (!s) f b
  | .inf s => .inf (!s)
  | .fin s m e => .fin (!s) m e
/-- |v|, the sign bit cleared. -/
def FV.abs : FV → FV
  | .nan _ f b => .nan false f b
  | .inf _ => .inf false
  | .fin _ m e => .fin false m e

/-- The signed integer of m at a common exponent. -/
def scaled (s : Bool) (m : Nat) (e e0 : Int) : Int :=
  let n : Int := m * 2 ^ (e - e0).toNat
  if s then -n else n

/-- The exact sum (R62, R134): an exact zero is +0, or −0 under RD, unless both operands are zeros of one sign. -/
def FV.add (mode : Nat) (a b : FV) : FV :=
  match firstNan [a, b] with
  | some n => n
  | none =>
    match a, b with
    | .inf s, .inf t => if s = t then .inf s else .dnan
    | .inf s, _ => .inf s
    | _, .inf t => .inf t
    | .fin s m e, .fin t n f =>
      if m = 0 ∧ n = 0 then .fin (if s = t then s else mode == 2) 0 0
      else
        let g := min e f
        let z := scaled s m e g + scaled t n f g
        if z = 0 then .fin (mode == 2) 0 0 else .fin (decide (z < 0)) z.natAbs g
    | x, _ => x

/-- The exact difference, NaNs keeping their signs (R62). -/
def FV.sub (mode : Nat) (a b : FV) : FV :=
  match firstNan [a, b] with
  | some n => n
  | none => a.add mode b.neg

/-- The exact product (R62). -/
def FV.mul (a b : FV) : FV :=
  match firstNan [a, b] with
  | some n => n
  | none =>
    match a, b with
    | .inf s, y => if y.isZero then .dnan else .inf (s != y.sign)
    | x, .inf t => if x.isZero then .dnan else .inf (x.sign != t)
    | .fin s m e, .fin t n f => .fin (s != t) (m * n) (e + f)
    | x, _ => x

/-- The exact a · b + c, NaNs in operand order A, B, C (R62, R134). -/
def FV.fma (mode : Nat) (a b c : FV) : FV :=
  match firstNan [a, b, c] with
  | some n => n
  | none => (a.mul b).add mode c

/-- Order of two values that are no NaN: less, −0 equal to +0. -/
def FV.lt (a b : FV) : Bool :=
  match a, b with
  | .inf s, .inf t => s && !t
  | .inf s, _ => s
  | _, .inf t => !t
  | .fin s m e, .fin t n f => decide (scaled s m e (min e f) < scaled t n f (min e f))
  | _, _ => false
/-- Equality of two values that are no NaN, −0 equal to +0. -/
def FV.eqv (a b : FV) : Bool := !a.isNan && !b.isNan && !(a.lt b) && !(b.lt a)

/-- Whether FMIN (or FMAX) chooses its second operand; −0 is less than +0, and a tie keeps the first (R134). -/
def minMaxSecond (isMax : Bool) (a b : FV) : Bool :=
  let lt := fun (x y : FV) => x.lt y || (x.isZero && y.isZero && x.sign && !y.sign)
  if isMax then lt a b else lt b a

/-! ## Quotients and roots. A result that is no dyadic number is returned with a last bit that stands for the rest; it
has far more bits than any format and the 16 bits of SR need, so it rounds as the exact value does. -/

/-- n / d with at least 128 significant bits, the last a sticky bit. -/
def quotFin (neg : Bool) (m : Nat) (e : Int) (n : Nat) (f : Int) : FV :=
  if m = 0 then .fin neg 0 0
  else
    let sh := Nat.log2 n + 130
    let q := m * 2 ^ sh / n
    .fin neg (2 * q + (if m * 2 ^ sh % n = 0 then 0 else 1)) (e - f - sh - 1)

/-- The quotient; division by zero and the infinities as IEEE 754 gives. -/
def FV.div (a b : FV) : FV :=
  match firstNan [a, b] with
  | some n => n
  | none =>
    match a, b with
    | .inf s, y => if y.isInf then .dnan else .inf (s != y.sign)
    | x, .inf t => .fin (x.sign != t) 0 0
    | .fin s m e, .fin t n f =>
      if n = 0 then (if m = 0 then .dnan else .inf (s != t)) else quotFin (s != t) m e n f
    | x, _ => x

/-- floor(sqrt n), by binary digits from digit `k` down. -/
def isqrtFrom (n : Nat) : Nat → Nat → Nat
  | 0, r => r
  | k + 1, r => let r' := r + 2 ^ k; isqrtFrom n k (if r' * r' ≤ n then r' else r)
/-- floor(sqrt n). -/
def isqrt (n : Nat) : Nat := isqrtFrom n (Nat.log2 n / 2 + 1) 0

/-- 1/sqrt(m · 2^e) for m > 0, with a sticky last bit. -/
def rsqrtFin (m : Nat) (e : Int) : FV :=
  let (m, e) := if e % 2 = 0 then (m, e) else (2 * m, e - 1)
  let p := Nat.log2 m + 140
  let r := isqrt (2 ^ (2 * p) / m)
  .fin false (2 * r + (if r * r * m = 2 ^ (2 * p) then 0 else 1)) (-(e / 2) - p - 1)

/-- Reciprocal (R137): 1/a with the sign of a, for a negative a too, as R137's text says; its table writes −1/a there
(log 117). -/
def FV.rcp (a : FV) : FV := (FV.fin false 1 0).div a
/-- Reciprocal square root (R137). -/
def FV.rsq : FV → FV
  | .nan s f b => (FV.nan s f b).quiet
  | .inf s => if s then .dnan else .fin false 0 0
  | .fin s m e => if m = 0 then .inf s else if s then .dnan else rsqrtFin m e

/-- `approx` of R151 on an exact value: 14 fraction bits, or all that the format has. -/
def approxEnc (f : Nat) (v : FV) : Nat :=
  match v with
  | .fin s m e =>
    if m = 0 then encFloat f 0 0 v
    else
      let (_, fb, bias) := fmtParams f
      let q := max (fvExp m e) (1 - bias)
      let g := q - min 14 fb
      encFloat f 0 0 (.fin s (roundGrid 0 s m e g 0) g)
  | _ => encFloat f 0 0 v

/-! ## Exponential, logarithm and hyperbolic tangent (R151). Fixed point with 320 fraction bits; the last bit of a
result stands for the rest, which is never zero: the exact values are irrational. Log entry 7. -/

/-- Fraction bits of the fixed-point numbers below. -/
def fxP : Nat := 320

/-- ln 2 in fixed point: the sum of 1/(k 2^k). -/
def ln2Sum : Nat → Nat
  | 0 => 0
  | k + 1 => ln2Sum k + 2 ^ fxP / ((k + 1) * 2 ^ (k + 1))
/-- ln 2 in fixed point. -/
def ln2Fx : Nat := ln2Sum 330

/-- The sum of t^j / j! from term j on. -/
def expSeries (t : Nat) : Nat → Nat → Nat → Nat
  | 0, _, _ => 0
  | n + 1, j, term => term + expSeries t n (j + 1) (term * t / 2 ^ fxP / (j + 1))
/-- Squaring `n` times. -/
def sqTimes : Nat → Nat → Nat
  | 0, x => x
  | n + 1, x => sqTimes n (x * x / 2 ^ fxP)
/-- e^x for a fixed-point x below 2. -/
def expFx (x : Nat) : Nat := sqTimes 16 (expSeries (x / 2 ^ 16) 24 0 (2 ^ fxP))

/-- floor of m · 2^e in fixed point. -/
def toFx (m : Nat) (e : Int) : Nat :=
  let sh := e + fxP
  if 0 ≤ sh then m * 2 ^ sh.toNat else m / 2 ^ (-sh).toNat

/-- 2^a (R151). -/
def FV.exp2 : FV → FV
  | .nan s f b => (FV.nan s f b).quiet
  | .inf s => if s then .fin false 0 0 else .inf false
  | .fin s m e =>
    if m = 0 then .fin false 1 0
    else if 12 ≤ fvExp m e then (if s then .fin false 1 (-5000) else .fin false 1 5000)
    else
      let x := scaled s m e (min e 0)
      let d : Int := 2 ^ (-(min e 0)).toNat
      let n := x / d
      let r := x % d
      if r = 0 then .fin false 1 n
      else
        let fx := toFx r.toNat (min e 0)
        .fin false (2 * expFx (fx * ln2Fx / 2 ^ fxP) + 1) (n - fxP - 1)

/-- The first `n` binary digits of log2 of a fixed-point x in [1, 2), as a number. -/
def log2Digits : Nat → Nat → Nat → Nat
  | 0, _, acc => acc
  | n + 1, x, acc =>
    let y := x * x / 2 ^ 640
    if 2 ^ 641 ≤ y then log2Digits n (y / 2) (2 * acc + 1) else log2Digits n y (2 * acc)

/-- log2 a (R151). -/
def FV.log2 : FV → FV
  | .nan s f b => (FV.nan s f b).quiet
  | .inf s => if s then .dnan else .inf false
  | .fin s m e =>
    if m = 0 then .inf true
    else if s then .dnan
    else
      let n := fvExp m e
      let l := Nat.log2 m
      if m = 2 ^ l then .ofInt n
      else
        let digits := log2Digits 200 (m * 2 ^ (640 - l)) 0
        let z : Int := n * 2 ^ 201 + (2 * digits + 1)
        .fin (decide (z < 0)) z.natAbs (-201)

/-- tanh a (R151). -/
def FV.tanh : FV → FV
  | .nan s f b => (FV.nan s f b).quiet
  | .inf s => .fin s 1 0
  | .fin s m e =>
    if m = 0 then .fin s 0 0
    else if fvExp m e < -30 then .fin s (m * 2 ^ 100 - 1) (e - 100)
    else if 5 < fvExp m e then .fin s (2 ^ 300 - 1) (-300)
    else
      let x := toFx m (e + 1)
      let n := x / ln2Fx
      let ex := expFx (x % ln2Fx) * 2 ^ n
      let t := 2 ^ fxP - 2 * 2 ^ (2 * fxP) / (ex + 2 ^ fxP)
      .fin s (2 * t - 1) (-(fxP : Int) - 1)

/-- v · ln 2, with a last bit that stands for the rest. -/
def FV.mulLn2 : FV → FV
  | .fin s m e => if m = 0 then .fin s 0 0 else .fin s (2 * (m * ln2Fx) + 1) (e - fxP - 1)
  | v => v
/-- v / ln 2, with a last bit that stands for the rest. -/
def FV.divLn2 : FV → FV
  | .fin s m e => if m = 0 then .fin s 0 0 else .fin s (2 * (m * 2 ^ (2 * fxP) / ln2Fx) + 1) (e - fxP - 1)
  | v => v

/-- Floating conditions (R135). -/
def fcond (cc : Nat) (a b : FV) : Bool :=
  let un := a.isNan || b.isNan
  match cc with
  | 0 => !un && a.eqv b
  | 1 => un || !(a.eqv b)
  | 2 => !un && a.lt b
  | 3 => !un && (a.lt b || a.eqv b)
  | 4 => !un && b.lt a
  | 5 => !un && (b.lt a || a.eqv b)
  | 6 => un
  | _ => !un

/-- The tangent format of a primal format (R198). -/
def tanFmt (f : Nat) : Nat := if f = 0 then 0 else 1

end Sys2Proof.Machine
end

