-- ==== Sys2Proof/Machine/TileIO.lean ====
section
/-!
DEFINITION. Tile operands: the bytes a pass sees (R141), elements and their packing (R65), tangent slices (R199, R202),
scale entries (R66, R67), the checks of R140, masked and dual writes (R141, R142, R195).
-/
namespace Sys2Proof.Machine

/-! ## The bytes that a pass sees -/

/-- The bytes that a held effect is to write, as (home, byte): those of a store or of a tile write (R51, R141). -/
def Held.cells (h : Held) : List (Nat × Byte) :=
  match h.eff with
  | .access a => (match a.op with
    | .store bs => a.homes.zip bs
    | _ => [])
  | .scratch cs => cs
  | _ => []

/-- The byte that a list of cells gives a home. -/
def cellAt (cs : List (Nat × Byte)) (h : Nat) : Option Byte := (cs.find? fun (k, _) => k == h).map (·.2)

/-- The byte at a home as it stood earlier in this cycle, where the whole 64-byte line was read then (R171). -/
def State.lineByte (s : State) (pre : List PreByte) (h : Nat) : Byte :=
  match pre.find? (·.home == h) with
  | some x =>
    if x.cyc = s.clock.cyc ∧ (List.range 64).all fun i =>
        pre.any fun y => y.home == h / 64 * 64 + i && y.t0 == x.t0 then x.b
    else s.rdByte h
  | none => s.rdByte h

/-- The byte at a home as the pass reads it in a tile: committed contents, a line as it is or as it was before another commit of the
cycle (R171), under its own earlier writes, in word order (R141). -/
def State.passByte (s : State) (p : Pass) (h : Nat) : Byte :=
  p.b.held.foldl (fun b x => (cellAt x.cells h).getD b) (s.lineByte p.pre h)

/-! ## Elements (R65) -/

/-- Element `i` of a row held as one little-endian number. -/
def rowElem (bits row i : Nat) : Nat := row / 2 ^ (bits * i) % 2 ^ bits
/-- The first `n` elements of a row. -/
def rowElems (bits n row : Nat) : List Nat := (List.range n).map (rowElem bits row)
/-- A row from its elements. -/
def packRow (bits : Nat) : List Nat → Nat
  | [] => 0
  | v :: r => v % 2 ^ bits + 2 ^ bits * packRow bits r

/-- Row `r` of a tile as one number, as the pass of engine `e` reads it. -/
def State.rowBits (s : State) (e : Nat) (p : Pass) (d : Word) (r : Nat) : Nat :=
  let x := s.descEngine e d
  leNat ((List.range (dRowBytes d)).map fun b => s.passByte p (scratchHome x (tileByte d r b)))

/-- A matrix of zeros. -/
def zeros (rows epr : Nat) : List (List Nat) := List.replicate rows (List.replicate epr 0)
/-- Element [r][i] of a matrix. -/
def at2 (m : List (List Nat)) (r i : Nat) : Nat := (m.getD r []).getD i 0

/-- The elements of a source; the zero descriptor reads as zeros in the shape required (R85). -/
def State.tile (s : State) (e : Nat) (p : Pass) (rows epr : Nat) (d : Word) : List (List Nat) :=
  if d = 0 then zeros rows epr
  else (List.range rows).map fun r => rowElems (fmtBits (dFmt d)) epr (s.rowBits e p d r)

/-- Bits of a tangent of a primal format (R198). -/
def tanBits (fmt : Nat) : Nat := if fmt = 0 then 64 else 32

/-- Tangent `t` of the elements of a tile, from its slices (R199, R202); +0 where the format has none, and for the
zero descriptor (R204). -/
def State.tanTile (s : State) (e : Nat) (p : Pass) (str t rows epr : Nat) (d : Word) : List (List Nat) :=
  let n := fmtSlices (dFmt d)
  if d = 0 ∨ n = 0 then zeros rows epr
  else
    let b := fmtBits (dFmt d)
    let sl := (List.range n).map fun i => s.tile e p rows epr (dWithBase d (tanBase d str t i))
    (List.range rows).map fun r => (List.range epr).map fun k =>
      packRow b (sl.map fun m => at2 m r k) % 2 ^ tanBits (dFmt d)

/-! ## Writes -/

/-- Whether a byte of a row holds part of an element that is written. -/
def byteTouched (bits b : Nat) (row : List (Option Nat)) : Bool :=
  (List.range ((8 * b + 7) / bits - 8 * b / bits + 1)).any fun k => (row.getD (8 * b / bits + k) none).isSome

/-- The cells that writing elements of a tile changes; an element with no value keeps its old contents. -/
def State.tileCells (s : State) (e : Nat) (p : Pass) (d : Word) (vals : List (List (Option Nat))) :
    List (Nat × Byte) :=
  let x := s.descEngine e d
  let bits := fmtBits (dFmt d)
  vals.zipIdx.flatMap fun (row, r) =>
    if row.all (·.isNone) then []
    else
      let old := rowElems bits (dEpr d) (s.rowBits e p d r)
      let new := packRow bits (old.zipIdx.map fun (o, i) => (row.getD i none).getD o)
      (List.range (dRowBytes d)).filterMap fun b =>
        if byteTouched bits b row then some (scratchHome x (tileByte d r b), BitVec.ofNat 8 (new / 256 ^ b)) else none

/-- The pass with a held tile write (R141). -/
def Pass.holdCells (p : Pass) (cs : List (Nat × Byte)) : Pass := if cs = [] then p else p.hold { eff := .scratch cs }
/-- The pass with elements of a tile written (R141). -/
def State.writeTile (s : State) (e : Nat) (p : Pass) (d : Word) (vals : List (List (Option Nat))) : Pass :=
  p.holdCells (s.tileCells e p d vals)

/-- The pass with tangent `t` of elements of a tile written, slice by slice (R199, R202). -/
def State.writeTan (s : State) (e : Nat) (p : Pass) (str t : Nat) (d : Word) (vals : List (List (Option Nat))) : Pass :=
  let b := fmtBits (dFmt d)
  (List.range (fmtSlices (dFmt d))).foldl (fun q i =>
    s.writeTile e q (dWithBase d (tanBase d str t i)) (vals.map (·.map (·.map fun v => v / 2 ^ (b * i) % 2 ^ b)))) p

/-- The pass with elements written and their tangents with them: those of a dual-mode word, else zeros (R195); a tangent
of an element that is empty is +0 (R198). -/
def State.writeDual (s : State) (e : Nat) (p : Pass) (str : Nat) (d : Word) (vals : List (List (Option Nat)))
    (tan : Option (Nat → List (List Nat))) : Pass :=
  (List.range p.kfire).foldl (fun q t =>
    let tv : List (List Nat) := match tan with
      | some g => if p.kp = 0 then [] else g (t + 1)
      | none => []
    s.writeTan e q str (t + 1) d (vals.zipIdx.map fun (row, r) => row.zipIdx.map fun (v, i) =>
      v.map fun x => if isEmptyEnc (dFmt d) x then 0 else at2 tv r i))
    (s.writeTile e p d vals)

/-- Whether ME and MS let row `r` be written (R142). -/
def Pass.rowOn (p : Pass) (f : FmtA) (r : Nat) : Bool := f.me == 0 || (tget 0 p.r.m f.ms.toNat).getLsbD r
/-- Elements with the rows that are masked off left out (R142). -/
def Pass.masked (p : Pass) (f : FmtA) (vals : List (List (Option Nat))) : List (List (Option Nat)) :=
  vals.zipIdx.map fun (row, r) => if p.rowOn f r then row else row.map fun _ => none

/-! ## Checks (R140) -/

/-- The first uncorrectable error that reading tiles meets (R454). -/
def State.tileEcc (s : State) (e : Nat) (ds : List Word) : Option Failure :=
  if s.ecc = [] then none
  else
    (ds.filter (· != 0)).findSome? fun d =>
      let x := s.descEngine e d
      (List.range (dRows d)).findSome? fun r => (List.range (dRowBytes d)).findSome? fun b =>
        let h := scratchHome x (tileByte d r b)
        if s.eccAt h 1 then some ⟨cEcc, 0, Config.eccPlace h⟩ else none

/-- The checks 1 to 3 of R140 on the descriptors written and read, tangents included (R202): of each source, whether the word uses
its tangents. -/
def State.operandFault (s : State) (e : Nat) (a : Active) (dst : List Word) (src : List (Word × Bool)) : Option Nat :=
  let n := s.nmemOf e
  let str := s.shadowStride e a.fr.op
  let one := fun (k : Nat) (d : Word) =>
    match descFault n d with
    | some c => some c
    | none => if d = 0 then none else tanFault n str k d
  match dst.findSome? (one a.pass.kfire) with
  | some c => some c
  | none =>
    match src.findSome? (fun (d, dual) => one (if dual then a.pass.kp else 0) d) with
    | some c => some c
    | none => if dst.any fun d => d == 0 || dLoc d != 0 then some cDesc else none
/-- The same checks, where the word uses the tangents of every source or of none. -/
def State.vecFault (s : State) (e : Nat) (a : Active) (dst src : List Word) (dual : Bool) : Option Nat :=
  s.operandFault e a dst (src.map (·, dual))

/-- Whether a source has the shape and format that the instruction requires, and no scales (R140). -/
def srcOk (d : Word) (fmt rows epr : Nat) : Bool :=
  d == 0 || (dFmt d == fmt && dGs d == 0 && dRows d == rows && dEpr d == epr)

/-- A failure without an address. -/
def plain (c : Nat) : Failure := ⟨c, 0, 0⟩

/-- A word that traps or changes nothing but the pass (R52, R92). -/
def vecWord (i : Instr) (s : State) (k : Nat → Active → Except Failure Pass) : Host.Outcome State Fault Refusal :=
  passWord i s fun e a =>
    match k e a with
    | .ok p => .ok p
    | .error f => .trap f

/-- The random bits of SR for the open pass (R69): `tj` the tangent, `elem` the element. -/
def State.sr (s : State) (e : Nat) (a : Active) (tj elem : Nat) : Nat :=
  let l := if (s.opOf e a).h.pool then 512 + e / 72 else e
  srBits (s.ctx a.fr.ctx).r.seed l a.fr.op a.pass.col a.pass.idx tj elem

/-! ## Element-wise words -/

/-- An operand of an element-wise word: a tile, or a scalar register, of a format (R139), and whether the word uses its tangents
(R166). -/
structure VIn where
  desc : Word
  scal : Option Spec
  fmt  : Nat
  tan  : Bool := true
deriving Repr

/-- The descriptors that operands read, each with whether its tangents are used too. -/
def VIn.descs (ins : List VIn) (dual : Bool) : List (Word × Bool) :=
  (ins.filter (·.scal.isNone)).map fun x => (x.desc, dual && x.tan)

/-- The elements of an operand. -/
def VIn.vals (x : VIn) (s : State) (e : Nat) (p : Pass) (rows epr : Nat) : List (List Nat) :=
  match x.scal with
  | some sp => List.replicate rows (List.replicate epr ((p.rd s.tick sp).toNat % 2 ^ fmtBits x.fmt))
  | none => s.tile e p rows epr x.desc
/-- Tangent `t` of an operand; a broadcast scalar contributes the tangent of its register (R166). -/
def VIn.tans (x : VIn) (s : State) (e : Nat) (p : Pass) (str t rows epr : Nat) : List (List Nat) :=
  match x.scal with
  | some sp => List.replicate rows (List.replicate epr
      (if x.fmt ≤ 7 then (p.rdSh sp t).toNat % 2 ^ tanBits x.fmt else 0))
  | none => s.tanTile e p str t rows epr x.desc

/-- An element-wise word into the tile of DST: `prim` gives an element from its index and the operands, `tan` its tangent
from operands, result and operand tangents. -/
def State.vecMap (s : State) (e : Nat) (a : Active) (f : FmtA) (dstOk : Nat → Bool) (ins : List VIn)
    (prim : Nat → List Nat → Nat) (tan : Option (List Nat → Nat → List Nat → Nat)) : Except Failure Pass :=
  let p := a.pass
  let d := p.rd s.tick f.dst
  let src := (ins.filter (·.scal.isNone)).map (·.desc)
  let rows := dRows d
  let epr := dEpr d
  let str := s.shadowStride e a.fr.op
  match s.operandFault e a [d] (VIn.descs ins tan.isSome) with
  | some c => .error (plain c)
  | none =>
    if dstOk (dFmt d) = false ∨ dGs d ≠ 0 ∨
        (ins.any fun x => x.scal.isNone && !srcOk x.desc x.fmt rows epr) then .error (plain cDesc)
    else
      match s.tileEcc e src with
      | some g => .error g
      | none =>
        let cols := ins.map fun x => x.vals s e p rows epr
        let out := (List.range rows).map fun r => (List.range epr).map fun i =>
          prim (r * epr + i) (cols.map fun c => at2 c r i)
        let tans := tan.map fun g => fun t =>
          let tc := ins.map fun x => x.tans s e p str t rows epr
          (List.range rows).map fun r => (List.range epr).map fun i =>
            g (cols.map fun c => at2 c r i) (at2 out r i) (tc.map fun c => at2 c r i)
        .ok (s.writeDual e p str d (p.masked f (out.map (·.map some))) tans)

/-- A tile operand in a register. -/
def Pass.tileIn (p : Pass) (tick : Word) (sp : Spec) (fmt : Nat) : VIn := ⟨p.rd tick sp, none, fmt, true⟩
/-- A tile operand whose tangents the word does not use (R166). -/
def Pass.plainIn (p : Pass) (tick : Word) (sp : Spec) (fmt : Nat) : VIn := ⟨p.rd tick sp, none, fmt, false⟩
/-- A tile operand, or a scalar where the qualifier bit is set. -/
def Pass.maybeScal (p : Pass) (tick : Word) (sp : Spec) (fmt : Nat) (sc : Bool) : VIn :=
  if sc then ⟨0, some sp, fmt, true⟩ else p.tileIn tick sp fmt

/-- A tangent expression rounded once, in RNE, into the tangent format of a primal format (R198). -/
def tanEnc (fmt : Nat) (v : FV) : Nat := encFloat (tanFmt fmt) 0 0 v
/-- A tangent of a primal format as a value. -/
def tanVal (fmt bits : Nat) : FV := fvOf (tanFmt fmt) bits

end Sys2Proof.Machine
end

