-- ==== Sys2Proof/Machine/ScalarFp.lean ====
section
/-!
DEFINITION. Scalar floating-point instructions (R133–R138).
-/
namespace Sys2Proof.Machine

/-- The number that an operand register holds in a format (R133). -/
def Pass.fpBits (p : Pass) (tick : Word) (fmt : Nat) (sp : Spec) : Nat := (p.rd tick sp).toNat % 2 ^ fmtBits fmt
/-- The value that an operand register holds in a format (R133). -/
def Pass.fpVal (p : Pass) (tick : Word) (fmt : Nat) (sp : Spec) : FV := fvOf fmt (p.fpBits tick fmt sp)
/-- Tangent `t` of an operand register, in the tangent format of a primal format (R200). -/
def Pass.fpTan (p : Pass) (fmt : Nat) (sp : Spec) (t : Nat) : FV := tanVal fmt ((p.rdSh sp t).toNat % 2 ^ tanBits fmt)

/-- A scalar floating word: `prim` gives the result's encoding in format F1 from the random bits of SR and the operands,
`tan` a tangent from operands, result and operand tangents (R138). An empty result has tangent +0 (R198). -/
def fpWord (i : Instr) (f : FmtA) (s : State) (prim : Nat → FV → FV → FV → Nat)
    (tan : FV → FV → FV → FV → FV → FV → FV → FV) : Host.Outcome State Fault Refusal :=
  passWord i s fun e a =>
    let p := a.pass
    let m := f.f1.toNat
    let va := p.fpVal s.tick m f.sa
    let vb := p.fpVal s.tick m f.sb
    let vc := p.fpVal s.tick m f.sc
    let y := prim (s.sr e a 0 0) va vb vc
    .ok (p.wrD f.dst (BitVec.ofNat 64 y) fun t =>
      if isEmptyEnc m y then 0
      else BitVec.ofNat 64 (tanEnc m
        (tan va vb vc (fvOf m y) (p.fpTan m f.sa t) (p.fpTan m f.sb t) (p.fpTan m f.sc t))))

/-- A result rounded into format F1 under RM. -/
def rndF (f : FmtA) (k : Nat) (v : FV) : Nat := encFloat f.f1.toNat f.rm.toNat k v

/-- a′b + ab′ (R138). -/
def FV.prodTan (a b ta tb : FV) : FV := (ta.mul b).add 0 (a.mul tb)

/-- FADD (R134). -/
def execFadd (f : FmtA) (s : State) :=
  fpWord (.fadd f) f s (fun k a b _ => rndF f k (a.add f.rm.toNat b)) fun _ _ _ _ ta tb _ => ta.add 0 tb
/-- FSUB (R134). -/
def execFsub (f : FmtA) (s : State) :=
  fpWord (.fsub f) f s (fun k a b _ => rndF f k (a.sub f.rm.toNat b)) fun _ _ _ _ ta tb _ => ta.sub 0 tb
/-- FMUL (R134). -/
def execFmul (f : FmtA) (s : State) :=
  fpWord (.fmul f) f s (fun k a b _ => rndF f k (a.mul b)) fun a b _ _ ta tb _ => a.prodTan b ta tb
/-- FFMA (R134). -/
def execFfma (f : FmtA) (s : State) :=
  fpWord (.ffma f) f s (fun k a b c => rndF f k (a.fma f.rm.toNat b c))
    fun a b _ _ ta tb tc => (a.prodTan b ta tb).add 0 tc

/-- Whether FMIN or FMAX takes its second operand: a NaN operand, the first one, decides (R62, R134). -/
def minMaxPick (isMax : Bool) (a b : FV) : Bool :=
  if a.isNan then false else if b.isNan then true else minMaxSecond isMax a b
/-- The operand that FMIN or FMAX takes, a NaN made quiet. -/
def minMaxVal (isMax : Bool) (a b : FV) : FV := (if minMaxPick isMax a b then b else a).quiet
/-- FMIN (R134). -/
def execFmin (f : FmtA) (s : State) :=
  fpWord (.fmin f) f s (fun _ a b _ => encFloat f.f1.toNat 0 0 (minMaxVal false a b))
    fun a b _ _ ta tb _ => if minMaxPick false a b then tb else ta
/-- FMAX (R134). -/
def execFmax (f : FmtA) (s : State) :=
  fpWord (.fmax f) f s (fun _ a b _ => encFloat f.f1.toNat 0 0 (minMaxVal true a b))
    fun a b _ _ ta tb _ => if minMaxPick true a b then tb else ta

/-- FCMP (R135): no dual meaning. -/
def execFcmp (f : FmtA) (s : State) : Host.Outcome State Fault Refusal :=
  passWord (.fcmp f) s fun _ a =>
    let p := a.pass
    let m := f.f1.toNat
    .ok (p.wrP f.dst
      (BitVec.ofNat 64 (b2n (fcond f.f2.toNat (p.fpVal s.tick m f.sa) (p.fpVal s.tick m f.sb)))))

/-- The 64-bit register value of an element: signed integer formats are sign-extended (R136). -/
def regOf (fmt bits : Nat) : Word :=
  if 8 ≤ fmt ∧ fmt ≤ 11 then BitVec.ofInt 64 (intVal fmt bits) else BitVec.ofNat 64 bits
/-- FCVT (R136): a dual meaning into a floating format only (R138). -/
def execFcvt (f : FmtA) (s : State) : Host.Outcome State Fault Refusal :=
  passWord (.fcvt f) s fun e a =>
    let p := a.pass
    let m := f.f1.toNat
    let n := f.f2.toNat
    let y := convEnc m n f.rm.toNat (s.sr e a 0 0) (p.fpBits s.tick m f.sa)
    if n ≤ 7 then
      .ok (p.wrD f.dst (regOf n y) fun t =>
        if 8 ≤ m ∨ isEmptyEnc n y then 0
        else BitVec.ofNat 64 (convEnc (tanFmt m) (tanFmt n) 0 0 ((p.rdSh f.sa t).toNat % 2 ^ tanBits m)))
    else .ok (p.wrP f.dst (regOf n y))

/-- −a′y² (R138). -/
def FV.rcpTan (y ta : FV) : FV := ((FV.fin true 1 0).mul ta).mul (y.mul y)
/-- −0.5 · a′y³ (R138). -/
def FV.rsqTan (y ta : FV) : FV := ((FV.fin true 1 (-1)).mul ta).mul ((y.mul y).mul y)
/-- FRCP (R137). -/
def execFrcp (f : FmtA) (s : State) :=
  fpWord (.frcp f) f s (fun k a _ _ => rndF f k a.rcp) fun _ _ _ y ta _ _ => y.rcpTan ta
/-- FRSQ (R137). -/
def execFrsq (f : FmtA) (s : State) :=
  fpWord (.frsq f) f s (fun k a _ _ => rndF f k a.rsq) fun _ _ _ y ta _ _ => y.rsqTan ta

end Sys2Proof.Machine
end

