-- ==== Sys2Proof/Machine/Vector.lean ====
section
/-!
DEFINITION. Element-wise vector instructions: arithmetic, logic, comparison, selection, masks, conversion, special
functions (R145–R152), with their dual meanings (R166).
-/
namespace Sys2Proof.Machine

/-! ## Arithmetic (R145) -/

/-- An exact integer result reduced or clamped into a format (R145). -/
def intRes (fmt : Nat) (sat : Bool) (n : Int) : Nat := intEnc fmt (if sat then intClamp fmt n else n)

/-- An arithmetic word: `fl` is the floating result, `it` the exact integer result, `tan` the tangent. -/
def vArith (i : Instr) (f : FmtA) (s : State) (nsrc : Nat) (fl : Nat → Nat → Nat → Nat → Nat) (it : Int → Int → Int → Int)
    (tan : FV → FV → FV → FV → FV → FV → FV) : Host.Outcome State Fault Refusal :=
  vecWord i s fun e a =>
    let p := a.pass
    let m := f.f1.toNat
    let ins := ([p.tileIn s.tick f.sa m, p.maybeScal s.tick f.sb m (f.imm.getLsbD 0),
      p.maybeScal s.tick f.sc m (f.imm.getLsbD 1)] : List VIn).take nsrc
    s.vecMap e a f (· == m) ins
      (fun n o =>
        let x := o.getD 0 0
        let y := o.getD 1 0
        let z := o.getD 2 0
        if m ≤ 3 then fl (if f.rm = 4 then s.sr e a 0 n else 0) x y z
        else intRes m (f.imm.getLsbD 2) (it (intVal m x) (intVal m y) (intVal m z)))
      (if m ≤ 3 then some fun o _ t =>
        let v := fun (l : List Nat) (k : Nat) => fvOf m (l.getD k 0)
        let w := fun (l : List Nat) (k : Nat) => tanVal m (l.getD k 0)
        tanEnc m (tan (v o 0) (v o 1) (v o 2) (w t 0) (w t 1) (w t 2))
      else none)

/-- VADD (R145). -/
def execVadd (f : FmtA) (s : State) :=
  vArith (.vadd f) f s 2
    (fun k x y _ => rndF f k ((fvOf f.f1.toNat x).add f.rm.toNat (fvOf f.f1.toNat y)))
    (fun x y _ => x + y) fun _ _ _ ta tb _ => ta.add 0 tb
/-- VSUB (R145). -/
def execVsub (f : FmtA) (s : State) :=
  vArith (.vsub f) f s 2
    (fun k x y _ => rndF f k ((fvOf f.f1.toNat x).sub f.rm.toNat (fvOf f.f1.toNat y)))
    (fun x y _ => x - y) fun _ _ _ ta tb _ => ta.sub 0 tb
/-- VMUL (R145). -/
def execVmul (f : FmtA) (s : State) :=
  vArith (.vmul f) f s 2
    (fun k x y _ => rndF f k ((fvOf f.f1.toNat x).mul (fvOf f.f1.toNat y)))
    (fun x y _ => x * y) fun a b _ ta tb _ => a.prodTan b ta tb
/-- VFMA (R145). -/
def execVfma (f : FmtA) (s : State) :=
  vArith (.vfma f) f s 3
    (fun k x y z => rndF f k ((fvOf f.f1.toNat x).fma f.rm.toNat (fvOf f.f1.toNat y) (fvOf f.f1.toNat z)))
    (fun x y z => x * y + z) fun a b _ ta tb tc => (a.prodTan b ta tb).add 0 tc
/-- VMIN (R145). -/
def execVmin (f : FmtA) (s : State) :=
  vArith (.vmin f) f s 2
    (fun _ x y _ => encFloat f.f1.toNat 0 0 (minMaxVal false (fvOf f.f1.toNat x) (fvOf f.f1.toNat y)))
    (fun x y _ => min x y) fun a b _ ta tb _ => if minMaxPick false a b then tb else ta
/-- VMAX (R145). -/
def execVmax (f : FmtA) (s : State) :=
  vArith (.vmax f) f s 2
    (fun _ x y _ => encFloat f.f1.toNat 0 0 (minMaxVal true (fvOf f.f1.toNat x) (fvOf f.f1.toNat y)))
    (fun x y _ => max x y) fun a b _ ta tb _ => if minMaxPick true a b then tb else ta
/-- VABS (R145). DESIGN CHOICE (log 145): a NaN counts by its sign bit, and minus a NaN has the other sign (R62, R166). -/
def execVabs (f : FmtA) (s : State) :=
  vArith (.vabs f) f s 1
    (fun _ x _ _ => x % 2 ^ (fmtBits f.f1.toNat - 1))
    (fun x _ _ => |x|) fun a _ _ ta _ _ => if a.isZero then .zero else if a.sign then ta.neg else ta
/-- VNEG (R145). DESIGN CHOICE (log 145): minus a NaN tangent has the other sign (R62, R166). -/
def execVneg (f : FmtA) (s : State) :=
  vArith (.vneg f) f s 1
    (fun _ x _ _ => (x + 2 ^ (fmtBits f.f1.toNat - 1)) % 2 ^ fmtBits f.f1.toNat)
    (fun x _ _ => -x) fun _ _ _ ta _ _ => ta.neg

/-! ## Logic and shifts (R146) -/

/-- A logic or shift word on the element bits: `g` takes the element and the second operand's bits. -/
def vLogic (i : Instr) (f : FmtA) (s : State) (g : Nat → Nat → Nat) : Host.Outcome State Fault Refusal :=
  vecWord i s fun e a =>
    let p := a.pass
    let m := f.f1.toNat
    s.vecMap e a f (· == m) [p.tileIn s.tick f.sa m, p.maybeScal s.tick f.sb m (f.imm.getLsbD 0)]
      (fun _ o => g (o.getD 0 0) (o.getD 1 0)) none

/-- VAND (R146). -/
def execVand (f : FmtA) (s : State) := vLogic (.vand f) f s fun x y => x &&& y
/-- VOR (R146). -/
def execVor (f : FmtA) (s : State) := vLogic (.vor f) f s fun x y => x ||| y
/-- VXOR (R146). -/
def execVxor (f : FmtA) (s : State) := vLogic (.vxor f) f s fun x y => x ^^^ y
/-- VSHL (R146). -/
def execVshl (f : FmtA) (s : State) :=
  vLogic (.vshl f) f s fun x y =>
    let n := fmtBits f.f1.toNat
    if n ≤ y then 0 else x * 2 ^ y % 2 ^ n
/-- VSHR (R146). -/
def execVshr (f : FmtA) (s : State) :=
  vLogic (.vshr f) f s fun x y => if fmtBits f.f1.toNat ≤ y then 0 else x / 2 ^ y
/-- VSRA (R146): on UINT8 the same as VSHR. -/
def execVsra (f : FmtA) (s : State) :=
  vLogic (.vsra f) f s fun x y =>
    let m := f.f1.toNat
    intEnc m (intVal m x / 2 ^ min y (fmtBits m))

/-! ## Comparison, selection, masks (R147–R149) -/

/-- Whether the condition of VCMP holds between two elements (R147). -/
def vcmpHolds (fmt cc x y : Nat) : Bool :=
  if fmt ≤ 7 then fcond cc (fvOf fmt x) (fvOf fmt y)
  else
    let a := intVal fmt x
    let b := intVal fmt y
    match cc with
    | 0 => a == b
    | 1 => a != b
    | 2 => decide (a < b)
    | 3 => decide (b ≤ a)
    | 4 => decide (x < y)
    | 5 => decide (y ≤ x)
    | 6 => decide (b < a)
    | 7 => decide (a ≤ b)
    | 8 => decide (y < x)
    | 9 => decide (x ≤ y)
    | _ => false

/-- VCMP (R147): no tangent. -/
def execVcmp (f : FmtA) (s : State) : Host.Outcome State Fault Refusal :=
  vecWord (.vcmp f) s fun e a =>
    let p := a.pass
    let m := f.f1.toNat
    let df := dFmt (p.rd s.tick f.dst)
    s.vecMap e a f (fun x => decide (x ≤ 12))
      [p.tileIn s.tick f.sa m, p.maybeScal s.tick f.sb m (f.imm.getLsbD 0)]
      (fun _ o => if vcmpHolds m f.f2.toNat (o.getD 0 0) (o.getD 1 0) then encAny df 0 0 (.fin false 1 0) else 0) none

/-- Whether an element counts as non-zero: it is no +0 and no −0 (R148). -/
def elemNonzero (fmt x : Nat) : Bool :=
  if fmt ≤ 7 then x % 2 ^ (fmtBits fmt - 1) != 0 else x != 0

/-- VSEL (R148). -/
def execVsel (f : FmtA) (s : State) : Host.Outcome State Fault Refusal :=
  vecWord (.vsel f) s fun e a =>
    let p := a.pass
    let m := f.f1.toNat
    let c := p.rd s.tick f.sc
    let cf := dFmt c
    let ins := [p.tileIn s.tick f.sa m, p.maybeScal s.tick f.sb m (f.imm.getLsbD 0), p.plainIn s.tick f.sc cf]
    if c ≠ 0 ∧ cf = 13 then
      .error (plain ((s.operandFault e a [p.rd s.tick f.dst] (VIn.descs ins (decide (m ≤ 7)))).getD cDesc))
    else
      let pick := fun (o : List Nat) => elemNonzero cf (o.getD 2 0)
      s.vecMap e a f (· == m) ins
        (fun _ o => if pick o then o.getD 0 0 else o.getD 1 0)
        (if m ≤ 7 then some fun o _ t => if pick o then t.getD 0 0 else t.getD 1 0 else none)

/-- VMSK (R149). A zero descriptor counts as 64 rows of zeros (R85, R180). -/
def execVmsk (f : FmtA) (s : State) : Host.Outcome State Fault Refusal :=
  vecWord (.vmsk f) s fun e a =>
    let p := a.pass
    let m := f.f1.toNat
    let d := p.rd s.tick f.sa
    let j := fld f.imm 2 8
    let rows := if d = 0 then 64 else dRows d
    let epr := if d = 0 then 256 else dEpr d
    match s.vecFault e a [] [d] false with
    | some c => .error (plain c)
    | none =>
      if d ≠ 0 ∧ (dFmt d ≠ m ∨ dGs d ≠ 0 ∨ epr ≤ j) then .error (plain cDesc)
      else
        match s.tileEcc e [d] with
        | some g => .error g
        | none =>
          let t := s.tile e p rows epr d
          let bit := fun (row : List Nat) =>
            match fld f.imm 0 2 with
            | 0 => row.any (elemNonzero m)
            | 1 => row.all (elemNonzero m)
            | 2 => elemNonzero m (row.getD j 0)
            | _ => !isEmptyEnc m (row.getD j 0)
          .ok (p.wr f.dst (BitVec.ofNat 64 (packRow 1 (t.map fun row => b2n (bit row)))))

/-! ## Conversion and special functions (R150–R152) -/

/-- VCVT (R150): a dual meaning into a floating format only. -/
def execVcvt (f : FmtA) (s : State) : Host.Outcome State Fault Refusal :=
  vecWord (.vcvt f) s fun e a =>
    let p := a.pass
    let m := f.f1.toNat
    let n := f.f2.toNat
    s.vecMap e a f (· == n) [p.tileIn s.tick f.sa m]
      (fun k o => convEnc m n f.rm.toNat (if f.rm = 4 then s.sr e a 0 k else 0) (o.getD 0 0))
      (if n ≤ 7 then some fun _ _ t => convEnc (tanFmt m) (tanFmt n) 0 0 (t.getD 0 0) else none)

/-- A one-source special function (R151): `fn` gives the result's encoding from the random bits and the operand, `tan` the
tangent from operand, result and operand tangent. -/
def vFun (i : Instr) (f : FmtA) (s : State) (fn : Nat → FV → Nat) (tan : FV → FV → FV → FV) :
    Host.Outcome State Fault Refusal :=
  vecWord i s fun e a =>
    let m := f.f1.toNat
    s.vecMap e a f (· == m) [a.pass.tileIn s.tick f.sa m]
      (fun k o => fn (if f.rm = 4 then s.sr e a 0 k else 0) (fvOf m (o.getD 0 0)))
      (some fun o y t => tanEnc m (tan (fvOf m (o.getD 0 0)) (fvOf m y) (tanVal m (t.getD 0 0))))

/-- VRCP (R151). -/
def execVrcp (f : FmtA) (s : State) :=
  vFun (.vrcp f) f s (fun _ a => approxEnc f.f1.toNat a.rcp) fun _ y ta => y.rcpTan ta
/-- VRSQ (R151). -/
def execVrsq (f : FmtA) (s : State) :=
  vFun (.vrsq f) f s (fun _ a => approxEnc f.f1.toNat a.rsq) fun _ y ta => y.rsqTan ta
/-- VEXP2 (R151): the tangent is a′ · y · ln 2. -/
def execVexp2 (f : FmtA) (s : State) :=
  vFun (.vexp2 f) f s (fun k a => rndF f k a.exp2) fun _ y ta => (ta.mul y).mulLn2
/-- VLOG2 (R151): the tangent is a′ / (a · ln 2). -/
def execVlog2 (f : FmtA) (s : State) :=
  vFun (.vlog2 f) f s (fun k a => rndF f k a.log2) fun a _ ta => (ta.div a).divLn2
/-- VTANH (R151): the tangent is a′ (1 − y²). -/
def execVtanh (f : FmtA) (s : State) :=
  vFun (.vtanh f) f s (fun k a => rndF f k a.tanh) fun _ y ta =>
    ta.mul ((FV.fin false 1 0).sub 0 (y.mul y))

/-- One Newton step (R152): `fn` is FN, `k` the random bits of SR. -/
def newtonEnc (fmt mode k : Nat) (rsq : Bool) (a y : FV) (yBits : Nat) : Nat :=
  let rnd := fun (v : FV) => fvOf fmt (encFloat fmt mode k v)
  match firstNan [a, y] with
  | some n => encFloat fmt mode k n
  | none =>
    if y.isZero ∨ y.isInf then yBits
    else if rsq then
      let t := rnd (y.mul y)
      let e := rnd (a.neg.fma mode t (.fin false 1 0))
      encFloat fmt mode k ((y.mul (.fin false 1 (-1))).fma mode e y)
    else
      let e := rnd (a.neg.fma mode y (.fin false 1 0))
      encFloat fmt mode k (y.fma mode e y)
/-- VNRS (R152). -/
def execVnrs (f : FmtA) (s : State) : Host.Outcome State Fault Refusal :=
  vecWord (.vnrs f) s fun e a =>
    let p := a.pass
    let m := f.f1.toNat
    let rsq := f.imm.getLsbD 0
    s.vecMap e a f (· == m) [p.tileIn s.tick f.sa m, p.plainIn s.tick f.sb m]
      (fun n o => newtonEnc m f.rm.toNat (if f.rm = 4 then s.sr e a 0 n else 0) rsq
        (fvOf m (o.getD 0 0)) (fvOf m (o.getD 1 0)) (o.getD 1 0))
      (some fun _ y t =>
        let v := fvOf m y
        let ta := tanVal m (t.getD 0 0)
        tanEnc m (if rsq then v.rsqTan ta else v.rcpTan ta))

end Sys2Proof.Machine
end

