-- ==== Sys2Proof/Machine/VectorRow.lean ====
section
/-!
DEFINITION. Row reductions and scans (R153, R154), movement of elements (R155–R158), carry-chained integers (R161–R163)
and selection of the largest elements (R164).
-/
namespace Sys2Proof.Machine

/-! ## Orders of sums (R72–R75) -/

/-- One level of a tree: neighbours added, an odd last element kept. -/
def pairUp {α : Type} (add : α → α → α) : List α → List α
  | a :: b :: r => add a b :: pairUp add r
  | l => l
/-- tree_sum of R73; 14 levels are enough for 16,384 elements. -/
def treeSum {α : Type} (add : α → α → α) : Nat → List α → List α
  | 0, l => l
  | n + 1, l => treeSum add n (pairUp add l)
/-- The doubling steps of the TREE scan (R154), `d` the distance. -/
def treeScan {α : Type} (add : α → α → α) : Nat → Nat → List α → List α
  | 0, _, v => v
  | n + 1, d, v => treeScan add n (2 * d) (if d < v.length then v.take d ++ List.zipWith add v (v.drop d) else v)
/-- Running sums in ascending index (R74). -/
def runSums {α : Type} (add : α → α → α) : α → List α → List α
  | a, [] => [a]
  | a, b :: r => a :: runSums add (add a b) r

/-- The exact sum of values rounded once, with the flags of R76 and an exact zero as +0 (R77). -/
def exactEnc (fmt mode : Nat) (l : List FV) : Nat :=
  let pinf := l.any fun v => v.isInf && !v.sign
  let ninf := l.any fun v => v.isInf && v.sign
  if l.any (·.isNan) || (pinf && ninf) then encFloat fmt 0 0 .dnan
  else if pinf || ninf then encFloat fmt 0 0 (.inf ninf)
  else
    let z := l.foldl (FV.add 0) .zero
    encFloat fmt mode 0 (if z.isZero then .zero else z)

/-- One addition of a reduction in a format (R73, R74, R153). -/
def addEnc (fmt mode : Nat) (x y : Nat) : Nat :=
  if fmt ≤ 7 then encFloat fmt mode 0 ((fvOf fmt x).add mode (fvOf fmt y)) else (x + y) % 2 ^ fmtBits fmt

/-- The sum of a row under a reduction mode (R154). -/
def reduceEnc (fmt mode red : Nat) (l : List Nat) : Nat :=
  match red with
  | 2 => exactEnc fmt mode (l.map (fvOf fmt))
  | 1 => (match l with
    | [] => 0
    | x :: r => r.foldl (addEnc fmt mode) x)
  | _ => (treeSum (addEnc fmt mode) 14 l).headD 0
/-- The prefix sums of a row under a reduction mode (R154). -/
def scanEnc (fmt mode red : Nat) (excl : Bool) (l : List Nat) : List Nat :=
  let inc := match red with
    | 2 => (List.range l.length).map fun i => exactEnc fmt mode ((l.take (i + 1)).map (fvOf fmt))
    | 1 => (match l with
      | [] => []
      | x :: r => runSums (addEnc fmt mode) x r)
    | _ => treeScan (addEnc fmt mode) 8 1 l
  if excl then 0 :: inc.dropLast else inc

/-- Whether a destination format may take a reduction of format `m` (R153). -/
def accOk (m d : Nat) : Bool :=
  match m with
  | 0 => d == 0
  | 1 => d ∈ [0, 1]
  | 2 => d ∈ [0, 1, 2]
  | 3 => d ∈ [0, 1, 3]
  | 8 => d == 8
  | 9 => d ∈ [8, 9]
  | 10 => d ∈ [8, 9, 10]
  | _ => false

/-- An element converted into the accumulation format (R153): exact. -/
def widenEnc (m d x : Nat) : Nat := if m ≤ 7 then convEnc m d 0 0 x else intEnc d (intVal m x)

/-- Which source element and which destination element: the vectors that a reduction reduces, with the row each goes to.
With ALL the tile is one vector (R154). -/
def redRows (all : Bool) (t : List (List Nat)) : List (List Nat) := if all then [t.flatten] else t

/-- A reduction of rows to element j (R154): `g` reduces converted elements to one, `tn` their tangents to one. -/
def State.vecReduce (s : State) (e : Nat) (a : Active) (f : FmtA) (all : Bool) (g : Nat → List Nat → Nat)
    (tn : Nat → List Nat → List Nat → Nat) : Except Failure Pass :=
  let p := a.pass
  let m := f.f1.toNat
  let d := p.rd s.tick f.dst
  let x := p.rd s.tick f.sa
  let j := fld f.imm 0 8
  let rows := if x = 0 then dRows d else dRows x
  let epr := if x = 0 then 1 else dEpr x
  let str := s.shadowStride e a.fr.op
  match s.vecFault e a [d] [x] (decide (m ≤ 7)) with
  | some c => .error (plain c)
  | none =>
    if accOk m (dFmt d) = false ∨ dGs d ≠ 0 ∨ dEpr d ≤ j ∨ (x ≠ 0 ∧ (dFmt x ≠ m ∨ dGs x ≠ 0)) ∨
        (all = false ∧ rows ≠ dRows d) then .error (plain cDesc)
    else
      match s.tileEcc e [x] with
      | some q => .error q
      | none =>
        let src := (redRows all (s.tile e p rows epr x)).map (·.map (widenEnc m (dFmt d)))
        let spot := fun (v : Nat) => List.replicate j none ++ [some v]
        let vals := src.map fun v => spot (g (dFmt d) v)
        let tans := fun t =>
          let tt := (redRows all (s.tanTile e p str t rows epr x)).map
            (·.map fun v => if m ≤ 7 then convEnc (tanFmt m) (tanFmt (dFmt d)) 0 0 v else 0)
          (src.zip tt).map fun (v, w) => List.replicate j 0 ++ [tn (dFmt d) v w]
        .ok (s.writeDual e p str d (p.masked f vals) (if m ≤ 7 then some tans else none))

/-- VSUMR (R154). -/
def execVsumr (f : FmtA) (s : State) : Host.Outcome State Fault Refusal :=
  vecWord (.vsumr f) s fun e a =>
    s.vecReduce e a f (f.imm.getLsbD 8) (fun df v => reduceEnc df f.rm.toNat f.red.toNat v)
      fun df _ w => reduceEnc (tanFmt df) 0 f.red.toNat w

/-- The index of the maximum (or minimum) of a row, from index `i` on, `best` the index and element so far (R134, R154). -/
def bestFrom (isMax : Bool) (fmt : Nat) : Nat → Nat × Nat → List Nat → Nat × Nat
  | _, best, [] => best
  | i, best, y :: r =>
    let second :=
      if fmt ≤ 7 then minMaxPick isMax (fvOf fmt best.2) (fvOf fmt y)
      else if isMax then decide (intVal fmt best.2 < intVal fmt y) else decide (intVal fmt y < intVal fmt best.2)
    bestFrom isMax fmt (i + 1) (if second then (i, y) else best) r
/-- The index and element that VMAXR takes from a row. -/
def bestOf (isMax : Bool) (fmt : Nat) (v : List Nat) : Nat × Nat :=
  match v with
  | [] => (0, 0)
  | x :: r => bestFrom isMax fmt 1 (0, x) r
/-- VMAXR (R154). -/
def execVmaxr (f : FmtA) (s : State) : Host.Outcome State Fault Refusal :=
  vecWord (.vmaxr f) s fun e a =>
    let isMax := !f.imm.getLsbD 9
    s.vecReduce e a f (f.imm.getLsbD 8)
      (fun df v =>
        let x := (bestOf isMax df v).2
        if df ≤ 7 then encFloat df 0 0 (fvOf df x).quiet else x)
      fun df v w => w.getD (bestOf isMax df v).1 0

/-- VSCAN (R154). -/
def execVscan (f : FmtA) (s : State) : Host.Outcome State Fault Refusal :=
  vecWord (.vscan f) s fun e a =>
    let p := a.pass
    let m := f.f1.toNat
    let d := p.rd s.tick f.dst
    let x := p.rd s.tick f.sa
    let str := s.shadowStride e a.fr.op
    let excl := f.imm.getLsbD 0
    match s.vecFault e a [d] [x] (decide (m ≤ 7)) with
    | some c => .error (plain c)
    | none =>
      if accOk m (dFmt d) = false ∨ dGs d ≠ 0 ∨ srcOk x m (dRows d) (dEpr d) = false then .error (plain cDesc)
      else
        match s.tileEcc e [x] with
        | some q => .error q
        | none =>
          let df := dFmt d
          let out := (s.tile e p (dRows d) (dEpr d) x).map fun row =>
            scanEnc df f.rm.toNat f.red.toNat excl (row.map (widenEnc m df))
          let tans := fun t => (s.tanTile e p str t (dRows d) (dEpr d) x).map fun row =>
            scanEnc (tanFmt df) 0 f.red.toNat excl (row.map fun v => convEnc (tanFmt m) (tanFmt df) 0 0 v)
          .ok (s.writeDual e p str d (p.masked f (out.map (·.map some))) (if m ≤ 7 then some tans else none))

/-! ## Movement (R155–R158) -/

/-- Elements moved into the tile of DST: `pos` names the source element of each destination element; a position without
one takes `fill`, or keeps its old element and tangents where there is no fill (R144, R166). -/
def State.vecMove (s : State) (e : Nat) (a : Active) (f : FmtA) (d : Word) (src : List (List Nat))
    (tan : Nat → List (List Nat)) (pos : Nat → Nat → Option (Nat × Nat)) (fill : Option Nat) : Pass :=
  let p := a.pass
  let grid := fun {α : Type} (g : Nat → Nat → α) => (List.range (dRows d)).map fun r => (List.range (dEpr d)).map (g r)
  let vals := grid fun r i => match pos r i with
    | some (x, y) => some (at2 src x y)
    | none => fill
  let tans := fun t => grid fun r i => match pos r i with
    | some (x, y) => at2 (tan t) x y
    | none => 0
  s.writeDual e p (s.shadowStride e a.fr.op) d (p.masked f vals) (some tans)

/-- A movement word: the checks of R140, then `k` on the destination, the source and whether the shapes agree. -/
def moveWord (i : Instr) (f : FmtA) (s : State) (srcs : Pass → List Word) (ok : Pass → Word → Bool)
    (k : Nat → Active → Word → Pass) : Host.Outcome State Fault Refusal :=
  vecWord i s fun e a =>
    let d := a.pass.rd s.tick f.dst
    match s.vecFault e a [d] (srcs a.pass) true with
    | some c => .error (plain c)
    | none =>
      if dFmt d ≠ f.f1.toNat ∨ dGs d ≠ 0 ∨ ok a.pass d = false then .error (plain cDesc)
      else
        match s.tileEcc e (srcs a.pass) with
        | some g => .error g
        | none => .ok (k e a d)

/-- Whether a source has the format of a movement word and no scales. -/
def moveSrc (x : Word) (fmt : Nat) : Bool := x == 0 || (dFmt x == fmt && dGs x == 0)

/-- VBCST (R155). -/
def execVbcst (f : FmtA) (s : State) : Host.Outcome State Fault Refusal :=
  let m := f.f1.toNat
  let j := fld f.imm 0 8
  let mode := fld f.imm 8 2
  moveWord (.vbcst f) f s (fun p => if mode = 2 then [] else [p.rd s.tick f.sa])
    (fun p d =>
      let x := p.rd s.tick f.sa
      match mode with
      | 0 => moveSrc x m && (x == 0 || (dRows x == dRows d && dEpr x == dEpr d)) && decide (j < dEpr d)
      | 1 => moveSrc x m && (x == 0 || dEpr x == dEpr d) && decide (j < if x = 0 then 64 else dRows x)
      | _ => true)
    fun e a d =>
      let p := a.pass
      let x := p.rd s.tick f.sa
      let str := s.shadowStride e a.fr.op
      if mode = 2 then
        s.vecMove e a f d [[x.toNat % 2 ^ fmtBits m]] (fun t => [[(p.rdSh f.sa t).toNat % 2 ^ tanBits m]])
          (fun _ _ => some (0, 0)) none
      else
        let rows := if x = 0 then 64 else dRows x
        s.vecMove e a f d (s.tile e p rows (dEpr d) x) (fun t => s.tanTile e p str t rows (dEpr d) x)
          (fun r i => some (if mode = 0 then (r, j) else (j, i))) none

/-- The element that fills a position under an empty-position policy, if one does (R144). -/
def epFill (ep fmt : Nat) : Option Nat :=
  match ep with
  | 0 => some 0
  | 1 => some ((fmtEmpty fmt).getD 0)
  | _ => none
/-- The source index of a position, under WRAP where it lies outside the row (R144). -/
def epIndex (ep n : Nat) (x : Int) : Option Nat :=
  if 0 ≤ x ∧ x < n then some x.toNat else if ep = 3 then some (x % n).toNat else none

/-- VLSH (R156). -/
def execVlsh (f : FmtA) (s : State) : Host.Outcome State Fault Refusal :=
  let m := f.f1.toNat
  let ep := fld f.imm 9 2
  moveWord (.vlsh f) f s (fun p => [p.rd s.tick f.sa])
    (fun p d => srcOk (p.rd s.tick f.sa) m (dRows d) (dEpr d))
    fun e a d =>
      let p := a.pass
      let x := p.rd s.tick f.sa
      let sh : Int := (f.imm.extractLsb' 0 9).toInt + (p.rd s.tick f.sb).toInt
      s.vecMove e a f d (s.tile e p (dRows d) (dEpr d) x)
        (fun t => s.tanTile e p (s.shadowStride e a.fr.op) t (dRows d) (dEpr d) x)
        (fun r i => (epIndex ep (dEpr d) ((i : Int) - sh)).map fun k => (r, k)) (epFill ep m)

/-- VPERM (R157). -/
def execVperm (f : FmtA) (s : State) : Host.Outcome State Fault Refusal :=
  let m := f.f1.toNat
  let ep := fld f.imm 9 2
  moveWord (.vperm f) f s (fun p => [p.rd s.tick f.sa, p.rd s.tick f.sb])
    (fun p d =>
      let b := p.rd s.tick f.sb
      srcOk (p.rd s.tick f.sa) m (dRows d) (dEpr d) && srcOk b (dFmt b) (dRows d) (dEpr d) &&
        (b == 0 || dFmt b == 9 || dFmt b == 12))
    fun e a d =>
      let p := a.pass
      let x := p.rd s.tick f.sa
      let b := p.rd s.tick f.sb
      let ix := s.tile e p (dRows d) (dEpr d) b
      s.vecMove e a f d (s.tile e p (dRows d) (dEpr d) x)
        (fun t => s.tanTile e p (s.shadowStride e a.fr.op) t (dRows d) (dEpr d) x)
        (fun r i => (epIndex ep (dEpr d) (intVal (if b = 0 then 12 else dFmt b) (at2 ix r i))).map fun k => (r, k))
        (epFill ep m)

/-- VTRN (R158). -/
def execVtrn (f : FmtA) (s : State) : Host.Outcome State Fault Refusal :=
  let m := f.f1.toNat
  moveWord (.vtrn f) f s (fun p => [p.rd s.tick f.sa])
    (fun p d =>
      let x := p.rd s.tick f.sa
      moveSrc x m && (x == 0 || (decide (dEpr x ≤ 64) && dRows d == dEpr x && dEpr d == dRows x)))
    fun e a d =>
      let p := a.pass
      let x := p.rd s.tick f.sa
      s.vecMove e a f d (s.tile e p (dEpr d) (dRows d) x)
        (fun t => s.tanTile e p (s.shadowStride e a.fr.op) t (dEpr d) (dRows d) x)
        (fun r i => some (i, r)) none

/-! ## Carry-chained integers (R161–R163) -/

/-- The limbs of a tile as groups of `n` limbs, each group a number (R161). -/
def limbGroups (n : Nat) (t : List (List Nat)) : List Nat :=
  let l := t.flatten
  (List.range (l.length / n)).map fun k => packRow 32 ((l.drop (k * n)).take n)
/-- Groups of `n` limbs spread over a tile of a given shape, other limbs left out. -/
def limbTile (n rows epr : Nat) (g : List Nat) : List (List (Option Nat)) :=
  let l := g.flatMap fun x => rowElems 32 n x
  (List.range rows).map fun r => (List.range epr).map fun i => l[r * epr + i]?

/-- VADDC (R162): no tangent. -/
def execVaddc (f : FmtA) (s : State) : Host.Outcome State Fault Refusal :=
  vecWord (.vaddc f) s fun e a =>
    let p := a.pass
    let d := p.rd s.tick f.dst
    let x := p.rd s.tick f.sa
    let y := p.rd s.tick f.sb
    let n := 2 ^ fld f.imm 0 3
    let rows := dRows d
    let epr := dEpr d
    match s.vecFault e a [d] [x, y] false with
    | some c => .error (plain c)
    | none =>
      if dFmt d ≠ 8 ∨ dGs d ≠ 0 ∨ srcOk x 8 rows epr = false ∨ srcOk y 8 rows epr = false ∨ rows * epr % n ≠ 0 ∨
          ((f.imm.getLsbD 4 ∨ f.imm.getLsbD 5) ∧ 64 < rows * epr / n) then .error (plain cDesc)
      else
        match s.tileEcc e [x, y] with
        | some g => .error g
        | none =>
          let m := tget 0 p.r.m f.ms.toNat
          let w : Int := 2 ^ (32 * n)
          let sums := ((limbGroups n (s.tile e p rows epr x)).zip (limbGroups n (s.tile e p rows epr y))).zipIdx.map
            fun ((u, v), k) =>
              let cin : Int := if f.imm.getLsbD 4 then b2n (m.getLsbD k) else 0
              if f.imm.getLsbD 3 then (u : Int) - v - cin else (u : Int) + v + cin
          let p1 := s.writeTile e p d (limbTile n rows epr (sums.map fun z => (z % w).toNat))
          if f.imm.getLsbD 5 then
            let cout := packRow 1 (sums.map fun z => b2n (decide (z < 0) || decide (w ≤ z)))
            .ok { p1 with r := { p1.r with m := tset 0 p1.r.m f.ms.toNat (BitVec.ofNat 64 cout) } }
          else .ok p1

/-- VMULW (R163): no tangent. -/
def execVmulw (f : FmtA) (s : State) : Host.Outcome State Fault Refusal :=
  vecWord (.vmulw f) s fun e a =>
    let p := a.pass
    let d := p.rd s.tick f.dst
    let x := p.rd s.tick f.sa
    let y := p.rd s.tick f.sb
    let n := 2 ^ fld f.imm 0 3
    let z := if x ≠ 0 then x else y
    let rows := if z = 0 then 1 else dRows z
    let epr := if z = 0 then dRows d * dEpr d / 2 else dEpr z
    match s.vecFault e a [d] [x, y] false with
    | some c => .error (plain c)
    | none =>
      if dFmt d ≠ 8 ∨ dGs d ≠ 0 ∨ srcOk x 8 rows epr = false ∨ srcOk y 8 rows epr = false ∨ rows * epr % n ≠ 0 ∨
          dRows d * dEpr d ≠ 2 * rows * epr then .error (plain cDesc)
      else
        match s.tileEcc e [x, y] with
        | some g => .error g
        | none =>
          let val := fun (u : Nat) => if f.imm.getLsbD 3 then sintOf (32 * n) u else (u : Int)
          let prods := ((limbGroups n (s.tile e p rows epr x)).zip (limbGroups n (s.tile e p rows epr y))).map
            fun (u, v) => (val u * val v % 2 ^ (64 * n)).toNat
          .ok (s.writeTile e p d (limbTile (2 * n) (dRows d) (dEpr d) prods))

/-! ## Top-k selection (R164) -/

/-- Class of an element in the ranking: empty, number, NaN that is not empty. -/
def rankClass (fmt x : Nat) : Nat := if isEmptyEnc fmt x then 0 else if (fvOf fmt x).isNan then 2 else 1
/-- Whether `x` ranks strictly below `y` (R164). -/
def ranksBelow (fmt x y : Nat) : Bool :=
  if 8 ≤ fmt then decide (intVal fmt x < intVal fmt y)
  else
    let cx := rankClass fmt x
    let cy := rankClass fmt y
    decide (cx < cy) || (cx == 1 && cy == 1 && (fvOf fmt x).lt (fvOf fmt y))
/-- The indices of a row in order of selection: larger ranks first, or smaller under MIN; ties by lower index. -/
def topOrder (isMin : Bool) (fmt : Nat) (row : List Nat) : List Nat :=
  (row.zipIdx.foldl (fun acc x => insertBy
    (fun (u v : Nat × Nat) => if isMin then ranksBelow fmt u.1 v.1 else ranksBelow fmt v.1 u.1) x acc) []).map (·.2)

/-- VTOPK (R164). DESIGN CHOICE (log 142): the values are written before the indices. -/
def execVtopk (f : FmtA) (s : State) : Host.Outcome State Fault Refusal :=
  vecWord (.vtopk f) s fun e a =>
    let p := a.pass
    let m := f.f1.toNat
    let d := p.rd s.tick f.dst
    let x := p.rd s.tick f.sa
    let y := p.rd s.tick f.sb
    let k := fld f.imm 0 8 + 1
    let rows := dRows d
    let epr := if x = 0 then k else dEpr x
    let str := s.shadowStride e a.fr.op
    match s.vecFault e a [d, y] [x] (decide (m ≤ 7)) with
    | some c => .error (plain c)
    | none =>
      if dFmt d ≠ m ∨ dGs d ≠ 0 ∨ dGs y ≠ 0 ∨ (dFmt y ≠ 9 ∧ dFmt y ≠ 12) ∨ dRows y ≠ rows ∨ dEpr d < k ∨ dEpr y < k ∨
          epr < k ∨ srcOk x m rows epr = false ∨ dLoc x ≠ 0 then .error (plain cDesc)
      else
        match s.tileEcc e [x] with
        | some g => .error g
        | none =>
          let t := s.tile e p rows epr x
          let sel := t.map fun row => (topOrder (f.imm.getLsbD 8) m row).take k
          let vals := (t.zip sel).map fun (row, ix) => ix.map fun i => some (row.getD i 0)
          let tans := fun n =>
            let tt := s.tanTile e p str n rows epr x
            (tt.zip sel).map fun (row, ix) => ix.map fun i => row.getD i 0
          let p1 := s.writeDual e p str d (p.masked f vals) (if m ≤ 7 then some tans else none)
          .ok (s.writeTile e p1 y (p.masked f (sel.map (·.map some))))

end Sys2Proof.Machine
end

