-- ==== Sys2Proof/Machine/Quantise.lean ====
section
/-!
DEFINITION. Scaled tiles (R66, R67) and quantisation (R79–R81, R159, R160).
-/
namespace Sys2Proof.Machine

/-! ## Scales and scaled values -/

/-- Home of the scale entry of row `r`, group `g` of a tile (R67). -/
def State.scaleHome (s : State) (e : Nat) (d : Word) (r g : Nat) : Nat :=
  scratchHome (s.descEngine e d) (dSbase d * 64 + (if dMx d then 1 else 4) * (r * dGroups d + g))
/-- The scale entry of row `r`, group `g`, as the pass reads it (R67, R141). -/
def State.scaleOf (s : State) (e : Nat) (p : Pass) (d : Word) (r g : Nat) : Nat :=
  leNat ((List.range (if dMx d then 1 else 4)).map fun i => s.passByte p (s.scaleHome e d r g + i))

/-- Whether a scale entry makes its group NaN (R67). -/
def scaleBad (mx : Bool) (sc : Nat) : Bool :=
  if mx then sc == 255
  else let v := fvOf 3 (sc % 65536); v.isNan || v.isInf
/-- The value of an element under its scale entry (R66, R67). -/
def scaledVal (d : Word) (sc bits : Nat) : FV :=
  if dGs d = 0 then fvOf (dFmt d) bits
  else if scaleBad (dMx d) sc then .dnan
  else if dMx d then
    match fvOf (dFmt d) bits with
    | .fin n m e => .fin n m (e + ((sc : Int) - 127))
    | v => v
  else (fvOf 3 (sc % 65536)).mul (.ofInt (intVal (dFmt d) bits - sintOf 8 (sc / 65536)))

/-- The values of a tile's elements under R66; the zero descriptor reads as zeros. -/
def State.tileVals (s : State) (e : Nat) (p : Pass) (rows epr : Nat) (d : Word) : List (List FV) :=
  (s.tile e p rows epr d).zipIdx.map fun (row, r) =>
    let sc := if d = 0 ∨ dGs d = 0 then [] else (List.range (dGroups d)).map (s.scaleOf e p d r)
    row.zipIdx.map fun (b, i) => if d = 0 then .zero else scaledVal d (sc.getD (i / gsSize (dGs d)) 0) b

/-! ## Quantising a block (R79) -/

/-- A quantised block or group: element encodings, scale entry, row-status bits (R81). -/
structure QBlock where
  q     : List Nat
  scale : Nat
  st    : Nat
deriving DecidableEq, Repr, Inhabited

/-- emax of a target format (R79). -/
def emaxOf : Nat → Nat
  | 4 => 8 | 5 => 15 | _ => 2
/-- Status bits from their conditions (R81). -/
def statusBits (inf loss nan sat : Bool) : Nat := b2n inf + 2 * b2n loss + 4 * b2n nan + 8 * b2n sat

/-- Exponents of the finite non-zero values. -/
def finExps (v : List FV) : List Int :=
  v.filterMap fun x => match x with
    | .fin _ m e => if m = 0 then none else some (fvExp m e)
    | _ => none

/-- The value over 2^n. -/
def FV.scaleDown (n : Int) : FV → FV
  | .fin s m e => .fin s m (e - n)
  | v => v

/-- quant_mx of R79; `ks` are the random bits of each element. DESIGN CHOICE (log 129): an element beyond the largest E5M2 number takes
what R63's table gives the mode, an infinity under RNE and SR, where the comment of R79 says that the conversion saturates. -/
def quantMx (fmt mode : Nat) (ks : List Nat) (v : List FV) : QBlock :=
  if v.any (·.isNan) then ⟨v.map fun _ => 0, 255, 4⟩
  else
    let x : Int := match finExps v with
      | [] => 127
      | a :: r => max (-127) (min 127 (r.foldl max a - emaxOf fmt)) + 127
    let big := fvOf fmt (fmtMax fmt)
    let t := v.map fun y => if y.isInf then (if y.sign then big.neg else big) else y.scaleDown (x - 127)
    let q := (t.zip ks).map fun (y, k) => encFloat fmt mode k y
    let sat := t.any fun y => big.lt y.abs
    let loss := (v.zip q).any fun (y, n) => !y.isZero && n % 2 ^ (fmtBits fmt - 1) == 0
    ⟨q, x.toNat, statusBits (v.any (·.isInf)) loss false sat⟩

/-! ## Quantising a group to integers (R80) -/

/-- The least (or greatest) of the finite values. -/
def finBest (isMax : Bool) (v : List FV) : Option FV :=
  (v.filter fun x => !x.isInf && !x.isNan).foldl (fun acc x =>
    match acc with
    | none => some x
    | some y => if (if isMax then y.lt x else x.lt y) then some x else some y) none

/-- A value rounded to an integer. -/
def FV.roundInt (mode k : Nat) : FV → Int
  | .fin s m e => let q : Int := roundGrid mode s m e 0 k; if s then -q else q
  | _ => 0

/-- An exact positive scale rounded to FP16, with the two exceptions of R80: entry, SAT, LOSS. -/
def scaleEnc (mode k : Nat) (v : FV) : Nat × Bool × Bool :=
  match v with
  | .fin _ m e =>
    let g := max (fvExp m e - 10) (-24)
    let q := roundGrid mode false m e g k
    if (FV.fin false 65504 0).lt (.fin false q g) then (0x7BFF, true, false)
    else if q = 0 then (1, false, true)
    else (encFloat 3 mode k v, false, false)
  | _ => (0x7BFF, true, false)

/-- Quantisation of a group to INT8 or INT4 (R80). DESIGN CHOICE (log 140): NAN is the one status bit of a group with a NaN. `free` stands for what R80 does not state: the ignored byte of the
entry, and scale and zero point where no value of the group is finite. DESIGN CHOICE (log 130): under SR the scale is rounded with the
random bits of the group's first element, as R69 and R143 give bits to result elements alone. -/
def quantInt (fmt mode : Nat) (ks : List Nat) (free : Word) (v : List FV) : QBlock :=
  let (qmin, qmax) := intRange fmt
  let top := fld free 24 8 * 2 ^ 24
  if v.any (·.isNan) then ⟨v.map fun _ => 0, top + 0x7E00, 4⟩
  else
    match finBest false v, finBest true v with
    | some lo, some hi =>
      let (sc, sat0, loss0) :=
        if lo.eqv hi then (0x3C00, false, false)
        else scaleEnc mode (ks.headD 0) ((hi.sub 0 lo).div (.ofInt (qmax - qmin)))
      let sv := fvOf 3 sc
      let z : Int :=
        if lo.eqv hi then 0
        else max (-128) (min 127 (((FV.ofInt qmin).sub 0 (lo.div sv)).roundInt 0 0))
      let raw := (v.zip ks).map fun (y, k) =>
        if y.isInf then (if y.sign then qmin else qmax) else (y.div sv).roundInt mode k + z
      let q := raw.map fun n => max qmin (min qmax n)
      let sat := sat0 || (v.zip (raw.zip q)).any fun (y, n, c) => !y.isInf && n != c
      let loss := loss0 || (v.zip q).any fun (y, c) => !y.isZero && c == z
      ⟨q.map (intEnc fmt), top + (z % 256).toNat * 65536 + sc, statusBits (v.any (·.isInf)) loss false sat⟩
    | _, _ =>
      let q := v.map fun y => if y.sign then qmin else qmax
      ⟨q.map (intEnc fmt), fld free 0 32, statusBits true (q.any (· == sintOf 8 (fld free 16 8))) false false⟩

/-! ## VQNT and VDQNT (R159, R160) -/

/-- The blocks of a row, `g` elements each. -/
def blocksOf {α : Type} (n g : Nat) (row : List α) : List (List α) :=
  (List.range n).map fun k => (row.drop (k * g)).take g

/-- The destination GS that VQNT accepts for a target (R159). -/
def qntGs (fmt gs : Nat) : Bool := if fmt ≤ 7 then gs == 1 else decide (1 ≤ gs)

/-- VQNT on the open pass: the pass, or the failure. DESIGN CHOICE (log 142): elements are written before scales, scales before status. -/
def State.vqnt (s : State) (e : Nat) (a : Active) (f : FmtA) : Except Failure Pass :=
  let p := a.pass
  let m := f.f1.toNat
  let n := f.f2.toNat
  let d := p.rd s.tick f.dst
  let x := p.rd s.tick f.sa
  let y := p.rd s.tick f.sc
  let stat := f.sc.toNat ≠ 56
  let rows := dRows d
  let epr := dEpr d
  let str := s.shadowStride e a.fr.op
  match s.vecFault e a (if stat then [d, y] else [d]) [x] (f.imm.getLsbD 0) with
  | some c => .error (plain c)
  | none =>
    if dFmt d ≠ n ∨ qntGs n (dGs d) = false ∨ srcOk x m rows epr = false ∨
        (stat ∧ (dFmt y ≠ 12 ∨ dGs y ≠ 0 ∨ dRows y ≠ rows)) then .error (plain cDesc)
    else
      match s.tileEcc e [x] with
      | some g => .error g
      | none =>
        let blocks := (s.tile e p rows epr x).zipIdx.map fun (row, r) =>
          let v := row.map fun b => if f.imm.getLsbD 1 && isEmptyEnc m b then FV.zero else fvOf m b
          let ks := (List.range epr).map fun i => if f.rm = 4 then s.sr e a 0 (r * epr + i) else 0
          ((blocksOf (dGroups d) (gsSize (dGs d)) v).zip (blocksOf (dGroups d) (gsSize (dGs d)) ks)).zipIdx.map
            fun ((b, k), g) =>
              if n ≤ 7 then quantMx n f.rm.toNat k b
              else quantInt n f.rm.toNat k (Config.freeWord (s.free + (r * dGroups d + g))) b
        let vals := blocks.map fun bs => (bs.flatMap (·.q)).map some
        let tans := fun t => if f.imm.getLsbD 0 then s.tanTile e p str t rows epr x else []
        let p1 := s.writeDual e p str d (p.masked f vals) (some tans)
        let w := if dMx d then 1 else 4
        let cells := blocks.zipIdx.flatMap fun (bs, r) =>
          if p.rowOn f r then
            bs.zipIdx.flatMap fun (b, g) =>
              (leBytes w b.scale).zipIdx.map fun (c, i) => (s.scaleHome e d r g + i, c)
          else []
        let p2 := p1.holdCells cells
        if stat then
          .ok (s.writeTile e p2 y (p.masked f (blocks.map fun bs =>
            [some (bs.foldl (fun acc b => acc ||| b.st) 0)])))
        else .ok p2

/-- VQNT (R159). An integer target draws a free value for each group. -/
def execVqnt (f : FmtA) (s : State) : Host.Outcome State Fault Refusal :=
  onPass (.vqnt f) s fun e sl a =>
    match s.vqnt e a f with
    | .error g => s.passFault e sl g
    | .ok p =>
      let d := a.pass.rd s.tick f.dst
      let n := if dMx d then 0 else dRows d * dGroups d
      { s with free := s.free + n }.setPass e sl a p

/-- VDQNT (R160). -/
def execVdqnt (f : FmtA) (s : State) : Host.Outcome State Fault Refusal :=
  vecWord (.vdqnt f) s fun e a =>
    let p := a.pass
    let m := f.f1.toNat
    let n := f.f2.toNat
    let d := p.rd s.tick f.dst
    let x := p.rd s.tick f.sa
    let rows := dRows d
    let epr := dEpr d
    let str := s.shadowStride e a.fr.op
    match s.vecFault e a [d] [x] true with
    | some c => .error (plain c)
    | none =>
      if dFmt d ≠ n ∨ dGs d ≠ 0 ∨ (x ≠ 0 ∧ (dFmt x ≠ m ∨ dRows x ≠ rows ∨ dEpr x ≠ epr)) then .error (plain cDesc)
      else
        match s.tileEcc e [x] with
        | some g => .error g
        | none =>
          let bits := s.tile e p rows epr x
          let vals := (s.tileVals e p rows epr x).zipIdx.map fun (row, r) => row.zipIdx.map fun (v, i) =>
            let b := at2 bits r i
            let bad := x != 0 && dGs x != 0 && scaleBad (dMx x) (s.scaleOf e p x r (i / gsSize (dGs x)))
            if x ≠ 0 ∧ isEmptyEnc m b ∧ bad = false then some ((fmtEmpty n).getD 0)
            else some (encFloat n f.rm.toNat (if f.rm = 4 then s.sr e a 0 (r * epr + i) else 0) v)
          .ok (s.writeDual e p str d (p.masked f vals) (some fun t => s.tanTile e p str t rows epr x))

end Sys2Proof.Machine
end

