-- ==== Sys2Proof/Machine/Matrix.lean ====
section
/-!
DEFINITION. The multiply array (R167–R183) with its dual meaning (R192, R201).
-/
namespace Sys2Proof.Machine

/-! ## Accumulators (R167) -/

/-- The accumulator that a specifier names, if it names one (R93). -/
def accOf (sp : Spec) : Option Nat := if 44 ≤ sp.toNat ∧ sp.toNat < 52 then some (sp.toNat - 44) else none
/-- Key of cell [r][c] of accumulator `i`. -/
def cellKey (i r c : Nat) : Nat := i * 4096 + r * 64 + c
/-- Columns of a view. -/
def viewCols (view : Nat) : Nat := if view = 0 then 32 else 64
/-- Element [r][j] of accumulator `i` in a view. -/
def Pass.accRd (p : Pass) (view i r j : Nat) : Nat :=
  if view = 0 then (tget 0 p.r.q (cellKey i r (2 * j))).toNat + 2 ^ 32 * (tget 0 p.r.q (cellKey i r (2 * j + 1))).toNat
  else (tget 0 p.r.q (cellKey i r j)).toNat
/-- The pass with element [r][j] of accumulator `i` written in a view. -/
def Pass.accWr (p : Pass) (view i r j v : Nat) : Pass :=
  let q :=
    if view = 0 then
      tset 0 (tset 0 p.r.q (cellKey i r (2 * j)) (BitVec.ofNat 32 v)) (cellKey i r (2 * j + 1)) (BitVec.ofNat 32 (v / 2 ^ 32))
    else tset 0 p.r.q (cellKey i r j) (BitVec.ofNat 32 v)
  { p with r := { p.r with q := q } }
/-- The shadow accumulator of `i` for tangent `t` (R201). -/
def Pass.shadowAcc (p : Pass) (i t : Nat) : Nat := (8 / (p.kfire + 1)) * t + i
/-- Tangents 1 to kp of the pass's elements. -/
def Pass.fireTans (p : Pass) : List Nat := (List.range p.kfire).map (· + 1)

/-! ## The pitch word (R168, R169) -/

def pwSlabs (w : Word) : Nat := fld w 50 4 + 1
def pwAstr (w : Word) : Nat := fld w 36 14
def pwBstr (w : Word) : Nat := fld w 22 14
def pwBtr (w : Word) : Bool := w.getLsbD 13
def pwCol (w : Word) : Nat := fld w 6 6
def pwRow (w : Word) : Nat := fld w 0 6
/-- The reserved fields are 0. -/
def pwOk (w : Word) : Bool := fld w 54 10 == 0 && fld w 14 8 == 0 && !w.getLsbD 12
/-- Only QROW and QCOL may be non-zero (R182). -/
def pwPlain (w : Word) : Bool := fld w 12 52 == 0

/-- Slab `k` of an operand (R169), after its checks; the zero descriptor names no memory. -/
def slabOf (nmem : Nat) (d : Word) (adv k : Nat) : Except Nat Word :=
  if d = 0 then .ok 0
  else
    let b := dBase d + k * adv * (if dRot d = 0 then 1 else 192)
    if 12288 ≤ b then .error cDesc
    else
      match descFault nmem (dWithBase d b) with
      | some c => .error c
      | none => .ok (dWithBase d b)
/-- Slabs of an operand by number, with the checks of their tangents (R202). -/
def slabsOf (nmem str k : Nat) (d : Word) (adv : Nat) (ks : List Nat) : Except Nat (List Word) :=
  ks.foldr (fun i acc =>
    match slabOf nmem d adv i with
    | .error c => .error c
    | .ok x =>
      match (if x = 0 then none else tanFault nmem str k x), acc with
      | some c, _ => .error c
      | none, .error c => .error c
      | none, .ok l => .ok (x :: l)) (.ok [])

/-! ## Products (R71, R176) -/

/-- One K-group added to an accumulator element: the exact sum rounded once (R71); the array keeps no NaN payloads
(R62). -/
def accAdd (view : Nat) (acc : Nat) (terms : List FV) : Nat :=
  let v := terms.foldl (FV.add 0) (fvOf view acc)
  encFloat view 0 0 (if v.isNan then .dnan else v)
/-- K-groups of size `kg` (R71). -/
def kGroups (ks kg : Nat) : List (List Nat) := blocksOf ((ks + kg - 1) / kg) kg (List.range ks)

/-- A slab's operands: values of A by row and of B as stored, the element bits of B, and the tangents; `b1` is B as the step A′B has
read it (R215). -/
structure SlabVals where
  a  : List (List FV)
  b  : List (List FV)
  rb : List (List Nat)
  ta : Nat → List (List FV)
  tb : Nat → List (List FV)
  b1 : List (List FV) := []

/-- Element [i][k] of a matrix of values. -/
def vat (m : List (List FV)) (i k : Nat) : FV := (m.getD i []).getD k .zero
/-- B's element for k and j (R176). -/
def bel (btr : Bool) (b : List (List FV)) (k j : Nat) : FV := if btr then vat b j k else vat b k j

/-- How a multiply-array word computes: its view, group size, K of a slab, and the terms that a group adds for row i,
column j: those of the primal and those of a tangent (R192). `dual` is false for an integer pairing, which carries no
tangent: its shadows are set to 0. `two` says that a tangent takes two steps, A′B and AB′ (R215). -/
structure MmOp where
  view : Nat
  kg   : Nat
  ks   : Nat
  terms : SlabVals → Nat → Nat → List Nat → List FV
  tans  : SlabVals → Nat → Nat → Nat → List Nat → List FV
  dual  : Bool
  two   : Bool

/-- The steps of one slab or group in a pass of `kp` tangents (R215). -/
def MmOp.subs (op : MmOp) (kp : Nat) : Nat := if kp = 0 ∨ op.dual = false then 1 else 1 + (if op.two then 2 * kp else kp)

/-- Products of a group (R71). -/
def prodTerms (btr : Bool) (v : SlabVals) (i j : Nat) (g : List Nat) : List FV :=
  g.map fun k => (vat v.a i k).mul (bel btr v.b k j)
/-- A′B + AB′ of a group (R192). -/
def prodTans (btr : Bool) (v : SlabVals) (t i j : Nat) (g : List Nat) : List FV :=
  g.flatMap fun k => [(vat (v.ta t) i k).mul (bel btr v.b1 k j), (vat v.a i k).mul (bel btr (v.tb t) k j)]

/-- One element of the result over the groups of a slab; INT32 accumulates modulo 2^32. -/
def Pass.mmElem (p : Pass) (op : MmOp) (acc r c : Nat) (terms : List Nat → List FV) : Pass :=
  let old := p.accRd op.view acc r c
  let new :=
    if op.view = 8 then
      let z := ((kGroups op.ks op.kg).flatMap terms).foldl (fun n v => n + v.roundInt 1 0) (0 : Int)
      (((old : Int) + z) % 2 ^ 32).toNat
    else (kGroups op.ks op.kg).foldl (fun n g => accAdd op.view n (terms g)) old
  p.accWr op.view acc r c new

/-- A change of every element of a region: rows `row` on and columns `col` on, for rows `is` of A and columns 0 to n − 1. -/
def Pass.mmRegion (p : Pass) (row col n : Nat) (is : List (Nat × Nat)) (g : Pass → Nat → Nat → Nat → Nat → Pass) : Pass :=
  is.foldl (fun p (i, k) => (List.range n).foldl (fun p j => g p (row + k) (col + j) i j) p) p

/-- Step `sub` of a slab or group (R215). Step 0 adds the primal product into the region, and a word that is not in dual mode sets the
shadows to 0 (R195). A later step is of one tangent: A′B notes what it reads, and AB′ adds both products, which are rounded once a
group (R192); a word with one product a tangent adds it at once. -/
def Pass.mmStep (p : Pass) (op : MmOp) (sub : Nat) (v : SlabVals) (acc row col n : Nat) (is : List (Nat × Nat)) : Pass :=
  if sub = 0 then
    p.mmRegion row col n is fun p r c i j =>
      let p1 := p.mmElem op acc r c (op.terms v i j)
      if p1.kp = 0 ∨ op.dual = false then
        p1.fireTans.foldl (fun q t => q.accWr op.view (q.shadowAcc acc t) r c 0) p1
      else p1
  else if op.two = false then
    p.mmRegion row col n is fun p r c i j => p.mmElem op (p.shadowAcc acc sub) r c (op.tans v sub i j)
  else
    let t := (sub + 1) / 2
    if sub % 2 = 1 then { p with mm := (v.ta t, v.b) }
    else
      let v1 := { v with ta := fun _ => p.mm.1, b1 := p.mm.2 }
      { p.mmRegion row col n is (fun p r c i j => p.mmElem op (p.shadowAcc acc t) r c (op.tans v1 t i j)) with mm := ([], []) }

/-- The values and tangents of the operands of a slab. -/
def State.slabVals (s : State) (e : Nat) (a : Active) (da db : Word) : SlabVals :=
  let p := a.pass
  let str := s.shadowStride e a.fr.op
  let tv := fun (d : Word) (t : Nat) =>
    (s.tanTile e p str t (dRows d) (dEpr d) d).map (·.map (tanVal (dFmt d)))
  { a := s.tileVals e p (dRows da) (dEpr da) da, b := s.tileVals e p (dRows db) (dEpr db) db,
    rb := s.tile e p (dRows db) (dEpr db) db, ta := tv da, tb := tv db }

/-- The accumulator format of a pairing (R174). -/
def mmView (fa : Nat) : Nat := if fa = 0 then 0 else if 10 ≤ fa then 8 else 1
/-- Whether a pairing of A's format has a tangent: no integer A has one (R192, R198). -/
def mmDual (fa : Nat) : Bool := decide (fa < 10)
/-- The K-group size of a pairing without scales (R71). -/
def mmKg (fa : Nat) : Nat := if fa = 0 then 4 else if fa = 1 then 8 else 16

/-- Rows of A that a word without groups multiplies: (row of A, row of the region). -/
def Pass.liveRows (p : Pass) (f : FmtA) (m : Nat) : List (Nat × Nat) :=
  ((List.range m).filter (p.rowOn f)).map fun i => (i, i)

/-- N of an operand B (R175); a zero descriptor takes the shape the product needs, one column at least (R85). -/
def mmCols (db pw : Word) : Nat := if db = 0 then 1 else if pwBtr pw then dRows db else dEpr db
/-- Shapes of R175 for `m` rows: K and N agree and the region fits the view. With a zero A or B what the other descriptor
and PW give is still checked (R170). -/
def mmShape (da db pw : Word) (view m : Nat) : Bool :=
  (da == 0 || db == 0 || (if pwBtr pw then dEpr db == dEpr da else dRows db == dEpr da)) &&
    decide (pwRow pw + m ≤ 64) && decide (pwCol pw + mmCols db pw ≤ viewCols view)
/-- Ks (R175): from A, or from B where A is the zero descriptor; 0 where both are. -/
def mmKs (da db pw : Word) : Nat :=
  if da ≠ 0 then dEpr da else if db = 0 then 0 else if pwBtr pw then dEpr db else dRows db
/-- The pass after one step of a word of `n` steps (R184, R215). -/
def Pass.stepped (p : Pass) (n : Nat) (q : Pass) : Pass := { q with step := if p.step + 1 < n then p.step + 1 else 0 }

/-- MMA, MMAQ and MMAX, one slab or one product of it a step (R176, R184, R215): `okA`, `okB` check a descriptor's format and scales, `more` the
rest. Every check precedes the first slab, and a check repeated at a later slab gives the same, the registers being
unchanged. DESIGN CHOICE (log 25): a zero A counts as one row. -/
def State.mmWord (s : State) (e : Nat) (a : Active) (f : FmtA) (okA okB : Word → Bool) (more : Word → Word → Word → Bool)
    (mk : Word → Word → Word → MmOp) : Except Failure Pass :=
  let p := a.pass
  let da := p.rd s.tick f.sa
  let db := p.rd s.tick f.sb
  let pw := p.rd s.tick f.sc
  let nm := s.nmemOf e
  let str := s.shadowStride e a.fr.op
  let ks := List.range (pwSlabs pw)
  match accOf f.dst with
  | none => .error (plain cIllegal)
  | some acc =>
    if pwOk pw = false then .error (plain cDesc)
    else
      match slabsOf nm str p.kp da (pwAstr pw) ks, slabsOf nm str p.kp db (pwBstr pw) ks with
      | .error c, _ => .error (plain c)
      | .ok _, .error c => .error (plain c)
      | .ok la, .ok lb =>
        if (da ≠ 0 ∧ okA da = false) ∨ (db ≠ 0 ∧ okB db = false) then .error (plain cDesc)
        else
          let op := mk da db pw
          if mmShape da db pw op.view (if da = 0 then 1 else dRows da) = false ∨ more da db pw = false then
            .error (plain cDesc)
          else if da = 0 ∨ db = 0 then .ok p
          else
            let n := op.subs p.kp
            let x := la.getD (p.step / n) 0
            let y := lb.getD (p.step / n) 0
            match s.tileEcc e [x, y] with
            | some g => .error g
            | none =>
              .ok (p.stepped (la.length * n) (p.mmStep op (p.step % n) (s.slabVals e a x y) acc (pwRow pw) (pwCol pw)
                (mmCols db pw) (p.liveRows f (dRows da))))

/-- MMA (R173–R176). -/
def execMma (f : FmtA) (s : State) : Host.Outcome State Fault Refusal :=
  vecWord (.mma f) s fun e a =>
    let fa := f.f1.toNat
    s.mmWord e a f (fun d => dFmt d == fa && dGs d == 0) (fun d => dFmt d == f.f2.toNat && dGs d == 0)
      (fun _ _ _ => true)
      fun da _ pw => ⟨mmView fa, mmKg fa, dEpr da, prodTerms (pwBtr pw), prodTans (pwBtr pw), mmDual fa, true⟩

/-- The group sum of MMAQ (R177): s · (Σ q·x − z · Σ x) for row j of B. -/
def mmaqTerms (b : List (List Nat)) (sc : Nat → Nat → Nat) (fb kg : Nat) (x : Nat → FV) (j : Nat) (g : List Nat) :
    List FV :=
  let ent := sc j (g.headD 0 / kg)
  if scaleBad false ent then [.dnan]
  else
    let qx := g.map fun k => (FV.ofInt (intVal fb (at2 b j k))).mul (x k)
    let sx := (g.map x).foldl (FV.add 0) .zero
    let z := sintOf 8 (ent / 65536)
    [(fvOf 3 (ent % 65536)).mul ((qx.foldl (FV.add 0) .zero).sub 0 ((FV.ofInt z).mul sx))]
/-- MMAQ (R177). The scale entries lie at one table for every slab. -/
def execMmaq (f : FmtA) (s : State) : Host.Outcome State Fault Refusal :=
  vecWord (.mmaq f) s fun e a =>
    let p := a.pass
    let fa := f.f1.toNat
    let fb := f.f2.toNat
    let db0 := p.rd s.tick f.sb
    let sc := fun r g => s.scaleOf e p db0 r g
    s.mmWord e a f (fun d => dFmt d == fa && dGs d == 0) (fun d => dFmt d == fb && decide (1 ≤ dGs d))
      (fun da db pw => pwBtr pw && (db == 0 || mmKs da db pw % gsSize (dGs db) == 0))
      fun da db _ =>
        let kg := gsSize (dGs db)
        ⟨1, kg, dEpr da, fun v i j g => mmaqTerms v.rb sc fb kg (vat v.a i) j g,
          fun v t i j g => mmaqTerms v.rb sc fb kg (vat (v.ta t) i) j g, mmDual fa, false⟩

/-- MMAX (R178). -/
def execMmax (f : FmtA) (s : State) : Host.Outcome State Fault Refusal :=
  vecWord (.mmax f) s fun e a =>
    let fa := f.f1.toNat
    s.mmWord e a f (fun d => dFmt d == fa && dGs d == 1) (fun d => dFmt d == f.f2.toNat && dGs d == 1)
      (fun da db pw => pwBtr pw && mmKs da db pw % 32 == 0)
      fun da _ pw => ⟨1, 32, dEpr da, prodTerms (pwBtr pw), prodTans (pwBtr pw), true, true⟩

/-! ## MMAG (R179, R180) -/

/-- Row counts of the eight groups. -/
def mmagCounts (w : Word) : List Nat := (List.range 8).map fun g => fld w (8 * g) 8
/-- First row of each group. -/
def mmagFirst (l : List Nat) (g : Nat) : Nat := (l.take g).sum

/-- MMAG (R180), one group or one product of it a step (R184, R215). DESIGN CHOICE (log 25): with total = 0 the region is held to the
view for one column. -/
def execMmag (f : FmtA) (x : Word) (s : State) : Host.Outcome State Fault Refusal :=
  vecWord (.mmag f x) s fun e a =>
    let p := a.pass
    let fa := f.f1.toNat
    let da := p.rd s.tick f.sa
    let db := p.rd s.tick f.sb
    let pw := p.rd s.tick f.sc
    let cnt := mmagCounts (p.rd s.tick (x.setWidth 6))
    let total := cnt.sum
    let nm := s.nmemOf e
    let str := s.shadowStride e a.fr.op
    let gs := (List.range 8).filter fun g => cnt.getD g 0 != 0
    match accOf f.dst with
    | none => .error (plain cIllegal)
    | some acc =>
      if (if da = 0 then 64 else dRows da) < total ∨ 64 < pwRow pw + total then .error (plain cRagged)
      else if pwOk pw = false ∨ fld pw 50 4 ≠ 0 ∨ pwAstr pw ≠ 0 then .error (plain cDesc)
      else
        match slabsOf nm str p.kp da 0 [0], slabsOf nm str p.kp db (pwBstr pw) gs with
        | .error c, _ => .error (plain c)
        | .ok _, .error c => .error (plain c)
        | .ok _, .ok lb =>
          if (da ≠ 0 ∧ (dFmt da ≠ fa ∨ dGs da ≠ 0)) ∨
              (gs ≠ [] ∧ db ≠ 0 ∧ (dFmt db ≠ f.f2.toNat ∨ dGs db ≠ 0)) then .error (plain cDesc)
          else if mmShape da (if gs = [] then 0 else db) pw (mmView fa) total = false then .error (plain cDesc)
          else if da = 0 ∨ db = 0 ∨ gs = [] then .ok p
          else
            let op : MmOp := ⟨mmView fa, mmKg fa, dEpr da, prodTerms (pwBtr pw), prodTans (pwBtr pw), mmDual fa, true⟩
            let n := op.subs p.kp
            let g := gs.getD (p.step / n) 0
            let y := lb.getD (p.step / n) 0
            match s.tileEcc e [da, y] with
            | some g => .error g
            | none =>
              let first := mmagFirst cnt g
              .ok (p.stepped (gs.length * n) (p.mmStep op (p.step % n) (s.slabVals e a da y) acc (pwRow pw) (pwCol pw) (mmCols db pw)
                ((List.range (cnt.getD g 0)).map fun i => (first + i, first + i))))

/-! ## MZRO, MLDQ, MSTQ (R181–R183) -/

/-- MZRO (R181): every bit of the rows, and of the rows of their shadows. -/
def execMzro (f : FmtA) (s : State) : Host.Outcome State Fault Refusal :=
  vecWord (.mzro f) s fun _ a =>
    let p := a.pass
    match accOf f.dst with
    | none => .error (plain cIllegal)
    | some acc =>
      let accs := acc :: p.fireTans.map (p.shadowAcc acc)
      let gone := fun (k : Nat) => decide (k / 4096 ∈ accs) && p.rowOn f (k / 64 % 64)
      .ok { p with r := { p.r with q := p.r.q.filter fun (k, _) => !gone k } }

/-- Whether a region of the shape of a tile lies inside an accumulator (R182). -/
def regionOk (d pw : Word) (view : Nat) : Bool :=
  decide (pwRow pw + dRows d ≤ 64) && decide (pwCol pw + dEpr d ≤ viewCols view)
/-- Rows and columns of a tile's shape. -/
def cellsOf (rows epr : Nat) : List (Nat × Nat) :=
  (List.range rows).flatMap fun r => (List.range epr).map fun i => (r, i)

/-- MLDQ (R182). -/
def execMldq (f : FmtA) (s : State) : Host.Outcome State Fault Refusal :=
  vecWord (.mldq f) s fun e a =>
    let p := a.pass
    let m := f.f1.toNat
    let view := f.f2.toNat
    let d := p.rd s.tick f.sa
    let pw := p.rd s.tick f.sc
    let str := s.shadowStride e a.fr.op
    match accOf f.dst with
    | none => .error (plain cIllegal)
    | some acc =>
      match s.vecFault e a [] [d] (decide (m ≤ 7)) with
      | some c => .error (plain c)
      | none =>
        if d = 0 ∨ dFmt d ≠ m ∨ dGs d ≠ 0 ∨ pwPlain pw = false ∨ regionOk d pw view = false then .error (plain cDesc)
        else
          match s.tileEcc e [d] with
          | some g => .error g
          | none =>
            let t := s.tile e p (dRows d) (dEpr d) d
            let put := fun (q : Pass) (i : Nat) (g : Nat → Nat → Nat) =>
              ((cellsOf (dRows d) (dEpr d)).filter fun (r, _) => p.rowOn f r).foldl
                (fun q (r, c) => q.accWr view i (pwRow pw + r) (pwCol pw + c) (g r c)) q
            let p1 := put p acc fun r c => convEnc m view 0 0 (at2 t r c)
            .ok (p.fireTans.foldl (fun q n =>
              let tt := if p.kp = 0 ∨ view = 8 then [] else s.tanTile e p str n (dRows d) (dEpr d) d
              put q (p.shadowAcc acc n) fun r c =>
                if view = 8 ∨ isEmptyEnc m (at2 t r c) then 0
                else convEnc (tanFmt m) (tanFmt view) 0 0 (at2 tt r c)) p1)

/-- MSTQ (R183). -/
def execMstq (f : FmtA) (s : State) : Host.Outcome State Fault Refusal :=
  vecWord (.mstq f) s fun e a =>
    let p := a.pass
    let view := f.f1.toNat
    let n := f.f2.toNat
    let d := p.rd s.tick f.dst
    let pw := p.rd s.tick f.sc
    match accOf f.sa with
    | none => .error (plain cIllegal)
    | some acc =>
      match s.vecFault e a [d] [] false with
      | some c => .error (plain c)
      | none =>
        if dFmt d ≠ n ∨ dGs d ≠ 0 ∨ pwPlain pw = false ∨ regionOk d pw view = false then .error (plain cDesc)
        else
          let grid := fun {α : Type} (g : Nat → Nat → α) =>
            (List.range (dRows d)).map fun r => (List.range (dEpr d)).map (g r)
          let vals := grid fun r c => some (convEnc view n f.rm.toNat
            (if f.rm = 4 then s.sr e a 0 (r * dEpr d + c) else 0) (p.accRd view acc (pwRow pw + r) (pwCol pw + c)))
          let tans := fun t => grid fun r c =>
            if view = 8 then 0
            else convEnc (tanFmt view) (tanFmt n) 0 0 (p.accRd view (p.shadowAcc acc t) (pwRow pw + r) (pwCol pw + c))
          .ok (s.writeDual e p (s.shadowStride e a.fr.op) d (p.masked f vals) (some tans))

end Sys2Proof.Machine
end

