-- ==== Sys2Proof/Machine/Abacus.lean ====
section
/-!
DEFINITION. The Abacus (R76–R78, R186–R191): lanes, and the instructions that add to, merge, round and export them.
-/
namespace Sys2Proof.Machine

/-! ## Lanes (R76–R78) -/

/-- A value added to a lane (R76). -/
def Lane.add (l : Lane) : FV → Lane
  | .nan .. => { l with nan := true }
  | .inf true => { l with ninf := true }
  | .inf false => { l with pinf := true }
  | .fin s m e => { l with v := l.v + BitVec.ofInt 640 (scaled s m e (-298)) }
/-- A lane rounded to FP32 (R77). -/
def Lane.rnd (l : Lane) : Nat :=
  if l.nan || (l.pinf && l.ninf) then encFloat 1 0 0 .dnan
  else if l.pinf || l.ninf then encFloat 1 0 0 (.inf l.ninf)
  else encFloat 1 0 0 (.fin (decide (l.v.toInt < 0)) l.v.toInt.natAbs (-298))
/-- The 96-byte image of a lane (R78). -/
def Lane.image (l : Lane) : List Byte :=
  leBytes 80 l.v.toNat ++ [BitVec.ofNat 8 (b2n l.nan + 2 * b2n l.pinf + 4 * b2n l.ninf)] ++ List.replicate 15 0
/-- An image merged into a lane (R78). -/
def Lane.merge (l : Lane) (img : List Nat) : Lane :=
  let fl := img.getD 80 0
  { v := l.v + BitVec.ofNat 640 (packRow 8 (img.take 80)), nan := l.nan || fl.testBit 0, pinf := l.pinf || fl.testBit 1,
    ninf := l.ninf || fl.testBit 2 }

/-- Lane `i` as the pass sees it. -/
def Pass.lane (p : Pass) (i : Nat) : Lane := tget {} p.r.lanes i
/-- The pass with a lane replaced. -/
def Pass.setLane (p : Pass) (i : Nat) (l : Lane) : Pass := { p with r := { p.r with lanes := tset {} p.r.lanes i l } }
/-- Lanes that a pass may name (R191). -/
def Pass.laneLimit (p : Pass) : Nat := 128 / (p.kfire + 1)
/-- The lane of tangent `t` (1 to kp) of lane `i` (R191, R197). -/
def Pass.shadowLane (p : Pass) (i t : Nat) : Nat := t * p.laneLimit + i
/-- The first lane and the lanes named by IMM11 (R187). -/
def laneFirst (f : FmtA) : Nat := fld f.imm 0 7
/-- The lane count named by IMM11 (R187). -/
def laneCount (f : FmtA) : Nat := 2 ^ fld f.imm 7 4

/-- A word that acts on lanes f to f + n − 1 once they are known to be usable. -/
def laneWord (i : Instr) (f : FmtA) (s : State) (k : Nat → Active → Except Failure Pass) :
    Host.Outcome State Fault Refusal :=
  vecWord i s fun e a =>
    if a.pass.laneLimit < laneFirst f + laneCount f then .error (plain cDesc) else k e a

/-- ABX.CLR (R189), with the shadow lanes. -/
def execAbxClr (f : FmtA) (s : State) : Host.Outcome State Fault Refusal :=
  laneWord (.abxClr f) f s fun _ a =>
    let p := a.pass
    .ok ((List.range (laneCount f)).foldl (fun q i =>
      (0 :: p.fireTans).foldl (fun q t => q.setLane (p.shadowLane (laneFirst f + i) t) {}) q) p)

/-! ## Adding (R188) -/

/-- The lane of element i of row r under MAP (R188). -/
def laneOf (f : FmtA) (r i : Nat) : Nat :=
  fld f.imm 0 7 + (match fld f.imm 7 2 with
    | 0 => i
    | 1 => r
    | _ => 0)
/-- The highest lane that a shape reaches (R188). -/
def laneTop (f : FmtA) (rows epr : Nat) : Nat := laneOf f (rows - 1) (epr - 1)

/-- One element added to its lane, and its tangents to the shadows: `v` is the element's value, none where EZ leaves it
out; a word that is not in dual mode (`dual` false) zeroes the shadows of the lanes it adds to (R195). -/
def Pass.laneAdd (p : Pass) (dual : Bool) (lane : Nat) (v : Option FV) (tans : Nat → List FV) : Pass :=
  match v with
  | none => p
  | some x =>
    let p1 := p.setLane lane ((p.lane lane).add x)
    p1.fireTans.foldl (fun q t =>
      let n := p.shadowLane lane t
      if dual = false then q.setLane n {} else q.setLane n ((tans t).foldl Lane.add (q.lane n))) p1

/-- An adding word over the elements of tiles: the operands are descriptors with their formats. A zero descriptor adds
nothing, once its lanes are known to be usable (R188, R191); with no shape of its own it reaches the first lane. Integer
operands alone have no tangent (R192). -/
def State.laneAdds (s : State) (e : Nat) (a : Active) (f : FmtA) (ops : List (Word × Nat))
    (val : List FV → FV) (tan : List FV → List FV → List FV) : Except Failure Pass :=
  let p := a.pass
  let str := s.shadowStride e a.fr.op
  let ds := ops.map (·.1)
  match s.vecFault e a [] ds true with
  | some c => .error (plain c)
  | none =>
      let d := (ds.find? (· != 0)).getD 0
      let rows := if d = 0 then 1 else dRows d
      let epr := if d = 0 then 1 else dEpr d
      let dual := decide (p.kp ≠ 0) && ops.any fun (_, m) => decide (m ≤ 7)
      if (ops.any fun (x, m) => x != 0 && (dFmt x != m || dRows x != rows || dEpr x != epr)) ||
          decide (p.laneLimit ≤ laneTop f rows epr) then .error (plain cDesc)
      else if ds.any (· == 0) then .ok p
      else
        match s.tileEcc e ds with
        | some g => .error g
        | none =>
          let bits := ds.map (s.tile e p rows epr)
          let vals := ds.map (s.tileVals e p rows epr)
          let tv := fun t => ds.map fun x => (s.tanTile e p str t rows epr x).map (·.map (tanVal (dFmt x)))
          let tvs := p.tans.map tv
          .ok (((cellsOf rows epr).filter fun (r, _) => p.rowOn f r).foldl (fun q (r, i) =>
            let empty := (ops.zip bits).any fun ((_, m), b) => isEmptyEnc m (at2 b r i)
            let xs := vals.map fun v => vat v r i
            q.laneAdd dual (laneOf f r i) (if f.imm.getLsbD 9 && empty then none else some (val xs))
              fun t => tan xs ((tvs.getD (t - 1) []).map fun v => vat v r i)) p)

/-- ABX.ADD (R188). -/
def execAbxAdd (f : FmtA) (s : State) : Host.Outcome State Fault Refusal :=
  vecWord (.abxAdd f) s fun e a =>
    s.laneAdds e a f [(a.pass.rd s.tick f.sa, f.f1.toNat)] (fun v => v.headD .zero) fun _ t => t
/-- ABX.DOT (R188): the tangents are x′y + xy′ (R192). -/
def execAbxDot (f : FmtA) (s : State) : Host.Outcome State Fault Refusal :=
  vecWord (.abxDot f) s fun e a =>
    s.laneAdds e a f [(a.pass.rd s.tick f.sa, f.f1.toNat), (a.pass.rd s.tick f.sb, f.f2.toNat)]
      (fun v => (v.getD 0 .zero).mul (v.getD 1 .zero))
      fun v t => [(t.getD 0 .zero).mul (v.getD 1 .zero), (v.getD 0 .zero).mul (t.getD 1 .zero)]

/-! ## Rounding, export, merge (R189–R191) -/

/-- ABX.RND (R189). -/
def execAbxRnd (f : FmtA) (s : State) : Host.Outcome State Fault Refusal :=
  laneWord (.abxRnd f) f s fun e a =>
    let p := a.pass
    let d := p.rd s.tick f.dst
    let n := laneCount f
    match s.vecFault e a [d] [] false with
    | some c => .error (plain c)
    | none =>
      if dFmt d ≠ 1 ∨ dGs d ≠ 0 ∨ dRows d * dEpr d < n then .error (plain cDesc)
      else
        let grid := fun (t : Nat) => (List.range (dRows d)).map fun r => (List.range (dEpr d)).map fun i =>
          if r * dEpr d + i < n then some (p.lane (p.shadowLane (laneFirst f + (r * dEpr d + i)) t)).rnd else none
        .ok (s.writeDual e p (s.shadowStride e a.fr.op) d (grid 0)
          (some fun t => (grid t).map (·.map (·.getD 0))))

/-- The descriptor of the lane images of tangent `t` (R191). -/
def imageDesc (d : Word) (str t : Nat) : Word := dWithBase d (dBase d + t * str)
/-- The checks on a lane-image tile and on the tiles of its shadow images (R190, R191, R202). -/
def State.imageFault (s : State) (e : Nat) (a : Active) (d : Word) (n : Nat) (ts : List Nat) : Option Nat :=
  let nm := s.nmemOf e
  let str := s.shadowStride e a.fr.op
  match (0 :: ts).findSome? fun t =>
      if 16384 ≤ dBase d + t * str then some cDesc else descFault nm (imageDesc d str t) with
  | some c => some c
  | none => if dFmt d ≠ 12 ∨ dRbc d ≠ 5 ∨ dGs d ≠ 0 ∨ dRows d < n then some cDesc else none

/-- ABX.OUT (R190); a word that is not in dual mode writes zeros as the shadow images (R195). -/
def execAbxOut (f : FmtA) (s : State) : Host.Outcome State Fault Refusal :=
  laneWord (.abxOut f) f s fun e a =>
    let p := a.pass
    let d := p.rd s.tick f.dst
    let n := laneCount f
    let str := s.shadowStride e a.fr.op
    match s.imageFault e a d n p.fireTans with
    | some c => .error (plain c)
    | none =>
      if d = 0 ∨ dLoc d ≠ 0 then .error (plain cDesc)
      else
        .ok ((0 :: p.fireTans).foldl (fun q t =>
          s.writeTile e q (imageDesc d str t) ((List.range n).map fun j =>
            (if t ≠ 0 ∧ p.kp = 0 then List.replicate 96 0
             else (p.lane (p.shadowLane (laneFirst f + j) t)).image).map fun b => some b.toNat)) p)

/-- ABX.MRG (R190); a word that is not in dual mode zeroes the shadow lanes (R195). -/
def execAbxMrg (f : FmtA) (s : State) : Host.Outcome State Fault Refusal :=
  laneWord (.abxMrg f) f s fun e a =>
    let p := a.pass
    let d := p.rd s.tick f.sa
    let n := laneCount f
    let str := s.shadowStride e a.fr.op
    if d = 0 then .ok p
    else
      match s.imageFault e a d n p.tans with
      | some c => .error (plain c)
      | none =>
        match s.tileEcc e [d] with
        | some g => .error g
        | none =>
          .ok ((0 :: p.fireTans).foldl (fun q t =>
            let img := s.tile e p n 96 (imageDesc d str t)
            (List.range n).foldl (fun q j =>
              let l := p.shadowLane (laneFirst f + j) t
              q.setLane l (if t ≠ 0 ∧ p.kp = 0 then {} else (q.lane l).merge (img.getD j []))) q) p)

end Sys2Proof.Machine
end

