-- ==== Sys2Proof/Machine/Body.lean ====
section
/-!
DEFINITION. The checks that GLOAD makes on the words of a body (R88, R90, R93, R97, R100, R109–R119, R138, R166, R186,
R192, R193, R196, R201, R204, R241, R251).
-/
namespace Sys2Proof.Machine

/-! ## Operand kinds (R93) -/

/-- What an operand accepts: every readable register but q, or those but q and m, or w, s, c, p and z, or w and s; as a
destination w, s and z, with m besides, or w and s; a mask; an accumulator. -/
inductive OperKind where
  | any | src | addr | srcS | dst | dstM | dstS | mask | acc
deriving DecidableEq, Repr, Inhabited

/-- Whether a specifier is of the kind. -/
def OperKind.ok (k : OperKind) (sp : Spec) : Bool :=
  let n := sp.toNat
  match k with
  | .any => decide (n < 44) || decide (52 ≤ n)
  | .src => decide (n < 44) || decide (56 ≤ n)
  | .addr => decide (n < 44) || n == 56
  | .dst => decide (n < 24) || n == 56
  | .dstM => decide (n < 24) || (decide (52 ≤ n) && decide (n ≤ 56))
  | .srcS => decide (n < 24)
  | .dstS => decide (n < 24)
  | .mask => decide (52 ≤ n) && decide (n < 56)
  | .acc => decide (44 ≤ n) && decide (n < 52)

/-- Four operands of one kind, with the destination's. -/
def opers (f : FmtA) (d k : OperKind) : List (OperKind × Spec) := [(d, f.dst), (k, f.sa), (k, f.sb), (k, f.sc)]
/-- A vector word whose SB and SC are scalar where `b` and `c` say so (R139). -/
def vOpers (f : FmtA) (b c : Bool) : List (OperKind × Spec) :=
  [(.addr, f.dst), (.addr, f.sa), (if b then .src else .addr, f.sb), (if c then .src else .addr, f.sc)]
/-- A memory word that reads DV and SB. -/
def mOpers (f : FmtM) : List (OperKind × Spec) := [(.src, f.dv), (.addr, f.sa), (.src, f.sb)]
/-- A memory word that writes DV. -/
def mLoads (f : FmtM) : List (OperKind × Spec) := [(.dstS, f.dv), (.addr, f.sa)]

/-- The operands of a word of a body, each with what it accepts. -/
def operandsOf : Instr → List (OperKind × Spec)
  | .emit f => [(.any, f.sa)]
  | .steer f _ => [(.any, f.sa), (.any, f.sb)]
  | .lgen f | .rels f | .colr f => [(.src, f.sa), (.src, f.sb)]
  | .add f | .sub f | .mul f | .mulh f | .mulhu f | .divu f | .remu f | .and f | .or f | .xor f | .andn f | .shl f
  | .shr f | .sra f | .min f | .max f | .minu f | .maxu f | .cmp f | .sel f | .clz f | .popc f | .bfx f | .bfi f =>
    opers f .dst .any
  | .mov f => opers f .dstM .any
  | .li f _ => [(.dstS, f.dst)]
  | .tdmk f | .tdget f | .tdset f | .tdadv f | .tdsub f => opers f .dstS .src
  | .fadd f | .fsub f | .fmul f | .ffma f | .fmin f | .fmax f | .fcmp f | .fcvt f | .frcp f | .frsq f => opers f .dst .src
  | .vadd f | .vsub f | .vmul f | .vmin f | .vmax f | .vabs f | .vneg f | .vand f | .vor f | .vxor f | .vshl f | .vshr f
  | .vsra f | .vcmp f | .vsel f => vOpers f (f.imm.getLsbD 0) false
  | .vfma f => vOpers f (f.imm.getLsbD 0) (f.imm.getLsbD 1)
  | .vmsk f => [(.mask, f.dst), (.addr, f.sa)]
  | .vcvt f | .vrcp f | .vrsq f | .vnrs f | .vexp2 f | .vlog2 f | .vtanh f | .vsumr f | .vmaxr f | .vscan f | .vperm f
  | .vtrn f | .vqnt f | .vdqnt f | .vaddc f | .vmulw f | .vtopk f => vOpers f false false
  | .vbcst f => [(.addr, f.dst), (if fld f.imm 8 2 = 2 then .src else .addr, f.sa)]
  | .vlsh f => vOpers f true false
  | .mma f | .mmaq f | .mmax f | .mldq f => opers f .acc .addr
  | .mmag f x => (.src, x.extractLsb' 0 6) :: opers f .acc .addr
  | .mzro f => [(.acc, f.dst)]
  | .mstq f => [(.addr, f.dst), (.acc, f.sa), (.addr, f.sc)]
  | .abxClr f | .abxAdd f | .abxDot f | .abxMrg f | .abxRnd f | .abxOut f => opers f .addr .addr
  | .ldt f _ | .stt f _ | .clrm f _ | .redt f _ | .rmtStt f _ => mOpers f
  | .atom f _ | .cas f _ | .rmtFaa f _ => mOpers f
  | .stg f | .sts f | .rmtSt f | .rmtFlag f | .rodAdd f | .rodWait f | .lnch f => mOpers f
  | .lkAcq f | .lkUpg f | .lkRel f | .lkRall f | .lkmLd f | .lkeSet f | .ordj f | .fence f | .trig f => mOpers f
  | .ldg f | .lds f | .rodRd f | .lkQry f => mLoads f
  | .dseed f => [(.addr, f.dst), (if f.imm.getLsbD 3 then .src else .addr, f.sa)]
  | .dtget f => if f.imm.getLsbD 4 then [(.dstS, f.dst), (.srcS, f.sa)] else [(.addr, f.dst), (.addr, f.sa)]
  | .dtset f => [(.dstS, f.dst), (.src, f.sa)]
  | .dtzro f => [(if f.imm.getLsbD 4 then .dstS else .addr, f.dst)]
  | _ => []

/-- Whether an operand can be read from a port register. -/
def OperKind.reads (k : OperKind) : Bool := k == .any || k == .src || k == .addr

/-! ## What words are -/

/-- Whether the encoded form of a word has a dual meaning with a tangent (R138, R166, R192, R204, R247, R252). DEDUCED (log 143): a
load that sign-extends carries no tangent (R247), so none of its forms has one, though R204 lists LDG and LDS. -/
def dualForm : Instr → Bool
  | .fadd _ | .fsub _ | .fmul _ | .ffma _ | .fmin _ | .fmax _ | .sel _ | .frcp _ | .frsq _ | .mov _ | .emit _ => true
  | .fcvt f | .vcvt f => f.f2.toNat ≤ 7
  | .vadd f | .vsub f | .vmul f | .vfma f | .vmin f | .vmax f | .vabs f | .vneg f | .vsel f | .vrcp f | .vrsq f
  | .vnrs f | .vexp2 f | .vlog2 f | .vtanh f | .vsumr f | .vmaxr f | .vscan f | .vbcst f | .vlsh f | .vperm f | .vtrn f
  | .vqnt f | .vtopk f | .mma f | .mmax f | .mmaq f | .abxAdd f => f.f1.toNat ≤ 7
  | .mmag f _ => f.f1.toNat ≤ 7
  | .vdqnt _ | .mzro _ | .abxClr _ | .abxMrg _ | .abxRnd _ | .abxOut _ => true
  | .abxDot f => f.f1.toNat ≤ 7 || f.f2.toNat ≤ 7
  | .mldq f => f.f2.toNat ≤ 7
  | .mstq f => f.f1.toNat ≤ 7
  | .ldt _ _ | .stt _ _ | .clrm _ _ | .rmtStt _ _ | .stg _ | .sts _ => true
  | .ldg f | .lds f => f.size.toNat ≤ 3
  | .redt f _ => f.aop == 9
  | _ => false

/-- LSID of a format M word of a body. -/
def lsidOf : Instr → Option Nat
  | .ldt f _ | .stt f _ | .clrm f _ | .redt f _ | .rmtStt f _ | .atom f _ | .cas f _ | .rmtFaa f _ => some f.lsid.toNat
  | .ldg f | .stg f | .lds f | .sts f | .ordj f | .fence f | .rmtSt f | .rmtFlag f | .rodAdd f | .rodWait f | .rodRd f
  | .lkAcq f | .lkUpg f | .lkRel f | .lkRall f | .lkQry f | .lkmLd f | .lkeSet f | .lnch f | .trig f => some f.lsid.toNat
  | _ => none

/-- Whether SMASK may name the LSID of a word: stores, streams, atomics and remote operations (R90, R347). -/
def inSmask : Instr → Bool
  | .ldt .. | .stt .. | .clrm .. | .redt .. | .rmtStt .. | .atom .. | .cas .. | .rmtFaa .. | .stg _ | .sts _ | .rmtSt _
  | .rmtFlag _ | .rodAdd _ => true
  | _ => false

/-- The output that a word names, and whether it may be a tile reference (R109–R114, R241). -/
def outputOf : Instr → Option (Nat × Bool)
  | .emit f | .null f => some (f.out.toNat, f.cto == 0)
  | .lgen f | .dmnd f | .colr f => some (fld f.imm 0 3, false)
  | .ldt _ x => if x.getLsbD 39 then some (fld x 36 3, true) else none
  | .stt _ x | .clrm _ x | .redt _ x | .rmtStt _ x => if x.getLsbD 39 then some (fld x 36 3, false) else none
  | .atom _ (some x) | .cas _ (some x) | .rmtFaa _ (some x) => if x.getLsbD 39 then some (fld x 36 3, false) else none
  | _ => none

/-- Whether a word of the body is an ABX instruction (R186). -/
def isAbx : Instr → Bool
  | .abxClr _ | .abxAdd _ | .abxDot _ | .abxMrg _ | .abxRnd _ | .abxOut _ => true
  | _ => false

/-- Whether a word writes an s register (R97). -/
def writesS (i : Instr) : Bool :=
  (operandsOf i).any fun (k, sp) =>
    (k == .dst || k == .dstM || k == .dstS) && decide (16 ≤ sp.toNat) && decide (sp.toNat < 24)

/-! ## A body as GLOAD reads it -/

/-- A word of a body: its index, the K of the prefix before it (0 for none), the instruction. -/
structure BodyWord where
  idx  : Nat
  pre  : Nat
  i    : Instr
deriving Repr

/-- A refusal of a body: the word that breaks the rule, and the cause. -/
structure BodyFault where
  idx   : Nat
  cause : Nat
deriving Repr

/-- Whether a tile-engine body accepts the major (R100); the header and the prefix stand apart. -/
def bodyMaj (m : Nat) : Bool :=
  (decide (0x02 ≤ m) && decide (m ≤ 0x0B)) || (decide (0x0E ≤ m) && decide (m ≤ 0x1C)) ||
  (decide (0x20 ≤ m) && decide (m ≤ 0x24)) || (decide (0x26 ≤ m) && decide (m ≤ 0x2B))

/-- K of a P word, if the word is a good one (R193). -/
def prefixK (w : Word) : Option Nat :=
  if wordMin w = 0 ∧ wordXt w = false ∧ fld w 0 48 = 0 ∧ 1 ≤ fld w 48 3 ∧ fld w 48 3 ≤ 4 then some (fld w 48 3) else none

/-- The words of a body after its header (R90, R100, R193); `pre` is the K of a prefix that waits for its word. -/
def parseBody (j pre : Nat) : List Word → Except BodyFault (List BodyWord)
  | [] => if pre = 0 then .ok [] else .error ⟨j - 1, cIllegal⟩
  | w :: r =>
    if wordMaj w = 0x3E then
      match prefixK w with
      | none => .error ⟨j, cIllegal⟩
      | some k => if pre = 0 then parseBody (j + 1) k r else .error ⟨j - 1, cIllegal⟩
    else if bodyMaj (wordMaj w) = false then .error ⟨j, cIllegal⟩
    else if wordMaj w = 0x28 ∧ wordMin w = 3 then .error ⟨j, cPriv⟩
    else if wordXt w then
      match r with
      | [] => .error ⟨j, cIllegal⟩
      | x :: r2 =>
        match decodeWord w (some x) with
        | .error _ => .error ⟨j, cIllegal⟩
        | .ok i => if pre ≠ 0 ∧ dualForm i = false then .error ⟨j - 1, cIllegal⟩
          else (parseBody (j + 2) 0 r2).map (⟨j, pre, i⟩ :: ·)
    else
      match decodeWord w none with
      | .error _ => .error ⟨j, cIllegal⟩
      | .ok i => if pre ≠ 0 ∧ dualForm i = false then .error ⟨j - 1, cIllegal⟩
        else (parseBody (j + 1) 0 r).map (⟨j, pre, i⟩ :: ·)

/-! ## The header (R87, R90) -/

def hdrSmask (w : Word) : BitVec 32 := w.extractLsb' 19 32
def hdrOutc (w : Word) : Nat := fld w 15 4
def hdrCls (w : Word) : Nat := fld w 14 1
def hdrDbit (w : Word) : Bool := w.getLsbD 13
def hdrDk (w : Word) : Nat := fld w 10 3
def hdrLen (w : Word) : Nat := fld w 4 6
/-- A good H word. -/
def hdrOk (w : Word) : Bool :=
  wordMaj w == 1 && wordMin w == 0 && !wordXt w && fld w 0 4 == 0 && decide (hdrOutc w ≤ 8) &&
    (if hdrDbit w then decide (1 ≤ hdrDk w) && decide (hdrDk w ≤ 4) else hdrDk w == 0)

/-! ## The checks that depend on the operator (R90, R91, R93, R109–R119, R196) -/

/-- Whether the operator's class and inputs admit an operand (R93). -/
def operandOk (o : OpHead) (k : OperKind) (sp : Spec) : Bool :=
  k.ok sp && !(k.reads && decide (40 ≤ sp.toNat) && decide (sp.toNat < 44) && decide (o.nin ≤ sp.toNat - 40)) &&
    !(k == .acc && o.cls == 1)

/-- The port of KEEP and RELS: in use, TILE = 1, mode TOKEN (R118, R119). -/
def portWordOk (o : OpEntry) : Instr → Bool
  | .keep f | .rels f =>
    let k := fld f.imm 0 2
    decide (k < o.h.nin) && (o.ports.getD k {}).tile && (o.ports.getD k {}).mode == .token
  | _ => true

/-- STEER: keep bits at OUTC and above are 0, and the null mask lies within SMASK (R115). -/
def steerOk (outc : Nat) (smask : BitVec 32) : Instr → Bool
  | .steer f x => decide (fld f.imm 0 8 < 2 ^ outc) &&
      (match x with | some m => m.extractLsb' 0 32 &&& ~~~ smask == 0 | none => true)
  | _ => true

/-- Whether a word suits its operator. -/
def wordSuits (o : OpEntry) (smask : BitVec 32) (i : Instr) : Bool :=
  (operandsOf i).all (fun (k, sp) => operandOk o.h k sp) &&
  (match outputOf i with
   | some (n, _) => decide (n < o.h.olcnt)
   | none => true) &&
  portWordOk o i && steerOk o.h.olcnt smask i

/-- Whether a word suits the operator's output-list range (R109): `tile n` says that output n is a tile reference. -/
def outSuits (tile : Nat → Bool) (i : Instr) : Bool :=
  match outputOf i with
  | some (n, tileOk) => tileOk || !tile n
  | none => true

/-- No LSID is carried twice (R90): the index of the second word that carries it. -/
def dupLsid (seen : List Nat) : List BodyWord → Option Nat
  | [] => none
  | b :: r =>
    match lsidOf b.i with
    | none => dupLsid seen r
    | some l => if seen.contains l then some b.idx else dupLsid (l :: seen) r

/-- Loads above an atomic that is marked acquire (R251). -/
def acquireFault (ws : List BodyWord) : Option Nat :=
  (ws.find? fun b => match b.i with
    | .ldg f | .lds f => ws.any fun a => match a.i with
      | .atom g _ | .cas g _ | .rmtFaa g _ => g.ord.getLsbD 0 && decide (g.lsid.toNat < f.lsid.toNat)
      | _ => false
    | _ => false).map (·.idx)

/-- The limit of R201 on the accumulators that words name, for `k` tangents. -/
def accLimit (ws : List BodyWord) (k : Nat) : Bool :=
  k == 0 || ws.all fun b => (operandsOf b.i).all fun (q, sp) => q != .acc || decide (sp.toNat - 44 < 8 / (k + 1))
/-- The limit of R201 on QLIVE for `k` tangents, of an operator of any kind. -/
def OpHead.qliveFits (o : OpHead) (k : Nat) : Bool :=
  k == 0 || (List.range 8).all fun i => !o.qlive.getLsbD i || decide (i < 8 / (k + 1))

/-- A refusal of a body by GLOAD: at a word of it, or at the OPTAB record of its operator (R91). -/
inductive BodyBad where
  | word (idx cause : Nat)
  | record (cause : Nat)
deriving Repr

/-- The words of a body, or why GLOAD refuses them: R90, R91, R93, R100, R196, R251. DEDUCED (log 144): which checks
of a word against the operator name the word, and which the record. -/
def checkBody (o : OpEntry) (tile : Nat → Bool) (words : List Word) : Except BodyBad (List BodyWord) :=
  match words with
  | [] => .error (.word 0 cIllegal)
  | h :: rest =>
    if hdrOk h = false then .error (.word 0 cIllegal)
    else match parseBody 1 0 rest with
      | .error f => .error (.word f.idx f.cause)
      | .ok ws =>
        let sm := hdrSmask h
        if hdrLen h ≠ o.h.blen ∨ hdrOutc h ≠ o.h.olcnt ∨ hdrCls h ≠ o.h.cls ∨
            (hdrDbit h ∧ hdrDk h ≠ o.h.dualk) ∨ (ws.any fun b => b.pre != 0 && b.pre != o.h.dualk) ∨
            accLimit ws o.h.dualk = false ∨ (ws.any fun b => !outSuits (fun n => decide (n < o.h.olcnt) && tile n) b.i) then .error (.record cIllegal)
        else match ws.find? fun b => !wordSuits o sm b.i with
          | some b => .error (.word b.idx cIllegal)
          | none =>
            match dupLsid [] ws with
            | some j => .error (.word j cIllegal)
            | none =>
              if (List.range 32).any fun l => sm.getLsbD l && !(ws.any fun b => inSmask b.i && lsidOf b.i == some l) then
                .error (.word 0 cIllegal)
              else match acquireFault ws with
                | some j => .error (.word j cIllegal)
                | none => .ok ws

/-- Whether the tangents of a ring lie in scratch for `k` tangents (R196, R202). -/
def ringFits (o : OpEntry) (stride k : Nat) : Bool := decide (o.entryLine o.rcnt + k * stride ≤ 12288)

/-- Whether a tile reference of a loaded operator reaches, under LOCAL or WINDOW, an operator of another DUALK (R210). -/
def State.dualRefBad (s : State) (e op : Nat) : Bool :=
  let x := s.engine e
  let o := x.op op
  (List.range o.h.olcnt).any fun n =>
    (x.refInfo o n).tile && refMode (x.ref o n) != 1 && (x.refInfo o n).kc != o.h.dualk

/-- The checks of R196 and R210 on a loaded operator of engine `e` for the tangents `k` of a launch, 0 for none. GLOAD cannot
know whether every launch of the image carries DUAL k, so R210's refusal is made here, at arming (log 120). -/
def State.launchDualOk (s : State) (e op k : Nat) : Bool :=
  let x := s.engine e
  let o := x.op op
  if k = 0 then !s.dualRefBad e op else
  let ring := decide (0 < o.tilePorts) || (List.range o.h.olcnt).any fun n => (x.refInfo o n).tile
  if (ring ∧ ringFits o (s.shadowStride e op) k = false) ∨ o.h.qliveFits k = false then false
  else if o.h.runs then
    match parseBody 1 0 ((List.range o.h.blen).map fun j => tget 0 x.t.body (o.h.body + 1 + j)) with
    | .ok ws => accLimit ws k
    | .error _ => true
  else true

end Sys2Proof.Machine
end

