-- ==== Sys2Proof/Machine/Descriptor.lean ====
section
/-!
DEFINITION. Descriptor instructions (R129–R132).
-/
namespace Sys2Proof.Machine

/-- A word that writes a descriptor to DST after the checks of R83 (R129). -/
def descWord (i : Instr) (f : FmtA) (s : State) (g : Word → Word → Word → Option Word) :
    Host.Outcome State Fault Refusal :=
  passWord i s fun e a =>
    let p := a.pass
    match g (p.rd s.tick f.sa) (p.rd s.tick f.sb) (immB f (p.rd s.tick f.sb)) with
    | none => .trap ⟨cDesc, 0, 0⟩
    | some d =>
      match descFault (s.nmemOf e) d with
      | some c => .trap ⟨c, 0, 0⟩
      | none => .ok (p.wrP f.dst d)

/-- Low bit and width of a descriptor field (R130). -/
def descField : Nat → Nat × Nat
  | 0 => (0, 14) | 1 => (14, 6) | 2 => (20, 3) | 3 => (24, 8) | 4 => (32, 4) | 5 => (36, 3) | 6 => (39, 2)
  | 7 => (41, 14) | 8 => (55, 2) | _ => (57, 4)

/-- The descriptor that TDMK builds (R131). -/
def tdMake (a t : Word) : Option Word :=
  let off := fld a 0 20
  if off % 64 ≠ 0 ∨ 786432 ≤ off then none
  else if addrPath a = 0xA ∧ fld a 20 40 = 0 then some (put 14 41 (fld t 14 41) ||| put 0 14 (off / 64))
  else if addrPath a = 0xB ∧ fld a 24 36 = 0 then
    some (put 57 4 (fld a 20 4) ||| put 55 2 1 ||| put 14 41 (fld t 14 41) ||| put 0 14 (off / 64))
  else none
/-- TDMK (R131). -/
def execTdmk (f : FmtA) (s : State) := descWord (.tdmk f) f s fun a b _ => tdMake a b

/-- TDGET (R130): reads a field without checking. -/
def execTdget (f : FmtA) (s : State) : Host.Outcome State Fault Refusal :=
  passWord (.tdget f) s fun _ a =>
    let (lo, n) := descField f.imm.toNat
    .ok (a.pass.wrP f.dst (BitVec.ofNat 64 (fld (a.pass.rd s.tick f.sa) lo n)))

/-- TDSET (R130): a value that does not fit raises DESC. -/
def execTdset (f : FmtA) (s : State) :=
  descWord (.tdset f) f s fun a b _ =>
    let (lo, n) := descField f.imm.toNat
    if b.toNat < 2 ^ n then some (setField a lo n b.toNat) else none

/-- TDADV (R131): BASE moves by a signed amount and stays in 0 to 12,287. -/
def tdAdvance (d b : Word) : Option Word :=
  let n : Int := (dBase d : Int) + b.toInt
  if 0 ≤ n ∧ n ≤ 12287 then some (dWithBase d n.toNat) else none
/-- TDADV (R131). -/
def execTdadv (f : FmtA) (s : State) := descWord (.tdadv f) f s fun a _ b => tdAdvance a b

/-- TDSUB: `n` rows from row `first` (R132). A new BASE or SBASE that does not fit its field raises DESC. -/
def tdSubRows (d : Word) (first n : Nat) : Option Word :=
  if dRows d < first + n then none
  else
    let rows := setField d 14 6 (n - 1)
    let base :=
      if dRot d = 0 then
        if first * dStride d % 64 ≠ 0 then none else some (dBase d + first * dStride d / 64)
      else some ((dBase d / 192 + first) * 192 + (dBase d % 192 + first * rotStep (dRot d)) % 192)
    match base with
    | none => none
    | some b =>
      if 16384 ≤ b then none
      else
        let e := setField rows 0 14 b
        if dGs d = 0 then some e
        else
          let sb := first * dScaleRow d
          if sb % 64 ≠ 0 ∨ 16384 ≤ dSbase d + sb / 64 then none
          else some (setField e 41 14 (dSbase d + sb / 64))
/-- TDSUB (R132). -/
def execTdsub (f : FmtA) (s : State) :=
  descWord (.tdsub f) f s fun a _ b => tdSubRows a (fld b 0 6) (fld b 6 6 + 1)

end Sys2Proof.Machine
end

