-- ==== Sys2Proof/Machine/Flags.lean ====
section
/-!
DEFINITION. Conditions: the integer conditions of R89. No instruction of this hardware sets a flag (R123, R133); a
comparison writes its result to a register.
-/
namespace Sys2Proof.Machine

/-- Whether an integer condition holds (R89). Codes 10 to 15 are no instruction. -/
def condHolds (cc : Nat) (a b : Word) : Bool :=
  match cc with
  | 0 => a == b
  | 1 => a != b
  | 2 => a.slt b
  | 3 => !(a.slt b)
  | 4 => a.ult b
  | 5 => !(a.ult b)
  | 6 => b.slt a
  | 7 => !(b.slt a)
  | 8 => b.ult a
  | 9 => !(b.ult a)
  | _ => false

end Sys2Proof.Machine
end

