-- ==== Sys2Proof/Machine/Flow.lean ====
section
/-!
DEFINITION. Operator-structure instructions: outputs, steering, kept tiles, the end of a body (R108–R122).
-/
namespace Sys2Proof.Machine

/-- Die and unit of the sender of a token, as its arrival carries them (R20). -/
def Origin.src (w : Origin) : Nat := 256 * w.die + w.unit

/-- A token leaves for the unit it names, behind the ids it follows (R23, R226): a token for the command processor is an
exit token (R314), one for a link port leaves by its remote reference (R403). -/
def State.sendToken (s : State) (deps : List Nat) (t : Token) (remote : Option Word) (who : Origin) : State :=
  let u := tokUnit t
  s.postDep deps
    (if u = 252 then .exitToken t who
     else if 224 ≤ u ∧ u ≤ 227 then .tokenAtLinkPort (tokDie t) u t remote who
     else .tokenArrival (tokDie t) u t ⟨false, who.src⟩)

/-- The token with another payload. -/
def tokWithPay (t : Token) (v : Word) : Token := { tokFields t with pay := v }.mk128

/-- The atomics of a pass with acquire semantics that are on their way, which every token of the pass follows (R226 link 5). -/
def State.acqDeps (s : State) (who : Origin) : List Nat :=
  s.pend.filterMap fun m => match m.ev with
    | .accessAtHome a => if a.acq ≠ 0 ∧ a.who = who then some m.id else none
    | .windowAccessArrival a => if a.acq ≠ 0 ∧ a.who = who then some m.id else none
    | _ => none

/-- What a result or completion token of a pass follows: its acquiring atomics (R226 link 5) and, with O = 1, the streams below an ORDJ of
it (R248). -/
def State.joinDeps (s : State) (who : Origin) (t : Token) : List Nat :=
  s.acqDeps who ++ if tokO t then ((s.engine (72 * who.die + who.unit)).streams.filter fun y => y.ordj && y.who == who).map (·.id) else []

/-- A result or completion token is sent (R241, R248). -/
def State.sendReply (s : State) (r : Option Reply) (v : Word) : State :=
  match r with
  | none => s
  | some q => s.sendToken (s.joinDeps q.who q.tok) (tokWithPay q.tok v) q.remote q.who

/-- The record of output `o`. -/
def Pass.out (p : Pass) (o : Nat) : OutRec := tget {} p.b.outs o
/-- The pass with the record of output `o` replaced. -/
def Pass.setOut (p : Pass) (o : Nat) (r : OutRec) : Pass :=
  { p with b := { p.b with outs := tput p.b.outs o r } }

/-- The colour of a token on output `o` (R108): the word's transform, the dynamic colour, or the reference's own. -/
def Pass.outCol (p : Pass) (ref : Word) (o : Nat) (ct : Option (Nat × Nat)) : Nat :=
  match ct with
  | some (c, i) => colourTo c i p.col
  | none =>
    match (p.out o).dyn with
    | some c => c
    | none => colourTo (refCt ref) (refCimm ref) p.col

/-- Whether the transform is SAME or ADD, under which the emits of consecutive passes join (R35). -/
def Pass.outJoin (p : Pass) (ref : Word) (o : Nat) (ct : Option (Nat × Nat)) : Bool :=
  match ct with
  | some (c, _) => decide (c ≤ 1)
  | none => (p.out o).dyn.isNone && decide (refCt ref ≤ 1)

/-- The transform that a format E word carries (R110). -/
def emitXf (f : FmtE) : Option (Nat × Nat) := if f.cto = 1 then some (f.ct.toNat, f.cimm.toNat) else none

/-- Count one more emit or null on output `o`, with the token it would send. -/
def Pass.send (p : Pass) (o : Nat) (t : OutTok) : Pass :=
  let r := p.out o
  p.setOut o { r with count := r.count + 1, tok := some t }

/-- The checks that a reference makes when a word sends on it: a reserved unit raises FRAME (R20, R110), and a remote
reference needs a table and a rank below its N (R403). -/
def State.refFault (s : State) (a : Active) (ref : Word) : Option Nat :=
  if unitOk (refUnit ref) = false then some cFrame
  else if 224 ≤ refUnit ref ∧ refUnit ref ≤ 227 then
    match s.launchTable a.fr.ctx a.fr.inst with
    | none => some cFrame
    | some t =>
      let g := s.pgt a.fr.ctx t
      if refRmt ref / 2 % 2 = 0 ∧ g.n ≤ refCimm ref then some cBadpath else none
  else none

/-- A word that sends token `mk` on output `o`. -/
def sendWord (i : Instr) (s : State) (o : Nat) (mk : Nat → Active → Word → OutInfo → Except Nat OutTok) :
    Host.Outcome State Fault Refusal :=
  passWord i s fun e a =>
    let x := s.engine e
    let op := s.opOf e a
    let ref := x.ref op o
    match s.refFault a ref with
    | some c => .trap ⟨c, 0, 0⟩
    | none =>
      match mk e a ref (x.refInfo op o) with
      | .error c => .trap ⟨c, 0, 0⟩
      | .ok t => .ok (a.pass.send o t)

/-- The check that EMIT makes on a tile: not the zero descriptor, R83, and inside the output sub-slot of the pass's
colour (R110); a descriptor that names the engine as a group member names its own scratch (R332). -/
def State.emitTileFault (s : State) (e : Nat) (a : Active) (v : Word) : Option Nat :=
  let op := s.opOf e a
  if v = 0 then some cDesc
  else match descFault (s.nmemOf e) v with
    | some c => some c
    | none =>
      if s.descEngine e v = e ∧ tileWithin v (op.outLine (a.pass.col % op.rcnt)) op.rsize then none else some cDesc

/-- EMIT (R110). -/
def execEmit (f : FmtE) (s : State) : Host.Outcome State Fault Refusal :=
  sendWord (.emit f) s f.out.toNat fun e a ref inf =>
    let p := a.pass
    let v := p.rd s.tick f.sa
    let c := p.outCol ref f.out.toNat (emitXf f)
    let j := p.outJoin ref f.out.toNat (emitXf f)
    if f.ef = 1 then .ok { e := true, o := f.ofl == 1, col := c, join := j }
    else
      match if inf.tile then s.emitTileFault e a v else none with
      | some k => .error k
      | none => .ok { o := f.ofl == 1, val := v, col := c, join := j && !inf.tile, tile := inf.tile,
                      s := inf.tile && dGs v != 0, d := inf.tile && decide (1 ≤ p.kfire) }

/-- NULL (R111). -/
def execNull (f : FmtE) (s : State) : Host.Outcome State Fault Refusal :=
  sendWord (.null f) s f.out.toNat fun _ a ref _ =>
    .ok { n := true, o := f.ofl == 1, col := a.pass.outCol ref f.out.toNat (emitXf f) }

/-- DMND (R112). -/
def execDmnd (f : FmtA) (s : State) : Host.Outcome State Fault Refusal :=
  sendWord (.dmnd f) s (fld f.imm 0 3) fun _ a ref _ =>
    .ok { q := true, col := a.pass.outCol ref (fld f.imm 0 3) none }

/-- LGEN (R113). -/
def execLgen (f : FmtA) (s : State) : Host.Outcome State Fault Refusal :=
  sendWord (.lgen f) s (fld f.imm 0 3) fun _ a ref _ =>
    let n := (a.pass.rd s.tick f.sb).toNat
    let c := a.pass.outCol ref (fld f.imm 0 3) none
    if n = 0 then .ok { n := true, col := c }
    else if n ≤ 32 then .ok { val := a.pass.rd s.tick f.sa, col := c, run := n - 1 }
    else .error cFrame

/-- COLR (R114). -/
def execColr (f : FmtA) (s : State) : Host.Outcome State Fault Refusal :=
  passWord (.colr f) s fun _ a =>
    let p := a.pass
    let o := fld f.imm 0 3
    .ok (p.setOut o { p.out o with dyn := some (fld (p.rd s.tick f.sa) 0 12) })

/-- STEER (R115). -/
def execSteer (f : FmtA) (x : Option Word) (s : State) : Host.Outcome State Fault Refusal :=
  passWord (.steer f x) s fun _ a =>
    let p := a.pass
    if condHolds f.f1.toNat (p.rd s.tick f.sa) (p.rd s.tick f.sb) then
      if p.b.steers = 0 then
        .ok { p with b := { p.b with steers := 1, keep := f.imm.setWidth 8, lnull := (x.getD 0).setWidth 32 } }
      else .ok { p with b := { p.b with steers := p.b.steers + 1 } }
    else .ok p

/-- The ring entry of the pass's colour on its operator (R46). -/
def State.passEntry (s : State) (e : Nat) (a : Active) : Nat := a.pass.col % (s.opOf e a).rcnt

/-- KEEP (R118): a null or empty token has no sub-slot to keep. -/
def execKeep (f : FmtA) (s : State) : Host.Outcome State Fault Refusal :=
  passWord (.keep f) s fun e a =>
    let p := a.pass
    let k := fld f.imm 0 2
    match (p.ins.getD k {}).tok with
    | some t =>
      if tokN t ∨ tokE t ∨ (k, s.passEntry e a) ∈ p.b.keeps then .ok p
      else .ok { p with b := { p.b with keeps := p.b.keeps ++ [(k, s.passEntry e a)] } }
    | none => .ok p

/-- RELS (R119): a release of an entry that the pass itself kept cancels the KEEP. -/
def execRels (f : FmtA) (s : State) : Host.Outcome State Fault Refusal :=
  passWord (.rels f) s fun _ a =>
    let p := a.pass
    let k := fld f.imm 0 2
    let n := fld (p.rd s.tick f.sa) 0 6
    if (k, n) ∈ p.b.keeps then .ok { p with b := { p.b with keeps := p.b.keeps.filter (· != (k, n)) } }
    else .ok { p with b := { p.b with rels := p.b.rels ++ [(k, n)] } }

/-- NOP (R122). -/
def execNop (f : FmtA) (s : State) : Host.Outcome State Fault Refusal :=
  passWord (.nop f) s fun _ a => .ok a.pass

/-- EXIT ends the pass at once (R121): its next move is the commit. -/
def execExit (f : FmtA) (s : State) : Host.Outcome State Fault Refusal :=
  passWord (.exit f) s fun _ a => .ok { a.pass with done := true }

end Sys2Proof.Machine
end

