-- ==== Sys2Proof/Machine/Rods.lean ====
section
/-!
DEFINITION. Rods: references and their checks (R342, R343), counts, adds and what a change wakes (R341, R346, R349,
R352), and the rod instructions (R347–R351).
-/
namespace Sys2Proof.Machine

/-! ## References (R342) -/

def rodKind (r : Word) : Nat := fld r 62 2
def rodDie (r : Word) : Nat := fld r 60 2
def rodEng (r : Word) : Nat := fld r 53 7
def rodNum (r : Word) : Nat := fld r 0 8

/-- The reserved bits and the number range of a reference (R342, R343). -/
def rodFieldsOk (r : Word) : Bool :=
  fld r 48 5 == 0 &&
  match rodKind r with
  | 0 => fld r 8 40 == 0 && decide (rodNum r < 48) && decide (rodEng r < 72)
  | 1 => fld r 8 40 == 0 && decide (rodNum r < 64) && rodEng r == 0
  | 2 => fld r 8 40 == 0 && rodEng r == 0
  | _ => rodDie r == 0 && rodEng r == 0 && fld r 0 3 == 0

/-- Who uses a rod (R343): the agent, its context (none for a supervisor core with ASEL = 64). -/
structure RodUser where
  by_ : Accessor
  ctx : Option Nat
deriving DecidableEq, Repr, Inhabited

/-- What is done to a rod. -/
inductive RodUse where
  | add | wait | read
deriving DecidableEq, Repr, Inhabited

/-- A GROUP or DIE rod. -/
def State.rod (s : State) (r : Word) : Rod :=
  if rodKind r = 1 then tget {} (s.units (rodDie r)).grods (rodNum r) else tget {} (s.units (rodDie r)).rods (rodNum r)
/-- The state with a GROUP or DIE rod replaced. -/
def State.setRod (s : State) (r : Word) (x : Rod) : State :=
  let u := s.units (rodDie r)
  if rodKind r = 1 then s.setUnits (rodDie r) { u with grods := tset {} u.grods (rodNum r) x }
  else s.setUnits (rodDie r) { u with rods := tset {} u.rods (rodNum r) x }

/-- The engine of an ENGINE rod. -/
def rodEngine (r : Word) : Nat := 72 * rodDie r + rodEng r

/-- The count of a rod (R340); `home` is the home of a MEMORY rod's word. -/
def State.rodCount (s : State) (r : Word) (home : Nat) : Word :=
  match rodKind r with
  | 0 => tget 0 (s.engine (rodEngine r)).rods (rodNum r)
  | 3 => s.rdWord home
  | _ => (s.rod r).count

/-- Whether an agent may wait on a GROUP or DIE rod (R340, R343): members of the group, or agents of the rod's die and
the command processor. -/
def rodWaitOk (x : Rod) (r : Word) (by_ : Accessor) (grp : Option Nat) : Bool :=
  if rodKind r = 1 then (match by_ with
    | .engine e => e / 72 == rodDie r && grp == some x.grp
    | _ => false)
  else match by_ with
    | .engine e => e / 72 == rodDie r
    | .core d => d == rodDie r
    | .seq d => d == rodDie r
    | .cp => true
    | .link _ => false

/-- Whether a watch unit of a die is bound to a word of a context (R346). -/
def State.watched (s : State) (d c va : Nat) : Bool :=
  (s.units d).watch.any fun (_, w) => w.v && w.ctx == c && w.addr == va / 8

/-- How a rod on a memory word is accessed; STRM is 0xFE for an agent that is no engine (R388). -/
def RodUser.via (u : RodUser) (k : AccKind) : Via :=
  { by_ := u.by_, ctx := u.ctx, kind := k, strm := match u.by_ with | .engine _ => 0xFF | _ => 0xFE }

/-- The checks of R340, R343, R344 and R346 on the use of a rod: the home of a MEMORY rod's word (0 for the other kinds). A
GROUP rod takes adds of its group's members alone, as R340's column says (log 21). -/
def State.checkRod (s : State) (u : RodUser) (use : RodUse) (r : Word) : Except Failure Nat × State :=
  if rodFieldsOk r = false then (.error ⟨cFrame, 0, 0⟩, s)
  else match rodKind r with
    | 0 => (if u.by_ = .engine (rodEngine r) then .ok 0 else .error ⟨cFrame, 0, 0⟩, s)
    | 3 =>
      match s.resolve (u.via .atomic) [0] (put 0 48 (addrVa r)) 8 true with
      | (.error f, s1) => (.error f, s1)
      | (.ok hs, s1) =>
        if use = .wait ∧ s1.watched u.by_.die (u.ctx.getD 64) (addrVa r) = false then (.error ⟨cFrame, 0, 0⟩, s1)
        else (.ok (hs.headD 0), s1)
    | _ =>
      let x := s.rod r
      let grp : Option Nat := match u.by_ with
        | .engine e => (s.groupOf e).map (·.1)
        | _ => none
      let own := x.a && u.ctx.all (· == x.ctx) &&
        (match u.by_ with
         | .engine e => rodKind r != 1 || (e / 72 == rodDie r && grp == some x.grp)
         | _ => rodKind r != 1 || use != .add)
      (if own ∧ (use ≠ .wait ∨ rodWaitOk x r u.by_ grp) then .ok 0 else .error ⟨cFrame, 0, 0⟩, s)

/-! ## What a change of a rod wakes -/

/-- A rod as its waiters name it: the reference, or 2^64 plus the home for a MEMORY rod. -/
def rodKey (r : Word) (home : Nat) : Nat := if rodKind r = 3 then 2 ^ 64 + home else r.toNat

/-- The homes of the 8 bytes from `h`. -/
def homes8 (h : Nat) : List Nat := (List.range 8).map (h + ·)
/-- A rod as what an observer reads (R222). -/
def rodKeys (r : Word) (home : Nat) : List Nat := if rodKind r = 3 then byteKeys (homes8 home) else [r.toNat]

/-- A pass that has met an acquire, or read `keys` without one, in the context it runs for (R226, R227). -/
def State.acquired (s : State) (e : Nat) (a : Active) (acq : Nat) (keys : List Nat) (p : Pass) : Pass × State :=
  let (n, t) := s.acquireAt a.fr.ctx acq
  (p.acquire acq n (s.seen (.engine e) acq keys), t)

/-- Whether a pass waits on the rod for a count that has been reached. -/
def Active.rodMet (a : Active) (key : Nat) (count : Word) : Bool :=
  match a.pass.wait with
  | .rod r t h _ => rodKey r h == key && decide (t.toNat ≤ count.toNat)
  | _ => false
/-- The acquire code of the wait of a pass. -/
def Active.waitAcq (a : Active) : Nat := match a.pass.wait with | .rod _ _ _ q => q | .lock _ q => q | .none => 0

/-- An issue slot whose pass goes on as `g` leaves it where `p` holds. -/
def IssueSlot.wake (sl : IssueSlot) (p : Active → Bool) (g : Active → Active) : IssueSlot :=
  { sl with act := sl.act.map fun a => if p a then g a else a }

/-- The passes of an engine that wait for what `p` says has come about resume as `g` leaves them: a suspended one is ready for its slot,
one that kept its slot goes on in it (R349). -/
def Engine.wake (x : Engine) (p : Active → Bool) (g : Active → Active) : Engine :=
  let met := x.susp.filter p
  { x with susp := x.susp.filter (fun a => !p a), ready := x.ready ++ met.map g, mat := x.mat.wake p g, vec := x.vec.wake p g }

/-- The passes of an engine for which `p` holds, wherever they stand. -/
def Engine.waiting (x : Engine) (p : Active → Bool) : List Active :=
  (x.susp ++ x.mat.act.toList ++ x.vec.act.toList).filter p

/-- The moments of the acquires of passes whose waits end, by uid. -/
def State.acquireEach (s : State) : List Active → List (Nat × Nat) × State
  | [] => ([], s)
  | a :: r =>
    let (n, t) := s.acquireAt a.fr.ctx a.waitAcq
    let (m, u) := t.acquireEach r
    ((a.fr.uid, n) :: m, u)

/-- The passes of engine `e` that `p` picks have their waits end, each with its acquire (R226, R349); `keys` is what they have read. -/
def State.endWaits (s : State) (e : Nat) (p : Active → Bool) (keys : List Nat) : State :=
  match (s.engine e).waiting p with
  | [] => s
  | l =>
    let (m, t) := s.acquireEach l
    let g := fun a : Active =>
      let n := ((m.find? fun (x : Nat × Nat) => x.1 == a.fr.uid).map (·.2)).getD 0
      { a with pass := Pass.acquire { a.pass with wait := .none } a.waitAcq n (s.seen (.engine e) a.waitAcq keys) }
    t.setEngine e ((t.engine e).wake p g)

/-- A wait after a count has been shown. -/
def RodWaiter.see (w : RodWaiter) (key : Nat) (count : Word) : RodWaiter :=
  if w.key = key ∧ w.target ≤ count.toNat then { w with met := true } else w
/-- The waits of the cores, the sequencers and the queues are tested against a count (R346, R348). -/
def State.wakeWaiters (s : State) (key : Nat) (count : Word) : State :=
  let see := fun w : Option RodWaiter => w.map (·.see key count)
  let s1 := s.each (s.dies.map (·.1)) fun d t =>
    let x := t.die d
    t.setDie d { x with core := { x.core with rodw := see x.core.rodw },
                        progs := x.progs.map fun (n, p) => (n, p.map fun y => { y with rodw := see y.rodw }) }
  { s1 with cp := { s1.cp with queues := s1.cp.queues.map fun (n, q) => (n, { q with rodw := see q.rodw }) } }
/-- What a wait finds when its word executes: whether it is over, and what it leaves to be tested if it is not. A wait that
a notification has ended stays ended. -/
def waitStep (old : Option RodWaiter) (key : Nat) (target count : Word) (c : Nat) : Option RodWaiter :=
  let w := (old.filter fun w => w.key == key && w.target == target.toNat && w.ctx == c).getD ⟨key, target.toNat, c, false⟩
  if w.met ∨ target.toNat ≤ count.toNat then none else some w

/-- What the wait of an agent that is no pass finds when its word executes: beside waitStep, it goes on only once what it has to see
first has acted (R226, R227). -/
def State.rodWaitStep (s : State) (u : RodUser) (old : Option RodWaiter) (r : Word) (home : Nat) (target count : Word) (acq : Nat) :
    Option RodWaiter :=
  let c := u.ctx.getD 64
  match waitStep old (rodKey r home) target count c with
  | some w => some w
  | none => if s.seen u.by_ acq (rodKeys r home) = [] then none else some ⟨rodKey r home, target.toNat, c, true⟩

/-- The passes that wait for a rod, and the other agents that wait for it, are tested against a count. -/
def State.wakePasses (s : State) (key : Nat) (keys : List Nat) (count : Word) : State :=
  (s.each (s.eng.map (·.1)) fun e t => t.endWaits e (fun a => a.rodMet key count) keys).wakeWaiters key count

/-! ## ROD-mode ports (R352) -/

def wwKind (w : Word) : Nat := fld w 62 2
def wwDie (w : Word) : Nat := fld w 60 2
def wwIndex (w : Word) : Nat :=
  match wwKind w with
  | 2 => fld w 47 8
  | 3 => fld w 47 5
  | _ => fld w 47 6
def wwTarget (w : Word) : Nat := fld w 0 46
/-- The bits that the KIND excludes are 0. -/
def wwFieldsOk (w : Word) : Bool :=
  match wwKind w with
  | 0 => !w.getLsbD 46
  | 1 => fld w 53 7 == 0 && !w.getLsbD 46
  | 2 => fld w 55 5 == 0 && !w.getLsbD 46
  | _ => fld w 52 8 == 0 && !w.getLsbD 46
/-- The rod reference of a wait word that names no memory rod. -/
def wwRef (w : Word) : Word :=
  put 62 2 (wwKind w) ||| put 60 2 (wwDie w) ||| (if wwKind w = 0 then put 53 7 (fld w 53 7) else 0) ||| put 0 8 (wwIndex w)

/-- The home of the word that a watch unit is bound to, under the mapping of this moment. -/
def State.watchHome (s : State) (w : Watch) : Option Nat :=
  match s.walk (s.ctx w.ctx).r.root.toNat (w.addr * 8) with
  | .ok t => some ((if t.host then hostHome else hbmHome) (t.pa + (w.addr * 8 - t.base)))
  | .error _ => none

/-- The count that a wait word tests. -/
def State.wwCount (s : State) (w : Word) : Word :=
  if wwKind w = 3 then
    match s.watchHome (tget {} (s.units (wwDie w)).watch (wwIndex w)) with
    | some h => s.rdWord h
    | none => 0
  else s.rodCount (wwRef w) 0

/-- The check of a wait word at landing (R343, R346, R352): `by_` is the engine, or a member of the operator's group for the
pool, which uses no ENGINE rod (R340); `c` the context. -/
def State.wwFault (s : State) (by_ : Accessor) (pool : Bool) (c : Nat) (w : Word) : Bool :=
  let x := tget {} (s.units (wwDie w)).watch (wwIndex w)
  let ref := if wwKind w = 3 then put 62 2 3 ||| BitVec.ofNat 64 (8 * x.addr) else wwRef w
  if wwFieldsOk w = false ∨ (pool ∧ wwKind w = 0) then true
  else if wwKind w = 3 ∧ ¬ (wwDie w = by_.die ∧ x.v ∧ x.ctx = c) then true
  else
    match (s.checkRod ⟨by_, some c⟩ .wait ref).1 with
    | .ok _ => false
    | .error _ => true

/-- The operator that a slot of engine `e` or, for the pool, of a member of the operator's group belongs to. -/
def State.poolEngine (s : State) (d op frame : Nat) : Option Nat :=
  (s.units d).groups.findSome? fun (_, g) =>
    if g.holds then
      (groupMembers d g).find? fun e =>
        let o := (s.engine e).op op
        o.h.kind != .none && o.h.pool && o.frame == frame
    else none

/-- The mode of the port that a token names, at engine `e` (R36). -/
def State.portMode (s : State) (e : Nat) (t : Token) : PortMode :=
  (((s.engine e).op (tokOp t)).ports.getD (tokPort t) {}).mode

/-- Slots that hold a wait word on `hit` and whose target has been reached are marked satisfied, for good (R352). -/
def markRods (rodPort : Token → Bool) (hit : Word → Bool) (count : Word) (ms : Table Slot) : Table Slot :=
  ms.map fun (n, x) =>
    let w := tokPay x.tok
    if x.p && !x.rodOk && rodPort x.tok && hit w && decide (wwTarget w ≤ count.toNat) then (n, { x with rodOk := true })
    else (n, x)

/-- The ROD-mode ports of the package that wait on `hit` are tested against a count. -/
def State.wakePorts (s : State) (hit : Word → Bool) (count : Word) : State :=
  let s1 := s.each (s.eng.map (·.1)) fun e u =>
    let x := u.engine e
    let ms := markRods (fun k => u.portMode e k == .rod) hit count x.t.ms
    u.setEngine e { x with t := { x.t with ms := ms } }
  s1.each (s1.dies.map (·.1)) fun d t =>
    let p := t.pool d
    let isRod := fun k => match t.poolEngine d (tokOp k) (tokFrame k) with
      | some e => t.portMode e k == .rod
      | none => false
    t.setPool d { p with ms := markRods isRod hit count p.ms }

/-- The context of the group that holds an engine (64 where none does). -/
def State.engineCtx (s : State) (e : Nat) : Nat :=
  match s.groupOf e with
  | some (g, _) => (s.group (e / 72) g).ctx
  | none => 64

/-- A rod that is no memory rod has changed: its waiters are tested (R348, R352), and the change is an event of R319. -/
def State.rodChanged (s : State) (r : Word) : State :=
  let n := s.rodCount r 0
  let s1 := (s.wakePasses (rodKey r 0) (rodKeys r 0) n).wakePorts (fun w => wwKind w != 3 && wwRef w == r) n
  s1.touch (rodDie r) (if rodKind r = 0 then s1.engineCtx (rodEngine r) else (s1.rod r).ctx)

/-- Watch unit `n` of die `d` is notified of a write to its word (R346); a change of the word is an event of R319. -/
def State.notifyUnit (s : State) (d n h : Nat) (w : Watch) : State :=
  let v := s.rdWord h
  let u := s.units d
  let s1 := s.setUnits d { u with watch := tset {} u.watch n { w with last := v } }
  let s2 := (s1.wakePasses (2 ^ 64 + h) (byteKeys (homes8 h)) v).wakePorts (fun x => wwKind x == 3 && wwDie x == d && wwIndex x == n) v
  if v = w.last then s2 else s2.touch d w.ctx

/-- Bytes at the given homes have been written: every watch unit bound to a word among them is notified (R346). -/
def State.notify (s : State) (hs : List Nat) : State :=
  s.dies.foldl (fun t (d, _) => (t.units d).watch.foldl (fun u (n, w) =>
    if w.v then
      match u.watchHome w with
      | some h => if hs.any fun k => decide (h ≤ k) && decide (k < h + 8) then u.notifyUnit d n h w else u
      | none => u
    else u) t) s

/-- Bytes written at a list of homes, as every write to memory by an agent is. -/
def State.storeHomes (s : State) (hs : List Nat) (bs : List Byte) : State := (s.wrHomes hs bs).notify hs

/-! ## Recorded decisions (R456, R457) -/

/-- A decision of a recorded class is made: logged under capture, held back (none) under replay until it is the next one of
its die, free otherwise. -/
def State.decision (s : State) (cls die unit : Nat) (what : List Nat) : Option State :=
  let r := s.root
  if r.cmode = 1 then
    if r.caplen.toNat ≤ r.cappos.toNat then some ({ s with root := { r with cmode := 0 } }.fireMsix 3)
    else
      let at0 := hbmHome (r.capbase.toNat + 32 * r.cappos.toNat)
      let s1 := s.storeHomes ((List.range 32).map (at0 + ·)) (s.captureEntry cls die unit what)
      let full := r.caplen.toNat = r.cappos.toNat + 1
      let s2 := { s1 with root := { r with cappos := r.cappos + 1, cmode := if full then 0 else 1 } }
      some (if full then s2.fireMsix 3 else s2)
  else if r.cmode = 2 then
    match s.nextEntry die with
    | none => some s
    | some b =>
      let e := s.captureEntry cls die unit what
      if b.take 8 = e.take 8 ∧ b.drop 16 = e.drop 16 then
        some { s with root := { r with cappos := r.cappos + 1, divAt := tput r.divAt die s.tick.toNat,
                                       capDie := tput r.capDie die (tget 0 r.capDie die + 1) } }
      else none
  else some s

/-! ## Adds (R341) -/

/-- A rod add acts at the rod's home (R341). On a FREE rod it raises FRAME (R344); an overflow raises RODOVF, and an add of 0
changes nothing. -/
def State.addRod (s : State) (a : RodAdd) : State :=
  let n := (s.rodCount a.ref a.home).toNat + a.amount
  let k := rodKind a.ref
  let det := BitVec.ofNat 64 a.tag
  if (k = 1 ∨ k = 2) ∧ (s.rod a.ref).a = false then s.report a.who.die cFrame a.who 0 det none
  else if 2 ^ 64 ≤ n then
    let who := if a.who.ctx < 64 ∨ k = 0 ∨ k = 3 then a.who else { a.who with ctx := (s.rod a.ref).ctx }
    s.report a.who.die cRodovf who 0 det none
  else if a.amount = 0 ∧ k ≠ 3 then s
  else match k with
    | 0 =>
      let x := s.engine (rodEngine a.ref)
      (s.setEngine (rodEngine a.ref) { x with rods := tset 0 x.rods (rodNum a.ref) (BitVec.ofNat 64 n) }).rodChanged a.ref
    | 3 =>
      if s.eccAt a.home 8 then s.report a.who.die cEcc a.who 0 (Config.eccPlace a.home) none
      else s.storeHomes (homes8 a.home) (leBytes 8 n)
    | _ => (s.setRod a.ref { s.rod a.ref with count := BitVec.ofNat 64 n }).rodChanged a.ref

/-- ROD_ADD_ARRIVAL (R341). -/
def execRodAddArrival (a : RodAdd) (s : State) : Host.Outcome State Fault Refusal := .next (s.addRod a)

/-- A rod add that the command processor makes for a command of a context (R296): checked when it is made, a MEMORY rod under
the mapping of that moment. A failure is reported at die 0 and adds nothing; its record has the command's TAG in DETAIL (R295), but
for the causes that fill DETAIL themselves (R388, R454). -/
def State.cpRod (s : State) (c tag : Nat) (ref : Word) (amount : Nat) (k : State → RodAdd → State) : State :=
  let who : Origin := ⟨c, none, 0, 252, 0, 0⟩
  match s.checkRod ⟨.cp, some c⟩ .add ref with
  | (.error f, t) =>
    t.report 0 f.cause who f.addr (if f.cause = cXlate ∨ f.cause = cPerm ∨ f.cause = cEcc then f.detail else BitVec.ofNat 64 tag) none
  | (.ok h, t) => k t ⟨ref, h, amount, who, tag⟩
/-- The add that a command makes when it completes or is triggered, behind what it follows as a release. -/
def State.cpAdd (s : State) (deps : List Nat) (c tag : Nat) (ref : Word) (amount : Nat) : State :=
  s.cpRod c tag ref amount fun t a => t.postDep deps (.rodAddArrival a)

/-! ## Instructions -/

/-- A word of a pass that reads or translates memory as it executes: the new pass or a fault, and the state. -/
def memWord (i : Instr) (s : State) (k : Nat → Active → Except Failure Pass × State) : Host.Outcome State Fault Refusal :=
  onPass i s fun e sl a =>
    match k e a with
    | (.ok p, t) => t.setPass e sl a p
    | (.error f, t) => t.passFault e sl f

/-- The pass of engine `e` as the user of a rod. -/
def Active.rodUser (a : Active) (e : Nat) : RodUser := ⟨.engine e, some a.fr.ctx⟩
/-- A control core as the user of a rod (R343). -/
def State.coreUser (s : State) (d : Nat) : RodUser :=
  let c := (s.core d).csr
  ⟨.core d, if c.mode then (if c.asel.toNat < 64 then some c.asel.toNat else none) else some c.cctx⟩
/-- A control core as the maker of an effect. -/
def State.coreOrigin (s : State) (d : Nat) : Origin := ⟨(s.coreUser d).ctx.getD 64, none, d, 240, 0, 0⟩

/-- (value(DV) + sext(OFF15)) mod 2^32 (R347). -/
def rodAmount (f : FmtM) (v : Word) : Nat := (v + f.off.signExtend 64).toNat % 2 ^ 32

/-- The bytes of a MEMORY rod at a home. -/
def rodHomes (r : Word) (home : Nat) : List Nat := if rodKind r = 3 then homes8 home else []

/-- A rod add of a core: it acts at once where nothing holds it back, and a release goes behind the core's earlier accesses (R264). -/
def State.coreRodAdd (s : State) (d : Nat) (a : RodAdd) (release : Bool) (scope : Nat) : State :=
  let hs := rodHomes a.ref a.home
  let (hard, soft) := s.coreDeps d hs release scope
  if hard = [] then ((s.addRod a).noteSoft 0 (rodKeys a.ref a.home) a.who scope soft).coreForget d hs
  else ((s.postDep hard (.rodAddArrival a)).noteSoft s.nextId (rodKeys a.ref a.home) a.who scope soft).coreForget d hs

/-- ROD.ADD (R347): held until commit in a pass (R262, R264). -/
def execRodAdd (f : FmtM) (s : State) : Host.Outcome State Fault Refusal :=
  match s.cur with
  | .core d =>
    let c := s.core d
    match s.checkRod (s.coreUser d) .add (c.rd f.sa) with
    | (.error g, t) => .next (t.coreFault d g.cause g.addr)
    | (.ok h, t) => .next ((t.setCore d (t.core d).adv).coreRodAdd d
        ⟨c.rd f.sa, h, rodAmount f (c.rd f.dv), s.coreOrigin d, 0⟩ (f.ord.toNat / 2 == 1) f.scope.toNat)
  | _ => memWord (.rodAdd f) s fun e a =>
      let p := a.pass
      let r := p.rd s.tick f.sa
      match s.checkRod (a.rodUser e) .add r with
      | (.error g, t) => (.error g, t)
      | (.ok h, t) => (.ok ((p.useLsid f.lsid.toNat).hold
          { lsid := f.lsid.toNat, ord := f.ord.toNat, scope := f.scope.toNat,
            eff := .rodAdd ⟨r, h, rodAmount f (p.rd s.tick f.dv), a.origin e, 0⟩ }), t)

/-- The acquire code of a word: 0 where ORD has no acquire, else the scope code plus one. -/
def acqScope (ord scope : Nat) : Nat := if ord % 2 = 1 then scope + 1 else 0

/-- The pass in a slot waits: it is suspended, or, where four are suspended already, keeps its slot (R349). While its context drains it is
aborted instead, as soft pre-emption aborts what waits (R284, R349). -/
def State.suspend (s : State) (e sl : Nat) (a : Active) (w : Wait) : State :=
  let b := { a with pass := { a.pass with wait := w } }
  let x := s.engine e
  if (s.ctx a.fr.ctx).st = .draining then (s.setActive e sl (some b)).abortPasses e fun y => y.fr.uid == a.fr.uid
  else if x.susp.length < 4 then
    let s1 := s.setActive e sl none
    s1.setEngine e { s1.engine e with susp := x.susp ++ [b] }
  else s.setActive e sl (some b)

/-- The count of a rod as a core sees it: a MEMORY rod under its own stores that are on their way (R264). -/
def State.coreCount (s : State) (d : Nat) (r : Word) (home : Nat) : Word :=
  if rodKind r = 3 then BitVec.ofNat 64 (leNat (s.coreView d (homes8 home) (s.rdBytes home 8))) else s.rodCount r home

/-- ROD.WAIT (R348, R349, R262). -/
def execRodWait (f : FmtM) (s : State) : Host.Outcome State Fault Refusal :=
  match s.cur with
  | .core d =>
    let c := s.core d
    match s.checkRod (s.coreUser d) .wait (c.rd f.sa) with
    | (.error g, t) => .next (t.coreFault d g.cause g.addr)
    | (.ok h, t) =>
      let y := t.core d
      let r := c.rd f.sa
      let q := acqScope f.ord.toNat f.scope.toNat
      match t.rodWaitStep (s.coreUser d) y.rodw r h (c.rd f.sb) (t.coreCount d r h) q with
      | none => .next (((t.setCore d { y with rodw := none, pc := y.npc }).coreForget d (rodHomes r h)).coreAcquired d q (rodKeys r h))
      | w => .next ((t.setCore d { y with rodw := w }).coreAgain d (.rodWait f))
  | _ => onPass (.rodWait f) s fun e sl a =>
      let r := a.pass.rd s.tick f.sa
      let target := a.pass.rd s.tick f.sb
      let q := acqScope f.ord.toNat f.scope.toNat
      match s.checkRod (a.rodUser e) .wait r with
      | (.error g, t) => t.passFault e sl g
      | (.ok h, t) =>
        let b := { a with pass := a.pass.useLsid f.lsid.toNat }
        if target.toNat ≤ (t.rodCount r h).toNat then
          let (p, u) := t.acquired e b q (rodKeys r h) b.pass
          u.setPass e sl b p
        else t.suspend e sl b (.rod r target h q)

/-- Whether an owner word is good for a rod reference (R351). -/
def State.rodOwnerOk (s : State) (r own : Word) : Bool :=
  let c := fld own 8 7
  let g := fld own 0 7
  fld own 15 49 == 0 && !own.getLsbD 7 && decide (c < 64) &&
    (if rodKind r = 1 then
       decide (g < 72) && (s.group (rodDie r) g).st != .free && (s.group (rodDie r) g).ctx == c
     else g == 0)

/-- ROD.INIT (R351, R344); a port that waits for the rod is tested against the new count (R352). -/
def execRodInit (f : FmtM) (s : State) : Host.Outcome State Fault Refusal :=
  onSup (.rodInit f) s fun d c =>
    let r := c.rd f.sa
    let own := c.rd f.sb
    if rodFieldsOk r = false ∨ (rodKind r ≠ 1 ∧ rodKind r ≠ 2) ∨ s.rodOwnerOk r own = false ∨ (s.rod r).a then
      s.coreFault d cFrame 0
    else ((s.setCore d c.adv).setRod r { count := c.rd f.dv, a := true, ctx := fld own 8 7, grp := fld own 0 7 }).rodChanged r

end Sys2Proof.Machine
end

