-- ==== Sys2Proof/Machine/Memory.lean ====
section
/-!
DEFINITION. Memory, stream, atomic and remote instructions of a pass (R236–R255).
-/
namespace Sys2Proof.Machine

/-- The address of a format M word (R236). -/
def Pass.memAddr (p : Pass) (tick : Word) (f : FmtM) : Word := p.rd tick f.sa + f.off.signExtend 64
/-- Bytes of a scalar access (R237). -/
def sizeBytes (sz : Nat) : Nat := 2 ^ (sz % 4)
/-- The register value of loaded bytes: zero-extended, or sign-extended for codes 4 to 6 (R237). -/
def loadExt (sz n : Nat) : Word :=
  if sz < 4 then BitVec.ofNat 64 n
  else BitVec.ofInt 64 (sintOf (8 * 2 ^ (sz % 4)) n)

/-- How a pass makes an access. -/
def Active.via (a : Active) (e : Nat) (k : AccKind) : Via := { by_ := .engine e, ctx := some a.fr.ctx, kind := k, pre := a.pass.pre }

/-- The scope of a word: on paths 0x2 and 0x3 every scope acts as SYSTEM (R222). -/
def scopeOn (ad : Word) (sc : Nat) : Nat := if addrPath ad = 2 ∨ addrPath ad = 3 then 4 else sc

/-! ## Tangent planes (R203) and scratch tangents of a byte address (R202, R247) -/

/-- The address of slice `i` of tangent `t` of the byte at an address, where it has one. -/
def State.planeAddr (s : State) (e : Nat) (a : Active) (ad : Word) (t i : Nat) : Option Word :=
  let b := (s.ctx a.fr.ctx).r.dshb.toNat
  let str := s.shadowStride e a.fr.op
  match addrPath ad with
  | 0x0 | 0x1 | 0x3 =>
    if b = 0 then none
    else some ((ad &&& 0xFFFF000000000000#64) ||| put 0 48 (addrVa ad + t * b + i * (b / 8)))
  | 0xA => if str = 0 then none else some (ad + BitVec.ofNat 64 ((t * str + i * (str / 8)) * 64))
  | 0xB =>
    -- MEMBER is kept; an offset past scratch is one that R216 refuses
    if str = 0 then none
    else some (setField ad 0 20 (Nat.min (fld ad 0 20 + (t * str + i * (str / 8)) * 64) 0xFFFFF))
  | _ => none

/-- Slices of the tangent of a scalar access of `n` bytes (R247). -/
def scalarSlices (n : Nat) : Nat := if n = 8 then 1 else 4 / n

/-! ## Loads -/

/-- The byte at a home as a load with LSID `l` reads it: the store of the pass with the highest LSID below `l` (R226
link 1), a later tile write over an earlier store and a later store over an earlier tile write (R141). -/
def Pass.loadByte (p : Pass) (l h : Nat) (b0 : Byte) : Byte :=
  (p.b.held.foldl (fun (acc : Byte × Option Nat) x =>
    match cellAt x.cells h with
    | none => acc
    | some b => match x.eff with
      | .scratch _ => (b, none)
      | _ => if x.lsid < l ∧ acc.2.all (fun k => decide (k ≤ x.lsid)) then (b, some x.lsid) else acc) (b0, none)).1

/-- The bytes at homes as a load of a pass finds them in memory: those of now, or, where it is no acquire, those read ahead (R225). -/
def Pass.liveBytes (p : Pass) (acq : Nat) (aligned : Bool) (hs : List Nat) (live : List Byte) : List Byte :=
  if acq = 0 then earlyBytes p.pre aligned hs live else live

/-- A scalar read of a pass with an acquire code: the checks of R238, then its homes and its bytes as a number. -/
def State.passRead (s : State) (e : Nat) (a : Active) (v : Via) (paths : List Nat) (ad : Word) (n l acq : Nat) :
    Except Failure (List Nat × Nat) × State :=
  match s.resolve v paths ad n false with
  | (.error g, t) => (.error g, t)
  | (.ok hs, t) =>
    if t.eccHomes hs then (.error ⟨cEcc, ad, Config.eccPlace (hs.headD 0)⟩, t)
    else
      let bs := if addrPath ad = 1 then t.rdConst e a.pass.acq hs
        else a.pass.liveBytes acq (decide (ad.toNat % n = 0)) hs (t.rdHomes hs)
      (.ok (hs, leNat ((hs.zip bs).map fun (h, b) => a.pass.loadByte l h b)), t)

/-- A pass that has loaded the bytes at homes: what it has read ahead of them is spent, and it sees what comes before them (R226). -/
def State.loaded (s : State) (e : Nat) (a : Active) (acq : Nat) (hs : List Nat) (p : Pass) : Pass × State :=
  s.acquired e a acq (byteKeys hs) { p with pre := forget p.pre hs }

/-- The count of a rod as a load reads it (R350): that of a MEMORY rod under the pass's own stores of lower LSID, and under the check
of its word (R226, R454). -/
def State.readRod (s : State) (p : Pass) (l acq : Nat) (r : Word) (h : Nat) : Except Failure Word :=
  if rodKind r ≠ 3 then .ok (s.rodCount r h)
  else if s.eccAt h 8 then .error ⟨cEcc, put 0 48 (addrVa r), Config.eccPlace h⟩
  else
    let bs := p.liveBytes acq true (homes8 h) (s.rdHomes (homes8 h))
    .ok (BitVec.ofNat 64 (leNat (((homes8 h).zip bs).map fun (k, b) => p.loadByte l k b)))

/-- ROD.RD (R350). -/
def execRodRd (f : FmtM) (s : State) : Host.Outcome State Fault Refusal :=
  match s.cur with
  | .core d =>
    let c := s.core d
    match s.checkRod (s.coreUser d) .read (c.rd f.sa) with
    | (.error g, t) => .next (t.coreFault d g.cause g.addr)
    | (.ok h, t) =>
      let r := c.rd f.sa
      if rodKind r = 3 ∧ t.eccAt h 8 then .next (t.coreFault d cEcc (put 0 48 (addrVa r)))
      else .next (((t.setCore d ((t.core d).wr f.dv (t.coreCount d r h)).adv).coreForget d (rodHomes r h)).coreAcquired d
        (acqScope f.ord.toNat f.scope.toNat) (rodKeys r h))
  | _ => memWord (.rodRd f) s fun e a =>
      let r := a.pass.rd s.tick f.sa
      let l := f.lsid.toNat
      match s.checkRod (a.rodUser e) .read r with
      | (.error g, t) => (.error g, t)
      | (.ok h, t) =>
        let acq := acqScope f.ord.toNat f.scope.toNat
        match t.readRod a.pass l acq r h with
        | .error g => (.error g, t)
        | .ok v =>
          let q := { a.pass with pre := forget a.pass.pre (rodHomes r h) }
          let (p, u) := t.acquired e a acq (rodKeys r h) ((q.useLsid l).wrP f.dv v)
          (.ok p, u)

/-- The tangent of a scalar read, slice after slice, with the homes it was read from; 0 where no plane exists (R247). -/
def State.readTan (s : State) (e : Nat) (a : Active) (paths : List Nat) (ad : Word) (n l acq t : Nat) :
    List Nat → Except Failure (List Nat × Nat) × State
  | [] => (.ok ([], 0), s)
  | i :: r =>
    match s.planeAddr e a ad t i with
    | none => (.ok ([], 0), s)
    | some pa =>
      match s.passRead e a { a.via e .load with plane := true } paths pa n l acq with
      | (.error g, u) => (.error g, u)
      | (.ok (hx, x), u) =>
        match u.readTan e a paths ad n l acq t r with
        | (.error g, w) => (.error g, w)
        | (.ok (hy, y), w) => (.ok (hx ++ hy, x * 2 ^ (8 * n * i) ||| y), w)

/-- The tangents of a scalar read, with the homes they were read from. -/
def State.readTans (s : State) (e : Nat) (a : Active) (paths : List Nat) (ad : Word) (n l acq : Nat) :
    List Nat → Except Failure (List Nat × List Word) × State
  | [] => (.ok ([], []), s)
  | t :: r =>
    match s.readTan e a paths ad n l acq t (List.range (scalarSlices n)) with
    | (.error g, u) => (.error g, u)
    | (.ok (hx, x), u) =>
      match u.readTans e a paths ad n l acq r with
      | (.error g, w) => (.error g, w)
      | (.ok (hs, xs), w) => (.ok (hx ++ hs, BitVec.ofNat 64 x :: xs), w)

/-- LDG and LDS (R247). -/
def loadWord (i : Instr) (f : FmtM) (paths : List Nat) (s : State) : Host.Outcome State Fault Refusal :=
  memWord i s fun e a =>
    let p := a.pass
    let ad := p.memAddr s.tick f
    let n := sizeBytes f.size.toNat
    let acq := acqScope f.ord.toNat (scopeOn ad f.scope.toNat)
    match s.passRead e a (a.via e .load) paths ad n f.lsid.toNat acq with
    | (.error g, t) => (.error g, t)
    | (.ok (hs, x), t) =>
      match t.readTans e a paths ad n f.lsid.toNat acq (if f.size.toNat < 4 then p.tans else []) with
      | (.error g, u) => (.error g, u)
      | (.ok (ht, ts), u) =>
        let q := (p.useLsid f.lsid.toNat).wrP f.dv (loadExt f.size.toNat x)
        let (r, w) := u.loaded e a acq (hs ++ ht) (q.wrShs f.dv 1 ts)
        (.ok r, w)

/-- LDG (R247, R239). -/
def execLdg (f : FmtM) (s : State) := loadWord (.ldg f) f [0x0, 0x1, 0x2, 0x8, 0x9] s
/-- LDS (R247, R239). -/
def execLds (f : FmtM) (s : State) := loadWord (.lds f) f [0xA, 0xB] s

/-! ## Stores -/

/-- The held writes of a scalar store: one access where the address is aligned, else one for each byte (R223). -/
def storeHeld (base : Held) (ad : Word) (hs : List Nat) (bs : List Byte) (who : Origin) : List Held :=
  if ad.toNat % hs.length = 0 then [{ base with eff := .access ⟨hs, .store bs, 0, who, none⟩ }]
  else (hs.zip bs).map fun (h, b) => { base with eff := .access ⟨[h], .store [b], 0, who, none⟩ }

/-- The held writes of the tangent slices `l` of a scalar store, each (tangent, slice); none where no plane exists. -/
def State.storeTans (s : State) (e : Nat) (a : Active) (base : Held) (paths : List Nat) (ad : Word) (n : Nat) (sp : Spec) :
    List (Nat × Nat) → Except Failure (List Held) × State
  | [] => (.ok [], s)
  | (t, i) :: r =>
    match s.planeAddr e a ad t i with
    | none => s.storeTans e a base paths ad n sp r
    | some pa =>
      match s.resolve { a.via e .store with plane := true } paths pa n false with
      | (.error g, u) => (.error g, u)
      | (.ok hs, u) =>
        match u.storeTans e a base paths ad n sp r with
        | (.error g, w) => (.error g, w)
        | (.ok xs, w) =>
          (.ok (storeHeld base pa hs (leBytes n ((a.pass.rdSh sp t).toNat / 2 ^ (8 * n * i))) (a.origin e) ++ xs), w)

/-- The fields that a held effect of a format M word carries. -/
def heldOf (f : FmtM) (ad : Word) : Held :=
  { lsid := f.lsid.toNat, ord := f.ord.toNat, scope := scopeOn ad f.scope.toNat }
/-- Add held effects in order. -/
def Pass.holds (p : Pass) (l : List Held) : Pass := l.foldl Pass.hold p

/-- STG and STS (R247). -/
def storeWord (i : Instr) (f : FmtM) (paths : List Nat) (s : State) : Host.Outcome State Fault Refusal :=
  memWord i s fun e a =>
    let p := a.pass
    let ad := p.memAddr s.tick f
    let n := sizeBytes f.size.toNat
    match s.resolve (a.via e .store) paths ad n false with
    | (.error g, t) => (.error g, t)
    | (.ok hs, t) =>
      let base := heldOf f ad
      let tl := p.tans.flatMap fun j => (List.range (scalarSlices n)).map fun k => (j, k)
      match t.storeTans e a base paths ad n f.dv tl with
      | (.error g, u) => (.error g, u)
      | (.ok xs, u) =>
        (.ok ((p.useLsid f.lsid.toNat).holds
          (storeHeld base ad hs (leBytes n (p.rd s.tick f.dv).toNat) (a.origin e) ++ xs)), u)

/-- STG (R247, R239); path 0x1 raises PERM at the leaf (R218). -/
def execStg (f : FmtM) (s : State) := storeWord (.stg f) f [0x0, 0x1, 0x2, 0x8, 0x9] s
/-- STS (R247, R239). -/
def execSts (f : FmtM) (s : State) := storeWord (.sts f) f [0xA, 0xB] s

/-! ## Ordering instructions (R248) -/

/-- An ordering word: it holds nothing but its place among the LSIDs of the pass, and the loads after it read no byte from before it
(R226). -/
def orderWord (i : Instr) (f : FmtM) (eff : Effect) (s : State) : Host.Outcome State Fault Refusal :=
  passWord i s fun _ a => .ok (({ a.pass with pre := [] }.useLsid f.lsid.toNat).hold
    { lsid := f.lsid.toNat, scope := f.scope.toNat, eff := eff })
/-- ORDJ (R248). -/
def execOrdj (f : FmtM) (s : State) := orderWord (.ordj f) f .ordj s
/-- FENCE (R248). -/
def execFence (f : FmtM) (s : State) := orderWord (.fence f) f .fence s

/-! ## The extension word (R240, R241) -/

def extMstr (x : Word) : Nat := fld x 40 24
def extCo (x : Word) : Bool := x.getLsbD 39
def extCout (x : Word) : Nat := fld x 36 3
def extCr (x : Word) : Bool := x.getLsbD 35
def extCadd (x : Word) : Nat := fld x 3 32

/-- The output that an extension word names counts as emitted (R241); its token, to be sent at completion, is noted. `ldt`
is the descriptor of an LDT. -/
def State.coOut (s : State) (e : Nat) (a : Active) (p : Pass) (x : Option Word) (ldt : Option Word) : Except Failure Pass :=
  match x with
  | none => .ok p
  | some w =>
    if extCo w = false then .ok p
    else
      let eng := s.engine e
      let op := s.opOf e a
      let o := extCout w
      let ref := eng.ref op o
      let inf := eng.refInfo op o
      let tile := inf.tile && ldt.isSome
      match s.refFault a ref with
      | some c => .error (plain c)
      | none =>
        match if tile then s.emitTileFault e a (ldt.getD 0) else none with
        | some c => .error (plain c)
        | none =>
          let t : OutTok :=
            { o := inf.order, val := ldt.getD 0, col := p.outCol ref o none, tile := tile,
              s := tile && dGs (ldt.getD 0) != 0, d := tile && decide (1 ≤ p.kfire) }
          .ok (p.setOut o { p.out o with count := (p.out o).count + 1, tok := some t, co := true })

/-- The output of a held effect with an extension word. -/
def coIdx (x : Option Word) : Option Nat := x.bind fun w => if extCo w then some (extCout w) else none

/-! ## Atomics (R249–R251) -/

/-- ATOM and CAS: aligned, held until commit; path 0x1 raises PERM at the leaf. -/
def atomWord (i : Instr) (f : FmtM) (x : Option Word) (s : State) (op : Pass → AccOp) (hostOk : Bool) :
    Host.Outcome State Fault Refusal :=
  memWord i s fun e a =>
    let p := a.pass
    let ad := p.memAddr s.tick f
    match s.resolve { a.via e .atomic with hostAtomic := hostOk } [0x0, 0x1, 0x2, 0x8, 0x9, 0xA, 0xB] ad
        (sizeBytes f.size.toNat) true with
    | (.error g, t) => (.error g, t)
    | (.ok hs, t) =>
      match t.coOut e a p x none with
      | .error g => (.error g, t)
      | .ok q =>
        let acq := acqScope f.ord.toNat (scopeOn ad f.scope.toNat)
        (.ok ((q.useLsid f.lsid.toNat).hold
          { heldOf f ad with co := coIdx x, eff := .access ⟨hs, op p, acq, a.origin e, none⟩ }), t)

/-- ATOM (R249). -/
def execAtom (f : FmtM) (x : Option Word) (s : State) :=
  atomWord (.atom f x) f x s (fun p => .atom f.aop.toNat (sizeBytes f.size.toNat) (p.rd s.tick f.dv))
    (f.aop == 0 || f.aop == 8)
/-- CAS (R250). -/
def execCas (f : FmtM) (x : Option Word) (s : State) :=
  atomWord (.cas f x) f x s (fun p => .cas (sizeBytes f.size.toNat) (p.rd s.tick f.dv) (p.rd s.tick f.sb)) true

/-! ## Streams (R243–R246, R252) -/

/-- The addresses of a span at which the checks of R216 and R219 can come out otherwise than before: its ends and, on the vault and
scratch paths, every 2^18 bytes between them. -/
def spanStops (x : Word) (n : Nat) : List Word :=
  let z := x + BitVec.ofNat 64 (n - 1)
  let lo := x.toNat / 2 ^ 18
  x :: z :: (if 8 ≤ addrPath x then
    (List.range ((x.toNat + n - 1) / 2 ^ 18 - lo)).map fun k => BitVec.ofNat 64 ((lo + k + 1) * 2 ^ 18) else [])

/-- Steps 2 to 4 of R238 on the memory side of a stream: each span is (address, bytes). -/
def State.streamFault (s : State) (v : Via) (paths : List Nat) (al : Nat) (spans : List (Word × Nat)) : Option Failure :=
  let ad := (spans.headD (0, 1)).1
  let stops := spans.flatMap fun (x, n) => spanStops x n
  let bad := stops.any fun x => fieldsOk x == false || addrPath x != addrPath ad
  if addrPath ad ∉ paths ∨ pathAccepted v.by_ (addrPath ad) = false ∨ bad then some ⟨pathCause v.by_ ad, ad, 0⟩
  else if ad.toNat % al ≠ 0 then some ⟨cBadpath, ad, 0⟩
  else if stops.any fun x => !s.windowOk v x then some ⟨cWindow, ad, 0⟩
  else none

/-- The rows of a memory image (R245). -/
def rowSpans (ad : Word) (pitch rb rows : Nat) : List (Word × Nat) :=
  (List.range rows).map fun r => (ad + BitVec.ofNat 64 (r * pitch), rb)

/-- The rank that an address of path 0x3 names, or BADPATH (R217). -/
def State.rankFault (s : State) (a : Active) (ad : Word) : Option Failure :=
  match s.launchTable a.fr.ctx a.fr.inst with
  | none => some ⟨cBadpath, ad, 0⟩
  | some t => if (s.pgt a.fr.ctx t).n ≤ fld ad 48 12 then some ⟨cBadpath, ad, 0⟩ else none

/-- The completion rod of an extension word: checked as the instruction executes (R242). -/
def State.compRod (s : State) (e : Nat) (a : Active) (x r : Word) : Except Failure (Option Word × Nat) × State :=
  if extCr x = false then (.ok (none, 0), s)
  else match s.checkRod (a.rodUser e) .add r with
    | (.error g, t) => (.error g, t)
    | (.ok h, t) => (.ok (some r, h), t)

/-- What is common to the instructions that make a stream: `fault` is the first failure of steps 1 to 4 of R238, `mk` the
request without completion. -/
def streamWord (i : Instr) (f : FmtM) (x : Word) (s : State) (ldt : Pass → Option Word)
    (fault : Nat → Active → Option Failure) (mk : Nat → Active → StreamReq) : Host.Outcome State Fault Refusal :=
  memWord i s fun e a =>
    let p := a.pass
    match fault e a with
    | some g => (.error g, s)
    | none =>
      match s.compRod e a x (p.rd s.tick f.sb) with
      | (.error g, t) => (.error g, t)
      | (.ok (rod, home), t) =>
        match t.coOut e a p (some x) (ldt p) with
        | .error g => (.error g, t)
        | .ok q =>
          let r := mk e a
          let req := { r with f := wordOf i, ext := x, addr := p.memAddr s.tick f, str := s.shadowStride e a.fr.op,
                              rod := rod, rodHome := home, cadd := extCadd x, acq := p.acq,
                              scope := scopeOn (p.memAddr s.tick f) f.scope.toNat }
          (.ok ((q.useLsid f.lsid.toNat).hold
            { heldOf f (p.memAddr s.tick f) with co := coIdx (some x), eff := .stream req }), t)

/-- Step 1 of R238 on the descriptor of a stream, with the tangents it uses (R202). -/
def State.streamDesc (s : State) (e : Nat) (a : Active) (d : Word) (k : Nat) : Option Failure :=
  if d = 0 then some (plain cDesc)
  else match descFault (s.nmemOf e) d with
    | some c => some (plain c)
    | none => (tanFault (s.nmemOf e) (s.shadowStride e a.fr.op) k d).map plain

/-- The pitch of an extension word (R240, R245). -/
def extPitch (x d : Word) : Nat := if extMstr x = 0 then dRowBytes d else 16 * extMstr x

/-- A tile stream between scratch and `paths`; `k` are the tangents it touches. -/
def tileStream (i : Instr) (f : FmtM) (x : Word) (s : State) (kind : StreamKind) (paths : List Nat) (acc : AccKind)
    (k : Active → Nat) (extra : Nat → Active → Word → Option Failure) : Host.Outcome State Fault Refusal :=
  streamWord i f x s (fun p => if kind = .ldt then some (p.rd s.tick f.dv) else none)
    (fun e a =>
      let d := a.pass.rd s.tick f.dv
      let ad := a.pass.memAddr s.tick f
      match s.streamDesc e a d (k a) with
      | some g => some g
      | none =>
        match extra e a d with
        | some g => some g
        | none =>
          match s.streamFault (a.via e acc) paths 16 (rowSpans ad (extPitch x d) (dRowBytes d) (dRows d)) with
          | some g => some g
          | none => if addrPath ad = 1 ∧ acc ≠ .sread then some ⟨cPerm, ad, (a.via e acc).detail 0 0⟩ else none)
    (fun _ a =>
      let d := a.pass.rd s.tick f.dv
      { kind := kind, desc := d, pitch := extPitch x d, k := k a, planes := decide (1 ≤ a.pass.kp) })

/-- LDT (R245). -/
def execLdt (f : FmtM) (x : Word) (s : State) :=
  tileStream (.ldt f x) f x s .ldt [0x0, 0x1, 0x2, 0x8, 0x9] .sread (fun a => a.pass.kfire) fun _ _ _ => none
/-- STT (R245). -/
def execStt (f : FmtM) (x : Word) (s : State) :=
  tileStream (.stt f x) f x s .stt [0x0, 0x1, 0x2, 0x8, 0x9] .swrite (fun a => a.pass.kp) fun _ _ _ => none
/-- RMT.STT (R245, R254). DEDUCED (log 146): rows that carry from one valid rank into the next go to that rank. -/
def execRmtStt (f : FmtM) (x : Word) (s : State) :=
  tileStream (.rmtStt f x) f x s .rmtStt [0x3] .swrite (fun a => a.pass.kp) fun _ a d =>
    let ad := a.pass.memAddr s.tick f
    if addrPath ad ≠ 3 then none
    else (rowSpans ad (extPitch x d) (dRowBytes d) (dRows d)).findSome? fun (r, n) =>
      (s.rankFault a r).or (s.rankFault a (r + BitVec.ofNat 64 (n - 1)))

/-- Whether REDT combines a format with an operation (R252). -/
def redtFmtOk (aop fmt : Nat) : Bool := if aop = 9 ∨ aop = 10 ∨ aop = 11 then decide (fmt ≤ 3) else fmt == 8

/-- REDT (R252): only a floating add in dual mode moves tangents (R212); path 0x2 raises SYSATOM (R239). -/
def execRedt (f : FmtM) (x : Word) (s : State) :=
  tileStream (.redt f x) f x s .redt [0x0, 0x1, 0x2, 0x8, 0x9, 0xA, 0xB] .atomic
    (fun a => if f.aop = 9 then a.pass.kp else 0)
    fun _ a d =>
      let ad := a.pass.memAddr s.tick f
      if redtFmtOk f.aop.toNat (dFmt d) = false ∨ dGs d ≠ 0 then some (plain cDesc)
      else if addrPath ad = 2 ∧ fieldsOk ad ∧ ad.toNat % 16 = 0 then some ⟨cSysatom, ad, 0⟩ else none

/-- CLRM (R246). -/
def execClrm (f : FmtM) (x : Word) (s : State) : Host.Outcome State Fault Refusal :=
  streamWord (.clrm f x) f x s (fun _ => none)
    (fun e a =>
      let ad := a.pass.memAddr s.tick f
      let n := (a.pass.rd s.tick f.dv).toNat
      let ps := [0x0, 0x1, 0x2, 0x8, 0x9, 0xA, 0xB]
      if n % 64 ≠ 0 ∨ n = 0 ∨ 2 ^ 32 < n then some ⟨cBadpath, ad, 0⟩
      else match s.streamFault (a.via e .swrite) ps 64 [(ad, n)] with
        | some g => some g
        | none => if addrPath ad = 1 then some ⟨cPerm, ad, (a.via e .swrite).detail 0 0⟩ else none)
    (fun _ a =>
      let p := a.pass
      let path := addrPath (p.memAddr s.tick f)
      { kind := .clrm, desc := p.rd s.tick f.dv, planes := decide (1 ≤ p.kp),
        k := if 1 ≤ p.kp ∨ path = 0xA ∨ path = 0xB then p.kfire else 0 })

/-! ## Remote operations (R253–R255) -/

/-- A scalar remote operation: the checks of R238, then the packet it becomes at commit. -/
def remoteWord (i : Instr) (f : FmtM) (x : Option Word) (s : State) (aligned : Bool) (kind : BitVec 8)
    (xdata : BitVec 192) (payload : Pass → List Byte) : Host.Outcome State Fault Refusal :=
  memWord i s fun e a =>
    let p := a.pass
    let ad := p.memAddr s.tick f
    let n := sizeBytes f.size.toNat
    if addrPath ad ≠ 3 ∨ addrPath (ad + BitVec.ofNat 64 (n - 1)) ≠ 3 ∨
        fld (ad + BitVec.ofNat 64 (n - 1)) 48 12 ≠ fld ad 48 12 then (.error ⟨pathCause (.engine e) ad, ad, 0⟩, s)
    else match s.rankFault a ad with
      | some g => (.error g, s)
      | none =>
        if aligned ∧ ad.toNat % n ≠ 0 then (.error ⟨cBadpath, ad, 0⟩, s)
        else match s.coOut e a p x none with
          | .error g => (.error g, s)
          | .ok q => (.ok ((q.useLsid f.lsid.toNat).hold
              { heldOf f ad with co := coIdx x, eff := .remote kind ad xdata (payload p) none }), s)

/-- RMT.FAA (R254). -/
def execRmtFaa (f : FmtM) (x : Option Word) (s : State) :=
  remoteWord (.rmtFaa f x) f x s true 0x12 0 fun p => leBytes 8 (p.rd s.tick f.dv).toNat
/-- RMT.ST (R254). -/
def execRmtSt (f : FmtM) (s : State) :=
  remoteWord (.rmtSt f) f none s false 0x10 0 fun p => leBytes (sizeBytes f.size.toNat) (p.rd s.tick f.dv).toNat
/-- RMT.FLAG (R255). -/
def execRmtFlag (f : FmtM) (s : State) :=
  remoteWord (.rmtFlag f) f none s true 0x13 (BitVec.ofNat 192 f.aop.toNat) fun p => leBytes 8 (p.rd s.tick f.dv).toNat

/-! ## Accesses at their homes (R234, R249, R250) -/

/-- The new value of an atomic of `n` bytes on old value `m` (R249). -/
def atomNew (op n : Nat) (m v : Nat) : Nat :=
  let mb := BitVec.ofNat 64 m
  let vb := BitVec.ofNat 64 (v % 2 ^ (8 * n))
  let fmt := if n = 8 then 0 else 1
  match op with
  | 0 => (m + v) % 2 ^ (8 * n)
  | 1 => (mb &&& vb).toNat
  | 2 => (mb ||| vb).toNat
  | 3 => (mb ^^^ vb).toNat
  | 4 => if sintOf (8 * n) vb.toNat < sintOf (8 * n) m then vb.toNat else m
  | 5 => if sintOf (8 * n) m < sintOf (8 * n) vb.toNat then vb.toNat else m
  | 6 => Nat.min m vb.toNat
  | 7 => Nat.max m vb.toNat
  | 8 => vb.toNat
  | 9 => encFloat fmt 0 0 ((fvOf fmt m).add 0 (fvOf fmt vb.toNat))
  | 10 => encFloat fmt 0 0 (minMaxAtom false (fvOf fmt m) (fvOf fmt vb.toNat))
  | 11 => encFloat fmt 0 0 (minMaxAtom true (fvOf fmt m) (fvOf fmt vb.toNat))
  | _ => m
where
  /-- FMIN or FMAX as R134; on a tie the old value is kept. -/
  minMaxAtom (isMax : Bool) (a b : FV) : FV :=
    (if a.isNan then a else if b.isNan then b else if minMaxSecond isMax a b then b else a).quiet

/-- An access acts at its home as one indivisible step (R223, R234, R235). -/
def State.accessHome (s : State) (a : Access) : State :=
  let n := a.homes.length
  match a.op with
  | .store bs => s.storeHomes a.homes bs
  | .atom op _ v =>
    if s.eccHomes a.homes then s.report a.who.die cEcc a.who 0 (Config.eccPlace (a.homes.headD 0)) none
    else
      let m := leNat (s.rdHomes a.homes)
      (((s.storeHomes a.homes (leBytes n (atomNew op n m v.toNat))).sendReply a.reply (BitVec.ofNat 64 m)).acquireAt
        a.who.ctx a.acq).2
  | .cas _ new cmp =>
    if s.eccHomes a.homes then s.report a.who.die cEcc a.who 0 (Config.eccPlace (a.homes.headD 0)) none
    else
      let m := leNat (s.rdHomes a.homes)
      let s1 := if m = cmp.toNat % 2 ^ (8 * n) then s.storeHomes a.homes (leBytes n new.toNat) else s
      ((s1.sendReply a.reply (BitVec.ofNat 64 m)).acquireAt a.who.ctx a.acq).2

/-- ACCESS_AT_HOME (R234). -/
def execAccessAtHome (a : Access) (s : State) : Host.Outcome State Fault Refusal := .next (s.accessHome a)
/-- WINDOW_ACCESS_ARRIVAL (R332): a shipped write or atomic acts in the member's banks. -/
def execWindowAccessArrival (a : Access) (s : State) : Host.Outcome State Fault Refusal := .next (s.accessHome a)

end Sys2Proof.Machine
end

