-- ==== Sys2Proof/Machine/Launch.lean ====
section
/-!
DEFINITION. Launches made by passes: LNCH, the reservation of device-queue entries, TRIG (R301–R303).
-/
namespace Sys2Proof.Machine

/-- OPC of a command (R295). -/
def cmdOpc (w : List Word) : Nat := fld (w.getD 0 0) 0 8
/-- NARG of a LAUNCH (R295). -/
def cmdNarg (w : List Word) : Nat := fld (w.getD 1 0) 32 2

/-- The device queue of a context (R292). -/
def State.deviceQueue (s : State) (c : Nat) : Option (Nat × Queue) :=
  s.cp.queues.find? fun (_, q) => q.devq && q.ctx == c

/-- LNCH (R301): any address but a multiple of 64 on path 0xA raises BADPATH; the command is read at once, with the forwarding of R226 link 1, and the engine asks the command
processor for a ring entry (R302). -/
def execLnch (f : FmtM) (s : State) : Host.Outcome State Fault Refusal :=
  onPass (.lnch f) s fun e sl a =>
    let p := a.pass
    let ad := p.memAddr s.tick f
    match s.resolve (a.via e .load) [0xA] ad 64 true with
    | (.error _, t) => t.passFault e sl ⟨cBadpath, ad, 0⟩
    | (.ok hs, t) =>
      if t.eccHomes hs then t.passFault e sl ⟨cEcc, ad, Config.eccPlace (hs.headD 0)⟩
      else
        let bs := (hs.zip (t.rdHomes hs)).map fun (h, b) => p.loadByte f.lsid.toNat h b
        let w := (List.range 8).map fun i => BitVec.ofNat 64 (leNat ((bs.drop (8 * i)).take 8))
        let a0 := f.size.getLsbD 0
        if cmdOpc w ≠ 1 ∨ (a0 ∧ cmdNarg w = 0) then t.passFault e sl ⟨cDesc, 0, 0⟩
        else
          let w1 := if a0 then w.set 5 (p.rd s.tick f.dv) else w
          let q := (p.useLsid f.lsid.toNat).hold
            { lsid := f.lsid.toNat, ord := 2, scope := f.scope.toNat, eff := .lnch w1 }
          let q1 := { q with b := { q.b with lnches := q.b.lnches + 1 } }
          let s1 := t.setPass e sl a q1
          let r : Reservation := { ctx := a.fr.ctx, eng := e, uid := a.fr.uid }
          { s1 with cp := { s1.cp with resv := s1.cp.resv ++ [r] } }

/-- TRIG (R303): held until commit. -/
def execTrig (f : FmtM) (s : State) : Host.Outcome State Fault Refusal :=
  passWord (.trig f) s fun _ a => .ok ((a.pass.useLsid f.lsid.toNat).hold
    { lsid := f.lsid.toNat, ord := 2, scope := f.scope.toNat, eff := .trig })

/-- Ring entries of a device queue that are free and not reserved. -/
def State.ringFree (s : State) (c : Nat) (q : Queue) : Nat :=
  2 ^ q.log2n - ((q.tail - q.head).toNat + (s.cp.resv.filter fun r => r.ctx == c && r.granted).length)

/-- LNCH_RESERVATION (R302): the oldest reservation of the pass that waits is granted while the ring has room; it is
refused where the context has no working device queue, and the pass aborts with FRAME. -/
def execLnchReservation (e fid : Nat) (s : State) : Host.Outcome State Fault Refusal :=
  match s.cp.resv.find? fun r => r.eng == e && r.uid == fid && !r.granted with
  | none => .next s
  | some r =>
    match s.deviceQueue r.ctx with
    | none => .next (s.faultPasses e (fun a => a.fr.uid == fid) ⟨cFrame, 0, 0⟩)
    | some (_, q) =>
      if q.st = .disabled ∨ q.st = .halted then .next (s.faultPasses e (fun a => a.fr.uid == fid) ⟨cFrame, 0, 0⟩)
      else if s.ringFree r.ctx q = 0 then .next s
      else
        let l := modifyFirst (fun x => x == r) (fun x => { x with granted := true }) s.cp.resv
        .next { s with cp := { s.cp with resv := l } }

end Sys2Proof.Machine
end

