-- ==== Sys2Proof/Machine/Tokens.lean ====
section
/-!
DEFINITION. Tokens at a matching store (R25–R32, R39, R40, R47, R58): arrival, liveness, spill and reinjection (R28,
R317), sticky ports, credit returns, LOOP operators.
-/
namespace Sys2Proof.Machine

/-- A matching store: of an engine, or the pool of a die (R26, R335). -/
inductive Loc where
  | eng (e : Nat)
  | pool (d : Nat)
deriving DecidableEq, Repr, Inhabited

/-- The die of a matching store. -/
def Loc.die : Loc → Nat
  | .eng e => e / 72
  | .pool d => d
/-- Its unit number (R23). -/
def Loc.unit : Loc → Nat
  | .eng e => e % 72
  | .pool _ => 248
/-- Its frame table. -/
def State.ft (s : State) : Loc → Table Frame
  | .eng e => (s.engine e).t.ft
  | .pool d => (s.pool d).ft
/-- Frame `f` of a store. -/
def State.frame (s : State) (l : Loc) (f : Nat) : Frame := tget {} (s.ft l) f
/-- The state with a frame entry replaced. -/
def State.setFrame (s : State) (l : Loc) (f : Nat) (x : Frame) : State :=
  match l with
  | .eng e => let g := s.engine e; s.setEngine e { g with t := { g.t with ft := tset {} g.t.ft f x } }
  | .pool d => let p := s.pool d; s.setPool d { p with ft := tset {} p.ft f x }
/-- The slots of a store. -/
def State.ms (s : State) : Loc → Table Slot
  | .eng e => (s.engine e).t.ms
  | .pool d => (s.pool d).ms
/-- A slot of a store. -/
def State.slot (s : State) (l : Loc) (n : Nat) : Slot := tget {} (s.ms l) n
/-- The state with a slot replaced. -/
def State.setSlot (s : State) (l : Loc) (n : Nat) (x : Slot) : State :=
  match l with
  | .eng e => let g := s.engine e; s.setEngine e { g with t := { g.t with ms := tset {} g.t.ms n x } }
  | .pool d => let p := s.pool d; s.setPool d { p with ms := tset {} p.ms n x }
/-- The engine whose operator table a token at a store is checked against: a pooled operator stands at the same slot on
every member of its group (R56). -/
def State.tabEngine (s : State) (l : Loc) (op frame : Nat) : Nat :=
  match l with
  | .eng e => e
  | .pool d => (s.poolEngine d op frame).getD 288
/-- Operator `op` as a store sees it. -/
def State.opAt (s : State) (l : Loc) (op frame : Nat) : OpEntry := (s.engine (s.tabEngine l op frame)).op op

/-! ## Slots and liveness (R26, R27) -/

/-- Whether a colour is live in a frame (R27). -/
def Frame.live (f : Frame) (c : Nat) : Bool := decide ((c + 4096 - f.wbase) % 4096 < f.w)
/-- The slot of colour `c` at port `p` (R26). -/
def slotNum (f : Frame) (o : OpEntry) (c p : Nat) : Nat :=
  f.base + (if (o.ports.getD p {}).mode = .sticky then 0 else c % f.w) * f.spc + o.slotoff + p

/-- Maximal runs of colours of a token that are uniformly live or not live, as (first colour, run − 1) (R27). -/
def livePieces (f : Frame) : List Nat → List (Nat × Nat)
  | [] => []
  | c :: r =>
    match livePieces f r with
    | (c', n) :: l => if f.live c = f.live c' then (c, n + 1) :: l else (c, 0) :: (c', n) :: l
    | [] => [(c, 0)]

/-! ## Records about tokens -/

/-- Who a token at a store is, for a record. -/
def State.tokOrigin (s : State) (l : Loc) (t : Token) : Origin :=
  let f := s.frame l (tokFrame t)
  { ctx := tokCtx t, inst := if f.v ∧ f.ctx = tokCtx t then some f.inst else none, die := l.die, unit := l.unit,
    op := tokOp t, col := tokCol t }
/-- A token is dropped at a store with a cause. -/
def State.dropTok (s : State) (l : Loc) (cause : Nat) (t : Token) (detail : Word) : State :=
  s.report l.die cause (s.tokOrigin l t) 0 detail (some t)

/-- A token whose slot has an uncorrectable error is dropped with an ECC record for its context (R454). -/
def State.eccSlot (s : State) (l : Loc) (n : Nat) : State :=
  let x := s.slot l n
  if x.p = false then s
  else (s.setSlot l n {}).dropTok l cEcc x.tok (Config.eccPlace (2 ^ 61 + n))

/-- The FRAME record of R20 at the control core of a die: it names the sender, and no instance changes state. -/
def State.frameReport (s : State) (die src : Nat) (t : Token) : State :=
  s.report die cFrame ⟨tokCtx t, none, src / 256 % 4, src % 256, tokOp t, tokCol t⟩ 0 0 (some t)

/-- A token is sent by a unit that is no engine: a reserved destination drops it with FRAME (R20). -/
def State.sendChecked (s : State) (die unit : Nat) (t : Token) (remote : Option Word) (who : Origin) : State :=
  if unitOk (tokUnit t) then s.sendToken [] t remote who else s.frameReport die (256 * die + unit) t

/-! ## The overflow region (R317) -/

/-- Q: entries of one die's share. -/
def Ctx.ovShare (x : Ctx) : Nat := x.r.ovsize.toNat * 512
/-- The homes of entry `i` of die `d`'s share, or the cause of the failure. -/
def State.ovHomes (s : State) (d c i : Nat) (k : AccKind) : Except Failure (List Nat) × State :=
  let x := s.ctx c
  s.resolve { by_ := .link d, ctx := some c, kind := k } [0x0]
    (x.r.ovbase + BitVec.ofNat 64 (32 * (d * x.ovShare + i))) 32 false
/-- The first entry of a die's share that cannot be read, as the failure (R317). -/
def State.ovFault (s : State) (d c : Nat) : Option Failure :=
  (List.range (s.ctx c).ovShare).findSome? fun i =>
    match (s.ovHomes d c i .load).1 with
    | .ok _ => none
    | .error g => some g
/-- A failure on a region page raises SPILL, its cause in DETAIL (R317); the record carries no token, for what the entries
hold stays in them (log 121). -/
def State.ovSpill (s : State) (d c : Nat) (inst : Option Nat) (g : Failure) : State :=
  s.report d cSpill ⟨c, inst, d, 255, 0, 0⟩ g.addr (BitVec.ofNat 64 g.cause) none
/-- The bytes of entry `i`; none where it cannot be read. -/
def State.ovEntry (s : State) (d c i : Nat) : Option (List Byte) :=
  match (s.ovHomes d c i .load).1 with
  | .ok hs => some (s.rdHomes hs)
  | .error _ => none
/-- FLAGS of an entry. -/
def ovFlags (b : List Byte) : Nat := (b.getD 21 0).toNat
/-- The token of an entry. -/
def ovToken (b : List Byte) : Token := BitVec.ofNat 128 (leNat (b.take 16))
/-- SEQ of an entry. -/
def ovSeq (b : List Byte) : Nat := leNat ((b.drop 16).take 4)
/-- The store that an entry goes to. -/
def ovLoc (d : Nat) (b : List Byte) : Loc :=
  if (b.getD 20 0).toNat = 255 then .pool d else .eng (72 * d + (b.getD 20 0).toNat)
/-- The bytes of an entry in use. -/
def ovBytes (t : Token) (seq eng : Nat) (nr : Bool) : List Byte :=
  leBytes 16 t.toNat ++ leBytes 4 seq ++ [BitVec.ofNat 8 eng, BitVec.ofNat 8 (1 + 2 * b2n nr)] ++ leBytes 10 0
/-- The entries of a die's share that are in use: index and bytes. -/
def State.ovUsed (s : State) (d c : Nat) : List (Nat × List Byte) :=
  (List.range (s.ctx c).ovShare).filterMap fun i =>
    match s.ovEntry d c i with
    | some b => if ovFlags b % 2 = 1 then some (i, b) else none
    | none => none

/-- The entries of a die's share are looked through: a page that cannot be read raises SPILL (R317). -/
def State.ovLook (s : State) (d c : Nat) (inst : Option Nat) : State :=
  match s.ovFault d c with
  | some g => s.ovSpill d c inst g
  | none => s

/-- A piece is spilled (R27, R317); where it cannot be, SPILL is raised (R29). -/
def State.spill (s : State) (l : Loc) (t : Token) (nr : Bool) : State :=
  let d := l.die
  let c := tokCtx t
  let free := (List.range (s.ctx c).ovShare).find? fun i =>
    match s.ovEntry d c i with
    | some b => ovFlags b % 2 == 0
    | none => false
  match s.ovFault d c with
  | some g => s.dropTok l cSpill t (BitVec.ofNat 64 g.cause)
  | none =>
  match free with
  | none => s.dropTok l cSpill t 0
  | some i =>
    match s.ovHomes d c i .store with
    | (.error g, t1) => t1.dropTok l cSpill t (BitVec.ofNat 64 g.cause)
    | (.ok hs, t1) =>
      let u := t1.units d
      let eng := match l with | .eng e => e % 72 | .pool _ => 255
      ((t1.setUnits d { u with spill := (u.spill + 1) % 2 ^ 32 }).storeHomes hs (ovBytes t u.spill eng nr)).touch d c

/-- The reinjections that are under way to a frame: what is reinjected after them lands after them (R28). -/
def State.reinjecting (s : State) (l : Loc) (frame : Nat) : List Nat :=
  (s.pend.filter fun m => match m.ev with
    | .tokenArrival d u t x => d == l.die && u == l.unit && tokFrame t == frame && x.src == 256 * l.die + 255
    | _ => false).map (·.id)
/-- An entry of the overflow region is taken out and its token travels to its store again, behind the earlier reinjections
of its frame (R28); 255 stands for the spill unit, which has no unit number. -/
def State.reinject (s : State) (d c i : Nat) (b : List Byte) : State :=
  let l := ovLoc d b
  match s.ovHomes d c i .store with
  | (.error g, t) => t.ovSpill d c (t.tokOrigin l (ovToken b)).inst g
  | (.ok hs, t) =>
    ((t.storeHomes [hs.getD 21 0] [0]).postDep (t.reinjecting l (tokFrame (ovToken b)))
      (.tokenArrival l.die l.unit (ovToken b) ⟨false, 256 * d + 255⟩)).touch d c

/-- Whether entry `a` is reinjected before `b` in a frame (R28). -/
def ovBefore (f : Frame) (a b : List Byte) : Bool :=
  let key := fun x : List Byte =>
    ((tokCol (ovToken x) + 4096 - f.wbase) % 4096 * 4 + tokPort (ovToken x)) * 2 ^ 32 + ovSeq x
  decide (key a < key b)

/-- Whether an instance is FAULTED. -/
def State.instFaulted (s : State) (c inst : Nat) : Bool :=
  match s.instKernel c inst with
  | some k => (s.kernel k).st == .faulted
  | none => false
/-- OVERFLOW_REINJECT (R28): the first spilled token of the frame whose first colour is live comes back. `eng` is the
engine of the die, or 255 for the pool. -/
def execOverflowReinject (die eng frame : Nat) (s : State) : Host.Outcome State Fault Refusal :=
  if 4 ≤ die then .next s
  else
    let l := if eng = 255 then Loc.pool die else .eng (72 * die + eng)
    let f := s.frame l frame
    let st := (s.ctx f.ctx).st
    if f.v = false ∨ (st ≠ .running ∧ st ≠ .draining) then .next s
    else
      let cand := (s.ovUsed die f.ctx).filter fun (_, b) =>
        ovLoc die b == l && tokFrame (ovToken b) == frame && f.live (tokCol (ovToken b)) && ovFlags b / 2 % 2 == 0
      match pickMin (fun x y => ovBefore f x.2 y.2) cand with
      | some (i, b) => .next (s.reinject die f.ctx i b)
      | none =>
        match s.ovFault die f.ctx with
        | some g => if s.instFaulted f.ctx f.inst then .next s else .next (s.ovSpill die f.ctx (some f.inst) g)
        | none => .next s

/-- Entries with NR = 1 are reinjected when the context enters RUNNING, in SEQ order (R318). -/
def State.reinjectNr (s : State) (c : Nat) : State :=
  s.each (List.range 4) fun d t =>
    let l := (t.ovUsed d c).filter fun (_, b) => ovFlags b / 2 % 2 == 1
    (l.mergeSort fun x y => decide (ovSeq x.2 ≤ ovSeq y.2)).foldl (fun u (i, b) => u.reinject d c i b) (t.ovLook d c none)

/-! ## Credit returns (R47) -/

/-- The number under which the busy maps of an operator of engine `e` are kept (R47): its slot, and at the pool of a die the
group with it, for groups and contexts may use one slot (R335). -/
def State.busyOp (s : State) (e op : Nat) (o : OpEntry) : Nat :=
  if o.h.pool then 256 * ((s.groupOf e).map (·.1)).getD 0 + op else op
/-- The busy map of reference `n` of an operator at a store, keyed at the pool by 8 op + reference. -/
def State.busyMap (s : State) (l : Loc) (op n : Nat) : BitVec 64 :=
  match l with
  | .eng e => tget 0 ((s.engine e).run op).busy n
  | .pool d => tget 0 (s.pool d).busy (8 * op + n)
/-- The state with a busy map replaced. -/
def State.setBusy (s : State) (l : Loc) (op n : Nat) (b : BitVec 64) : State :=
  match l with
  | .eng e =>
    let g := s.engine e
    let r := g.run op
    s.setEngine e { g with t := { g.t with orun := tset {} g.t.orun op { r with busy := tset 0 r.busy n b } } }
  | .pool d => let p := s.pool d; s.setPool d { p with busy := tset 0 p.busy (8 * op + n) b }
/-- A bit of a 64-bit map. -/
def bit64 (n : Nat) : BitVec 64 := BitVec.ofNat 64 (2 ^ (n % 64))

/-- UP of port `k` (R36). -/
def OpEntry.upRef (o : OpEntry) (k : Nat) : BitVec 32 := o.up.getD k 0
/-- The store that an upstream reference names. -/
def upLoc (u : BitVec 32) : Loc :=
  if fld u 22 8 = 248 then .pool (fld u 30 2) else .eng (72 * fld u 30 2 + fld u 22 8)
/-- The engine whose tables hold the producer of a token that came by an upstream reference. At the pool the slot may be used in several
groups (R335): the producer is of the token's context, and the reference that `u` names leads where the token went. -/
def State.upEngine (s : State) (u : BitVec 32) (t : Token) : Nat :=
  let feeds := fun e : Nat =>
    let x := s.engine e
    let o := x.op (fld u 14 8)
    let r := x.ref o (fld u 11 3)
    o.h.pool && refDie r == tokDie t && refUnit r == tokUnit t && refOp r == tokOp t && refPort r == tokPort t &&
      refFrame r == tokFrame t
  match upLoc u with
  | .eng e => e
  | .pool d => (((s.units d).groups.filter fun (_, g) => g.holds && g.ctx == tokCtx t).findSome? fun (_, g) =>
      (groupMembers d g).find? feeds).getD 288
/-- EMODE of the reference that brought a token, and the producer's ring entry that its descriptor lies in (R46). -/
def State.upEntry (s : State) (u : BitVec 32) (t : Token) : Nat × Nat :=
  let desc := tokPay t
  let x := s.engine (s.upEngine u t)
  let o := x.op (fld u 14 8)
  let ref := x.ref o (fld u 11 3)
  let j := (List.range o.rcnt).find? fun j => decide (o.outLine j ≤ dBase desc) && decide (dBase desc < o.outLine j + o.rsize)
  (refMode ref, j.getD 0)

/-- The credit return for the tile that a token brought to port `k` of an operator; `ent` is the consumer's ring entry
(R40, R47). None where the port has no upstream reference; the word of a RECV port is a receive word (R405). -/
def State.creditTok (s : State) (o : OpEntry) (k : Nat) (t : Token) (ent : Nat) : Option Token :=
  let u := o.upRef k
  if u.getLsbD 10 = false ∨ o.h.kind = .recv then none
  else
    let (m, j) := s.upEntry u t
    some { die := fld u 30 2, unit := fld u 22 8, op := fld u 14 8, q := true, ctx := tokCtx t,
           pay := put 62 2 2 ||| put 8 3 (fld u 11 3) ||| put 0 6 (if m = 1 then ent else j) : TokF }.mk128

/-- A credit return leaves, behind the ids it follows; a reserved unit drops it with FRAME (R20). -/
def State.sendCredit (s : State) (deps : List Nat) (t : Option Token) (who : Origin) : State :=
  match t with
  | none => s
  | some k => if unitOk (tokUnit k) then s.sendToken deps k none who else s.frameReport who.die who.src k

/-! ## Sticky ports (R40) -/

/-- Whether a token carries a tile: at a TILE port, neither null nor empty. -/
def tileTok (o : OpEntry) (k : Nat) (t : Token) : Bool := (o.ports.getD k {}).tile && !tokN t && !tokE t

/-- Firings of an engine, wherever they are, with the tokens of their open pass and of those to come. -/
def Engine.firings (x : Engine) : List Firing :=
  (x.mat.act.toList ++ x.vec.act.toList ++ x.susp ++ x.ready).map (·.fr) ++ x.requeue ++ x.mat.intake ++ x.vec.intake
/-- Whether a firing holds a token at port `k`. -/
def Firing.holdsTok (f : Firing) (k : Nat) (t : Token) : Bool :=
  f.passes.any fun (_, ins) => (ins.getD k {}).tok == some t
/-- Whether a firing of an operator that issued with a token is in flight. -/
def State.tokInFlight (s : State) (op k : Nat) (t : Token) : Bool :=
  s.eng.any fun (_, x) => x.firings.any fun f => f.op == op && f.holdsTok k t

/-- The replaced sticky tiles of an operator whose last firing has ended are released (R40). -/
def State.stickySweep (s : State) (l : Loc) (op frame : Nat) : State :=
  let e := s.tabEngine l op frame
  let x := s.engine e
  let r := x.run op
  let o := x.op op
  let done := r.sticky.filter fun y => !s.tokInFlight op y.port y.tok
  if done = [] then s
  else
    let r1 := { r with sticky := r.sticky.filter fun y => !done.contains y }
    let s1 := s.setEngine e { x with t := { x.t with orun := tset {} x.t.orun op r1 } }
    done.foldl (fun t y => t.sendCredit [] (t.creditTok o y.port y.tok (tokCol y.tok % o.rcnt)) (t.tokOrigin l y.tok)) s1

/-- A new sticky token takes the place of the current one (R40). -/
def State.stickyReplace (s : State) (l : Loc) (t : Token) : State :=
  let f := s.frame l (tokFrame t)
  let o := s.opAt l (tokOp t) (tokFrame t)
  let n := slotNum f o (tokCol t) (tokPort t)
  let old := s.slot l n
  let s1 := s.setSlot l n { p := true, tok := t }
  let e := s.tabEngine l (tokOp t) (tokFrame t)
  let x := s1.engine e
  let r := x.run (tokOp t)
  if old.p ∧ tileTok o (tokPort t) old.tok then
    let r1 := { r with sticky := r.sticky ++ [⟨tokPort t, old.tok⟩] }
    (s1.setEngine e { x with t := { x.t with orun := tset {} x.t.orun (tokOp t) r1 } }).stickySweep l (tokOp t) (tokFrame t)
  else s1

/-! ## LOOP operators (R39) -/

/-- A token of a LOOP on output reference `n`, at colour `c` of the firing, standing for `run` + 1 colours. -/
def State.loopSend (s : State) (e op n c run : Nat) (pay : Word) : State :=
  let x := s.engine e
  let o := x.op op
  let ref := x.ref o n
  let f := tget {} x.t.ft o.frame
  let who : Origin := ⟨f.ctx, some f.inst, e / 72, e % 72, op, c⟩
  let tok := fun c r => { die := refDie ref, unit := refUnit ref, op := refOp ref, port := refPort ref,
                          col := colourTo (refCt ref) (refCimm ref) c, run := r, frame := refFrame ref, ctx := f.ctx,
                          pay := pay : TokF }.mk128
  if unitOk (refUnit ref) = false then s.report (e / 72) cFrame who 0 0 (some (tok c run))
  else if refCt ref ≤ 1 then s.sendToken [] (tok c run) (some ref) who
  else (List.range (run + 1)).foldl (fun t i => t.sendToken [] (tok ((c + i) % 4096) 0) (some ref) who) s

/-- The token at a port of a colour, if present. -/
def State.portTok (s : State) (l : Loc) (f : Frame) (o : OpEntry) (c k : Nat) : Option Token :=
  let x := s.slot l (slotNum f o c k)
  if x.p ∧ ((o.ports.getD k {}).mode = .sticky ∨ tokCol x.tok = c) then some x.tok else none

/-- The colours of a frame's window, in order. -/
def Frame.window (f : Frame) : List Nat := (List.range f.w).map fun i => (f.wbase + i) % 4096

/-- LOOP_ARM (R39): the pair of start value and trip count with the smallest offset arms the loop, if fewer than four
armings are open, or complete behind an open one. n > 4,096 raises FRAME, and n = 0 completes at once. -/
def execLoopArm (e op : Nat) (s : State) : Host.Outcome State Fault Refusal :=
  let x := s.engine e
  let o := x.op op
  let f := tget {} x.t.ft o.frame
  let l := Loc.eng e
  let r := x.run op
  if o.h.kind ≠ .loop ∨ f.v = false ∨ 4 ≤ r.arms.length ∨ (s.ctx f.ctx).st ≠ .running then .next s
  else
    match f.window.find? fun c => (s.portTok l f o c 0).isSome && (s.portTok l f o c 1).isSome with
    | none => .next s
    | some c =>
      let start := tokPay ((s.portTok l f o c 0).getD 0)
      let cnt := (s.portTok l f o c 1).getD 0
      let n := (tokPay cnt).toNat
      let s1 := (s.setSlot l (slotNum f o c 0) {}).setSlot l (slotNum f o c 1) {}
      if 4096 < n then .next (s1.dropTok l cFrame cnt 0)
      else if n = 0 then .next (s1.loopSend e op (o.h.olcnt - 1) c 0 0)
      else
        let y := s1.engine e
        let arms := r.arms ++ [{ n := n, outer := c, start := start }]
        .next (s1.setEngine e { y with t := { y.t with orun := tset {} y.t.orun op { r with arms := arms } } })

/-- LOOP_HAND_OUT (R39): the oldest arming with colours left hands out the live colours from NEXT, at most 32, on every
reference but the last. -/
def execLoopHandOut (e op : Nat) (s : State) : Host.Outcome State Fault Refusal :=
  let x := s.engine e
  let o := x.op op
  let f := tget {} x.t.ft o.inner
  let r := x.run op
  let room := f.w - (f.next + 4096 - f.wbase) % 4096
  if o.h.kind ≠ .loop ∨ f.v = false ∨ (s.ctx f.ctx).st ≠ .running then .next s
  else
    match r.arms.find? fun a => decide (a.handed < a.n) with
    | none => .next s
    | some a =>
      let n := Nat.min (Nat.min (a.n - a.handed) room) 32
      if n = 0 then .next s
      else
        let first := if a.handed = 0 then f.next else a.first
        let arms := modifyFirst (fun b => decide (b.handed < b.n)) (fun b => { b with first := first, handed := b.handed + n })
          r.arms
        let run1 := { r with arms := arms }
        let f1 := { f with next := (f.next + n) % 4096 }
        let t := { x.t with orun := tset {} x.t.orun op run1, ft := tset {} x.t.ft o.inner f1 }
        let pay := BitVec.ofNat 64 (a.start.toNat * 4096 + first)
        .next ((List.range (o.h.olcnt - 1)).foldl (fun u k => u.loopSend e op k f.next (n - 1) pay)
          (s.setEngine e { x with t := t }))

/-- WBASE advances over the retired colours at the head of the window (R39). -/
def Frame.slide (f : Frame) : Nat → Frame
  | 0 => f
  | n + 1 =>
    if f.retired.getLsbD 0 then { f with wbase := (f.wbase + 1) % 4096, retired := f.retired >>> 1 }.slide n else f

/-- One colour retires at a LOOP (R39). A completed arming keeps its place until those before it have completed too, so a
fifth pair waits for the oldest. -/
def State.retireOne (s : State) (e op : Nat) (t : Token) (c : Nat) : State :=
  let x := s.engine e
  let o := x.op op
  let f := tget {} x.t.ft o.inner
  let r := x.run op
  let off := (c + 4096 - f.wbase) % 4096
  let out := (f.next + 4096 - f.wbase) % 4096
  let has := fun a : Arming => decide (0 < a.handed) && decide ((c + 4096 - a.first) % 4096 < a.handed)
  match r.arms.reverse.find? has with
  | none => s.dropTok (.eng e) cFrame t 0
  | some a =>
    if out ≤ off ∨ f.retired.getLsbD off then s.dropTok (.eng e) cFrame t 0
    else
      let b := { a with retired := a.retired + 1 }
      let arms := (r.arms.map fun y => if y = a then b else y).dropWhile fun y => decide (y.retired = y.n)
      let f1 := { f with retired := f.retired ||| bit64 off }.slide 64
      let run1 := { r with arms := arms }
      let orun := (tset {} x.t.orun op run1).map fun (n, y) =>
        (n, if (x.op n).frame = o.inner then { y with fired := y.fired.filter f1.live } else y)
      let s1 := s.setEngine e { x with t := { x.t with orun := orun, ft := tset {} x.t.ft o.inner f1 } }
      if b.retired = b.n then s1.loopSend e op (o.h.olcnt - 1) a.outer 0 (BitVec.ofNat 64 a.n) else s1

/-- A retire token at port 3 of a LOOP (R39). -/
def State.loopRetire (s : State) (e : Nat) (t : Token) : State :=
  if tokFrame t ≠ ((s.engine e).op (tokOp t)).inner then s.dropTok (.eng e) cFrame t 0
  else (tokCols t).foldl (fun u c => u.retireOne e (tokOp t) t c) s

/-! ## Arrival (R30, R31, R58) -/

/-- The checks of R30 on a token at a store: whether all hold. -/
def State.frameChecks (s : State) (l : Loc) (t : Token) : Bool :=
  let f := s.frame l (tokFrame t)
  let o := s.opAt l (tokOp t) (tokFrame t)
  let m := (o.ports.getD (tokPort t) {}).mode
  f.v && f.ctx == tokCtx t && o.h.kind != .none &&
    (o.frame == tokFrame t || (o.h.kind == .loop && tokPort t == 3)) &&
    o.h.pool == (match l with | .pool _ => true | .eng _ => false) &&
    (m == .order) == tokO t && (!tokQ t || m == .demand)

/-- Whether an initial token meets an instance in FAULTED or PURGING (R313). -/
def State.initialRefused (s : State) (l : Loc) (t : Token) : Bool :=
  let f := s.frame l (tokFrame t)
  match s.instKernel f.ctx f.inst with
  | some k => (s.kernel k).st == .faulted || (s.kernel k).st == .purging
  | none => false

/-- A live piece lands at its slots (R26, R32). A ROD-mode port is tested at once (R352). -/
def State.setPresent (s : State) (l : Loc) (f : Frame) (o : OpEntry) (t : Token) : State :=
  let ok := (o.ports.getD (tokPort t) {}).mode == .rod && decide (wwTarget (tokPay t) ≤ (s.wwCount (tokPay t)).toNat)
  (tokCols t).foldl (fun u c => u.setSlot l (slotNum f o c (tokPort t)) { p := true, tok := tokWithRun t c 0, rodOk := ok }) s

/-- The pieces of a token, in order (R58): a collision or a failed spill ends the arrival. -/
def State.landPieces (s : State) (l : Loc) (f : Frame) (o : OpEntry) (t : Token) : List (Nat × Nat) → State
  | [] => s
  | (c, n) :: r =>
    let piece := tokWithRun t c n
    if f.live c = false then
      let s1 := s.spill l piece false
      -- a spill that has failed has sent its record and ends the arrival
      if (s1.units l.die).spill = (s.units l.die).spill then s1 else s1.landPieces l f o t r
    else
      match (tokCols piece).find? fun k => (s.slot l (slotNum f o k (tokPort t))).p with
      | some k => s.report l.die cDouble { s.tokOrigin l piece with col := k } 0 0 (some piece)
      | none => ((s.setPresent l f o piece).touch l.die (tokCtx t)).landPieces l f o t r

/-- The member of a pooled operator's group, or the engine, as the user of the rod of a wait word (R352). -/
def State.wwUser (s : State) (l : Loc) (t : Token) : Accessor := .engine (s.tabEngine l (tokOp t) (tokFrame t))

/-- A credit return clears a busy bit (R47). At the pool it carries no frame: of the groups of its context the first whose
map of the operator slot has the bit set is meant (log 122). -/
def State.credit (s : State) (l : Loc) (t : Token) : State :=
  let n := fld (tokPay t) 8 3
  let b := bit64 (fld (tokPay t) 0 6)
  let op := match l with
    | .eng _ => tokOp t
    | .pool d =>
      let mine := (s.units d).groups.filter fun (_, g) => g.holds && g.ctx == tokCtx t
      match mine.find? fun (g, _) => s.busyMap l (256 * g + tokOp t) n &&& b != 0 with
      | some (g, _) => 256 * g + tokOp t
      | none => tokOp t
  s.setBusy l op n (s.busyMap l op n &&& ~~~ b)

/-- A token arrives at a matching store (R58). -/
def State.arrive (s : State) (l : Loc) (t : Token) (initial : Bool) : State :=
  if tokCredit t then s.credit l t
  else if s.frameChecks l t = false ∨ (initial ∧ s.initialRefused l t) then s.dropTok l cFrame t 0
  else
    let f := s.frame l (tokFrame t)
    let o := s.opAt l (tokOp t) (tokFrame t)
    let m := (o.ports.getD (tokPort t) {}).mode
    match l with
    | .eng e =>
      if o.h.kind = .loop ∧ tokPort t = 3 then s.loopRetire e t
      else if m = .rod ∧ s.wwFault (s.wwUser l t) false (tokCtx t) (tokPay t) then s.dropTok l cFrame t 0
      else if m = .sticky then (s.stickyReplace l t).touch l.die (tokCtx t)
      else s.landPieces l f o t (livePieces f (tokCols t))
    | .pool _ =>
      if m = .rod ∧ s.wwFault (s.wwUser l t) true (tokCtx t) (tokPay t) then s.dropTok l cFrame t 0
      else if m = .sticky then (s.stickyReplace l t).touch l.die (tokCtx t)
      else s.landPieces l f o t (livePieces f (tokCols t))

/-- A token reaches an engine or the pool, in the state its context is in: dropped silently once the context is torn
down (R290), spilled while it is not resident (R287). -/
def State.arriveCtx (s : State) (l : Loc) (t : Token) (initial : Bool) : State :=
  let x := s.ctx (tokCtx t)
  if x.isTorn then s
  else if x.st = .ready ∧ x.svalid then s.spill l t true
  else s.arrive l t initial

/-- TOKEN_ARRIVAL (R58). Tokens that reach a vault stream engine, a control core or a link port are dropped with FRAME
(R23), in a record that names the sender (R20). -/
def execTokenArrival (die unit : Nat) (tok : Token) (sent : Sender) (s : State) :
    Host.Outcome State Fault Refusal :=
  if unit ≤ 71 then .next (s.arriveCtx (.eng (72 * die + unit)) tok sent.initial)
  else if unit = 248 then .next (s.arriveCtx (.pool die) tok sent.initial)
  else .next (s.frameReport die sent.src tok)

end Sys2Proof.Machine
end

