-- ==== Sys2Proof/Machine/Firing.lean ====
section
/-!
DEFINITION. Eligibility and issue (R33, R40–R43, R48, R49, R53–R55, R86, R94, R97, R186, R194).
-/
namespace Sys2Proof.Machine

/-! ## Ports of a colour (R40) -/

/-- What the ports in use of an operator hold for a colour, if every one of them is satisfied (R40). -/
def State.portsOf (s : State) (l : Loc) (f : Frame) (o : OpEntry) (c : Nat) : Option (List PortIn) :=
  (List.range o.h.nin).foldr (fun k acc =>
    let g := o.ports.getD k {}
    let n := slotNum f o c k
    match s.portTok l f o c k, acc with
    | some t, some r =>
      if (g.mode = .demand ∧ tokQ t = false) ∨ (g.mode = .rod ∧ (s.slot l n).rodOk = false) then none
      else some (⟨g.mode, g.tile, some t⟩ :: r)
    | _, _ => none) (some [])

/-- Whether a colour has a token of its own, at a port that is not STICKY, which its firing consumes (R40). -/
def ownToken (ins : List PortIn) : Bool := ins.any fun p => p.mode != .sticky

/-- Whether a port is a data port (R43). -/
def PortIn.data (p : PortIn) : Bool := p.mode == .token || p.mode == .sticky || p.mode == .any
/-- Whether a port holds a null token. -/
def PortIn.null (p : PortIn) : Bool := (p.tok.map tokN).getD false
/-- The port whose token the body sees at port `k`: for an ANY port, that of the merge set (R41). -/
def seenIdx (ins : List PortIn) (k : Nat) : Nat :=
  if (ins.getD k {}).mode = .any then (ins.findIdx? fun p => p.mode == .any && !p.null).getD k else k
/-- What the body sees at a port. -/
def seenPort (ins : List PortIn) (k : Nat) : PortIn := ins.getD (seenIdx ins k) {}

/-- What becomes of a colour (R42, R43). -/
inductive Fate where
  | run | null | forward
deriving DecidableEq, Repr, Inhabited

/-- Whether null propagation, forwarding or the body applies (R42, R43). -/
def OpEntry.fate (o : OpEntry) (ins : List PortIn) : Fate :=
  let gateNull := match o.h.gate with
    | some k => (seenPort ins k).null
    | none => false
  if (ins.any (·.data) && ins.all fun p => !p.data || p.null) || gateNull then .null
  else if (List.range ins.length).any fun k =>
      (o.ports.getD k {}).epol == .forward && (((ins.getD k {}).tok.map tokE).getD false) then .forward
  else .run

/-- The value of port k (R40–R43): the payload; 0 for a null, an ABSORB empty, an ORDER or DEMAND token; c(12 + j) for a
REPLACE empty, j being the port that is seen. -/
def OpEntry.portVal (o : OpEntry) (bank : List Word) (ins : List PortIn) (k : Nat) : Word :=
  let p := seenPort ins k
  match p.tok with
  | none => 0
  | some t =>
    if tokN t ∨ p.mode = .order ∨ p.mode = .demand then 0
    else if tokE t then
      (if (o.ports.getD (seenIdx ins k) {}).epol = .replace then bank.getD (12 + seenIdx ins k) 0 else 0)
    else tokPay t

/-- Whether the S flags and the SC bits agree (R49, R86). -/
def OpEntry.scaleOk (o : OpEntry) (ins : List PortIn) : Bool :=
  (List.range ins.length).all fun k =>
    match (ins.getD k {}).tok with
    | some t => !tileTok o k t || (tokS t == (o.ports.getD k {}).sc && tokS t == (dGs (tokPay t) != 0))
    | none => true

/-! ## Eligibility (R48) -/

/-- The busy index of output reference `n` for colour `c` (R47). -/
def OpEntry.busyIdx (o : OpEntry) (ref : Word) (c : Nat) : Nat :=
  if refMode ref = 1 then colourTo (refCt ref) (refCimm ref) c % refDrc ref else c % o.rcnt

/-- The store that keeps the busy maps of an operator of engine `e`: the pool for a pooled operator (R335). -/
def OpEntry.home (o : OpEntry) (e : Nat) : Loc := if o.h.pool then .pool (e / 72) else .eng e

/-- The tile references of an operator. -/
def Engine.tileRefs (x : Engine) (o : OpEntry) : List Nat := (List.range o.h.olcnt).filter fun n => (x.refInfo o n).tile

/-- Whether colours `c` and `c'` of an operator would use one busy bit or one output sub-slot. -/
def Engine.clash (x : Engine) (o : OpEntry) (c c' : Nat) : Bool :=
  (x.tileRefs o).any fun n => c % o.rcnt == c' % o.rcnt || o.busyIdx (x.ref o n) c == o.busyIdx (x.ref o n) c'

/-- Firings of an engine that are in flight: in a slot, suspended, or ready for a slot. -/
def Engine.inFlight (x : Engine) : List Firing := (x.mat.act.toList ++ x.vec.act.toList ++ x.susp ++ x.ready).map (·.fr)

/-- Conditions 2 and 3 of R48 for colour `c`, and that no pass issued before it has claimed its output sub-slot; a stream
that reads or writes the sub-slot holds it (R244). -/
def State.outputsFree (s : State) (e op c : Nat) : Bool :=
  let x := s.engine e
  let o := x.op op
  ((x.tileRefs o).all fun n => !(s.busyMap (o.home e) (s.busyOp e op o) n).getLsbD (o.busyIdx (x.ref o n) c)) &&
  (x.firings.all fun f => f.op != op || f.passes.all fun (k, _) => !x.clash o c k) &&
  (x.streams.all fun y => y.who.op != op || !y.holds.contains (c % o.rcnt))

/-- Whether R97 and R186 let a firing of an operator issue. -/
def Engine.orderOk (x : Engine) (op : Nat) : Bool :=
  let o := x.op op
  (!o.serial || x.inFlight.all (·.op != op)) && (!o.abx || x.inFlight.all fun f => !(x.op f.op).abx)

/-- Whether an operator runs bodies (R38). -/
def OpEntry.fires (o : OpEntry) : Bool := o.h.runs

/-- The engine that keeps what has fired of an operator: its own, or the first member of its group (R335). -/
def State.firedEngine (s : State) (e op : Nat) : Nat :=
  if ((s.engine e).op op).h.pool then
    match s.groupOf e with
    | some (g, _) => (s.member (e / 72) g 0).getD e
    | none => e
  else e
/-- Whether a colour with the given ports is still to fire: an operator fires once for each colour, and one whose tokens all stay, or that
has no ports, fires no second time for a colour of its window (R40, R48; log 37). -/
def State.unfired (s : State) (e op c : Nat) (ins : List PortIn) : Bool :=
  ownToken ins || !((s.engine (s.firedEngine e op)).run op).fired.contains c
/-- A colour has fired or gone by. -/
def State.markFired (s : State) (e op c : Nat) (ins : List PortIn) : State :=
  if ownToken ins then s
  else
    let m := s.firedEngine e op
    let x := s.engine m
    let r := x.run op
    let f := s.frame ((x.op op).home m) (x.op op).frame
    s.setEngine m { x with t := { x.t with orun := tset {} x.t.orun op { r with fired := c :: r.fired.filter f.live } } }

/-- The ports of colour `c` of an unpooled operator of engine `e`, if it is eligible (R48). -/
def State.eligible (s : State) (e op c : Nat) : Option (List PortIn) :=
  let x := s.engine e
  let o := x.op op
  let f := tget {} x.t.ft o.frame
  if o.fires = false ∨ o.h.pool ∨ f.v = false ∨ f.live c = false ∨
      (x.firings.any fun g => g.op == op && g.group.isNone && g.passes.any fun (k, _) => k == c) then none
  else
    match s.portsOf (.eng e) f o c with
    | none => none
    | some ins => if s.unfired e op c ins ∧ s.outputsFree e op c then some ins else none

/-- The eligible colours of an engine, as (operator, colour). -/
def State.eligibles (s : State) (e : Nat) : List (Nat × Nat) :=
  let x := s.engine e
  x.t.ot.flatMap fun (op, o) =>
    (tget {} x.t.ft o.frame).window.filterMap fun c => if (s.eligible e op c).isSome then some (op, c) else none

/-! ## Choice (R55) -/

/-- A choice of an issue slot: a firing that waits whole (re-queued, or from the pool), or an eligible colour; `key` ranks
it. -/
structure Choice where
  key  : List Nat
  fir  : Option Firing
  op   : Nat
  col  : Nat
deriving DecidableEq, Repr, Inhabited

/-- Lexicographic order of keys. -/
def keyLt : List Nat → List Nat → Bool
  | a :: l, b :: r => if a = b then keyLt l r else decide (a < b)
  | _, _ => false

/-- Rules 3 to 5 of R55. -/
def rankLast (prio off op : Nat) : List Nat := [7 - prio, off, op]
/-- The rank of a colour eligible since cycle `since`: rule 2 of R55, else rules 3 to 5, which also decide between equal waits. -/
def rankOf (now since prio off op : Nat) : List Nat :=
  (if since + 65536 ≤ now then [1, since] else [2, 0]) ++ rankLast prio off op

/-- The first colour of what is left of a firing. -/
def Firing.col (f : Firing) : Nat := (f.passes.headD (0, [])).1

/-- Everything that slot `sl` of engine `e` may issue now (R55). -/
def State.choices_ (s : State) (e sl : Nat) : List Choice :=
  let x := s.engine e
  let now := s.clock.cyc
  let ok := fun op c => decide ((x.op op).h.cls = sl) && x.orderOk op && (s.ctx c).st == .running
  let req := x.requeue.filter fun f => f.hold == .free && ok f.op f.ctx
  let pool := (x.slot sl).intake.filter fun f => ok f.op f.ctx
  let fresh := (s.eligibles e).filter fun (op, _) => ok op (tget {} x.t.ft (x.op op).frame).ctx
  let offOf := fun op c => (c + 4096 - (tget {} x.t.ft (x.op op).frame).wbase) % 4096
  (req.map fun f => ⟨[0, (ageOf f.seq f.col).toNat] ++
    rankLast (x.op f.op).h.prio (if f.group.isSome then f.off else offOf f.op f.col) f.op, some f, f.op, f.col⟩) ++
  (pool.map fun f => ⟨rankOf now f.since f.prio f.off f.op, some f, f.op, f.col⟩) ++
  (fresh.map fun (op, c) =>
    let o := x.op op
    let since := ((x.elig.find? fun (p, k, _) => p == op && k == c).map (·.2.2)).getD now
    ⟨rankOf now since o.h.prio (offOf op c) op, none, op, c⟩)

/-! ## Passes -/

/-- The tangent count of a pass: the launch attribute, or DUALK (R194). -/
def State.tangents (s : State) (c inst : Nat) (o : OpEntry) : Nat :=
  let k := ((s.instKernel c inst).map fun n => (s.kernel n).launch.dual).getD 0
  if k = 0 then o.h.dualk else k

/-- The accumulators that QLIVE covers, shadows included (R201). -/
def liveAccs (q : BitVec 8) (k : Nat) : List Nat :=
  let p := 8 / (k + 1)
  if k = 0 then (List.range 8).filter fun i => q.getLsbD i
  else ((List.range p).filter fun i => q.getLsbD i).flatMap fun i => (List.range (k + 1)).map fun t => p * t + i

/-- The special register gid (R95). -/
def State.gid (s : State) (e : Nat) : Word :=
  match s.groupOf e with
  | some (g, m) => put 12 2 (e / 72) ||| put 4 8 g ||| put 0 4 m
  | none => put 12 2 (e / 72)

/-- Header bit D of a body (R87). -/
def hdrD (w : Word) : Bool := w.getLsbD 13

/-- The open pass of the first colour of a firing on engine `e` (R33, R94, R95). -/
def State.newPass (s : State) (e : Nat) (f : Firing) : Pass :=
  let x := s.engine e
  let o := x.op f.op
  let r := x.run f.op
  let (c, ins) := f.passes.headD (0, [])
  let k := s.tangents f.ctx f.inst o
  let bank := tget [] x.t.banks (tget 0 x.t.opBank f.op)
  let live := liveAccs o.h.qlive k
  let launchK := ((s.instKernel f.ctx f.inst).map fun n => (s.kernel n).launch.dual).getD 0
  { col := c, run := BitVec.ofNat 64 (f.len * 256 + f.j),
    rank := match s.launchTable f.ctx f.inst with
      | some t => BitVec.ofNat 64 (s.pgt f.ctx t).own
      | none => 0
    eid := BitVec.ofNat 64 e, gid := s.gid e, instr := put 8 6 f.ctx ||| put 0 8 f.inst,
    kfire := k, all := decide (1 ≤ launchK) || hdrD (tget 0 x.t.body o.h.body), ins := ins, acq := (s.ctx f.ctx).acq,
    r := { s := r.s, ssh := r.ssh, c := bank, p := (List.range o.h.nin).map fun i => o.portVal bank ins i,
           q := x.q.filter fun (n, _) => live.contains (n / 4096), lanes := x.lanes } }

/-- The acquire code of a ROD-mode port: ENGINE, GROUP, DIE or SYSTEM by the kind of the rod (R340). -/
def wwAcq (w : Word) : Nat := if wwKind w = 3 then 5 else wwKind w + 1
/-- The rod of a wait word as what an observer reads. -/
def State.wwKeys (s : State) (w : Word) : List Nat :=
  if wwKind w ≠ 3 then rodKeys (wwRef w) 0
  else match s.watchHome (tget {} (s.units (wwDie w)).watch (wwIndex w)) with
    | some h => byteKeys (homes8 h)
    | none => []

/-- The acquires of the ROD-mode ports of a pass that issues (R227, R340, R352). -/
def State.portAcquires (s : State) (e : Nat) (a : Active) (p : Pass) : List PortIn → Pass × State
  | [] => (p, s)
  | i :: r =>
    match i.mode, i.tok with
    | .rod, some t =>
      let (q, u) := s.acquired e a (wwAcq (tokPay t)) (s.wwKeys (tokPay t)) p
      u.portAcquires e a q r
    | _, _ => s.portAcquires e a p r

/-- The firing opens its first pass in slot `sl` of engine `e`; a scale tag that disagrees aborts it as a fault (R49). -/
def State.startPass (s : State) (e sl : Nat) (f : Firing) : State :=
  let g := { f with uid := s.nextId }
  let s1 := { s with nextId := s.nextId + 1 }
  let a : Active := { fr := g, pass := s1.newPass e g }
  if ((s1.engine e).op f.op).scaleOk a.pass.ins then
    let (p, t) := s1.portAcquires e a a.pass a.pass.ins
    t.setActive e sl (some { a with pass := p })
  else s1.faultActive e a (plain cScaletag)

/-! ## Null and forward colours (R42, R43) -/

/-- A token that an engine sends without a body on output reference `n` of an operator. A reserved unit drops it, with a
FRAME record that names the instance: R20 tells of EMIT and of other senders, and no EMIT executes here (log 11). -/
def State.sendBare (s : State) (e op n : Nat) (who : Origin) (mk : TokF → TokF) : State :=
  let x := s.engine e
  let o := x.op op
  let ref := x.ref o n
  let t := (mk { die := refDie ref, unit := refUnit ref, op := refOp ref, port := refPort ref,
                 col := colourTo (refCt ref) (refCimm ref) who.col, frame := refFrame ref, ctx := who.ctx }).mk128
  if unitOk (refUnit ref) = false then s.report (e / 72) cFrame who 0 0 (some t) else s.sendToken [] t (some ref) who

/-- The slots of the consumed ports of a colour are emptied; a STICKY token stays (R40). -/
def State.clearSlots (s : State) (l : Loc) (f : Frame) (o : OpEntry) (c : Nat) : State :=
  (List.range o.h.nin).foldl (fun t k =>
    if (o.ports.getD k {}).mode = .sticky then t else t.setSlot l (slotNum f o c k) {}) s

/-- The credit returns of the tile ports that a colour consumes, `keep` apart; `deps` gives what each waits for (R48). -/
def State.creditPorts (s : State) (o : OpEntry) (ins : List PortIn) (who : Origin) (keep : Nat → Bool)
    (deps : Nat → List Nat) : State :=
  (List.range ins.length).foldl (fun t k =>
    let p := ins.getD k {}
    match p.tok with
    | some tk =>
      if p.mode ≠ .sticky ∧ tileTok o k tk ∧ keep k = false then
        t.sendCredit (deps k) (t.creditTok o k tk (who.col % o.rcnt)) who
      else t
    | none => t) s

/-- A null or forward colour goes by (R42, R43): N or E tokens on every reference, the inputs consumed and their tiles
released. -/
def State.bareColour (s : State) (e op c : Nat) (ins : List PortIn) (ft : Fate) : State :=
  let x := s.engine e
  let o := x.op op
  let f := tget {} x.t.ft o.frame
  let who : Origin := ⟨f.ctx, some f.inst, e / 72, e % 72, op, c⟩
  let ord := ins.any fun p => p.mode == .order
  let s1 := (List.range o.h.olcnt).foldl (fun t n => t.sendBare e op n who fun k =>
    if ft = .null then { k with n := true, o := ord } else { k with e := true }) s
  (((s1.clearSlots (.eng e) f o c).markFired e op c ins).creditPorts o ins who (fun _ => false) (fun _ => [])).touch (e / 72) f.ctx

/-- A null or forward colour of a pooled operator goes by on the member that took it (R42, R43, R337). -/
def State.barePooled (s : State) (e : Nat) (f : Firing) (ins : List PortIn) (ft : Fate) : State :=
  let o := (s.engine e).op f.op
  let who : Origin := ⟨f.ctx, some f.inst, e / 72, e % 72, f.op, (f.passes.headD (0, [])).1⟩
  let ord := ins.any fun p => p.mode == .order
  let s1 := (List.range o.h.olcnt).foldl (fun t n => t.sendBare e f.op n who fun k =>
    if ft = .null then { k with n := true, o := ord } else { k with e := true }) s
  (((s1.markFired e f.op who.col ins).creditPorts o ins who (fun _ => false) (fun _ => [])).stickySweep (o.home e) f.op o.frame).touch (e / 72) f.ctx

/-! ## Issue (R33, R53) -/

/-- The consecutive colours after `c` that are eligible and run the body, up to `n` (R33). -/
def State.gather (s : State) (e op c : Nat) (taken : List Nat) : Nat → List (Nat × List PortIn)
  | 0 => []
  | n + 1 =>
    let x := s.engine e
    let o := x.op op
    let k := (c + 1) % 4096
    match s.eligible e op k with
    | some ins =>
      if o.fate ins = .run ∧ taken.all (fun y => !x.clash o k y) ∧ k ∉ taken then
        (k, ins) :: s.gather e op k (k :: taken) n
      else []
    | none => []

/-- The launch sequence number of an instance (R361). -/
def State.instSeq (s : State) (c inst : Nat) : Word :=
  ((s.instKernel c inst).map fun k => (s.kernel k).launch.seq).getD 0

/-- The state with slot `sl` marked as having issued in this cycle (R53). -/
def State.markIssued (s : State) (e sl : Nat) : State :=
  let x := s.engine e
  s.setEngine e (x.setSlot sl { x.slot sl with issued := true })

/-- A chosen firing or colour issues in slot `sl` (R55). -/
def State.issue (s : State) (e sl : Nat) (ch : Choice) : State :=
  let s0 := s.markIssued e sl
  let x := s0.engine e
  match ch.fir with
  | some f =>
    let y := x.slot sl
    let x1 := { x with requeue := x.requeue.erase f }.setSlot sl { y with intake := y.intake.erase f }
    let ins := (f.passes.headD (0, [])).2
    let o := x.op ch.op
    if f.group.isSome ∧ f.requeued = false ∧ o.fate ins ≠ .run then (s0.setEngine e x1).barePooled e f ins (o.fate ins)
    else (s0.setEngine e x1).startPass e sl { f with len := f.passes.length, j := 0, sent := [] }
  | none =>
    let o := x.op ch.op
    match s.eligible e ch.op ch.col with
    | none => s0
    | some ins =>
      match o.fate ins with
      | .run =>
        let f := tget {} x.t.ft o.frame
        let ps := (ch.col, ins) :: s.gather e ch.op ch.col [ch.col] 31
        s0.startPass e sl { op := ch.op, ctx := f.ctx, inst := f.inst, seq := s.instSeq f.ctx f.inst, prio := o.h.prio,
                            len := ps.length, passes := ps }
      | ft => s0.bareColour e ch.op ch.col ins ft

/-- FIRING_ISSUE (R55): an empty slot that has not issued in this cycle, and for which no satisfied pass waits (R349),
issues its first choice. -/
def execFiringIssue (e slot : Nat) (s : State) : Host.Outcome State Fault Refusal :=
  let x := s.engine e
  let y := x.slot slot
  if 288 ≤ e ∨ 2 ≤ slot ∨ y.act.isSome ∨ y.issued ∨ x.frozen ∨
      (x.ready.any fun a => decide ((x.op a.fr.op).h.cls = slot)) then .next s
  else
    match pickMin (fun a b => keyLt a.key b.key) (s.choices_ e slot) with
    | none => .next s
    | some ch => .next (s.issue e slot ch)

/-- SUSPENDED_PASS_RESUME (R349): a satisfied pass takes its slot again, ahead of every choice of R55. -/
def execSuspendedPassResume (e fid : Nat) (s : State) : Host.Outcome State Fault Refusal :=
  let x := s.engine e
  match x.ready.find? fun a => a.fr.uid == fid with
  | none => .next s
  | some a =>
    let sl := (x.op a.fr.op).h.cls
    if (x.slot sl).act.isSome then .next s
    else .next ((s.setEngine e { x with ready := x.ready.erase a }).setActive e sl (some a))

/-- PASS_ABORT (R52): the open pass of a firing aborts without a trap and is queued again with its age. -/
def execPassAbort (e fid : Nat) (s : State) : Host.Outcome State Fault Refusal :=
  .next (s.abortPasses e fun a => a.fr.uid == fid)

end Sys2Proof.Machine
end

