-- ==== Sys2Proof/Machine/Locks.lean ====
section
/-!
DEFINITION. Locks and the Lock Reckoner (R354–R376): names, modes, the decision of a request, wounds, releases,
escalation, and the lock instructions.
-/
namespace Sys2Proof.Machine

/-! ## Names (R354, R355) -/

def lkLevel (n : Word) : Nat := fld n 62 2
def lkTid (n : Word) : Nat := fld n 30 20
def lkTile (n : Word) : Nat := fld n 6 24
/-- The tensor of an object. -/
def lkTensor (n : Word) : Word := put 30 20 (lkTid n)
/-- The tile of a tile or line. -/
def lkTileName (n : Word) : Word := put 62 2 1 ||| put 30 20 (lkTid n) ||| put 6 24 (lkTile n)
/-- The object and its ancestors, from the tensor down (R354). -/
def lkChain (n : Word) : List Word :=
  match lkLevel n with
  | 0 => [n]
  | 1 => [lkTensor n, n]
  | _ => [lkTensor n, lkTileName n, n]
/-- Whether `n` is the object `o` or lies below it. -/
def lkUnder (o n : Word) : Bool := (lkChain n).contains o

/-- Whether a lock name is valid for a context (R355). -/
def State.lkNameOk (s : State) (c : Nat) (n : Word) : Bool :=
  fld n 50 12 == 0 && lkLevel n != 3 && (lkLevel n != 0 || lkTile n == 0) && (decide (2 ≤ lkLevel n) || fld n 0 6 == 0) &&
    decide (lkTid n < (s.ctx c).lk.tidn.toNat)

/-! ## Modes (R357–R360): 0 NL, 1 IS, 2 IX, 3 S, 4 SIX, 5 INC, 6 X -/

/-- compat(requested, held) (R358). -/
def lkCompat (m : BitVec 36) (r c : Nat) : Bool := r == 0 || c == 0 || m.getLsbD (6 * (r - 1) + (c - 1))

/-- lub (R359). -/
def lkLub (a b : Nat) : Nat :=
  if a = 0 then b
  else if b = 0 then a
  else if a = b then a
  else if a = 5 ∨ b = 5 ∨ a = 6 ∨ b = 6 then 6
  else if a = 1 then b
  else if b = 1 then a
  else 4

/-- Whether a mode on an ancestor covers a request below it (R359). -/
def lkCovers (p m : Nat) : Bool := p == 6 || ((p == 3 || p == 4) && (m == 1 || m == 3)) || (p == 5 && m == 5)
/-- need(m) (R360). -/
def lkNeed (m : Nat) : Nat := if m = 1 ∨ m = 3 then 1 else 2

/-! ## The lock table (R363) -/

/-- The mode of a record (R357): what stands and what uncommitted passes have taken, together, or what an escalation has put in its
place (R369). -/
def LockRec.mode (x : LockRec) : Nat :=
  match x.whole with
  | some (_, c) => c
  | none => x.takes.foldl (fun m t => lkLub m t.mode) x.base
/-- The parts of a record that raise its mode above the one that stands (R366). -/
def LockRec.raising (x : LockRec) : List LockTake := x.takes.filter fun t => lkLub x.base t.mode != x.base
/-- Whether a part of a record has duration HOLD. -/
def LockRec.hold (x : LockRec) : Bool := x.base != 0 || x.takes.any (·.hold)
/-- GRANTED while a pass that has not committed has a part in a record, else HELD (R367). -/
def LockRec.st (x : LockRec) : LockSt := if x.takes = [] then .held else .granted
/-- The record of an owner on an object. -/
def Reckoner.rec? (k : Reckoner) (c : Nat) (age o : Word) : Option LockRec :=
  k.recs.find? fun r => r.ctx == c && r.age == age && r.name == o
/-- held(o, w) (R364). -/
def Reckoner.held (k : Reckoner) (c : Nat) (age o : Word) : Nat := ((k.rec? c age o).map (·.mode)).getD 0
/-- The objects in the table. -/
def Reckoner.objects (k : Reckoner) : List (Nat × Word) :=
  (k.recs.map (fun r => (r.ctx, r.name)) ++ k.queue.map fun w => (w.ctx, w.name)).dedup
/-- The owners on objects in the table. -/
def Reckoner.owners (k : Reckoner) : List (Nat × Word × Word) :=
  (k.recs.map (fun r => (r.ctx, r.name, r.age)) ++ k.queue.map fun w => (w.ctx, w.name, w.age)).dedup
/-- Free entries. -/
def Reckoner.free (k : Reckoner) : Nat := 65536 - (k.objects.length + k.owners.length)

/-- The mode that a request needs on an object of its chain (R360). -/
def LockReq.modeOn (r : LockReq) (o : Word) : Nat := if o = r.name then r.mode else lkNeed r.mode
/-- The mode that the owner is to hold on an object of the chain. -/
def Reckoner.want (k : Reckoner) (r : LockReq) (o : Word) : Nat := lkLub (k.held r.ctx r.age o) (r.modeOn o)

/-- Entries that a request needs at all its levels (R363). -/
def Reckoner.needed (k : Reckoner) (r : LockReq) : Nat :=
  ((lkChain r.name).map fun o =>
    if k.want r o = k.held r.ctx r.age o then 0
    else (if (k.objects).contains (r.ctx, o) then 0 else 1) + (if (k.owners).contains (r.ctx, o, r.age) then 0 else 1)).sum

/-- grantable(o, w, want) (R364). -/
def Reckoner.grantable (k : Reckoner) (m : BitVec 36) (c : Nat) (age o : Word) (want : Nat) : Bool :=
  (k.recs.all fun r => !(r.ctx == c && r.name == o && r.age != age) || lkCompat m want r.mode) &&
  (k.queue.all fun v => !(v.ctx == c && v.name == o && v.age.ult age) || lkCompat m want v.want)

/-- The record of an owner after a pass has taken a mode (R367); what the pass took of it before is raised, and its duration is the
longer one (R362). -/
def LockRec.take (x : LockRec) (r : LockReq) (m : Nat) : LockRec :=
  let whole := x.whole.map fun (u, c) => (u, lkLub c m)
  if x.takes.any (·.uid == r.fid) then
    let raised := fun t : LockTake => if t.uid = r.fid then { t with mode := lkLub t.mode m, hold := t.hold || r.hold } else t
    { x with takes := x.takes.map raised, whole := whole }
  else { x with takes := x.takes ++ [⟨r.eng, r.fid, m, r.hold⟩], whole := whole }
/-- The owner's record on an object of a request's chain, an empty one where it has none. -/
def Reckoner.recOf (k : Reckoner) (r : LockReq) (o : Word) : LockRec :=
  (k.rec? r.ctx r.age o).getD { ctx := r.ctx, name := o, age := r.age }

/-- The table with a record put in place of the owner's record on its object. -/
def Reckoner.putRec (k : Reckoner) (x : LockRec) : Reckoner :=
  { k with recs := k.recs.filter (fun r => !(r.ctx == x.ctx && r.age == x.age && r.name == x.name)) ++ [x] }

/-- A waiter put in the queue by ascending age, equal ages in arrival order (R364). -/
def Reckoner.enqueue (k : Reckoner) (w : LockWaiter) : Reckoner :=
  { k with queue := insertBy (fun a b => a.age.ult b.age) w k.queue }

/-- Whether the same request waits already on an object. -/
def Reckoner.waits (k : Reckoner) (r : LockReq) (o : Word) : Bool := k.queue.any fun w => w.req == r && w.name == o

/-! ## Wounds (R366) -/

/-- The instance that an owner's age belongs to (R361). -/
def State.ageInst (s : State) (c : Nat) (age : Word) : Option Nat :=
  (s.cp.kernels.find? fun (_, k) => k.used && k.ctx == c && k.launch.seq.toNat % 2 ^ 52 == age.toNat / 4096 &&
    (k.st != .image && k.st != .placed && k.st != .armed)).map fun (_, k) => k.inst

/-- WOUND is raised for a record whose mode stands on a committed pass (R366). -/
def State.woundHeld (s : State) (h : Nat) (x : LockRec) : State :=
  s.report h cWound ⟨x.ctx, some ((s.ageInst x.ctx x.age).getD 0), h, 255, 0, fld x.age 0 12⟩ x.name x.age none

/-- The parts of a record that a request wounds: of those that have raised its mode the ones that conflict with the request, or all of
them where none does by itself (R366). -/
def LockRec.inWay (x : LockRec) (m : BitVec 36) (want : Nat) : List LockTake :=
  let bad := x.raising.filter fun t => !lkCompat m want t.mode
  if bad = [] then x.raising else bad

/-- wound(h, o) on every younger holder in the way of a request (R364, R366): the passes that have not committed abort, and for a mode
that stands WOUND is raised. -/
def State.woundAll (s : State) (h c : Nat) (age o : Word) (want : Nat) : State :=
  let m := (s.ctx c).lk.matrix
  ((s.reckoner h).recs.filter fun r =>
    r.ctx == c && r.name == o && age.ult r.age && !lkCompat m want r.mode).foldl (fun t x =>
      match x.inWay m want with
      | [] => t.woundHeld h x
      | l => l.foldl (fun u y => u.post (.woundArrival y.eng y.uid o))
          (t.setReckoner h ((t.reckoner h).putRec { x with hit := true }))) s

/-! ## Requests (R364, R365) -/

/-- A pass whose request is granted in whole goes on, with the acquire of the grant (R370). -/
def State.wakeLock (s : State) (e uid : Nat) (name : Word) : State :=
  s.endWaits e (fun a => a.fr.uid == uid && (match a.pass.wait with | .lock n _ => n == name | _ => false)) []

/-- The line records that a pass took under a tile with one duration (R369); one that it only raised above what the owner
held before is not among them (log entry 115). -/
def Reckoner.lines (k : Reckoner) (r : LockReq) (tile : Word) : List LockRec :=
  k.recs.filter fun x => x.ctx == r.ctx && x.age == r.age && lkLevel x.name == 2 && lkTileName x.name == tile &&
    x.base == 0 && x.takes.length == 1 && x.takes.all fun t => t.uid == r.fid && t.hold == r.hold

/-- Escalation after the grant of a line (R369): the tile's mode becomes c itself where the owner holds no other line under it. -/
def State.escalate (s : State) (h : Nat) (r : LockReq) : State :=
  let lk := (s.ctx r.ctx).lk
  let k := s.reckoner h
  let tile := lkTileName r.name
  let ls := k.lines r tile
  if lkLevel r.name ≠ 2 ∨ lk.esc = 0 ∨ ls.length ≤ lk.esc.toNat then s
  else
    let c := if ls.all (·.mode == 3) then 3 else if ls.all (·.mode == 5) then 5 else 6
    let others := k.recs.any fun x => x.ctx == r.ctx && x.age == r.age && lkLevel x.name == 2 &&
      lkTileName x.name == tile && !ls.contains x
    let old := k.recOf r tile
    let set := fun t : LockTake => if t.uid = r.fid then { t with mode := c, hold := r.hold } else t
    let alone := { old with takes := old.takes.map set }
    let new := if others then old.take r c else if alone.mode = c then alone else { alone with whole := some (r.fid, c) }
    if k.grantable lk.matrix r.ctx r.age tile new.mode then
      s.setReckoner h ({ k with recs := k.recs.filter fun x => !ls.contains x }.putRec new)
    else s

/-- The levels of a request from the tensor down, until one has to wait (R364). On an ancestor whose mode is enough the request takes
its intention too, so that this lasts as long as what needs it (R362). Every grant is an event of R319 (R367). -/
def State.lkLevels (s : State) (h : Nat) (r : LockReq) : List Word → State
  | [] => ((s.escalate h r).wakeLock r.eng r.fid r.name).touch h r.ctx
  | o :: rest =>
    let k := s.reckoner h
    let want := k.want r o
    let m := (s.ctx r.ctx).lk.matrix
    if want = k.held r.ctx r.age o then
      let k1 := if o = r.name then k else k.putRec ((k.recOf r o).take r (r.modeOn o))
      (s.setReckoner h k1).lkLevels h r rest
    else match if k.grantable m r.ctx r.age o want then s.decision 4 h 255 [r.ctx, r.age.toNat, o.toNat, want] else none with
    | some t => ((t.setReckoner h (k.putRec ((k.recOf r o).take r (r.modeOn o)))).touch h r.ctx).lkLevels h r rest
    | none =>
      let s1 := s.woundAll h r.ctx r.age o want
      let k1 := s1.reckoner h
      if k1.waits r o then s1 else s1.setReckoner h (k1.enqueue ⟨r.ctx, o, r.age, want, r⟩)

/-- acquire(w, name, m, dur) (R364). A request that raises no mode of its object is granted at once and changes nothing (R372). -/
def State.lkAcquire (s : State) (h : Nat) (r : LockReq) : State :=
  let k := s.reckoner h
  if k.want r r.name = k.held r.ctx r.age r.name ∨
      ((lkChain r.name).filter (· != r.name)).any (fun o => lkCovers (k.held r.ctx r.age o) r.mode) then
    (s.wakeLock r.eng r.fid r.name).touch h r.ctx
  else if k.free < k.needed r then
    s.faultPasses r.eng (fun a => a.fr.uid == r.fid) ⟨cLocktab, r.name, BitVec.ofNat 64 (k.needed r)⟩
  else s.lkLevels h r (lkChain r.name)

/-- The first waiter that can be granted, in ascending age (R365). -/
def State.lkReady (s : State) (h : Nat) : Option LockWaiter :=
  let k := s.reckoner h
  k.queue.find? fun w => k.grantable (s.ctx w.ctx).lk.matrix w.ctx w.age w.name (k.want w.req w.name)

/-- The scan of the waiters of a die after a change (R365). -/
def State.lkScan (s : State) (h : Nat) : Nat → State
  | 0 => s
  | n + 1 =>
    match s.lkReady h with
    | none => s
    | some w =>
      let k := s.reckoner h
      ((s.setReckoner h { k with queue := k.queue.filter (· != w) }).lkLevels h w.req (lkChain w.req.name)).lkScan h n

/-- The scan after a grant, a release or a mode change (R365). -/
def State.lkRescan (s : State) (h : Nat) : State := s.lkScan h (3 * (s.reckoner h).queue.length + 3)

/-- LOCK_REQUEST_DECIDE (R364). A request that has to wait suspends its pass, or leaves it in its slot where four are
suspended (R365). The request of a pass that has aborted is dropped. -/
def execLockRequestDecide (r : LockReq) (s : State) : Host.Outcome State Fault Refusal :=
  let open_ := (s.engine r.eng).waiting fun a => a.fr.uid == r.fid
  let s1 := if open_ = [] then s else (s.lkAcquire (lockHome r.name) r).lkRescan (lockHome r.name)
  let w := fun (sl : Nat) (t : State) =>
    match t.active r.eng sl with
    | some a => if a.fr.uid = r.fid ∧ a.pass.wait ≠ .none then t.suspend r.eng sl a a.pass.wait else t
    | none => t
  .next (w 1 (w 0 s1))

/-! ## Releases (R362, R365, R367, R373) -/

/-- A record without what a pass took of it; a HOLD part stays where the pass has committed. -/
def LockRec.endPass (x : LockRec) (f : Nat) (done : Bool) : LockRec :=
  let mine := x.takes.filter fun t => t.uid == f && t.hold && done
  let left := x.takes.filter fun t => t.uid != f
  let base := match x.whole with
    | some (u, c) => if u = f ∧ mine ≠ [] then c else mine.foldl (fun m t => lkLub m t.mode) x.base
    | none => mine.foldl (fun m t => lkLub m t.mode) x.base
  let y := { x with base := base, takes := left, whole := x.whole.filter fun o => o.1 != f }
  { y with hit := x.hit && y.raising != [] }
/-- A record while it holds anything. -/
def LockRec.some? (x : LockRec) : Option LockRec := if x.base = 0 ∧ x.takes = [] then none else some x

/-- The records of a table after a release. -/
def lkReleased (r : LockRel) (x : LockRec) : Option LockRec :=
  if x.ctx ≠ r.ctx then some x
  else match r.kind with
    | .below n => if x.age = r.age ∧ lkUnder n x.name then none else some x
    | .all => if x.age = r.age then none else some x
    | .passEnd f => if x.takes.any (·.uid == f) then (x.endPass f true).some? else some x
    | .revert f => if x.takes.any (·.uid == f) then (x.endPass f false).some? else some x
    | _ => some x

/-- The wounded records that the abort of a pass leaves with a mode that stands and still conflicts with an older waiter (R366). -/
def State.lkStillHeld (s : State) (r : LockRel) : List LockRec :=
  let k := s.reckoner r.die
  match r.kind with
  | .revert f => (k.recs.filter fun x => x.ctx == r.ctx && x.hit && x.base != 0 && x.takes.any (·.uid == f) &&
      (x.endPass f false).raising == [] && k.queue.any fun w => w.ctx == x.ctx && w.name == x.name && w.req.fid != f &&
        w.age.ult x.age && !lkCompat (s.ctx x.ctx).lk.matrix w.want x.base)
  | _ => []

/-- A release acts at its home. -/
def State.lkRelease (s : State) (r : LockRel) : State :=
  let k := s.reckoner r.die
  let q := match r.kind with
    | .revert f => k.queue.filter fun w => !(w.ctx == r.ctx && w.req.fid == f)
    | _ => k.queue
  let s1 := s.setReckoner r.die { k with recs := k.recs.filterMap (lkReleased r), queue := q }
  ((s.lkStillHeld r).foldl (fun t x => t.woundHeld r.die x) s1).lkRescan r.die

/-- The lock configuration of a context changes, and its waiters are scanned again (R365, R375). -/
def State.lkConfig (s : State) (c : Nat) (g : LockCfg → LockCfg) : State :=
  let x := s.ctx c
  (s.setCtx c { x with lk := g x.lk }).each (List.range 4) fun h t => t.lkRescan h
/-- LOCK_RELEASE_ARRIVAL (R365), or the arrival of a setting of LKM.LD or LKE.SET that has followed earlier effects (R248, R375). -/
def execLockReleaseArrival (r : LockRel) (s : State) : Host.Outcome State Fault Refusal :=
  .next (match r.kind with
    | .matrix v => s.lkConfig r.ctx fun g => { g with matrix := v }
    | .esc v => s.lkConfig r.ctx fun g => { g with esc := v }
    | _ => s.lkRelease r)

/-- Every record and queue entry that `p` and `q` pick goes, on every die (R290, R362). -/
def State.lkDrop (s : State) (p : LockRec → Bool) (q : LockWaiter → Bool) : State :=
  s.each (List.range 4) fun h t =>
    let k := t.reckoner h
    (t.setReckoner h { k with recs := k.recs.filter (fun x => !p x), queue := k.queue.filter fun w => !q w }).lkRescan h

/-- WOUND_ARRIVAL (R366): the pass aborts if its commit has not been reached. -/
def execWoundArrival (e fid : Nat) (_name : Word) (s : State) : Host.Outcome State Fault Refusal :=
  .next (s.abortPasses e fun a => a.fr.uid == fid)

/-- A write of word 2 of a die's block (R376); CMD 1 releases every record of (CTX, OWNER) homed there. -/
def State.lkCommand (s : State) (d : Nat) (v : Word) (cmd : Nat) : State :=
  let c := fld v 0 6
  let k := { s.reckoner d with ctx := c }
  if cmd ≠ 1 then s.setReckoner d k
  else
    let n := (k.recs.filter fun x => x.ctx == c && x.age == k.owner).length
    (s.setReckoner d { k with last := BitVec.ofNat 32 n }).lkRelease ⟨d, c, k.owner, .all⟩

/-- RECKONER_RELALL (R376): a write of word 2 with CMD 1. -/
def execReckonerRelall (d : Nat) (v : Word) (s : State) : Host.Outcome State Fault Refusal :=
  .next (if 4 ≤ d then s else s.regEvent (lockOff d 2) v (s.lkCommand d v 1))

/-! ## Instructions (R371–R375) -/

/-- The reverts of an owner's aborted passes that are on their way to the home of an object: its next request follows them (R367). -/
def State.reverting (s : State) (c : Nat) (age n : Word) : List Nat :=
  s.pend.filterMap fun m => match m.ev with
    | .lockReleaseArrival r => (match r.kind with
      | .revert _ => if r.die = lockHome n ∧ r.ctx = c ∧ r.age = age then some m.id else none
      | _ => none)
    | _ => none

/-- LK.ACQ and LK.UPG: the request leaves for its home, and the pass goes on at the grant (R372), an acquire at the word's scope (R370). -/
def lockWord (i : Instr) (f : FmtM) (s : State) (upg : Bool) : Host.Outcome State Fault Refusal :=
  onPass i s fun e sl a =>
    let p := a.pass
    let n := p.rd s.tick f.sa
    let m := f.aop.toNat
    if s.lkNameOk a.fr.ctx n = false ∨ (lkLevel n = 2 ∧ (m = 1 ∨ m = 2 ∨ m = 4)) ∨
        (upg ∧ ((s.reckoner (lockHome n)).rec? a.fr.ctx a.age n) = none) then s.passFault e sl ⟨cFrame, 0, 0⟩
    else
      let q := p.useLsid f.lsid.toNat
      let b := { q.b with locks := if n ∈ q.b.locks then q.b.locks else q.b.locks ++ [n] }
      (s.setPass e sl a { q with b := b, wait := .lock n (f.scope.toNat + 1) }).postDep (s.reverting a.fr.ctx a.age n)
        (.lockRequestDecide ⟨a.fr.ctx, a.age, n, m, f.size.getLsbD 0, e, a.fr.uid⟩)

/-- LK.ACQ (R372). -/
def execLkAcq (f : FmtM) (s : State) := lockWord (.lkAcq f) f s false
/-- LK.UPG (R368, R372). -/
def execLkUpg (f : FmtM) (s : State) := lockWord (.lkUpg f) f s true

/-- A held lock word: `eff` from the value of SA, or FRAME. -/
def heldLock (i : Instr) (f : FmtM) (s : State) (eff : Nat → Word → Option Effect) : Host.Outcome State Fault Refusal :=
  passWord i s fun _ a =>
    match eff a.fr.ctx (a.pass.rd s.tick f.sa) with
    | none => .trap ⟨cFrame, 0, 0⟩
    | some x => .ok ((a.pass.useLsid f.lsid.toNat).hold
        { lsid := f.lsid.toNat, ord := 2, scope := f.scope.toNat, eff := x })

/-- LK.REL (R373). -/
def execLkRel (f : FmtM) (s : State) :=
  heldLock (.lkRel f) f s fun c n => if s.lkNameOk c n then some (.lockRel (some n)) else none
/-- LK.RALL (R373). -/
def execLkRall (f : FmtM) (s : State) := heldLock (.lkRall f) f s fun _ _ => some (.lockRel none)
/-- LKM.LD (R375). -/
def execLkmLd (f : FmtM) (s : State) :=
  heldLock (.lkmLd f) f s fun _ v => if fld v 37 27 = 0 then some (.lockMatrix v) else none
/-- LKE.SET (R375). -/
def execLkeSet (f : FmtM) (s : State) := heldLock (.lkeSet f) f s fun _ _ => some (.lockEsc (fld f.off 0 6))

/-- The snapshot of LK.QRY (R374). -/
def Reckoner.query (k : Reckoner) (c : Nat) (age o : Word) : Word :=
  let hs := k.recs.filter fun r => r.ctx == c && r.name == o
  let ws := k.queue.filter fun w => w.ctx == c && w.name == o
  put 40 3 (hs.foldl (fun m r => lkLub m r.mode) 0) ||| put 24 16 (Nat.min ws.length 65535) |||
    put 8 16 (Nat.min hs.length 65535) ||| put 4 3 (((ws.find? fun w => w.age == age).map (·.want)).getD 0) |||
    put 3 1 (b2n (((k.rec? c age o).map (·.hold)).getD false)) ||| put 0 3 (k.held c age o)

/-- LK.QRY (R374). -/
def execLkQry (f : FmtM) (s : State) : Host.Outcome State Fault Refusal :=
  memWord (.lkQry f) s fun e a =>
    let p := a.pass
    let n := p.rd s.tick f.sa
    if s.lkNameOk a.fr.ctx n = false then (.error ⟨cFrame, 0, 0⟩, s)
    else
      let q := (p.useLsid f.lsid.toNat).wrP f.dv ((s.reckoner (lockHome n)).query a.fr.ctx a.age n)
      let (r, t) := s.acquired e a (acqScope f.ord.toNat f.scope.toNat) [] q
      (.ok r, t)

/-- The matrix that LKM.LD loads (R358, R375). -/
def lkMatrixOf (v : Word) : BitVec 36 := if v.getLsbD 36 then 0x100450CF else v.setWidth 36

/-- A write of word `n` of a die's lock block (R376). -/
def State.lkWord (s : State) (d n : Nat) (v : Word) : State :=
  let k := s.reckoner d
  if n = 1 then s.setReckoner d { k with owner := v }
  else if n = 2 then s.lkCommand d v (fld v 8 4)
  else if d = 0 ∧ 8 ≤ n ∧ n < 72 then
    let x := s.ctx (n - 8)
    if (x.st = .free ∨ x.st = .ready) ∧ fld v 0 21 ≤ 2 ^ 20 then
      s.setCtx (n - 8) { x with lk := { x.lk with tidn := v.extractLsb' 0 21 } }
    else s
  else s

/-- The words of a die's lock block as they read (R376). -/
def State.lkReadWord (s : State) (d n : Nat) : Word :=
  let k := s.reckoner d
  match n with
  | 0 => put 0 17 k.free
  | 1 => k.owner
  | 2 => put 0 6 k.ctx
  | 3 => put 0 32 k.last.toNat
  | n =>
    if d ≠ 0 ∨ n < 8 ∨ 136 ≤ n then 0
    else if n < 72 then put 21 6 (s.ctx (n - 8)).lk.esc.toNat ||| put 0 21 (s.ctx (n - 8)).lk.tidn.toNat
    else put 0 36 (s.ctx (n - 72)).lk.matrix.toNat

end Sys2Proof.Machine
end

