-- ==== Sys2Proof/Machine/Remote.lean ====
section
/-!
DEFINITION. Remote operations of a pass as they leave the package (R217, R253–R255, R397).
-/
namespace Sys2Proof.Machine

/-- The node of a rank of a process group (R400). -/
def State.rankNode (s : State) (g : Pgt) (rank : Nat) : BitVec 16 :=
  BitVec.ofNat 16 (leNat (s.rdBytes (hbmHome (g.base.toNat + 2 * rank)) 2))

/-- A packet made on die `d` is on its way to a port, behind the ids it follows; 16 stands for no port (R399). -/
def State.sendPacket (s : State) (deps : List Nat) (d : Nat) (p : Packet) : State := s.postDep deps (.packetForward d 16 p)

/-- A remote operation leaves (R253): its record waits for the acknowledgement. Its id is the state's next one. `left` is
the number of acknowledgements it needs. -/
def State.sendRemote (s : State) (deps : List Nat) (kind : BitVec 8) (ad : Word) (xdata : BitVec 192) (payload : List Byte)
    (who : Origin) (reply : Option Reply) (plane : Bool := false) : State :=
  match s.launchTable who.ctx (who.inst.getD 256) with
  | none => s
  | some t =>
    let g := s.pgt who.ctx t
    let rank := fld ad 48 12
    let node := s.rankNode g rank
    let id := s.nextId
    let p : Packet :=
      { kind := kind, die := BitVec.ofNat 8 who.die, dnode := node, snode := s.net.nodeid, age := 0, gkey := g.gkey,
        srank := BitVec.ofNat 16 g.own, drank := BitVec.ofNat 16 rank, gen := 0, tag := BitVec.ofNat 16 (id % 2048),
        len := BitVec.ofNat 32 payload.length, addr := put 0 48 (addrVa ad), xdata := xdata, payload := payload }
    let r : RemoteOp := { id := id, tag := id % 2048, node := node.toNat, kind := kind, who := who, reply := reply, plane := plane }
    { s with nextId := id + 1, net := { s.net with remotes := s.net.remotes ++ [r] } }.sendPacket deps who.die p

/-- The ids that an RMT.FLAG of an engine to a node follows: the remote operations and RMT.STT streams of the engine to
that node that have not been acknowledged (R255). -/
def State.flagDeps (s : State) (e rank : Nat) (node : Nat) : List Nat :=
  ((s.net.remotes.filter fun r => r.node == node && 72 * r.who.die + r.who.unit == e).map (·.id)) ++
  (((s.engine e).streams.filter fun x => x.q.kind == .rmtStt && fld x.q.addr 48 12 == rank).map (·.id))

end Sys2Proof.Machine
end

