-- ==== Sys2Proof/Machine/CollSteps.lean ====
section
/-!
DEFINITION. The outstanding steps of collective programs (R408, R415, R425): their faults, their completion, and the
chunks of CS.COPY.
-/
namespace Sys2Proof.Machine

/-- NONE, the peer that does not exist (R411). -/
def peerNone : Word := BitVec.allOnes 64

/-- Who a program of die `d` is, for records and rods. -/
def CProg.who (p : CProg) (d : Nat) : Origin := ⟨p.ctx, none, d, 255, 0, 0⟩

/-- Whether a failure of a step queues a record of its own (R216, R408, R454). -/
def stepRecorded (cause : Nat) : Bool := cause ∈ [cXlate, cPerm, cBadpath, cWindow, cPriv, cEcc]

/-- A step meets a failure: its record, and the collective aborts with reason 6 (R408). -/
def State.stepFault (s : State) (d k : Nat) (f : Failure) : State :=
  match s.prog d k with
  | none => s
  | some p =>
    let s1 := if stepRecorded f.cause then s.report d f.cause (p.who d) f.addr f.detail none else s
    s1.collAbort d k 6 f.addr

/-- The offsets of the chunks of a step of `len` bytes (R408). -/
def stepChunks (len : Nat) : List Nat := (List.range (len / 64)).map (64 * ·)

/-- The step of a program with an id. -/
def CProg.step? (p : CProg) (id : Nat) : Option CStep := p.outs.find? fun x => x.id == id
/-- The state with an outstanding step replaced. -/
def State.setStep (s : State) (d k : Nat) (y : CStep) : State :=
  match s.prog d k with
  | none => s
  | some p => s.setProg d k (some { p with outs := p.outs.map fun x => if x.id = y.id then y else x })

/-- The trace entries of a step are written (R425): entry n lies at TBASE + 8n. -/
def State.writeTrace (s : State) (d : Nat) (p : CProg) : List (Nat × Word) → Except Failure State
  | [] => .ok s
  | (n, v) :: r =>
    match s.resolve (seqVia d p.ctx .store) [0x0] ((s.pgt p.ctx p.tbl).tbase + BitVec.ofNat 64 (8 * n)) 8 true with
    | (.error f, _) => .error f
    | (.ok hs, t) => (t.storeHomes hs (leBytes 8 v.toNat)).writeTrace d p r

/-- A step completes (R408): its trace entries and its rod add are its release. -/
def State.finishStep (s : State) (d k : Nat) (x : CStep) : State :=
  match s.prog d k with
  | none => s
  | some p =>
    let s1 := (s.setProg d k (some { p with outs := p.outs.filter fun y => y.id != x.id }))
    match s1.writeTrace d p x.trace with
    | .error f => s1.stepFault d k f
    | .ok s2 =>
      match x.rod with
      | none => s2
      | some r =>
        match s2.checkRod ⟨.seq d, some p.ctx⟩ .add r with
        | (.error f, s3) => s3.stepFault d k f
        | (.ok h, s3) => s3.post (.rodAddArrival ⟨r, h, 1, p.who d, 0⟩)

/-- The homes of a chunk of a step. -/
def State.chunkHomes (s : State) (d c : Nat) (kind : AccKind) (ad : Word) : Except Failure (List Nat) × State :=
  s.resolve (seqVia d c kind) [0x0, 0x9] ad 64 true

/-- The 64 bytes of a chunk as a step reads them. -/
def State.readChunk (s : State) (d c : Nat) (ad : Word) : Except Failure (List Byte) × State :=
  match s.chunkHomes d c .sread ad with
  | (.error f, t) => (.error f, t)
  | (.ok hs, t) => (if t.eccHomes hs then .error ⟨cEcc, ad, Config.eccPlace (hs.headD 0)⟩ else .ok (t.rdHomes hs), t)

/-- The sequencer slot that an owner number of a CS.COPY names. -/
def ownerSeq (owner : Nat) : Nat × Nat := ((owner - 290) / 8, (owner - 290) % 8)

/-- The CS.COPY step that an owner and an id name. -/
def State.copyStep (s : State) (owner id : Nat) : Option (CProg × CStep) :=
  match s.prog (ownerSeq owner).1 (ownerSeq owner).2 with
  | none => none
  | some p => match p.step? id with
    | none => none
    | some x => if x.kind = .copy then some (p, x) else none

/-- A chunk of a CS.COPY moves (R415). -/
def State.copyStepChunk (s : State) (owner id o : Nat) : State :=
  let (d, k) := ownerSeq owner
  match s.copyStep owner id with
  | none => s
  | some (p, x) =>
    if o ∉ x.todo then s
    else match s.readChunk d p.ctx (x.addr2 + BitVec.ofNat 64 o) with
      | (.error f, t) => t.stepFault d k f
      | (.ok bs, t) =>
        match t.chunkHomes d p.ctx .swrite (x.addr + BitVec.ofNat 64 o) with
        | (.error f, u) => u.stepFault d k f
        | (.ok hs, u) => (u.storeHomes hs bs).setStep d k { x with todo := x.todo.filter (· != o) }

/-- A CS.COPY completes once every chunk has moved, as the stream that it is (R319, R415). -/
def State.copyStepEnd (s : State) (owner id : Nat) : State :=
  match s.copyStep owner id with
  | none => s
  | some (p, x) =>
    if x.todo = [] then (s.finishStep (ownerSeq owner).1 (ownerSeq owner).2 x).touch (ownerSeq owner).1 p.ctx else s

end Sys2Proof.Machine
end

