-- ==== Sys2Proof/Machine/Streams.lean ====
section
/-!
DEFINITION. Streams in flight (R225, R243–R246, R252, R383–R387, R211): the pieces of a stream, its translations, what
moves a piece, how a stream ends. A piece is an aligned 64-byte chunk of the memory side (8 bytes on path 0x2, R223); the chunks of the
scratch side are read and written whole as well, with the stream's buffer between.
-/
namespace Sys2Proof.Machine

/-! ## Pieces -/

/-- Bytes that move as one on a path (R223). -/
def pieceSize (path : Nat) : Nat := if path = 2 then 8 else 64

/-- Slices of a plane set: those of the format, or all eight for CLRM (R246). -/
def StreamReq.slices (q : StreamReq) : Nat :=
  match q.kind with
  | .clrm => 8
  | .redt => 1
  | _ => fmtSlices (dFmt q.desc)

/-- The address of slice `i` of tangent `t` of an address of a context, where it has one (R203); on a scratch path the
place of R202, where it is in scratch. -/
def State.planeOf (s : State) (c str : Nat) (ad : Word) (t i : Nat) : Option Word :=
  let b := (s.ctx c).r.dshb.toNat
  match addrPath ad with
  | 0x0 | 0x1 | 0x3 =>
    if b = 0 then none
    else some ((ad &&& 0xFFFF000000000000#64) ||| put 0 48 (addrVa ad + t * b + i * (b / 8)))
  | 0xA | 0xB =>
    let o := (t * str + i * (str / 8)) * 64
    if str = 0 ∨ 786432 ≤ fld ad 0 20 + o then none else some (ad + BitVec.ofNat 64 o)
  | _ => none

/-- Whether a request's memory side has tangent planes that move (R203, R211). -/
def State.movesPlanes (s : State) (c : Nat) (q : StreamReq) : Bool :=
  q.planes && (s.planeOf c q.str q.addr 1 0).isSome

/-- A piece of a tile stream: plane (0 the primal, then the slices of each tangent), row and chunk of the row. -/
def pieceId (plane row chunk : Nat) : Nat := (plane * 64 + row) * 32 + chunk
def piecePlane (p : Nat) : Nat := p / 2048
def pieceRow (p : Nat) : Nat := p / 32 % 64
def pieceChunk (p : Nat) : Nat := p % 32

/-- The planes that a stream touches: their numbers. -/
def State.planesOf (s : State) (c : Nat) (q : StreamReq) : List Nat :=
  let all := List.range (1 + q.k * q.slices)
  match q.kind with
  | .ldt => all
  | .clrm => all.filter fun p => p == 0 || (s.planeOf c q.str q.addr ((p - 1) / 8 + 1) ((p - 1) % 8)).isSome
  | _ => if s.movesPlanes c q then all else [0]

/-- The memory address of row `r` of the primal image (R245). -/
def StreamReq.rowAddr (q : StreamReq) (r : Nat) : Word := q.addr + BitVec.ofNat 64 (r * q.pitch)
/-- First and last-plus-one byte of chunk `c` of a row of `rb` bytes at an address. -/
def chunkSpan (ad : Word) (rb c : Nat) : Nat × Nat :=
  let g := pieceSize (addrPath ad)
  let a := ad.toNat
  ((a / g + c) * g - a, Nat.min rb ((a / g + c + 1) * g - a))

/-- The pieces of a stream (R225, R246). -/
def State.pieces (s : State) (c : Nat) (q : StreamReq) : List Nat :=
  match q.kind with
  | .clrm => (s.planesOf c q).flatMap fun p =>
      (List.range (q.desc.toNat / pieceSize (addrPath q.addr))).map fun k => p * 2 ^ 30 + k
  | _ => (s.planesOf c q).flatMap fun p => (List.range (dRows q.desc)).flatMap fun r =>
      let a := q.rowAddr r
      let g := pieceSize (addrPath a)
      (List.range ((a.toNat % g + dRowBytes q.desc + g - 1) / g)).map fun k => pieceId p r k

/-- Tangent and slice of a plane. -/
def StreamReq.tanOf (q : StreamReq) (p : Nat) : Nat × Nat := ((p - 1) / q.slices + 1, (p - 1) % q.slices)
/-- The memory address that stands for a primal address in a plane. -/
def State.planeAd (s : State) (c : Nat) (q : StreamReq) (p : Nat) (ad : Word) : Word :=
  if p = 0 then ad else (s.planeOf c q.str ad (q.tanOf p).1 (q.tanOf p).2).getD ad
/-- The scratch descriptor of a plane (R202). -/
def StreamReq.planeDesc (q : StreamReq) (p : Nat) : Word :=
  if p = 0 then q.desc else dWithBase q.desc (tanBase q.desc q.str (q.tanOf p).1 (q.tanOf p).2)
/-- The scratch homes of bytes `lo` to `hi` − 1 of row `r` of a descriptor of engine `e`. -/
def State.scratchHomes (s : State) (e : Nat) (d : Word) (r lo hi : Nat) : List Nat :=
  let m := s.descEngine e d
  (List.range (hi - lo)).map fun i => scratchHome m (tileByte d r (lo + i))

/-- The bytes of a tile that share a 64-byte scratch chunk with some of `hs`. -/
def State.chunkMates (s : State) (e : Nat) (d : Word) (hs : List Nat) : List Nat :=
  let ks := (hs.map (· / 64)).dedup
  ((List.range (dRows d)).flatMap fun r => s.scratchHomes e d r 0 (dRowBytes d)).filter fun h => ks.contains (h / 64)

/-- A byte that a stream has read and not yet written. -/
def bufHas (b : Table Byte) (h : Nat) : Bool := b.any fun x => x.1 == h
/-- The buffer with the scratch chunks of a tile that hold `hs` read into it, each whole (R223). -/
def State.fillBuf (s : State) (e : Nat) (d : Word) (hs : List Nat) (b : Table Byte) : Table Byte :=
  if hs.all (bufHas b) then b
  else ((s.chunkMates e d hs).filter fun h => !bufHas b h).foldl (fun t h => tput t h (s.rdByte h)) b
/-- The bytes at homes in a buffer. -/
def bufBytes (b : Table Byte) (hs : List Nat) : List Byte := hs.map (tget 0 b)
/-- The buffer without the bytes at homes. -/
def bufDrop (b : Table Byte) (hs : List Nat) : Table Byte := hs.foldl tdel b

/-! ## Translation (R383–R387) -/

/-- What the memory side of a stream does. -/
def StreamReq.access (q : StreamReq) : AccKind :=
  match q.kind with
  | .ldt => .sread
  | .redt => .atomic
  | _ => .swrite

/-- How a stream makes its accesses (R388). -/
def Stream.via (x : Stream) (plane : Bool) : Via :=
  { by_ := .engine x.eng, ctx := some x.who.ctx, kind := x.q.access, strm := x.n, plane := plane, pre := x.pre }

/-- A stream asks for a walk, in cycle `at0`, for the entry of a plane (R384, R386). -/
def Stream.walks (x : Stream) (pl : Nat) (ad : Word) (at0 : Nat) : Stream :=
  { x with phase := .walking pl ad, miss := some (pl, ad), pre := [], asked := at0 }
/-- A stalled stream that is retried walks afresh for what it missed (R386); one that RSTOR has brought back finds that out as it goes on. -/
def Stream.retried (x : Stream) (at0 : Nat) : Stream :=
  match x.miss with
  | some (pl, ad) => x.walks pl ad at0
  | none => { x with phase := .running }

/-- The homes of a piece's memory bytes in a plane, if the stream's translation entry for the plane maps them; else the plane and the
address that misses (R383). -/
def State.streamHomes (s : State) (x : Stream) (pl : Nat) (ad : Word) (n : Nat) : Except (Nat × Word) (List Nat) :=
  let p := addrPath ad
  if p ≤ 2 then
    match x.ents.find? fun y => y.1 == pl && y.2.covers (addrVa ad) with
    | some (_, t) =>
      .ok ((List.range n).map fun i => (if t.host then hostHome else hbmHome) (t.pa + (addrVa ad - t.base) + i))
    | none => .error (pl, ad)
  else match (s.byteHomes (x.via false) ad n).1 with
    | .ok hs => .ok hs
    | .error _ => .ok []

/-- The state with a stream of an engine replaced, or removed. -/
def State.setStream (s : State) (e n : Nat) (y : Option Stream) : State :=
  let x := s.engine e
  match y with
  | none => s.setEngine e { x with streams := x.streams.filter fun z => z.n != n }
  | some v => s.setEngine e { x with streams := x.streams.map fun z => if z.n = n then v else z }
/-- Stream `n` of an engine. -/
def State.stream (s : State) (e n : Nat) : Option Stream := (s.engine e).streams.find? fun z => z.n == n

/-- The open fault of a die that a stream's failure joins (R387), be it of a stream or of a pass. -/
def State.joinFid (s : State) (d c inst cause page : Nat) : Option Nat :=
  ((s.die d).fids.find? fun f => f.ctx == c && f.inst == inst && f.cause == cause && f.page == page).map (·.key)

/-- A stream's translation fails: it joins an open fault or opens one with a record (R386, R387); the key. -/
def State.stallKey (s : State) (d : Nat) (who : Origin) (f : Failure) : Nat × State :=
  let page := addrVa f.addr / 65536
  let inst := who.inst.getD 256
  match s.joinFid d who.ctx inst f.cause page with
  | some k => (k, s)
  | none =>
    let (key, s1) := s.openFault d who.ctx inst f.cause page
    (key, s1.raise d { s1.record f.cause who f.addr f.detail none with key := some key })

/-- What a walk gives one stream (R384, R386): the entry, or the failure of the walk or of the checks of R382. -/
def State.walkGives (s : State) (r : Except (Nat × Nat) Trans) (v : Via) (ad : Word) : Except Failure Trans × State :=
  match r with
  | .error (l, n) => (.error (v.walkFail ad l n), s)
  | .ok e =>
    match leafCheck e (addrPath ad) v.kind v.hostAtomic with
    | some cause => (.error ⟨cause, ad, if cause = cPerm then v.detail 0 0 else 0⟩, s)
    | none => (.ok e, if v.kind.writes then s.setDirty v.by_.die (v.ctx.getD 0) e else s)

/-- What a stream's request for a walk asks for: the context and the 64 KiB page (R384; log 137). -/
def Stream.walkPage (x : Stream) : Option (Nat × Nat) :=
  match x.phase with
  | .walking _ ad => some (x.who.ctx, addrVa ad / 65536)
  | _ => none
/-- The order of the requests at a walker: the cycle of arrival, then the engine, then the stream (R384). -/
def Stream.asksBefore (x y : Stream) : Bool :=
  decide (x.asked < y.asked) || (x.asked == y.asked && (decide (x.eng < y.eng) || (x.eng == y.eng && decide (x.n < y.n))))
/-- The streams of a die that have a request at its walker (R384). -/
def State.walkers (s : State) (d : Nat) : List Stream :=
  (s.eng.filter fun p => p.1 / 72 == d).flatMap fun p => p.2.streams.filter fun x => decide (x.n < 96) && x.walkPage.isSome
/-- Whether a stream's request is the one that walks: the first for its page, whose result the others share (R384). -/
def State.walkLeads (s : State) (x : Stream) : Bool :=
  !(s.walkers (x.eng / 72)).any fun y => y.walkPage == x.walkPage && y.asksBefore x
/-- Whether a stream's request is being walked: fewer than 8 walks come before it (R384). -/
def State.walkServed (s : State) (x : Stream) : Bool :=
  s.walkLeads x && decide (((s.walkers (x.eng / 72)).filter fun y => y.asksBefore x && s.walkLeads y).length < 8)

/-! ## The end of a stream -/

/-- A stream ends under FAIL (R245, R271): no completion token, no completion add. -/
def State.failStream (s : State) (e n : Nat) : State := s.setStream e n none

/-- The rows of a tile in scratch, as an engine's PUSH reads them (R46). -/
def State.tileRows (s : State) (e : Nat) (d : Word) : List (List Byte) :=
  (List.range (dRows d)).map fun r => s.rdHomes (s.scratchHomes e d r 0 (dRowBytes d))
/-- The slices of tangents 1 to `k` of a tile, each as its rows. -/
def State.tanRows (s : State) (e str k : Nat) (d : Word) : List (List (List Byte)) :=
  (List.range k).flatMap fun t => (List.range (fmtSlices (dFmt d))).map fun i =>
    s.tileRows e (dWithBase d (tanBase d str (t + 1) i))

/-- The event of a token that leaves an engine with the tile that it names where the reference is PUSH (R46, R210): `k`
are the tangents copied. At a unit that has no scratch nothing lands, and the token arrives with its sender (R20, R23). -/
def State.pushEv (s : State) (e : Nat) (t : Token) (str k : Nat) : Instr :=
  if 72 ≤ tokUnit t then .tokenArrival (tokDie t) (tokUnit t) t ⟨false, 256 * (e / 72) + e % 72⟩
  else .pushLanding (tokDie t) (tokUnit t) t (s.tileRows e (tokPay t)) (s.tanRows e str k (tokPay t))
/-- A token leaves an engine, with its tile where the reference is PUSH. -/
def State.sendTile (s : State) (deps : List Nat) (e : Nat) (t : Token) (push : Bool) (str k : Nat) (remote : Option Word)
    (who : Origin) : State :=
  if push ∧ tokN t = false ∧ tokE t = false then s.postDep deps (s.pushEv e t str k)
  else s.sendToken deps t remote who

/-- The tangent count of the consumer that a token's port belongs to (R210). -/
def State.consumerK (s : State) (t : Token) (inst : Nat) : Nat :=
  let launchK := ((s.instKernel (tokCtx t) inst).map fun n => (s.kernel n).launch.dual).getD 0
  if launchK = 0 then ((s.engine (72 * tokDie t + tokUnit t)).op (tokOp t)).h.dualk else launchK

/-- The completion add of a stream (R227, R242): a release of every chunk, which have all been moved, and of the effects of its pass that
come before it, which an observer outside its scope may see after it (R222). -/
def State.streamAdd (s : State) (x : Stream) (r : Word) : State :=
  let add : RodAdd := ⟨r, x.q.rodHome, x.q.cadd, x.who, 0⟩
  if x.q.scope = 4 then s.postDep x.rel (.rodAddArrival add)
  else (s.post (.rodAddArrival add)).noteSoft s.nextId (rodKeys r x.q.rodHome) x.who x.q.scope x.rel

/-- STREAM_COMPLETION (R241, R242): every piece has been moved and every remote piece acknowledged. -/
def State.completeStream (s : State) (x : Stream) : State :=
  let s1 := (s.setStream x.eng x.n none).touch (x.eng / 72) x.who.ctx
  let s2 := match x.q.comp with
    | some t =>
      if x.dropTok then s1
      else
        let k := Nat.min x.q.k (s1.consumerK t (x.who.inst.getD 256))
        s1.sendTile (s1.joinDeps x.who t) x.eng t x.q.push x.q.str k x.q.remote x.who
    | none => s1
  match x.q.rod with
  | some r => if x.dropAdd then s2 else (s2.streamAdd x r).awaitMore x.id s2.nextId
  | none => s2

/-! ## Moving a piece -/

/-- One element combined into memory by REDT (R252): FADD in RNE, FMIN and FMAX as R134, ADD wrapping, MIN and MAX
signed. With EZ an empty source element changes nothing. -/
def redtElem (op fmt : Nat) (ez : Bool) (m v : Nat) : Nat :=
  if ez ∧ isEmptyEnc fmt v then m
  else match op with
    | 9 => encFloat fmt 0 0 ((fvOf fmt m).add 0 (fvOf fmt v))
    | 10 => encFloat fmt 0 0 (atomNew.minMaxAtom false (fvOf fmt m) (fvOf fmt v))
    | 11 => encFloat fmt 0 0 (atomNew.minMaxAtom true (fvOf fmt m) (fvOf fmt v))
    | 0 => (m + v) % 2 ^ 32
    | 4 => if sintOf 32 v < sintOf 32 m then v else m
    | _ => if sintOf 32 m < sintOf 32 v then v else m

/-- A number as its elements combined one by one. -/
def redtBytes (op fmt : Nat) (ez : Bool) (mem src : List Byte) : List Byte :=
  let b := fmtBits fmt
  let n := mem.length * 8 / b
  let m := leNat mem
  let v := leNat src
  leBytes mem.length (packRow b ((List.range n).map fun i => redtElem op fmt ez (rowElem b m i) (rowElem b v i)))

/-- AOP and EZ of the REDT word that a stream keeps. -/
def StreamReq.redtOp (q : StreamReq) : Nat := fld q.f 16 4
def StreamReq.redtEz (q : StreamReq) : Bool := q.f.getLsbD 20

/-- The translation entry of slice `i` of tangent `t` of a REDT (R383). -/
def redtPlane (t i : Nat) : Nat := 8 * t + i

/-- The planes of tangent `t` at a piece of a REDT (R212), one for each slice: the memory homes and the scratch homes; a plane that does
not exist misses. -/
def State.redtPlanes (s : State) (x : Stream) (t r lo hi : Nat) (ad : Word) : List Nat → Except (Nat × Word) (List (List Nat × List Nat))
  | [] => .ok []
  | i :: l =>
    match s.planeOf x.who.ctx x.q.str ad t i with
    | none => .error (redtPlane t i, ad)
    | some pa =>
      match s.streamHomes x (redtPlane t i) pa (hi - lo) with
      | .error w => .error w
      | .ok hs =>
        match s.redtPlanes x t r lo hi ad l with
        | .error w => .error w
        | .ok m => .ok ((hs, s.scratchHomes x.eng (dWithBase x.q.desc (tanBase x.q.desc x.q.str t i)) r lo hi) :: m)

/-- A tangent of a piece of a floating-add REDT is added into its planes, slice by slice assembled (R199, R212). DEDUCED (log 149): where
the place of a slice would lie beyond scratch there is no plane, as R246 and R247 say of CLRM and of stores, and nothing is added. -/
def State.redtTan (s : State) (x : Stream) (t r lo hi : Nat) (ad : Word) : Except (Nat × Word) (Except Failure State) :=
  let q := x.q
  let fmt := dFmt q.desc
  let b := fmtBits fmt
  if (List.range (fmtSlices fmt)).any fun i => (s.planeOf x.who.ctx q.str ad t i).isNone then .ok (.ok s)
  else match s.redtPlanes x t r lo hi ad (List.range (fmtSlices fmt)) with
  | .error w => .error w
  | .ok l =>
    let cnt := (hi - lo) * 8 / b
    let prHs := s.scratchHomes x.eng q.desc r lo hi
    let buf := l.zipIdx.foldl (fun u (p, i) => s.fillBuf x.eng (dWithBase q.desc (tanBase q.desc q.str t i)) p.2 u)
      (s.fillBuf x.eng q.desc prHs x.buf)
    let vals := fun (g : List Nat × List Nat → List Byte) => (List.range cnt).map fun k =>
      packRow b (l.map fun p => rowElem b (leNat (g p)) k) % 2 ^ tanBits fmt
    let prim := leNat (bufBytes buf prHs)
    let new := ((vals fun p => s.rdHomes p.1).zip (vals fun p => bufBytes buf p.2)).zipIdx.map fun ((m, v), k) =>
      if q.redtEz ∧ isEmptyEnc fmt (rowElem b prim k) then m
      else encFloat (tanFmt fmt) 0 0 ((fvOf (tanFmt fmt) m).add 0 (fvOf (tanFmt fmt) v))
    let s1 := s.setStream x.eng x.n (some { x with buf := buf })
    let src := ((prHs ++ l.flatMap (·.2)).filter fun h => !bufHas x.buf h) ++ l.flatMap (·.1)
    .ok (if s.eccHomes src then .error ⟨cEcc, ad, Config.eccPlace (src.headD 0)⟩
      else .ok ((l.zipIdx).foldl (fun u (p, i) => u.storeHomes p.1
        (leBytes (hi - lo) (packRow b (new.map fun v => v / 2 ^ (b * i) % 2 ^ b)))) s1))

/-- Bytes of an LDT reach its buffer; the scratch chunks that are whole by then are written, each at once (R223, R225). -/
def State.landLdt (s : State) (x : Stream) (d : Word) (hs : List Nat) (bs : List Byte) : State :=
  let buf := (hs.zip bs).foldl (fun t (h, b) => tput t h b) x.buf
  let mates := s.chunkMates x.eng d hs
  let short := (mates.filter fun h => !bufHas buf h).map (· / 64)
  let go := mates.filter fun h => !short.contains (h / 64)
  (s.setStream x.eng x.n (some { x with buf := bufDrop buf go })).storeHomes go (bufBytes buf go)

/-- A piece of a stream moves (R225): the state after it, or a failure, or the plane and the address that miss. -/
def State.pieceMove (s : State) (x : Stream) (p : Nat) : Except (Nat × Word) (Except Failure State) :=
  let q := x.q
  let c := x.who.ctx
  match q.kind with
  | .clrm =>
    let g := pieceSize (addrPath q.addr)
    let ad := s.planeAd c q (p / 2 ^ 30) (q.addr + BitVec.ofNat 64 (g * (p % 2 ^ 30)))
    (s.streamHomes x (p / 2 ^ 30) ad g).map fun hs => .ok (s.storeHomes hs (List.replicate hs.length 0))
  | k =>
    let pl := piecePlane p
    let r := pieceRow p
    let row := q.rowAddr r
    let (lo, hi) := chunkSpan row (dRowBytes q.desc) (pieceChunk p)
    let ad := s.planeAd c q pl (row + BitVec.ofNat 64 lo)
    let d := q.planeDesc pl
    let sc := s.scratchHomes x.eng d r lo hi
    let buf := if k = .ldt then x.buf else s.fillBuf x.eng d sc x.buf
    let fresh := sc.filter fun h => !bufHas x.buf h
    let left := s.setStream x.eng x.n (some { x with buf := if k = .redt then buf else bufDrop buf sc })
    if k = .redt ∧ 0 < pl then s.redtTan x pl r lo hi (row + BitVec.ofNat 64 lo)
    else if k = .ldt ∧ 0 < pl ∧ s.movesPlanes c q = false then .ok (.ok (s.landLdt x d sc (List.replicate sc.length 0)))
    else if k ≠ .ldt ∧ s.eccHomes fresh then .ok (.error ⟨cEcc, ad, Config.eccPlace (fresh.headD 0)⟩)
    else if k = .rmtStt then
      let s1 := left.sendRemote [] 0x11 ad 0 (bufBytes buf sc) x.who none (decide (0 < pl))
      .ok (.ok (s1.setStream x.eng x.n ((s1.stream x.eng x.n).map fun y => { y with acks := s.nextId :: y.acks })))
    else
      (s.streamHomes x pl ad (hi - lo)).map fun hs =>
        if k ≠ .stt ∧ s.eccHomes hs then .error ⟨cEcc, ad, Config.eccPlace (hs.headD 0)⟩
        else match k with
          | .ldt => .ok (s.landLdt x d sc (if addrPath ad = 1 then s.rdConst x.eng x.q.acq hs else s.rdHomes hs))
          | .redt => .ok (left.storeHomes hs (redtBytes q.redtOp (dFmt q.desc) q.redtEz (s.rdHomes hs) (bufBytes buf sc)))
          | _ => .ok (left.storeHomes hs (bufBytes buf sc))

/-- The die at which a piece of a stream combines with memory (R252, R456). -/
def State.pieceDie (s : State) (x : Stream) (p : Nat) : Nat :=
  let ad := x.q.rowAddr (pieceRow p) + BitVec.ofNat 64 (chunkSpan (x.q.rowAddr (pieceRow p)) (dRowBytes x.q.desc) (pieceChunk p)).1
  match s.streamHomes x 0 ad 1 with
  | .ok (h :: _) => homeDie h
  | _ => x.eng / 72

/-- The element updates of a piece of a REDT, each a recorded decision (R456), in the order of the elements. -/
def State.redtLogged (s : State) (d : Nat) (x : Stream) (p : Nat) : Option State :=
  let (lo, hi) := chunkSpan (x.q.rowAddr (pieceRow p)) (dRowBytes x.q.desc) (pieceChunk p)
  (List.range ((hi - lo) * 8 / fmtBits (dFmt x.q.desc))).foldl
    (fun o k => o.bind fun t => t.decision 3 d (x.eng % 72) [x.n, p, k, x.q.addr.toNat]) (some s)

/-! ## Copies of the command processor (R296) -/

/-- How a COPY makes an access. -/
def CopyStream.via (x : CopyStream) (k : AccKind) : Via := { by_ := .cp, ctx := some x.ctx, kind := k, strm := 0xFE }
/-- Bytes of a piece of a COPY. -/
def CopyStream.piece (x : CopyStream) : Nat := Nat.min (pieceSize (addrPath x.src)) (pieceSize (addrPath x.dst))
/-- The state with a COPY replaced, or removed. -/
def State.setCopy (s : State) (id : Nat) (y : Option CopyStream) : State :=
  { s with cp := { s.cp with copies := s.cp.copies.filterMap fun z => if z.id = id then y else some z } }
/-- COPY number `n`. -/
def State.copy (s : State) (n : Nat) : Option CopyStream := s.cp.copies.find? fun z => z.n == n

/-- A piece of a COPY moves, or its translation fails. -/
def State.copyMove (s : State) (x : CopyStream) (p : Nat) : Except Failure State :=
  let g := x.piece
  let o := BitVec.ofNat 64 (g * p)
  match s.byteHomes (x.via .sread) (x.src + o) g with
  | (.error f, _) => .error f
  | (.ok hs, t) =>
    match t.byteHomes (x.via .swrite) (x.dst + o) g with
    | (.error f, _) => .error f
    | (.ok hd, u) => if u.eccHomes hs then .error ⟨cEcc, x.src + o, Config.eccPlace (hs.headD 0)⟩ else .ok (u.storeHomes hd (u.rdHomes hs))

/-- Who a COPY is, for records. -/
def CopyStream.who (x : CopyStream) : Origin := ⟨x.ctx, none, 0, 252, 0, 0⟩

/-! ## Events -/

/-- STREAM_CHUNK_TRANSFER (R225): one piece that has not yet been moved is moved, once what the stream follows is done. A
piece outside the translation entry's page starts a walk (R386). A stream of a context that is not resident, which stands in no slot (n at
least 256), waits for RSTOR (R288, R289). Owner 288 is the command processor, 290 + 8d + k
sequencer slot k of die d. -/
def execStreamChunkTransfer (owner n chunk : Nat) (s : State) : Host.Outcome State Fault Refusal :=
  if 290 ≤ owner then .next (s.copyStepChunk owner n chunk)
  else if owner = 288 then
    match s.copy n with
    | none => .next s
    | some x =>
      if x.phase ≠ .running ∨ chunk ∉ x.todo ∨ s.depsDone x.deps = false then .next s
      else match s.copyMove x chunk with
        | .ok t => .next (t.setCopy x.id (some { x with todo := x.todo.filter (· != chunk) }))
        | .error f =>
          if f.cause = cEcc then .next ((s.report 0 cEcc x.who f.addr f.detail none).setCopy x.id none)
          else
            let (k, t) := s.stallKey 0 x.who f
            .next (t.setCopy x.id (some { x with phase := .stalled k }))
  else
    match s.stream owner n with
    | none => .next s
    | some x =>
      if x.phase ≠ .running ∨ chunk ∉ x.todo ∨ s.depsDone x.deps = false ∨ 256 ≤ n then .next s
      else match s.pieceMove x chunk with
        | .error (pl, ad) => .next (s.setStream owner n (some (x.walks pl ad s.clock.cyc)))
        | .ok (.error f) => .next ((s.report (owner / 72) cEcc x.who f.addr f.detail none).failStream owner n)
        | .ok (.ok t) =>
          let done := t.setStream owner n ((t.stream owner n).map fun y => { y with todo := y.todo.filter (· != chunk) })
          if x.q.kind = .redt then .next ((done.redtLogged (s.pieceDie x chunk) x chunk).getD s)
          else .next done

/-- The result of a walk reaches one stream (R386): the entry is loaded, or the stream stalls; it ends on an uncorrectable error. -/
def State.walkEnds (s : State) (r : Except (Nat × Nat) Trans) (x : Stream) : State :=
  match x.phase with
  | .walking pl ad =>
    (match s.walkGives r (x.via (decide (0 < pl))) ad with
     | (.ok e, t) => t.setStream x.eng x.n (some { x with phase := .running, ents := tput x.ents pl e })
     | (.error f, t) =>
       if f.cause = cEcc then (t.report (x.eng / 72) cEcc x.who f.addr f.detail none).failStream x.eng x.n
       else
         let (k, u) := t.stallKey (x.eng / 72) x.who f
         u.setStream x.eng x.n (some { x with phase := .stalled k }))
  | _ => s

/-- TRANSLATION_WALK_COMPLETE (R384, R386): the walk that a stream's request started ends, and every stream of the die that asked for the
same page has its result. A request that another one for its page leads, or that eight walks come before, is still queued. -/
def execTranslationWalkComplete (owner n : Nat) (s : State) : Host.Outcome State Fault Refusal :=
  match s.stream owner n with
  | none => .next s
  | some x =>
    match x.phase with
    | .walking pl ad =>
      if s.walkServed x = false then .next s
      else
        let v := x.via (decide (0 < pl))
        let (r, t) := s.translate v.by_.die (v.ctx.getD 0) (addrVa ad) v.pre
        .next (((s.walkers (x.eng / 72)).filter fun y => y.walkPage == x.walkPage).foldl (fun u y => u.walkEnds r y) t)
    | _ => .next s

/-- STREAM_COMPLETION (R242). A COPY adds to its rod and completes its command (R296). -/
def execStreamCompletion (owner n : Nat) (s : State) : Host.Outcome State Fault Refusal :=
  if 290 ≤ owner then .next (s.copyStepEnd owner n)
  else if owner = 288 then
    match s.copy n with
    | none => .next s
    | some x =>
      if x.todo ≠ [] then .next s
      else
        let s1 := (s.setCopy x.id none).touch 0 x.ctx
        let torn := (s.ctx x.ctx).st == .tearing
        let s2 := match x.rod with
          | some r => if torn && rodKind r != 3 then s1 else s1.cpAdd [] x.ctx x.tag r x.cadd.toNat
          | none => s1
        .next (s2.commandDone x.queue.1 x.queue.2 (s2.idsSince s1))
  else
    match s.stream owner n with
    | none => .next s
    | some x =>
      if x.todo = [] ∧ n < 256 ∧ (x.acks.all fun i => s.net.remotes.all fun r => r.id != i) then .next (s.completeStream x) else .next s

end Sys2Proof.Machine
end

