-- ==== Sys2Proof/Machine/Commit.lean ====
section
/-!
DEFINITION. The commit of a pass (R35, R46–R51, R94, R116–R120, R225–R227, R241–R244, R248, R302, R303, R370) and the
landing of a PUSH copy (R46, R210).
-/
namespace Sys2Proof.Machine

/-! ## Settling (R50, R116) -/

/-- The words of a body from index `j` on, extension words left out; `n` words remain. -/
def bodyWords (b : Table Word) (base : Nat) : Nat → Nat → List Word
  | _, 0 => []
  | j, n + 1 =>
    let w := tget 0 b (base + j)
    if wordXt w then w :: (match n with | 0 => [] | m + 1 => bodyWords b base (j + 2) m)
    else w :: bodyWords b base (j + 1) n

/-- Whether a body contains a STEER word (R50). -/
def Engine.hasSteer (x : Engine) (o : OpEntry) : Bool :=
  (bodyWords x.t.body o.h.body 1 o.h.blen).any fun w => wordMaj w == 3 && wordMin w == 0

/-- The pass with the effects and tokens that steering withdraws taken out, each output switched off sending one N token
(R116). -/
def Pass.withdraw (p : Pass) (x : Engine) (o : OpEntry) : Pass :=
  let off := (List.range o.h.olcnt).filter fun n => !p.b.keep.getLsbD n
  let p1 := off.foldl (fun q n =>
    q.setOut n { q.out n with count := 1, co := false,
                              tok := some { n := true, col := q.outCol (x.ref o n) n none } }) p
  let live := fun h : Held => (match h.eff with | .scratch _ => true | _ => !p.b.lnull.getLsbD h.lsid)
  let held := (p1.b.held.filter live).map fun h =>
    if h.co.any fun n => !p.b.keep.getLsbD n then { h with co := none } else h
  { p1 with b := { p1.b with held := held } }

/-- The pass after settling, or none where R50 fails. -/
def Pass.settle (p : Pass) (x : Engine) (o : OpEntry) : Option Pass :=
  let p0 := if x.hasSteer o then p else { p with b := { p.b with steers := 1, keep := 255, lnull := 0 } }
  if p0.b.steers ≠ 1 ∨ p0.b.dup then none
  else
    let q := p0.withdraw x o
    let smask := (tget 0 x.t.body o.h.body).extractLsb' 19 32
    if ((List.range 32).all fun l => !smask.getLsbD l || q.b.lnull.getLsbD l || q.b.lsids.contains l) ∧
        ((List.range o.h.olcnt).all fun n => (q.out n).count == 1) then some q
    else none

/-- Whether a body combines partials in ARRIVAL order (R74): a reduction word with RED = 1. -/
def Engine.arrivalBody (x : Engine) (o : OpEntry) : Bool :=
  (bodyWords x.t.body o.h.body 1 o.h.blen).any fun w => (wordMaj w == 0x15 || wordMaj w == 0x1A) && fld w 14 2 == 1

/-! ## What effects touch and follow (R226) -/

/-- The scratch spans, as (first home, bytes), of the tile that a stream of engine `e` moves. -/
def State.tileSpans (s : State) (e : Nat) (q : StreamReq) : List (Nat × Nat) :=
  if q.kind = .clrm then []
  else (List.range (1 + q.k * q.slices)).flatMap fun p =>
    let d := q.planeDesc p
    (tilePieces d).map fun (b, n) => (scratchHome (s.descEngine e d) b, n)

/-- The address and size of a piece's memory side. -/
def State.pieceSpan (s : State) (c : Nat) (q : StreamReq) (p : Nat) : Word × Nat :=
  if q.kind = .clrm then
    let g := pieceSize (addrPath q.addr)
    (s.planeAd c q (p / 2 ^ 30) (q.addr + BitVec.ofNat 64 (g * (p % 2 ^ 30))), g)
  else
    let row := q.rowAddr (pieceRow p)
    let (lo, hi) := chunkSpan row (dRowBytes q.desc) (pieceChunk p)
    (s.planeAd c q (piecePlane p) (row + BitVec.ofNat 64 lo), hi - lo)

/-- Where an address of path 0x3 leads (R217, R220): its home where the rank is the package's own, else a number of its own for each byte
of each peer. -/
def State.remoteHome (s : State) (c inst : Nat) (ad : Word) : Nat :=
  let own := (s.launchTable c inst).any fun t => (s.pgt c t).own == fld ad 48 12
  match own, s.walk (s.ctx c).r.root.toNat (addrVa ad) with
  | true, .ok t => hbmHome (t.pa + (addrVa ad - t.base))
  | _, _ => 2 ^ 60 + fld ad 0 60

/-- The memory spans of a stream under the mapping of this moment. -/
def State.memSpans (s : State) (e c inst : Nat) (q : StreamReq) : List (Nat × Nat) :=
  (s.pieces c q).filterMap fun p =>
    let (ad, n) := s.pieceSpan c q p
    if addrPath ad = 3 then some (s.remoteHome c inst ad, n)
    else match (s.byteHome { by_ := .engine e, ctx := some c, kind := q.access } ad).1 with
      | .ok h => some (h, n)
      | .error _ => none

/-- The scratch that a stream touches, on either side (R220, R244). -/
def State.scratchSpans (s : State) (e c inst : Nat) (q : StreamReq) : List (Nat × Nat) :=
  s.tileSpans e q ++ (if addrPath q.addr = 0xA ∨ addrPath q.addr = 0xB then s.memSpans e c inst q else [])

/-- What a held effect touches. -/
def State.effSpans (s : State) (e c inst : Nat) : Effect → List (Nat × Nat)
  | .access a => a.homes.map fun h => (h, 1)
  | .rodAdd r => if rodKind r.ref = 3 then [(r.home, 8)] else []
  | .stream q => s.tileSpans e q ++ s.memSpans e c inst q
  | .remote _ ad _ payload _ => [(s.remoteHome c inst ad, payload.length)]
  | _ => []

/-- Whether two lists of spans overlap. -/
def spansMeet (a b : List (Nat × Nat)) : Bool :=
  a.any fun (h, n) => b.any fun (k, m) => decide (h < k + m) && decide (k < h + n)

/-- Whether an effect is a stream. -/
def Effect.isStream : Effect → Bool
  | .stream _ => true
  | _ => false
/-- Whether a held effect has release semantics (R227, R255, R301, R303, R373). -/
def Held.release (h : Held) : Bool :=
  match h.eff with
  | .remote kind .. => kind == 0x13 || decide (2 ≤ h.ord)
  | _ => decide (2 ≤ h.ord)
/-- Whether a held effect has acquire semantics. -/
def Held.acquires (h : Held) : Bool :=
  match h.eff with
  | .access a => a.acq != 0
  | _ => false

/-- An effect that has entered its path: what it was, the id that names it, what it touches. -/
structure Sent where
  h     : Held
  id    : Nat
  spans : List (Nat × Nat)
deriving Repr

/-- The widest scope at which effect `h` of a pass with the given held effects comes after `x` by a FENCE between them or as a release
(links 2 and 4 of R226), if it does. -/
def afterScope (held : List Held) (x : Sent) (h : Held) : Option Nat :=
  if x.h.eff.isStream then none
  else
    let fences := (held.filter fun g => g.eff == .fence && decide (x.h.lsid < g.lsid) && decide (g.lsid < h.lsid)).map (·.scope)
    ((if h.release then [h.scope] else []) ++ fences).max?

/-- Whether effect `h` of a pass with the given held effects enters its path only after `x` has acted (links 1, 3 and 5 of R226, and
links 2 and 4 at SYSTEM scope). -/
def follows (held : List Held) (x : Sent) (h : Held) (spans : List (Nat × Nat)) : Bool :=
  let joined := held.any fun g => g.eff == .ordj && decide (x.h.lsid < g.lsid) && decide (g.lsid < h.lsid)
  spansMeet x.spans spans || joined || x.h.acquires || (afterScope held x h).any fun n => decide (4 ≤ n)

/-- What an effect follows for the observers within a narrower scope (R222), by scope code. -/
def softAfter (held : List Held) (done : List Sent) (h : Held) (spans : List (Nat × Nat)) (sc : Nat) : List Nat :=
  (done.filter fun x => !follows held x h spans && afterScope held x h == some sc).map (·.id)

/-! ## Releasing the held effects (R51) -/

/-- Tile writes take the bytes of earlier stores of the pass (R141). -/
def dropCovered : List Held → List Held
  | [] => []
  | h :: r =>
    let r1 := dropCovered r
    match h.eff with
    | .access a =>
      (match a.op with
       | .store bs =>
         let cov := r1.flatMap fun g => (match g.eff with | .scratch cs => cs.map (·.1) | _ => [])
         let l := (a.homes.zip bs).filter fun (k, _) => !cov.contains k
         { h with eff := .access { a with homes := l.map (·.1), op := .store (l.map (·.2)) } } :: r1
       | _ => h :: r1)
    | _ => h :: r1

/-- The lowest stream number that an engine does not use. -/
def Engine.freeStream (x : Engine) : Nat :=
  ((List.range 96).find? fun n => x.streams.all fun y => y.n != n).getD 96

/-- The ring entries of an operator whose output sub-slot the spans touch (R244). -/
def OpEntry.outHolds (o : OpEntry) (e : Nat) (spans : List (Nat × Nat)) : List Nat :=
  (List.range o.rcnt).filter fun j => spansMeet spans [(scratchHome e (64 * o.outLine j), 64 * o.rsize)]

/-- The token that an output of a pass sends (R108), with a given payload. -/
def Active.outToken (a : Active) (ref : Word) (t : OutTok) (pay : Word) : Token :=
  { die := refDie ref, unit := refUnit ref, op := refOp ref, port := refPort ref, col := t.col, run := t.run,
    frame := refFrame ref, e := t.e, n := t.n, s := t.s, d := t.d, q := t.q, o := t.o, ctx := a.fr.ctx,
    pay := pay : TokF }.mk128

/-- The payload of an output's token: under WINDOW the descriptor names the producer as a member (R46). -/
def State.outPay (s : State) (e : Nat) (ref : Word) (t : OutTok) : Word :=
  if t.tile ∧ refMode ref = 2 then
    match s.groupOf e with
    | some (_, m) => setField (setField t.val 55 2 1) 57 4 m
    | none => t.val
  else t.val

/-- The token, reply and PUSH flag of the output that a held effect completes (R241). -/
def State.coToken (s : State) (e : Nat) (a : Active) (h : Held) : Option (Token × Word × Bool) :=
  match h.co with
  | none => none
  | some n =>
    let o := s.opOf e a
    let ref := (s.engine e).ref o n
    (a.pass.out n).tok.map fun t => (a.outToken ref t (s.outPay e ref t), ref, t.tile && refMode ref == 1)
/-- The reply of a held effect. -/
def State.coReply (s : State) (e : Nat) (a : Active) (h : Held) : Option Reply :=
  (s.coToken e a h).map fun (t, ref, _) => ⟨t, some ref, a.origin e⟩

/-- A stream forks (R225, R243); `rel` is what its completion add follows as a release (R227). -/
def State.fork (s : State) (e : Nat) (a : Active) (h : Held) (q : StreamReq) (deps rel : List Nat) : State :=
  let x := s.engine e
  let q1 := match s.coToken e a h with
    | some (t, ref, push) => { q with comp := some t, push := push, remote := some ref }
    | none => q
  let c := a.fr.ctx
  let joined := a.pass.b.held.any fun g => g.eff == .ordj && decide (h.lsid < g.lsid)
  let y : Stream := { id := s.nextId, n := x.freeStream, eng := e, q := q1, who := a.origin e, todo := s.pieces c q,
                      deps := deps, rel := rel, ordj := joined,
                      holds := (s.opOf e a).outHolds e (s.scratchSpans e c a.fr.inst q) }
  { s.setEngine e { x with streams := x.streams ++ [y] } with nextId := s.nextId + 1 }

/-- The trigger add of an instance (R303): made by the first TRIG only. The completion add and the end of the launch follow it (R300). -/
def State.trigger (s : State) (c inst : Nat) (deps : List Nat) : State :=
  match s.instKernel c inst with
  | none => s
  | some k =>
    let x := s.kernel k
    match x.launch.trod with
    | none => s
    | some r =>
      if x.launch.trigDone then s
      else
        let l := { x.launch with trigDone := true }
        let t := (s.setKernel k { x with launch := l }).cpAdd deps c x.launch.tag r x.launch.tadd.toNat
        let y := t.kernel k
        t.setKernel k { y with launch := { y.launch with trigIds := t.idsSince s } }

/-- Whether an access touches only the engine's own scratch. -/
def Access.own (a : Access) (e : Nat) : Bool := a.homes.all fun h => homeEngine h == some e

/-- One held effect enters its path, behind the ids it follows; `rel` is what the completion add of a stream follows. -/
def State.releaseOne (s : State) (e : Nat) (a : Active) (h : Held) (deps rel : List Nat) : State :=
  let c := a.fr.ctx
  match h.eff with
  | .access x =>
    let y := { x with reply := s.coReply e a h }
    (match x.op with
     | .store bs =>
       if deps = [] ∧ x.own e then s.storeHomes x.homes bs
       else if (homeEngine (x.homes.headD 0)).isSome ∧ x.own e = false then s.postDep deps (.windowAccessArrival y)
       else s.postDep deps (.accessAtHome y)
     | _ =>
       if (homeEngine (x.homes.headD 0)).isSome ∧ x.own e = false then s.postDep deps (.windowAccessArrival y)
       else s.postDep deps (.accessAtHome y))
  | .scratch _ => s
  | .rodAdd r => s.postDep deps (.rodAddArrival r)
  | .stream q => s.fork e a h q deps rel
  | .remote kind ad xdata payload _ =>
    let node := match s.launchTable c a.fr.inst with
      | some t => (s.rankNode (s.pgt c t) (fld ad 48 12)).toNat
      | none => 0
    let more := if kind = 0x13 then s.flagDeps e (fld ad 48 12) node else []
    s.sendRemote (deps ++ more) kind ad xdata payload (a.origin e) (s.coReply e a h)
  | .fence => s
  | .ordj => s
  | .lockRel (some n) => s.postDep deps (.lockReleaseArrival ⟨lockHome n, c, a.age, .below n⟩)
  | .lockRel none => s.each (List.range 4) fun d t => t.postDep deps (.lockReleaseArrival ⟨d, c, a.age, .all⟩)
  | .lockMatrix v =>
    if deps = [] then s.lkConfig c fun g => { g with matrix := lkMatrixOf v }
    else s.postDep deps (.lockReleaseArrival ⟨0, c, a.age, .matrix (lkMatrixOf v)⟩)
  | .lockEsc n =>
    if deps = [] then s.lkConfig c fun g => { g with esc := BitVec.ofNat 6 n }
    else s.postDep deps (.lockReleaseArrival ⟨0, c, a.age, .esc (BitVec.ofNat 6 n)⟩)
  | .lnch cmd => s.postDep deps (.deviceQueuePost c a.fr.inst ⟨e, cmd⟩)
  | .trig => s.trigger c a.fr.inst deps

/-- What shows an effect to an observer: the bytes it writes or the rod it adds to; none for an effect whose ordering no agent reads there,
which waits for all that it follows at any scope (R222). -/
def Effect.keys : Effect → Option (List Nat)
  | .access a => some (byteKeys a.homes)
  | .rodAdd r => some (rodKeys r.ref r.home)
  | _ => none

/-- An effect that goes ahead of what it follows within a scope alone is noted for the observers within it (R222). -/
def State.noteSofts (s : State) (id : Nat) (keys : List Nat) (who : Origin) (soft : Nat → List Nat) : State :=
  s.each (List.range 4) fun sc t => t.noteSoft id keys who sc (soft sc)

/-- The held effects enter their paths in ascending LSID, each behind those it follows; `done` are those before. -/
def State.releaseHeld (s : State) (e : Nat) (a : Active) (held : List Held) (done : List Sent) :
    List Held → State × List Sent
  | [] => (s, done)
  | h :: r =>
    let spans := s.effSpans e a.fr.ctx a.fr.inst h.eff
    let hard := (done.filter fun x => follows held x h spans).map (·.id)
    let soft := softAfter held done h spans
    let rel := (done.filter fun x => !x.h.eff.isStream && decide (x.h.lsid < h.lsid)).map (·.id)
    let id := s.nextId
    let t := match h.eff.keys with
      | some ks =>
        let u := s.releaseOne e a h hard rel
        u.noteSofts (if u.nextId = id then 0 else id) ks (a.origin e) soft
      | none => s.releaseOne e a h (hard ++ (List.range 4).flatMap soft) rel
    -- an effect that took no id has acted already
    let d := if t.nextId = id then done else done ++ [⟨h, id, spans⟩]
    t.releaseHeld e a held d r

/-- The tile writes of a pass reach scratch at the commit cycle (R141). -/
def State.applyTiles (s : State) (held : List Held) : State :=
  held.foldl (fun t h => match h.eff with
    | .scratch cs => t.storeHomes (cs.map (·.1)) (cs.map (·.2))
    | _ => t) s
/-- Scratch as the pass has left it: its own stores on top, for the tiles that it pushes. -/
def State.ownView (s : State) (e : Nat) (held : List Held) : State :=
  held.foldl (fun t h => match h.eff with
    | .access x => (match x.op with
      | .store bs => if x.own e then t.wrHomes x.homes bs else t
      | _ => t)
    | _ => t) s

/-! ## Tokens -/

/-- The message of a token with the run of this one added, where it continues that token (R35). -/
def joinEv (t : Token) (ev : Instr) : Option Instr :=
  let grow := fun old : Token =>
    let n := tokRun old + 1
    if n < 32 ∧ tokWithRun old ((tokCol old + n) % 4096) 0 = t then some (tokWithRun old (tokCol old) n) else none
  match ev with
  | .tokenArrival d u old x => if x.initial then none else (grow old).map fun k => .tokenArrival d u k x
  | .exitToken old who => (grow old).map fun k => .exitToken k who
  | .tokenAtLinkPort d u old r who => (grow old).map fun k => .tokenAtLinkPort d u k r who
  | _ => none

/-- A token of an output that joins the one of the pass before, if that is still on its way, or leaves by itself (R35);
the id of its message. -/
def State.sendJoin (s : State) (deps : List Nat) (prev : Option Nat) (t : Token) (ref : Word) (who : Origin) : Nat × State :=
  match prev.bind fun id => (s.pend.find? fun m => m.id == id) with
  | some m =>
    (match joinEv t m.ev with
     | some ev =>
       let pend := s.pend.map fun k => if k.id = m.id then ⟨k.id, k.deps ++ deps, ev⟩ else k
       (m.id, { s with pend := pend })
     | none => (s.nextId, s.sendToken deps t (some ref) who))
  | none => (s.nextId, s.sendToken deps t (some ref) who)

/-- The ring entry whose output sub-slot a PUSH has copied is kept with the busy bit that it sets, which another ring numbers (R47, R286). -/
def State.notePush (s : State) (e op : Nat) (o : OpEntry) (ref : Word) (n c : Nat) : State :=
  if refMode ref ≠ 1 then s
  else
    let x := s.engine e
    let r := x.run op
    let r1 := { r with pushed := tput r.pushed (64 * n + o.busyIdx ref c) (c % o.rcnt) }
    s.setEngine e { x with t := { x.t with orun := tset {} x.t.orun op r1 } }

/-- Output `n` of a committing pass sends its token (R46, R47, R108); `view` is scratch as the pass leaves it, `deps` what
every token follows, `odeps` what a token with O = 1 follows. A null token on a reserved unit, which only steering can leave to be
sent, is dropped with a FRAME record (R20; log 11). The pairs (output, message) that may be joined. -/
def State.sendOut (s : State) (view : State) (e : Nat) (a : Active) (deps odeps : List Nat) (n : Nat)
    (sent : List (Nat × Nat)) : List (Nat × Nat) × State :=
  let o := s.opOf e a
  let ref := (s.engine e).ref o n
  let r := a.pass.out n
  match r.tok with
  | none => (sent, s)
  | some t =>
    let tile := t.tile && !t.n && !t.e
    let s1 := if tile then
        let l := o.home e
        let b := s.busyOp e a.fr.op o
        (s.setBusy l b n (s.busyMap l b n ||| bit64 (o.busyIdx ref a.pass.col))).notePush e a.fr.op o ref n a.pass.col
      else s
    if r.co then (sent, s1)
    else
      let tok := a.outToken ref t (s.outPay e ref t)
      if unitOk (refUnit ref) = false then (sent, s1.report (e / 72) cFrame (a.origin e) 0 0 (some tok))
      else
      let d := if t.o then deps ++ odeps else deps
      if tile ∧ refMode ref = 1 then
        let k := Nat.min a.pass.kfire (s.consumerK tok a.fr.inst)
        (sent, s1.postDep d (view.pushEv e tok (s.shadowStride e a.fr.op) k))
      else if t.join then
        let (id, s2) := s1.sendJoin d ((a.fr.sent.find? fun x => x.1 == n).map (·.2)) tok ref (a.origin e)
        (sent ++ [(n, id)], s2)
      else (sent, s1.sendToken d tok (some ref) (a.origin e))

/-- All outputs send their tokens, in order. -/
def State.sendOuts (s : State) (view : State) (e : Nat) (a : Active) (deps odeps : List Nat) (sent : List (Nat × Nat)) :
    List Nat → List (Nat × Nat) × State
  | [] => (sent, s)
  | n :: r =>
    let (l, t) := s.sendOut view e a deps odeps n sent
    t.sendOuts view e a deps odeps l r

/-! ## Inputs, kept tiles and registers -/

/-- The streams of an engine that still use the sub-slot of port `k` in entry `j` of an operator (R244). -/
def State.subSlotStreams (s : State) (e op k j : Nat) : List Nat :=
  let x := s.engine e
  let o := x.op op
  let slot := [(scratchHome e (64 * o.inLine k j), 64 * o.rsize)]
  (x.streams.filter fun y => y.who.op == op && spansMeet slot (s.scratchSpans e y.who.ctx (y.who.inst.getD 256) y.q)).map (·.id)

/-- A bit of a kept map. -/
def OpRun.isKept (r : OpRun) (k n : Nat) : Bool := (tget 0 r.kept k).getLsbD n
/-- Kept maps and the tokens kept, after a KEEP or RELS. -/
def OpRun.setKept (r : OpRun) (k n : Nat) (on : Bool) (t : Token) : OpRun :=
  let m := tget 0 r.kept k
  if on then { r with kept := tset 0 r.kept k (m ||| bit64 n), keptTok := tput r.keptTok (64 * k + n) t }
  else { r with kept := tset 0 r.kept k (m &&& ~~~ bit64 n), keptTok := tdel r.keptTok (64 * k + n) }

/-- The kept-map changes of one commit take effect (R118, R119): the releases find what earlier commits kept. -/
def State.applyKept (s : State) (e op : Nat) (q : KeptChange) : State :=
  let x := s.engine e
  let o := x.op op
  let r0 := x.run op
  let rels := (q.rels.filter fun (k, n) => r0.isKept k n).dedup
  let r1 := rels.foldl (fun r (k, n) => r.setKept k n false 0) r0
  let r2 := q.keeps.foldl (fun r (k, n, t) => r.setKept k n true t) r1
  let s1 := s.setEngine e { x with t := { x.t with orun := tset {} x.t.orun op r2 } }
  rels.foldl (fun t (k, n) =>
    t.sendCredit (s.subSlotStreams e op k n) (t.creditTok o k (tget 0 r0.keptTok (64 * k + n)) n) q.who) s1

/-- The waiting changes of an operator take effect in issue order, up to the first that an earlier-issued pass still in
flight holds back (R120); the ids of passes rise as they issue. DEDUCED (log 147): each pass of a run firing issues as it starts. -/
def State.keptSweep (s : State) (e op : Nat) : State :=
  let x := s.engine e
  let r := x.run op
  let open_ := (x.inFlight.filter fun f => f.op == op).map (·.uid)
  let go := fun q : KeptChange => open_.all fun u => decide (q.uid ≤ u)
  if !r.keptq.any go then s
  else
    let s1 := s.setEngine e { x with t := { x.t with orun := tset {} x.t.orun op { r with keptq := r.keptq.filter (!go ·) } } }
    ((r.keptq.filter go).mergeSort fun p q => decide (p.uid ≤ q.uid)).foldl (fun t q => t.applyKept e op q) s1

/-- KEEP and RELS of a committing pass (R118–R120). -/
def State.commitKept (s : State) (e : Nat) (a : Active) : State :=
  let p := a.pass
  if p.b.rels = [] ∧ p.b.keeps = [] then s
  else
    let x := s.engine e
    let r := x.run a.fr.op
    let q : KeptChange := { uid := a.fr.uid, rels := p.b.rels, who := a.origin e,
                            keeps := p.b.keeps.map fun (k, n) => (k, n, ((p.ins.getD k {}).tok).getD 0) }
    (s.setEngine e { x with t := { x.t with orun := tset {} x.t.orun a.fr.op { r with keptq := r.keptq ++ [q] } } }).keptSweep e a.fr.op

/-- Every operator's waiting kept-map changes are looked at again, as an earlier pass may have ended without a commit. -/
def State.keptTick (s : State) : State :=
  s.eng.foldl (fun t (e, x) => x.t.orun.foldl (fun u (op, r) => if r.keptq = [] then u else u.keptSweep e op) t) s

/-- The inputs are consumed, and the sub-slots of tile ports that are not kept are released (R40, R48). -/
def State.commitInputs (s : State) (e : Nat) (a : Active) : State :=
  let x := s.engine e
  let o := x.op a.fr.op
  let p := a.pass
  let s0 := s.markFired e a.fr.op p.col p.ins
  let s1 := if a.fr.group.isSome then s0 else s0.clearSlots (.eng e) (tget {} x.t.ft o.frame) o p.col
  let kept := fun k => p.b.keeps.any fun y => y.1 == k
  (s1.creditPorts o p.ins (a.origin e) kept fun k => s1.subSlotStreams e a.fr.op k (p.col % o.rcnt)).commitKept e a

/-- The registers that outlive the pass are published (R94, R186, R200). -/
def State.publish (s : State) (e : Nat) (a : Active) : State :=
  let x := s.engine e
  let op := a.fr.op
  let o := x.op op
  let p := a.pass
  let live := liveAccs o.h.qlive p.kfire
  let q := (p.r.q.filter fun (n, _) => live.contains (n / 4096)).foldl (fun t (n, v) => tput t n v)
    (x.q.filter fun (n, _) => !live.contains (n / 4096))
  let r := { x.run op with s := p.r.s, ssh := p.r.ssh }
  s.setEngine e { x with q := q, lanes := if o.abx then p.r.lanes else x.lanes, t := { x.t with orun := tset {} x.t.orun op r } }

/-- The PASS records of the locks that the pass acquired are released (R367, R370). -/
def State.releaseLocks (s : State) (e : Nat) (a : Active) (deps : List Nat) : State :=
  let _ := e
  s.each ((a.pass.b.locks.map lockHome).dedup) fun h t =>
    t.postDep deps (.lockReleaseArrival ⟨h, a.fr.ctx, a.age, .passEnd a.fr.uid⟩)

/-- What follows a commit in the slot: the next pass of the run firing, or its end. The passes that have not started are
queued again while the context is not RUNNING (R284). -/
def State.nextPass (s : State) (e sl : Nat) (a : Active) (sent : List (Nat × Nat)) : State :=
  let fr := { a.fr with passes := a.fr.passes.drop 1, j := a.fr.j + 1, sent := sent }
  let s1 := s.setActive e sl none
  let o := (s1.engine e).op fr.op
  if fr.passes = [] then s1.stickySweep (o.home e) fr.op o.frame
  else if (s1.ctx fr.ctx).st ≠ .running then
    let x := s1.engine e
    s1.setEngine e { x with requeue := x.requeue ++ [{ fr with requeued := true }] }
  else s1.startPass e sl fr

/-- The reservations of a pass at its commit (R302): `n` of them stay until their posts arrive, with uid 0; those of an LNCH
that steering withdrew are given back. -/
def keepResv (e uid : Nat) : Nat → List Reservation → List Reservation
  | _, [] => []
  | n, r :: l =>
    if r.eng = e ∧ r.uid = uid then
      match n with
      | 0 => keepResv e uid 0 l
      | m + 1 => { r with uid := 0 } :: keepResv e uid m l
    else r :: keepResv e uid n l

/-- The commit of a settled pass (R51). -/
def State.commitPass (s : State) (e sl : Nat) (a : Active) : State :=
  let p := a.pass
  let held := dropCovered p.b.held
  let order := (held.filter fun h => match h.eff with | .scratch _ => false | _ => true).mergeSort
    fun x y => decide (x.lsid ≤ y.lsid)
  let posts := (held.filter fun h => match h.eff with | .lnch _ => true | _ => false).length
  let s0 := { s with cp := { s.cp with resv := keepResv e a.fr.uid posts s.cp.resv } }
  let s1 := s0.applyTiles held
  let view := s1.ownView e order
  let (s2, done) := s1.releaseHeld e a order [] order
  let top := (order.filter fun h => h.eff == .ordj).foldl (fun n h => Nat.max n (h.lsid + 1)) 0
  let joined := done.filter fun x => x.h.eff.isStream && decide (x.h.lsid < top)
  let plain := done.filter fun x => !x.h.eff.isStream
  let acq := (done.filter (·.h.acquires)).map (·.id)
  let all := (joined ++ plain).map (·.id)
  let outs := List.range (s.opOf e a).h.olcnt
  let (sent, s3) := s2.sendOuts view e a acq all [] outs
  let s4 := ((((s3.commitInputs e a).publish e a).releaseLocks e a all).awaitPass e a.fr.uid (s2.idsSince s1)).touch (e / 72) a.fr.ctx
  s4.nextPass e sl a sent

/-- PASS_COMMIT (R50): a pass that has reached its end settles; it aborts as a fault where R50 fails, and waits while a
reservation of an LNCH is not granted (R302) or too few streams are free (R243). -/
def execPassCommit (e slot : Nat) (s : State) : Host.Outcome State Fault Refusal :=
  match s.active e slot with
  | none => .next s
  | some a =>
    let x := s.engine e
    let o := x.op a.fr.op
    if a.pass.wait ≠ .none ∨ (a.pass.done = false ∧ a.pass.next ≤ o.h.blen) then .next s
    else
      match a.pass.settle x o with
      | none => .next (s.passFault e slot ⟨cCommit, 0, 0⟩)
      | some p =>
        let ok := (s.cp.resv.filter fun r => r.eng == e && r.uid == a.fr.uid && r.granted).length
        let need := (p.b.held.filter (·.eff.isStream)).length
        if ok < p.b.lnches ∨ 96 < (x.streams.filter fun y => decide (y.n < 96)).length + need then .next s
        else if x.arrivalBody o then
          match s.decision 3 (e / 72) (e % 72) [a.fr.op, p.col] with
          | some t => .next (t.commitPass e slot { a with pass := p })
          | none => .next s
        else .next (s.commitPass e slot { a with pass := p })

/-! ## The landing of a PUSH copy (R46, R210) -/

/-- Rows written where a descriptor places them in the scratch of engine `e`. -/
def State.landRows (s : State) (e : Nat) (d : Word) (rows : List (List Byte)) : State :=
  rows.zipIdx.foldl (fun t (bs, r) => t.storeHomes ((List.range bs.length).map fun i => scratchHome e (tileByte d r i)) bs) s

/-- The shadow planes of a landed tile: the copied slices, then zeros to the consumer's tangent count (R210). -/
def State.landTans (s : State) (e str kc : Nat) (d : Word) (tans : List (List (List Byte))) : State :=
  let n := fmtSlices (dFmt d)
  let zero := (List.range (dRows d)).map fun _ => List.replicate (dRowBytes d) (0 : Byte)
  (List.range (kc * n)).foldl (fun t i =>
    t.landRows e (dWithBase d (tanBase d str (i / n + 1) (i % n))) (tans.getD i zero)) s

/-- PUSH_LANDING (R46): the tile is written into the consumer's input sub-slot, the descriptor names it, and the token
arrives. -/
def execPushLanding (die unit : Nat) (tok : Token) (rows : List (List Byte)) (tans : List (List (List Byte))) (s : State) :
    Host.Outcome State Fault Refusal :=
  if 72 ≤ unit ∨ 4 ≤ die then .next (s.frameReport die (256 * die + unit) tok)
  else
    let e := 72 * die + unit
    let x := s.engine e
    let o := x.op (tokOp tok)
    let f := tget {} x.t.ft (tokFrame tok)
    let d := dWithBase (tokPay tok) (o.inLine (tokPort tok) (tokCol tok % o.rcnt))
    let s1 :=
      if o.h.kind = .none ∨ (s.ctx (tokCtx tok)).isTorn then s
      else (s.landRows e d rows).landTans e (s.shadowStride e (tokOp tok)) (s.consumerK tok f.inst) d tans
    .next (s1.arriveCtx (.eng e) (tokWithPay tok d) false)

end Sys2Proof.Machine
end

