-- ==== Sys2Proof/Machine/Kernels.lean ====
section
/-!
DEFINITION. Kernels and instances (R305–R323): arming, initial tokens, exits, quiescence, purging, the deadlock detector,
and GARM, GDISARM, INJ, PURGE of a control core (R268, R270, R316).
-/
namespace Sys2Proof.Machine

/-! ## Instances -/

/-- Whether a kernel's state is one of its instance's: from RUNNING onward (R310). -/
def KernelSt.live (k : KernelSt) : Bool := k != .image && k != .placed && k != .armed
/-- Whether an instance number is in use in a context (R312). -/
def State.instUsed (s : State) (c inst : Nat) : Bool :=
  s.cp.kernels.any fun (_, k) => k.used && k.ctx == c && k.inst == inst && k.st.live
/-- The lowest instance number that a context does not use (R296). -/
def State.freeInst (s : State) (c : Nat) : Option Nat := (List.range 256).find? fun i => !s.instUsed c i
/-- Whether a frame belongs to an instance. -/
def Frame.of (f : Frame) (c inst : Nat) : Bool := f.v && f.ctx == c && f.inst == inst
/-- The matching stores of the package that hold anything. -/
def State.stores (s : State) : List Loc := (s.eng.map fun (e, _) => Loc.eng e) ++ (s.dies.map fun (d, _) => Loc.pool d)

/-- A pooled operator of a group of a die, as its members hold it (R335). -/
def State.poolEntry (s : State) (d grp op : Nat) : OpEntry :=
  ((groupMembers d (s.group d grp)).findSome? fun e =>
    let o := (s.engine e).op op
    if o.h.pool then some o else none).getD {}
/-- The pool frame of a pooled operator of a die. -/
def State.poolOpFrame (s : State) (d op : Nat) : Nat :=
  ((s.units d).groups.findSome? fun (g, x) =>
    if x.holds then
      let o := s.poolEntry d g op
      if o.h.pool then some o.frame else none
    else none).getD 0

/-- The instance that a token names at its store; a credit return names that of the operator it goes to. -/
def State.tokInst (s : State) (die unit : Nat) (t : Token) : Option (Nat × Nat) :=
  if 72 ≤ unit ∧ unit ≠ 248 then none
  else
    let l := if unit = 248 then Loc.pool die else .eng (72 * die + unit)
    let n := if tokCredit t then
        (match l with
         | .eng e => ((s.engine e).op (tokOp t)).frame
         | .pool d => s.poolOpFrame d (tokOp t))
      else tokFrame t
    let f := s.frame l n
    if f.v ∧ f.ctx = tokCtx t then some (f.ctx, f.inst) else none

/-- The instance that a message is a token of, or a shipped window access (R324). -/
def State.msgToken (s : State) (m : Instr) : Option (Nat × Nat) :=
  match m with
  | .tokenArrival d u t _ => s.tokInst d u t
  | .pushLanding d u t _ _ => s.tokInst d u t
  | .exitToken t _ => some (tokCtx t, fld (tokPay t) 0 8)
  | .tokenAtLinkPort _ _ _ _ who => who.inst.map fun i => (who.ctx, i)
  | .tokenPacket _ _ c p =>
    let t : Token := p.xdata.setWidth 128
    s.tokInst (tokDie t) (tokUnit t) { tokFields t with ctx := c }.mk128
  | .windowAccessArrival a => a.who.inst.map fun i => (a.who.ctx, i)
  | _ => none
/-- The instance that a message is a token, a result token to be, a shipped access or a launch post of (R315). -/
def State.msgInst (s : State) (m : Instr) : Option (Nat × Nat) :=
  match m with
  | .accessAtHome a => if a.reply.isSome then a.who.inst.map fun i => (a.who.ctx, i) else none
  | .deviceQueuePost c i _ => some (c, i)
  | m => s.msgToken m
/-- The tokens that instances have in the send buffers of the link ports (R324), with the tick at which each came there. -/
def State.linkTokens (s : State) : List (Nat × Nat × Nat) :=
  s.dies.flatMap fun (_, x) => x.ports.flatMap fun (_, y) =>
    let l := (y.queue.map fun (p, n, w) => (p.kind, n, w)) ++
      y.tx.filterMap fun f => f.pkt.map fun p => (p.kind, f.since, f.who)
    l.filterMap fun (k, n, w) => match w with
      | some o => if k = 0x01 then o.inst.map fun i => (o.ctx, i, n) else none
      | none => none
/-- Whether a token of the instance is in transit, a result or completion token still owed included. -/
def State.inTransit (s : State) (c inst : Nat) : Bool :=
  (s.pend.any fun m => s.msgInst m.ev == some (c, inst)) ||
  (s.net.remotes.any fun r => r.reply.isSome && r.who.ctx == c && r.who.inst == some inst) ||
  s.linkTokens.any fun (c2, i, _) => c2 == c && i == inst
/-- Whether a token of the instance that was in transit at tick `at0`, when the next message number was `n`, still is (R324). -/
def State.stillInTransit (s : State) (c inst n at0 : Nat) : Bool :=
  (s.pend.any fun m => decide (s.bornAs m.id < n) && s.msgToken m.ev == some (c, inst)) ||
  s.linkTokens.any fun (c2, i, t) => c2 == c && i == inst && decide (t ≤ at0)

/-! ## Arming and starting (R311, R312) -/

/-- An entry of a kernel's frames is armed. -/
def State.armFrame (s : State) (unit n inst : Nat) : State :=
  let l := if unit < 288 then Loc.eng unit else .pool (unit - 288)
  let f := s.frame l n
  s.setFrame l n { f with v := true, inst := inst, wbase := f.wbase0, next := f.wbase0, retired := 0 }
/-- An operator of a kernel on one engine is armed: `k` is the DUAL attribute of the launch. -/
def State.armOp (s : State) (e op k : Nat) : State :=
  let x := s.engine e
  let o := x.op op
  let live := liveAccs o.h.qlive (if k = 0 then o.h.dualk else k)
  let r : OpRun := { s := tsets 0 [] 0 o.sinit }
  let s1 := s.setEngine e { x with q := x.q.filter (fun (n, _) => !live.contains (n / 4096)),
                                   t := { x.t with orun := tset {} x.t.orun op r } }
  if o.h.pool then
    let p := s1.pool (e / 72)
    s1.setPool (e / 72) { p with busy := p.busy.filter fun (n, _) => n / 8 != s.busyOp e op o }
  else s1
/-- The tables of a kernel are armed for an instance (R311). -/
def State.armKernel (s : State) (k inst : Nat) : State :=
  let x := s.kernel k
  let s1 := x.place.frames.foldl (fun t (u, n) => t.armFrame u n inst) s
  x.place.ops.foldl (fun t (e, n) => t.armOp e n x.launch.dual) s1

/-- A token of the command processor or of INJ leaves: an initial token where it goes to an engine or the pool (R313); a
reserved unit drops it (R20). -/
def State.sendInitial (s : State) (die unit : Nat) (t : Token) (who : Origin) : State :=
  let u := tokUnit t
  if unitOk u = false then s.frameReport die (256 * die + unit) t
  else if u ≤ 71 ∨ u = 248 then s.post (.tokenArrival (tokDie t) u t ⟨true, 256 * die + unit⟩)
  else s.sendToken [] t none who

/-- An instance starts (R310–R312): `l` is what its launch gives it, `args` the payloads of its first initial tokens, if it
is to have any. -/
def State.startInst (s : State) (k inst : Nat) (l : Launch) (args : Option (List Word)) : State :=
  let x := s.kernel k
  let c := s.ctx x.ctx
  let s1 := s.setCtx x.ctx { c with r := { c.r with age := c.r.age + 1 } }
  let s2 := s1.setKernel k { x with st := .running, inst := inst, exits := 0, fids := 0,
                                    launch := { l with seq := c.r.age } }
  let s3 := s2.armKernel k inst
  match args with
  | none => s3
  | some as =>
    x.place.inject.zipIdx.foldl (fun t ((_, tok), i) =>
      let pay := as.getD i (tokPay tok)
      t.sendInitial 0 252 { tokFields tok with ctx := x.ctx, pay := pay }.mk128 ⟨x.ctx, some inst, 0, 252, 0, 0⟩) s3

/-! ## Removing what an instance holds (R315, R323) -/

/-- Whether a colour lies in the range lo to hi (R270). -/
def inColours (lo hi c : Nat) : Bool := decide ((c + 4096 - lo) % 4096 ≤ (hi + 4096 - lo) % 4096)

/-- The present slots of an instance at a store whose colours `p` picks. -/
def State.instSlots (s : State) (l : Loc) (c inst : Nat) (p : Nat → Bool) : List (Nat × Slot) :=
  (s.ms l).filter fun (_, x) => x.p && (s.frame l (tokFrame x.tok)).of c inst && p (tokCol x.tok)

/-- The slots of a store are emptied; with `credit` the tile sub-slots of their tokens are released (R323). -/
def State.dropSlots (s : State) (l : Loc) (slots : List (Nat × Slot)) (credit : Bool) : State :=
  slots.foldl (fun t (n, x) =>
    let t1 := t.setSlot l n {}
    let o := s.opAt l (tokOp x.tok) (tokFrame x.tok)
    if credit ∧ tileTok o (tokPort x.tok) x.tok then
      t1.sendCredit [] (s.creditTok o (tokPort x.tok) x.tok (tokCol x.tok % o.rcnt)) (s.tokOrigin l x.tok)
    else t1) s

/-- Writes entry `i` of a die's share of an overflow region; where its page fails, SPILL is raised (R317). -/
def State.ovWrite (s : State) (d c i : Nat) (bs : List Byte) : State :=
  match s.ovHomes d c i .store with
  | (.error g, t) => t.ovSpill d c none g
  | (.ok hs, t) => t.storeHomes hs bs

/-- The runs of a token's colours that `p` does not pick, as tokens. -/
def keptRuns (t : Token) (p : Nat → Bool) : List Token :=
  (runs ((tokCols t).map fun c => (c, p c))).map fun (c, n) => tokWithRun t c n
where
  /-- Maximal runs of colours not picked, as (first colour, run − 1). -/
  runs : List (Nat × Bool) → List (Nat × Nat)
    | [] => []
    | (c, b) :: r =>
      if b then runs r
      else match r, runs r with
        | (_, false) :: _, (_, n) :: l => (c, n + 1) :: l
        | _, l => (c, 0) :: l

/-- The spilled tokens of an instance on a die are removed, cut at the range's edges: the colours removed, and the state.
What stays of a cut entry stays with its SEQ; with `credit` the tile sub-slots of what goes are released (R323). A page that cannot be read raises SPILL, and its entries stay (R317). -/
def State.dropSpilled (s : State) (d c inst : Nat) (p : Nat → Bool) (credit : Bool) : Nat × State :=
  ((s.ovUsed d c).filter fun (_, b) =>
      let t := ovToken b
      (s.frame (ovLoc d b) (tokFrame t)).of c inst && (tokCols t).any p).foldl (fun (n, u0) (i, b) =>
    let t := ovToken b
    let m := n + ((tokCols t).filter p).length
    let o := s.opAt (ovLoc d b) (tokOp t) (tokFrame t)
    let u := if credit && tileTok o (tokPort t) t then
        ((tokCols t).filter p).foldl (fun v k =>
          v.sendCredit [] (v.creditTok o (tokPort t) t (k % o.rcnt)) (v.tokOrigin (ovLoc d b) t)) u0
      else u0
    let write := fun (v : State) (j : Nat) (k : Token) =>
      v.ovWrite d c j (ovBytes k (ovSeq b) (b.getD 20 0).toNat (ovFlags b / 2 % 2 == 1))
    match keptRuns t p with
    | [] => (m, u.ovWrite d c i ((b.take 21) ++ [0] ++ b.drop 22))
    | k :: l => (m, l.foldl (fun v k2 =>
        match (List.range (v.ctx c).ovShare).find? fun j =>
            (match v.ovEntry d c j with | some e => ovFlags e % 2 == 0 | none => false) with
        | some j => write v j k2
        | none => v.dropTok (ovLoc d b) cSpill k2 0) (write u i k))) (0, s.ovLook d c (some inst))

/-- Input tokens of the passes of a firing taken out of the pool, whose slots are empty already: their number. -/
def poolTokens (f : Firing) (ps : List (Nat × List PortIn)) : Nat :=
  if f.group.isNone then 0
  else (ps.map fun (_, ins) => (ins.filter fun i => i.tok.isSome && i.mode != .sticky).length).sum

/-- The firings of an engine that wait whole, cut at the range's edges: what stays and what is discarded. -/
def cutFirings (l : List Firing) (c inst : Nat) (p : Nat → Bool) : List Firing × List Firing :=
  l.foldl (fun (keep, gone) f =>
    if f.ctx ≠ c ∨ f.inst ≠ inst then (keep ++ [f], gone)
    else
      let rest := f.passes.filter fun (k, _) => !p k
      (if rest = [] then keep else keep ++ [{ f with passes := rest }],
       gone ++ [{ f with passes := f.passes.filter fun (k, _) => p k }])) ([], [])

/-- The tile sub-slots of the tokens that discarded passes of pooled firings hold are released (R323): the tokens of other
firings stand in their slots still. -/
def State.creditFiring (s : State) (e : Nat) (f : Firing) : State :=
  if f.group.isNone then s
  else
    let o := (s.engine e).op f.op
    f.passes.foldl (fun t (c, ins) =>
      t.creditPorts o ins ⟨f.ctx, some f.inst, e / 72, e % 72, f.op, c⟩ (fun _ => false) (fun _ => [])) s

/-- The firings of an instance that wait on an engine are discarded (R323): those held by a fault, those queued again, and
those in the pool intakes. -/
def State.dropFirings (s : State) (e c inst : Nat) (p : Nat → Bool) : Nat × State :=
  let x := s.engine e
  let (rq, a) := cutFirings x.requeue c inst p
  let (im, b) := cutFirings x.mat.intake c inst p
  let (iv, d) := cutFirings x.vec.intake c inst p
  let gone := a ++ b ++ d
  let s1 := s.setEngine e { x with requeue := rq, mat := { x.mat with intake := im }, vec := { x.vec with intake := iv } }
  ((gone.map fun f => poolTokens f f.passes).sum, gone.foldl (fun t f => t.creditFiring e f) s1)

/-- The open faults of a die that hold no firing and no stream any more close (R323). -/
def State.sweepFids (s : State) (d : Nat) : State :=
  let held := fun key : Nat => s.eng.any fun (_, x) =>
    (x.requeue.any fun f => f.hold == .fault key) || x.streams.any fun y => y.phase == .stalled key
  let copies := fun key : Nat => s.cp.copies.any fun y => y.phase == .stalled key
  ((s.die d).fids.filter fun f => !held f.key && !copies f.key).foldl (fun t f => t.closeFault d f.key) s

/-- The present slots and spilled tokens of an instance whose colours `p` picks are removed everywhere: how many colours,
and the state (R315, R323). -/
def State.dropTokens (s : State) (c inst : Nat) (p : Nat → Bool) (credit : Bool) : Nat × State :=
  let (n1, s1) := s.stores.foldl (fun (n, t) l =>
    let sl := t.instSlots l c inst p
    (n + sl.length, t.dropSlots l sl credit)) (0, s)
  (List.range 4).foldl (fun (n, t) d =>
    let (m, u) := t.dropSpilled d c inst p credit
    (n + m, u)) (n1, s1)

/-- The frames of an instance become invalid; with `clear` the maps and armings of its operators go with them (R323). -/
def State.dropFrames (s : State) (k : Nat) (clear : Bool) : State :=
  let x := s.kernel k
  let s1 := x.place.frames.foldl (fun t (u, n) =>
    let l := if u < 288 then Loc.eng u else .pool (u - 288)
    let f := t.frame l n
    t.setFrame l n { f with v := false, retired := if clear then 0 else f.retired }) s
  if clear then
    x.place.ops.foldl (fun t (e, op) =>
      let y := t.engine e
      let r := y.run op
      let t1 := t.setEngine e { y with t := { y.t with
        orun := tset {} y.t.orun op { r with kept := [], keptTok := [], keptq := [], busy := [], arms := [], sticky := [] } } }
      if (y.op op).h.pool then
        let q := t1.pool (e / 72)
        t1.setPool (e / 72) { q with busy := q.busy.filter fun (n, _) => n / 8 != t.busyOp e op (y.op op) }
      else t1) s1
  else s1

/-- The locks of an instance's owners whose colours `p` picks are released (R362). -/
def State.dropLocks (s : State) (c : Nat) (seq : Word) (p : Nat → Bool) : State :=
  s.lkDrop (fun r => r.ctx == c && decide (r.age.toNat / 4096 = seq.toNat % 2 ^ 52) && p (r.age.toNat % 4096)) fun _ => false

/-! ## The pool: which colours are ready, and their bins (R335, R336) -/

/-- Whether busy maps let a pooled operator's colour run, and no firing of a member has claimed its outputs. -/
def State.poolOutputsFree (s : State) (d : Nat) (g : Group) (op : Nat) (o : OpEntry) (c : Nat) : Bool :=
  match (groupMembers d g).head? with
  | none => false
  | some m =>
    let x := s.engine m
    ((x.tileRefs o).all fun n => !(s.busyMap (.pool d) (s.busyOp m op o) n).getLsbD (o.busyIdx (x.ref o n) c)) &&
    (groupMembers d g).all fun e => (s.engine e).firings.all fun f =>
      f.op != op || f.group.isNone || f.passes.all fun (k, _) => !x.clash o c k

/-- The locality bin of a colour (R336). -/
def poolBin (o : OpEntry) (ins : List PortIn) : Nat :=
  match (ins.getD 0 {}).tok with
  | none => 0
  | some t =>
    if tileTok o 0 t = false then 0
    else
      let d := tokPay t
      (dBase d % 64) ^^^ (dBase d / 64 % 64) ^^^ (dMember d * 4 + dBase d / 4096 % 4)

/-- The ports of a colour of a pooled operator that is ready. -/
def State.poolIns (s : State) (d g op c : Nat) : Option (List PortIn) :=
  let o := s.poolEntry d g op
  let f := s.frame (.pool d) o.frame
  if o.fires = false ∨ o.h.pool = false ∨ f.v = false ∨ f.live c = false then none
  else match s.portsOf (.pool d) f o c with
    | none => none
    | some ins => if (groupMembers d (s.group d g)).all (fun e => s.unfired e op c ins) ∧ s.poolOutputsFree d (s.group d g) op o c then some ins else none

/-- The pooled operators of a group. -/
def State.poolOps (s : State) (d g : Nat) : List Nat :=
  ((groupMembers d (s.group d g)).flatMap fun e => ((s.engine e).t.ot.filter fun (_, o) => o.h.pool).map (·.1)).dedup

/-- The colours of a die's pool that are ready now: group, operator, colour, bin, operator PRIO. -/
def State.poolNow (s : State) (d : Nat) : List (Nat × Nat × Nat × Nat × Nat) :=
  ((s.units d).groups.filter fun (_, x) => x.holds).flatMap fun (g, _) =>
    (s.poolOps d g).flatMap fun op =>
      let o := s.poolEntry d g op
      (s.frame (.pool d) o.frame).window.filterMap fun c =>
        (s.poolIns d g op c).map fun ins => (g, op, c, poolBin o ins, o.h.prio)

/-! ## Exits and quiescence (R314, R315) -/

/-- EXIT_TOKEN (R314); that of a torn context is dropped silently (R290). -/
def execExitToken (tok : Token) (_who : Origin) (s : State) : Host.Outcome State Fault Refusal :=
  let c := tokCtx tok
  let inst := fld (tokPay tok) 0 8
  let drop := fun i : Option Nat => s.report 0 cFrame ⟨c, i, 0, 252, tokOp tok, tokCol tok⟩ 0 0 (some tok)
  if (s.ctx c).isTorn then .next s
  else match s.instKernel c inst with
  | none => .next (drop none)
  | some k =>
    let x := s.kernel k
    if fld (tokPay tok) 8 6 ≠ c ∨ (x.st ≠ .running ∧ x.st ≠ .draining ∧ x.st ≠ .faulted) then .next (drop none)
    else
      let n := x.exits.toNat + tokRun tok + 1
      if x.nexit.toNat < n then .next (drop (some inst))
      else
        .next (s.setKernel k { x with exits := BitVec.ofNat 32 n,
                                      st := if n = x.nexit.toNat ∧ x.st = .running then .draining else x.st })

/-- Whether a LOOP of an engine could still arm or hand out a colour of an instance. -/
def State.loopReady (s : State) (e op : Nat) : Bool :=
  let x := s.engine e
  let o := x.op op
  let f := tget {} x.t.ft o.frame
  let g := tget {} x.t.ft o.inner
  let r := x.run op
  o.h.kind == .loop &&
    ((decide (r.arms.length < 4) && f.window.any fun c =>
        (s.portTok (.eng e) f o c 0).isSome && (s.portTok (.eng e) f o c 1).isSome) ||
     (decide ((g.next + 4096 - g.wbase) % 4096 < g.w) && r.arms.any fun a => decide (a.handed < a.n)))

/-- Whether an instance is quiescent (R315). -/
def State.quiescent (s : State) (c inst : Nat) : Bool :=
  !s.inTransit c inst &&
  (s.eng.all fun (e, x) =>
    (x.firings.all fun f => f.ctx != c || f.inst != inst) &&
    (x.streams.all fun y => y.who.ctx != c || y.who.inst != some inst) &&
    ((s.eligibles e).all fun (op, _) => !(tget {} x.t.ft (x.op op).frame).of c inst) &&
    (x.t.ot.all fun (op, o) => !(tget {} x.t.ft o.frame).of c inst || !s.loopReady e op)) &&
  (s.dies.all fun (d, _) => (s.poolNow d).all fun (g, op, _) => !(s.frame (.pool d) (s.poolEntry d g op).frame).of c inst)

/-- The retire effects of R315, in its order. The trigger add and the completion add are releases: they follow the effects of
the instance, and the completion add the trigger add as well (R296, R303); so does a FENCE of the queue (R300). -/
def State.retire (s : State) (k : Nat) : State :=
  let x := s.kernel k
  let (n, s1) := s.dropTokens x.ctx x.inst (fun _ => true) false
  let s2 := s1.dropFrames k false
  let before := (s2.effectIds fun w => w.ctx == x.ctx && w.inst == some x.inst) ++ x.launch.trigIds
  let s3 := if x.launch.trigDone then s2 else match x.launch.trod with
    | some r => s2.cpAdd before x.ctx x.launch.tag r x.launch.tadd.toNat
    | none => s2
  let y := s3.kernel k
  let s4 := (s3.setKernel k { y with st := .armed, last := 1, left := BitVec.ofNat 32 n }).dropLocks x.ctx x.launch.seq
    fun _ => true
  let s5 := match x.launch.crod with
    | some r => s4.cpAdd (before ++ s3.idsSince s2) x.ctx x.launch.tag r x.launch.cadd.toNat
    | none => s4
  match x.launch.queue with
  | some (q, i) => s5.commandDone q i (before ++ s5.idsSince s2)
  | none => s5

/-- INSTANCE_QUIESCE (R310, R315): a DRAINING instance that is quiescent becomes QUIESCED, and one that is QUIESCED retires. -/
def execInstanceQuiesce (k : Nat) (s : State) : Host.Outcome State Fault Refusal :=
  let x := s.kernel k
  .next (
    if x.st = .draining ∧ s.quiescent x.ctx x.inst then s.setKernel k { x with st := .quiesced }
    else if x.st = .quiesced then s.retire k
    else s)

/-! ## Purging (R323, R324) -/

/-- The streams of an instance under a purge of the whole of it: stalled ones end under FAIL, running ones drop their
tokens. -/
def State.purgeStreams (s : State) (e c inst : Nat) : State :=
  let x := s.engine e
  let mine := fun y : Stream => y.who.ctx == c && y.who.inst == some inst
  let stalled := fun y : Stream => (match y.phase with | .stalled _ => true | _ => false)
  let mark := fun y : Stream => if mine y then { y with dropTok := true } else y
  let left := x.streams.filter fun y => !(mine y && stalled y)
  s.setEngine e { x with streams := left.map mark }

/-- The removal of a purge: `whole` for RV = 0. The colours removed, and the state. -/
def State.purgeNow (s : State) (k : Nat) (whole : Bool) (p : Nat → Bool) : Nat × State :=
  let x := s.kernel k
  let c := x.ctx
  let (n, s1) := s.dropTokens c x.inst p true
  let (m, s2) := (s1.eng.map (·.1)).foldl (fun (m, t) e =>
    let (j, u) := t.dropFirings e c x.inst p
    (m + j, if whole then u.purgeStreams e c x.inst else u)) (0, s1)
  let s3 := ((List.range 4).foldl (fun t d => t.sweepFids d) s2).dropLocks c x.launch.seq p
  let y := s3.kernel k
  let s4 := s3.setKernel k { y with left := BitVec.ofNat 32 (n + m), st := if whole then .armed else y.st,
                                    last := if whole then 2 else y.last }
  (n + m, if whole then s4.dropFrames k true else s4)

/-- The context an instruction of a core may name in user mode: its own (R258). -/
def CoreState.mayName (c : CoreState) (n : Nat) : Bool := c.csr.mode || n == c.csr.cctx

/-- PURGE (R268, R270, R323, R324): the instance becomes PURGING with RV = 0; the word stays until the tokens of the instance that
were in transit when it first executed have landed, and then removes. A PURGE of an instance that another is purging is ignored
(R310). -/
def execPurge (f : FmtCG) (s : State) : Host.Outcome State Fault Refusal :=
  onCore (.purge f) s fun d c =>
    let a := c.rd f.ga
    let b := c.rd f.gb
    let ctx := fld a 8 6
    let inst := fld a 0 8
    let w := wordOf (.purge f)
    if c.mayName ctx = false then s.coreFault d cPriv w
    else if fld a 14 50 ≠ 0 ∨ fld b 24 39 ≠ 0 then s.coreFault d cIllegal w
    else
      let rv := b.getLsbD 63
      let done := fun (t : State) (n : Nat) => t.endWord d f.gd (BitVec.ofNat 64 n)
      match s.instKernel ctx inst with
      | none => done s 0
      | some k =>
        let x := s.kernel k
        let ok := c.busy.isSome || x.st == .running || x.st == .faulted || (!rv && x.st == .draining)
        if ok = false then done s 0
        else
          let s1 := if rv then s else s.setKernel k { x with st := .purging }
          let (n0, at0) := c.busy.getD (s.nextId, s.tick.toNat)
          if s1.stillInTransit ctx inst n0 at0 then s1.stayBusy d (.purge f)
          else
            let (n, t) := s1.purgeNow k (!rv) (if rv then inColours (fld b 12 12) (fld b 0 12) else fun _ => true)
            done t n

/-! ## GARM, GDISARM, INJ (R268, R270, R316) -/

/-- The kernel that a handle names on a die (R305). -/
def State.handleKernel (s : State) (d : Nat) (h : Word) : Option Nat :=
  if h.getLsbD 63 ∧ fld h 5 58 = 0 then tget none (s.units d).kslots (fld h 0 5) else none

/-- GARM (R316); a start waits until the clearing of the engines that it arms has finished (R289). -/
def execGarm (f : FmtCG) (s : State) : Host.Outcome State Fault Refusal :=
  onSup (.garm f) s fun d c =>
    let b := c.rd f.gb
    let inst := fld b 0 8
    let done := fun (t : State) (v : Nat) => t.endWord d f.gd (BitVec.ofNat 64 v)
    if fld b 14 50 ≠ 0 then s.coreFault d cIllegal (wordOf (.garm f))
    else match s.handleKernel d (c.rd f.ga) with
      | none => done s cFrame
      | some k =>
        let x := s.kernel k
        if fld b 8 6 ≠ x.ctx then done s cFrame
        else if x.st = .armed ∧ s.instUsed x.ctx inst = false ∧ x.place.map.any (fun (_, e) => s.clearing e) then
          s.stayBusy d (.garm f)
        else if x.st = .armed ∧ s.instUsed x.ctx inst = false then
          if x.place.ops.any fun (e, op) => !s.launchDualOk e op 0 then done s cIllegal
          else done (s.startInst k inst {} none) 0
        else if x.st = .faulted ∧ x.inst = inst ∧ x.fids = 0 then
          done (s.setKernel k { x with st := if x.exits = x.nexit then .draining else .running }) 0
        else done s cFrame

/-- A kernel's slots are vacated: its tables go on every die (R310). -/
def State.vacate (s : State) (k : Nat) : State :=
  let x := s.kernel k
  let s1 := x.place.frames.foldl (fun t (u, n) =>
    let l := if u < 288 then Loc.eng u else .pool (u - 288)
    t.setFrame l n {}) s
  let s2 := x.place.ops.foldl (fun t (e, op) =>
    let y := t.engine e
    t.setEngine e { y with t := { y.t with
      ot := tdel y.t.ot op, orun := tdel y.t.orun op, parked := tdel y.t.parked op, opBank := tdel y.t.opBank op } }) s1
  let s3 := x.place.ols.foldl (fun t r =>
    let y := t.engine r.unit
    let keep := fun n : Nat => !(decide (r.first ≤ n) && decide (n < r.first + r.cnt))
    t.setEngine r.unit { y with t := { y.t with ol := y.t.ol.filter (fun (n, _) => keep n),
                                                olx := y.t.olx.filter (fun (n, _) => keep n) } }) s2
  let s4 := x.place.bodies.foldl (fun t r =>
    let y := t.engine r.unit
    t.setEngine r.unit { y with t := { y.t with
      body := y.t.body.filter fun (n, _) => !(decide (r.first ≤ n) && decide (n < r.first + r.cnt)) } }) s3
  let s5 := (x.place.map.map (·.2)).foldl (fun t e =>
    let y := t.engine e
    t.setEngine e { y with t := { y.t with banks := tdel y.t.banks k } }) s4
  let s6 := x.place.slots.foldl (fun t (d, n) =>
    let u := t.units d
    t.setUnits d { u with kslots := tset none u.kslots n none }) s5
  s6.setKernel k { x with used := false, st := .image, place := {}, launch := {} }

/-- GDISARM (R316). -/
def execGdisarm (f : FmtCG) (s : State) : Host.Outcome State Fault Refusal :=
  onSup (.gdisarm f) s fun d c =>
    let b := c.rd f.gb
    let done := fun (t : State) (v : Nat) => t.setCore d ((t.core d).wr f.gd (BitVec.ofNat 64 v)).adv
    if fld b 14 50 ≠ 0 then s.coreFault d cIllegal (wordOf (.gdisarm f))
    else match s.handleKernel d (c.rd f.ga) with
      | none => done s cFrame
      | some k =>
        let x := s.kernel k
        if fld b 8 6 ≠ x.ctx ∨ (x.st ≠ .placed ∧ x.st ≠ .armed) then done s cFrame
        else if fld b 0 8 ≠ 0 then done s cIllegal
        else done (s.vacate k) 0

/-- INJ (R270): the token enters at the service port of the die. -/
def execInj (f : FmtCG) (s : State) : Host.Outcome State Fault Refusal :=
  onCore (.inj f) s fun d c =>
    let t : Token := c.rd f.ga ++ c.rd f.gb
    if c.mayName (tokCtx t) = false then s.coreFault d cPriv (wordOf (.inj f))
    else (s.setCore d c.adv).sendInitial d 240 t ⟨tokCtx t, none, d, 240, 0, 0⟩

/-! ## The deadlock detector (R319, R320, R322) -/

/-- The present slots of a context at a store. -/
def State.ctxSlots (s : State) (l : Loc) (c : Nat) : List (Nat × Slot) :=
  (s.ms l).filter fun (_, x) => x.p && tokCtx x.tok == c
/-- The engines of a die. -/
def dieEngines (d : Nat) : List Nat := (List.range 72).map (72 * d + ·)

/-- Whether a pass waits on a memory rod. -/
def Active.waitsMemory (a : Active) : Bool := match a.pass.wait with | .rod r _ _ _ => rodKind r == 3 | _ => false
/-- The open passes of an engine. -/
def Engine.open_ (x : Engine) : List Active := x.mat.act.toList ++ x.vec.act.toList ++ x.susp ++ x.ready

/-- The conditions of R320 apart from the counter. -/
def State.stalled (s : State) (d c : Nat) : Bool :=
  let es := dieEngines d
  let slots := (es.flatMap fun e => s.ctxSlots (.eng e) c) ++ s.ctxSlots (.pool d) c
  let rodSlot := fun (l : Loc) (x : Slot) =>
    (((s.opAt l (tokOp x.tok) (tokFrame x.tok)).ports.getD (tokPort x.tok) {}).mode == .rod) &&
      wwKind (tokPay x.tok) == 3 && !x.rodOk
  (slots != [] || s.ovUsed d c != []) && (d != 0 || s.cp.copies.all fun y => y.ctx != c) &&
  ((List.range 8).all fun k => (s.prog d k).all fun p => p.ctx != c || p.outs.all fun y => y.kind != .copy) &&
  (es.all fun e =>
    let x := s.engine e
    (x.streams.all fun y => y.who.ctx != c) && (x.firings.all fun f => f.ctx != c || f.hold == .free) &&
    (x.timers.all fun t => (tget {} x.t.ft (x.op t.op).frame).ctx != c) &&
    (x.open_.all fun a => a.fr.ctx != c || !a.waitsMemory) &&
    ((s.ctxSlots (.eng e) c).all fun (_, y) => !rodSlot (.eng e) y)) &&
  ((s.ctxSlots (.pool d) c).all fun (_, y) => !rodSlot (.pool d) y) &&
  ((s.die d).fids.all fun f => f.ctx != c) && ((s.die d).trapq.all fun r => r.ctx != some c) &&
  (s.pend.all fun m => match m.ev with | .trapRecordEnqueue k r => k != d || r.ctx != some c | _ => true)

/-- The STALL record (R322). -/
def State.stallRecord (s : State) (d c : Nat) : Record :=
  let es := dieEngines d
  let found := (es.flatMap fun e => (s.ctxSlots (.eng e) c).map fun (n, x) => (Loc.eng e, n, x)) ++
    (s.ctxSlots (.pool d) c).map fun (n, x) => (Loc.pool d, n, x)
  let spilled := pickMin (fun a b => decide (ovSeq a.2 < ovSeq b.2)) (s.ovUsed d c)
  let det := put 0 32 found.length ||| put 32 16 ((es.map fun e => ((s.engine e).open_.filter fun a => a.fr.ctx == c).length).sum) |||
    put 48 8 ((es.filter fun e => s.ctxSlots (.eng e) c != []).length)
  match found with
  | (l, n, x) :: _ =>
    let o := s.tokOrigin l x.tok
    let ad := match l with
      | .eng e => put 16 7 (e % 72) ||| put 0 15 n
      | .pool _ => put 23 1 1 ||| put 0 15 n
    s.record cStall { o with unit := 255 } ad det none
  | [] =>
    match spilled with
    | some (_, b) =>
      let o := s.tokOrigin (ovLoc d b) (ovToken b)
      let ad := match ovLoc d b with
        | .eng e => put 16 7 (e % 72)
        | .pool _ => put 23 1 1
      s.record cStall { o with unit := 255 } ad det none
    | none => s.record cStall ⟨c, none, d, 255, 0, 0⟩ 0 det none

/-- At the threshold the detector of a die looks through the overflow entries (R317), and reports, or its counter restarts where a
condition fails (R320). -/
def State.stallTest (s : State) (d ctx : Nat) : State :=
  let u := s.units d
  let det := u.det
  if det.en = false ∨ tget 0 det.cnt ctx < 2 ^ det.log2 ∨ det.rep.contains ctx then s
  else
    let t := s.ovLook d ctx none
    if t.stalled d ctx then
      let s1 := t.setUnits d { t.units d with det := { det with rep := det.rep ++ [ctx] } }
      s1.raise d (s1.stallRecord d ctx)
    else t.setUnits d { t.units d with det := { det with cnt := tset 0 det.cnt ctx 0 } }
/-- STALL (R320): the test of a counter that is at the threshold. The cycle in which it gets there makes it (State.dieCycle), so between
cycles only a write of the detector's block can leave one to be made. -/
def execStall (d ctx : Nat) (s : State) : Host.Outcome State Fault Refusal :=
  .next (if 4 ≤ d ∨ 64 ≤ ctx then s else s.stallTest d ctx)

/-- A write of word `n` of a die's detector block (R321). -/
def State.detWord (s : State) (d n : Nat) (v : Word) : State :=
  let u := s.units d
  let l := fld v 0 6
  if n = 0 then
    s.setUnits d { u with det := { u.det with en := v.getLsbD 6, log2 := if 10 ≤ l ∧ l ≤ 40 then l else u.det.log2 } }
  else s
/-- The words of a die's detector block as they read (R321). -/
def Detector.readWord (x : Detector) (n : Nat) : Word :=
  if n = 0 then put 6 1 (b2n x.en) ||| put 0 6 x.log2
  else if n ≤ 64 then put 41 1 (b2n (x.rep.contains (n - 1))) ||| put 0 41 (tget 0 x.cnt (n - 1))
  else 0

/-- The words of a kernel slot's status block as they read (R309). -/
def Kernel.readWord (x : Kernel) (n : Nat) : Word :=
  match n with
  | 0 => put 48 16 x.kid.toNat ||| put 40 8 x.inst ||| put 32 6 x.ctx ||| put 4 4 x.dmask.toNat ||| put 0 4 (match x.st with
      | .image => 0 | .placed => 1 | .armed => 2 | .running => 3 | .draining => 4 | .quiesced => 5 | .faulted => 6
      | .purging => 7)
  | 1 => put 32 32 x.nexit.toNat ||| put 0 32 x.exits.toNat
  | 2 => put 32 32 x.left.toNat ||| put 0 32 x.fids.toNat
  | 3 => put 0 2 x.last
  | _ => 0
/-- A kernel slot's status block (R309). -/
def State.kslotWord (s : State) (d slot n : Nat) : Word :=
  match tget none (s.units d).kslots slot with
  | some k => (s.kernel k).readWord n
  | none => 0

end Sys2Proof.Machine
end

