-- ==== Sys2Proof/Machine/Queues.lean ====
section
/-!
DEFINITION. The command processor (R292–R304): queue registers and states, the checks and the start of each command,
arbitration, posts to device queues, and the freeing of a rod (R344, R351).
-/
namespace Sys2Proof.Machine

/-! ## Halting a queue (R294, R298) -/

/-- Who a command is, for records. -/
def cpWho (c : Nat) : Origin := ⟨c, none, 0, 252, 0, 0⟩

/-- A device queue that is DISABLED or HALTED has the reservations that wait for it refused (R302). -/
def State.refuseResv (s : State) (q : Nat) : State :=
  let x := s.queue q
  if x.devq ∧ (x.st = .disabled ∨ x.st = .halted) then
    (s.cp.resv.filter fun r => r.ctx == x.ctx && !r.granted).foldl
      (fun t r => t.faultPasses r.eng (fun a => a.fr.uid == r.uid) ⟨cFrame, 0, 0⟩) s
  else s

/-- A queue halts on its head command (R294, R298): ECODE, EIDX and a record at die 0. -/
def State.haltQueue (s : State) (q : Nat) (f : Failure) : State :=
  let x := s.queue q
  ((s.setQueue q { x with st := .halted, ecode := f.cause, eidx := x.head, rodw := none }).refuseResv q).report 0 f.cause (cpWho x.ctx) f.addr f.detail none

/-! ## Reading the head (R292) -/

/-- How the command processor makes an access for a context. -/
def cpVia (c : Nat) (k : AccKind) : Via := { by_ := .cp, ctx := some c, kind := k, strm := 0xFE }

/-- Address of command `i` of a queue's ring. -/
def Queue.slotAddr (x : Queue) (i : BitVec 32) : Word := x.base + BitVec.ofNat 64 (64 * (i.toNat % 2 ^ x.log2n))

/-- Eight words from the bytes of a command. -/
def cmdWords (bs : List Byte) : List Word := (List.range 8).map fun i => BitVec.ofNat 64 (leNat ((bs.drop (8 * i)).take 8))

/-- The head command of a queue, or why it cannot be read. -/
def State.headCmd (s : State) (x : Queue) : Except Failure (List Word) :=
  let a := x.slotAddr x.head
  match (s.resolve (cpVia x.ctx .load) [0x0, 0x2] a 64 true).1 with
  | .error f => .error f
  | .ok hs => if s.eccHomes hs then .error ⟨cEcc, a, Config.eccPlace (hs.headD 0)⟩ else .ok (cmdWords (s.rdHomes hs))

/-! ## The checks of R295–R298 -/

/-- What may become of a head command: it can start, it waits, or it is refused. -/
inductive HeadSt where
  | go
  | wait
  | refuse (f : Failure)
deriving DecidableEq, Repr, Inhabited

/-- Word `i` of a command. -/
def cw (w : List Word) (i : Nat) : Word := w.getD i 0
def cmdTag (w : List Word) : Nat := fld (cw w 0) 32 32
def cmdRv (w : List Word) : Bool := (cw w 0).getLsbD 11
def cmdScope (w : List Word) : Nat := fld (cw w 0) 8 3
def launchKid (w : List Word) : Nat := fld (cw w 1) 0 16
def launchDual (w : List Word) : Nat := fld (cw w 1) 16 3
def launchPgtm (w : List Word) : BitVec 8 := (cw w 1).extractLsb' 24 8
def launchTrv (w : List Word) : Bool := (cw w 1).getLsbD 34
/-- Words from `i` on are 0. -/
def zeroFrom (w : List Word) (i : Nat) : Bool := (w.drop i).all (· == 0)
/-- SCOPE is 2 to 4 where the command uses a rod, else 0 (R295). -/
def scopeOkFor (w : List Word) (rod : Bool) : Bool :=
  if rod then decide (2 ≤ cmdScope w) && decide (cmdScope w ≤ 4) else cmdScope w == 0
/-- The rod fields of a command that may add to a completion rod: word `i` the rod, `a` the amount field, 0 unless `rv`. -/
def rodFields (rv : Bool) (ref amount : Word) : Bool := rv || (ref == 0 && amount == 0)

/-- The fields of a command obey R295. -/
def cmdFieldsOk (w : List Word) : Bool :=
  let rv := cmdRv w
  fld (cw w 0) 12 20 == 0 &&
  match cmdOpc w with
  | 1 =>
    let trv := launchTrv w
    fld (cw w 1) 19 5 == 0 && fld (cw w 1) 35 29 == 0 && decide (launchDual w ≤ 4) && scopeOkFor w (rv || trv) &&
      rodFields rv (cw w 2) ((cw w 3).extractLsb' 0 32 |>.setWidth 64) &&
      rodFields trv (cw w 4) ((cw w 3).extractLsb' 32 32 |>.setWidth 64) && zeroFrom w (5 + cmdNarg w)
  | 2 => rv && scopeOkFor w true && fld (cw w 2) 32 32 == 0 && zeroFrom w 3
  | 3 => rv && scopeOkFor w true && zeroFrom w 3
  | 4 =>
    let n := fld (cw w 3) 0 41
    fld (cw w 3) 41 23 == 0 && n % 64 == 0 && decide (64 ≤ n) && decide (n ≤ 2 ^ 32) && scopeOkFor w rv &&
      rodFields rv (cw w 4) (cw w 5) && fld (cw w 5) 32 32 == 0 && zeroFrom w 6
  | 5 =>
    fld (cw w 2) 3 61 == 0 && fld (cw w 3) 4 60 == 0 && fld (cw w 3) 0 4 != 0 && scopeOkFor w rv &&
      rodFields rv (cw w 4) (cw w 5) && fld (cw w 5) 32 32 == 0 && zeroFrom w 6
  | 6 => !rv && scopeOkFor w false && zeroFrom w 1
  | 7 => !rv && scopeOkFor w false && zeroFrom w 2
  | _ => false

/-- A refusal with the command's TAG in DETAIL. -/
def tagged (w : List Word) (c : Nat) (ad : Word) : HeadSt := .refuse ⟨c, ad, BitVec.ofNat 64 (cmdTag w)⟩
/-- The failure of a COPY or MARK address: any path but 0x0 and 0x2 is BADPATH (R296). -/
def memoryOnly (f : Failure) : Failure := if f.cause = cPriv then { f with cause := cBadpath } else f
/-- A refusal by an address check: XLATE, PERM and ECC keep their own DETAIL (R388, R454). -/
def refused (w : List Word) (f : Failure) : HeadSt :=
  if f.cause = cXlate ∨ f.cause = cPerm ∨ f.cause = cEcc then .refuse f else tagged w f.cause f.addr

/-- The first failure among the rods that a command names. -/
def State.cmdRods (s : State) (c : Nat) (l : List (RodUse × Word)) : Option Failure :=
  l.findSome? fun (u, r) => match (s.checkRod ⟨.cp, some c⟩ u r).1 with
    | .ok _ => none
    | .error f => some f

/-- The kernel that a LAUNCH names (R295, R305). -/
def State.kidKernel (s : State) (c kid : Nat) : Option Nat :=
  (s.cp.kernels.find? fun (_, k) => k.used && k.ctx == c && k.kid.toNat == kid).map (·.1)

/-- Whether a LAUNCH can start (R297, R298); it waits for the clearing of the engines that it arms as well (R289). -/
def State.launchSt (s : State) (x : Queue) (w : List Word) : HeadSt :=
  match s.kidKernel x.ctx (launchKid w) with
  | none => tagged w cFrame 0
  | some k =>
    let y := s.kernel k
    if y.st = .image ∨ y.st = .placed then tagged w cFrame 0
    else if y.place.inject.length < cmdNarg w then tagged w cIllegal 0
    else if (y.place.ops.any fun (e, op) => !s.launchDualOk e op (launchDual w)) then tagged w cIllegal 0
    else match s.cmdRods x.ctx ((if cmdRv w then [(.add, cw w 2)] else []) ++ if launchTrv w then [(.add, cw w 4)] else []) with
      | some f => refused w f
      | none =>
        if y.st ≠ .armed ∨ s.freeInst x.ctx = none ∨ (y.place.map.any fun (_, e) => s.clearing e) then .wait else .go

/-- The first failure of the `n` bytes at an address that a COPY reads or writes: those of R216 on the whole of them, then
the translation of the first byte (R298). -/
def State.copySide (s : State) (v : Via) (a : Word) (n : Nat) : Option Failure :=
  match s.streamFault v [0x0, 0x2] 1 [(a, n)] with
  | some f => some (memoryOnly f)
  | none => match (s.resolve v [0x0, 0x2] a 1 false).1 with
    | .error f => some f
    | .ok _ => none

/-- Whether a COPY can start: it waits while the copy engines have no free stream (R297; log 108). -/
def State.copySt (s : State) (x : Queue) (w : List Word) : HeadSt :=
  let n := fld (cw w 3) 0 41
  match s.copySide (cpVia x.ctx .sread) (cw w 1) n with
  | some f => refused w f
  | none => match s.copySide (cpVia x.ctx .swrite) (cw w 2) n with
    | some f => refused w f
    | none => match s.cmdRods x.ctx (if cmdRv w then [(.add, cw w 4)] else []) with
      | some f => refused w f
      | none => if s.cp.copies.length < Config.moreCopies + 1 then .go else .wait

/-- `n` bytes of a program as the sequencer of die `d` reads them. -/
def State.progBytes (s : State) (d c : Nat) (a : Word) (n : Nat) : Except Failure (List Byte) :=
  match (s.resolve (seqVia d c .load) [0x0] a n false).1 with
  | .error f => .error f
  | .ok hs => if s.eccHomes hs then .error ⟨cEcc, a, Config.eccPlace (hs.headD 0)⟩ else .ok (s.rdHomes hs)

/-- Little-endian number at bytes `i` to `i + n − 1`. -/
def leAt (bs : List Byte) (i n : Nat) : Nat := leNat ((bs.drop i).take n)

/-- A program as its sequencer accepts it (R406): its registers and words, or the refusal. -/
def State.readProgram (s : State) (d c : Nat) (a : Word) : Except Failure (Table Word × List Word) :=
  match s.progBytes d c a 192 with
  | .error f => .error f
  | .ok h =>
    let nw := leAt h 6 2
    if leAt h 0 4 ≠ 0x50434756 ∨ leAt h 4 2 ≠ 1 ∨ nw = 0 ∨ 4096 < nw ∨ ((h.drop 8).take 56).any (· != 0) then
      .error ⟨cIllegal, 0, 0⟩
    else match s.progBytes d c (a + 192) (8 * nw) with
      | .error f => .error f
      | .ok b => .ok (tsets 0 [] 0 ((List.range 16).map fun i => BitVec.ofNat 64 (leAt h (64 + 8 * i) 8)),
          (List.range nw).map fun i => BitVec.ofNat 64 (leAt b (8 * i) 8))

/-- The dies of a mask. -/
def maskDies (m : Nat) : List Nat := (List.range 4).filter fun d => m.testBit d

/-- The sequencer slots of a die that are free. -/
def State.freeSlot (s : State) (d : Nat) : Option Nat := (List.range 8).find? fun k => (s.prog d k).isNone

/-- Ticks that a generation value stays unused after it retired (R420). -/
def genGap : Nat := 1700000

/-- Whether a COLL can start (R297, R298, R406, R420). -/
def State.collSt (s : State) (x : Queue) (w : List Word) : HeadSt :=
  let t := fld (cw w 2) 0 3
  let g := s.pgt x.ctx t
  let dies := maskDies (fld (cw w 3) 0 4)
  let read := dies.findSome? fun d => match s.readProgram d x.ctx (cw w 1) with
    | .error f => some f
    | .ok _ => none
  let bad := if addrPath (cw w 1) ≠ 0 ∨ (cw w 1).toNat % 64 ≠ 0 then some ⟨pathCause .cp (cw w 1), cw w 1, 0⟩ else read
  if bad.any (·.cause == cIllegal) then tagged w cIllegal 0
  else if g.v = false then tagged w cFrame 0
  else match s.cmdRods x.ctx (if cmdRv w then [(.add, cw w 4)] else []) with
    | some f => refused w f
    | none => match bad with
      | some f => refused w f
      | none =>
        let gap := (g.retired.find? fun (n, _) => n == g.gen.toNat).any fun (_, at0) => decide (s.tick.toNat < at0 + genGap)
        let same := dies.any fun d => (List.range 8).any fun k => (s.prog d k).any fun p => p.ctx == x.ctx && p.tbl == t
        if gap ∨ same ∨ dies.any (fun d => (s.freeSlot d).isNone) then .wait else .go

/-- What the wait of a ROD_WAIT at the head leaves to be tested (R296, R346). -/
def State.queueWait (s : State) (x : Queue) (w : List Word) (h : Nat) : Option RodWaiter :=
  s.rodWaitStep ⟨.cp, some x.ctx⟩ x.rodw (cw w 1) h (cw w 2) (s.rodCount (cw w 1) h) (cmdScope w + 1)

/-- What may become of a command at the head of a queue. -/
def State.cmdSt (s : State) (x : Queue) (w : List Word) : HeadSt :=
  if cmdFieldsOk w = false then tagged w cIllegal 0
  else match cmdOpc w with
    | 1 => s.launchSt x w
    | 2 => (match s.cmdRods x.ctx [(.add, cw w 1)] with
      | some f => refused w f
      | none => .go)
    | 3 => (match (s.checkRod ⟨.cp, some x.ctx⟩ .wait (cw w 1)).1 with
      | .error f => refused w f
      | .ok h => if (s.queueWait x w h).isNone then .go else .wait)
    | 4 => s.copySt x w
    | 5 => s.collSt x w
    | 6 => if x.unfin = [] ∧ s.depsDone x.after then .go else .wait
    | _ => (match (s.resolve (cpVia x.ctx .store) [0x0, 0x2] (cw w 1) 16 true).1 with
      | .error f => refused w (memoryOnly f)
      | .ok _ => .go)

/-- The head of a queue and what may become of it. -/
def State.headSt (s : State) (x : Queue) : List Word × HeadSt :=
  match s.headCmd x with
  | .error f => ([], .refuse f)
  | .ok w => (w, s.cmdSt x w)

/-! ## Arbitration (R299) -/

/-- Whether a queue is servable. -/
def State.servable (s : State) (q : Nat) : Bool :=
  let x := s.queue q
  x.st == .ready && (s.ctx x.ctx).st == .running && (s.headSt x).2 == .go

/-- The queue that cp_pick chooses. -/
def State.cpPick (s : State) : Option Nat :=
  [7, 6, 5, 4, 3, 2, 1, 0].findSome? fun p =>
    ((List.range 256).map fun i => (tget 255 s.cp.last p + i + 1) % 256).find? fun q =>
      (s.queue q).prio == p && s.servable q

/-- Whether eight cycles have passed since the last start. -/
def State.cpFree (s : State) : Bool :=
  match s.cp.lastAt with
  | none => true
  | some t => decide (t + 8 ≤ s.clock.cyc)

/-- HEAD advances past a command that starts (R294). -/
def State.advanceHead (s : State) (q : Nat) : State :=
  let x := s.queue q
  let h := x.head + 1
  let s1 := s.setQueue q { x with head := h, st := if h = x.tail then .idle else .ready, rodw := none }
  { s1 with cp := { s1.cp with last := tput s1.cp.last x.prio q, lastAt := some s1.clock.cyc } }

/-- The rod wait that a head which has to wait leaves with its queue. -/
def State.newWait (s : State) (x : Queue) (w : List Word) : Option RodWaiter :=
  if cmdOpc w ≠ 3 then none
  else match (s.checkRod ⟨.cp, some x.ctx⟩ .wait (cw w 1)).1 with
    | .ok h => s.queueWait x w h
    | .error _ => none

/-- A head command of operation `opc` is examined: refused, made to wait, made ready again, or, where cp_pick chooses its
queue, started by `k`. A head that has no operation of R295 is refused by whichever event examines it. -/
def State.examine (s : State) (q opc : Nat) (k : State → Queue → List Word → State) : State :=
  let x := s.queue q
  if 256 ≤ q ∨ (x.st ≠ .ready ∧ x.st ≠ .waiting) ∨ (s.ctx x.ctx).st ≠ .running then s
  else
    let (w, st) := s.headSt x
    if w ≠ [] ∧ 1 ≤ cmdOpc w ∧ cmdOpc w ≤ 7 ∧ cmdOpc w ≠ opc then s
    else match st with
      | .refuse f => s.haltQueue q f
      | .wait => s.setQueue q { x with st := .waiting, rodw := s.newWait x w }
      | .go =>
        if x.st = .waiting then s.setQueue q { x with st := .ready }
        else if s.cpFree = false ∨ s.cpPick ≠ some q then s
        else k (s.advanceHead q) x w

/-! ## The commands (R296) -/

/-- The launch that a LAUNCH command describes. -/
def launchOf (q idx : Nat) (w : List Word) : Launch where
  queue := some (q, idx)
  tag := cmdTag w
  dual := launchDual w
  pgtm := launchPgtm w
  crod := if cmdRv w then some (cw w 2) else none
  cadd := (cw w 3).extractLsb' 0 32
  trod := if launchTrv w then some (cw w 4) else none
  tadd := (cw w 3).extractLsb' 32 32
  scope := cmdScope w

/-- A started command of a queue has not completed yet. -/
def State.unfinished (s : State) (q idx : Nat) : State :=
  let x := s.queue q
  s.setQueue q { x with unfin := x.unfin ++ [idx] }

/-- CMD_LAUNCH (R296). -/
def execCmdLaunch (q : Nat) (s : State) : Host.Outcome State Fault Refusal :=
  .next (s.examine q 1 fun t x w =>
    match t.kidKernel x.ctx (launchKid w), t.freeInst x.ctx with
    | some k, some i =>
      (t.unfinished q x.head.toNat).startInst k i (launchOf q x.head.toNat w) (some ((w.drop 5).take (cmdNarg w)))
    | _, _ => t)

/-- CMD_ROD_ADD (R296): the add is made at start. -/
def execCmdRodAdd (q : Nat) (s : State) : Host.Outcome State Fault Refusal :=
  .next (s.examine q 2 fun t x w => t.cpRod x.ctx (cmdTag w) (cw w 1) (fld (cw w 2) 0 32) State.addRod)

/-- CMD_ROD_WAIT (R296): an acquire at the command's scope. -/
def execCmdRodWait (q : Nat) (s : State) : Host.Outcome State Fault Refusal :=
  .next (s.examine q 3 fun t x w => (t.acquireAt x.ctx (cmdScope w + 1)).2)

/-- The lowest number that no COPY in progress bears. -/
def State.copyNum (s : State) : Nat :=
  ((List.range (s.cp.copies.length + 1)).find? fun n => s.cp.copies.all fun c => c.n != n).getD 0

/-- CMD_COPY (R296). -/
def execCmdCopy (q : Nat) (s : State) : Host.Outcome State Fault Refusal :=
  .next (s.examine q 4 fun t x w =>
    let c : CopyStream :=
      { n := t.copyNum, id := t.nextId, queue := (q, x.head.toNat), tag := cmdTag w, ctx := x.ctx, src := cw w 1, dst := cw w 2,
        rod := if cmdRv w then some (cw w 4) else none, cadd := (cw w 5).extractLsb' 0 32, scope := cmdScope w }
    let c1 := { c with todo := List.range (fld (cw w 3) 0 41 / c.piece) }
    let u := t.unfinished q x.head.toNat
    { u with nextId := u.nextId + 1, cp := { u.cp with copies := u.cp.copies ++ [c1] } })

/-- A sequencer takes a program (R406). -/
def State.acceptProgram (s : State) (d c t gen : Nat) (w : List Word) : State :=
  match s.freeSlot d, s.readProgram d c (cw w 1) with
  | some k, .ok (regs, words) =>
    s.setProg d k (some { ctx := c, tbl := t, gen := gen, mask := (cw w 3).extractLsb' 0 4, addr := cw w 1,
                          rod := if cmdRv w then some (cw w 4) else none, cadd := (cw w 5).extractLsb' 0 32,
                          words := words, w := regs })
  | _, _ => s

/-- The requests of a generation that wait on the dies are dropped (R423). -/
def State.dropReqs (s : State) (c t gen : Nat) : State :=
  s.each (List.range 4) fun d u =>
    let x := u.die d
    u.setDie d { x with reqs := x.reqs.filter fun e => !(e.ctx == c && e.tbl == t && e.pkt.gen.toNat == gen) }

/-- A COLL whose generation has been aborted before it started here: the generation retires at once, and the COLL never completes
(R423). -/
def State.stillborn (s : State) (c n gen : Nat) : State :=
  let g := s.pgt c n
  let s1 := s.setPgt c n { g with gen := g.gen + 1, retired := tput g.retired gen s.tick.toNat }
  let mark := fun a : AbortWait => if a.ctx == c && a.tbl == n && a.gen == gen then { a with early := false } else a
  ({ s1 with cp := { s1.cp with aborts := s1.cp.aborts.map mark } }).dropReqs c n gen

/-- CMD_COLL (R296, R420, R423). -/
def execCmdColl (q : Nat) (s : State) : Host.Outcome State Fault Refusal :=
  .next (s.examine q 5 fun t x w =>
    let n := fld (cw w 2) 0 3
    let g := t.pgt x.ctx n
    let gen := g.gen.toNat
    if t.cp.aborts.any fun a => a.ctx == x.ctx && a.tbl == n && a.gen == gen && a.early then
      (t.unfinished q x.head.toNat).stillborn x.ctx n gen
    else
    let t1 := t.setPgt x.ctx n { g with gen := g.gen + 1, live := g.live ++ [gen], retired := tdel g.retired gen }
    let c : Coll :=
      { queue := (q, x.head.toNat), tag := cmdTag w, ctx := x.ctx, tbl := n, gen := gen, mask := (cw w 3).extractLsb' 0 4,
        rod := if cmdRv w then some (cw w 4) else none, cadd := (cw w 5).extractLsb' 0 32, scope := cmdScope w }
    let t2 := t1.unfinished q x.head.toNat
    let stale := fun a : AbortWait => a.ctx == x.ctx && a.tbl == n && a.gen == gen && a.done
    let t3 := { t2 with cp := { t2.cp with colls := t2.cp.colls ++ [c], aborts := t2.cp.aborts.filter fun a => !stale a } }
    t3.each (maskDies (fld (cw w 3) 0 4)) fun d u => u.acceptProgram d x.ctx n gen w)

/-- CMD_FENCE (R296). -/
def execCmdFence (q : Nat) (s : State) : Host.Outcome State Fault Refusal :=
  .next (s.examine q 6 fun t _ _ => t)

/-- CMD_MARK (R296): the tick, then TAG, as 16 bytes, each by itself (R223), a release: behind what the command processor has on its way
for the context; a FENCE follows them (R300). -/
def execCmdMark (q : Nat) (s : State) : Host.Outcome State Fault Refusal :=
  .next (s.examine q 7 fun t x w =>
    match t.resolve (cpVia x.ctx .store) [0x0, 0x2] (cw w 1) 16 true with
    | (.error f, u) => u.haltQueue q f
    | (.ok hs, u) =>
      let before := u.effectIds fun o => o.unit == 252 && o.ctx == x.ctx
      let v := u.postPieces before 1 hs (leBytes 8 u.tick.toNat ++ leBytes 8 (cmdTag w)) (cpWho x.ctx)
      v.commandDone q x.head.toNat (v.idsSince u))

/-! ## Posts to a device queue (R302) -/

/-- DEVICE_QUEUE_POST (R302): the command that an engine has made is written at TAIL in the entry that its reservation holds. A post that
meets a torn-down context is discarded (R291). -/
def execDeviceQueuePost (ctx inst : Nat) (post : DevicePost) (s : State) : Host.Outcome State Fault Refusal :=
  let held := s.cp.resv.find? fun r => r.ctx == ctx && r.eng == post.eng && r.granted && r.uid == 0
  let resv := (held.map s.cp.resv.erase).getD s.cp.resv
  let s1 := { s with cp := { s.cp with resv := resv } }
  if (s.ctx ctx).st = .tearing ∨ (s.ctx ctx).st = .free then .next s1
  else match s1.deviceQueue ctx with
    | none => .next (s1.report 0 cFrame ⟨ctx, some inst, 0, 252, 0, 0⟩ 0 (BitVec.ofNat 64 (cmdTag post.words)) none)
    | some (q, x) =>
      match s1.resolve (cpVia ctx .store) [0x0, 0x2] (x.slotAddr x.tail) 64 true with
      | (.error f, t) => .next (t.haltQueue q f)
      | (.ok hs, t) =>
        let t1 := t.storeHomes hs (post.words.flatMap fun w => leBytes 8 w.toNat)
        .next (t1.setQueue q { x with tail := x.tail + 1, st := if x.st = .idle then .ready else x.st })

/-! ## Queue registers (R292–R294) -/

/-- DISABLE, FLUSH and ENABLE (R294). -/
def Queue.command (x : Queue) (cmd : Nat) : Queue :=
  match cmd with
  | 1 =>
    if x.st = .disabled then { x with st := if x.tail = x.head then .idle else .ready }
    else if x.st = .halted then { x with st := .ready }
    else x
  | 2 => { x with st := .disabled, rodw := none }
  | 3 => if x.st = .disabled then x else { x with head := x.tail, st := .idle, rodw := none }
  | _ => x

/-- A write of word 0 of a queue's block; `cmd` is its command (R292–R294). A DEVQ = 1 for a context that has another device queue
leaves CTX and DEVQ as they are; PRIO and the command act all the same (log 124). -/
def State.queueWord0 (s : State) (q : Nat) (v : Word) (cmd : Nat) : State :=
  let x := s.queue q
  let c := if fld v 8 7 < 64 then fld v 8 7 else x.ctx
  let other := s.cp.queues.any fun (n, y) => n != q && y.devq && y.ctx == c
  let x2 := if x.st = .disabled ∧ ¬ (v.getLsbD 15 ∧ other) then { x with ctx := c, devq := v.getLsbD 15 } else x
  (s.setQueue q (({ x2 with prio := fld v 4 3 } : Queue).command cmd)).refuseResv q

/-- A write of TAIL (R293). -/
def State.queueTail (s : State) (q : Nat) (v : Word) : State :=
  let x := s.queue q
  let t := v.extractLsb' 0 32
  if 2 ^ x.log2n < (t - x.head).toNat then
    if x.st = .idle ∨ x.st = .ready ∨ x.st = .waiting then s.haltQueue q ⟨cBadpath, 0, 0⟩ else s
  else s.setQueue q { x with tail := t, st := if x.st = .idle ∧ t ≠ x.head then .ready else x.st }

/-- A write of word `n` of a queue's block (R293). -/
def State.queueWord (s : State) (q n : Nat) (v : Word) : State :=
  let x := s.queue q
  match n with
  | 0 => s.queueWord0 q v (fld v 16 4)
  | 1 => if x.st = .disabled ∧ (addrPath v = 0 ∨ addrPath v = 2) ∧ v.toNat % 64 = 0 then s.setQueue q { x with base := v } else s
  | 2 => if x.st = .disabled ∧ 4 ≤ fld v 0 5 ∧ fld v 0 5 ≤ 20 then s.setQueue q { x with log2n := fld v 0 5 } else s
  | 4 => s.queueTail q v
  | _ => s

/-- The words of a queue's block as they read (R292). -/
def Queue.readWord (x : Queue) (n : Nat) : Word :=
  match n with
  | 0 => put 15 1 (b2n x.devq) ||| put 8 7 x.ctx ||| put 4 3 x.prio ||| put 0 3 (match x.st with
      | .disabled => 0 | .idle => 1 | .ready => 2 | .waiting => 3 | .halted => 4)
  | 1 => x.base
  | 2 => put 0 5 x.log2n
  | 3 => x.head.setWidth 64
  | 4 => x.tail.setWidth 64
  | 5 => put 32 8 x.ecode ||| put 0 32 x.eidx.toNat
  | _ => 0

/-- QUEUE_ENABLE (R294): a write of word 0 with CMD 1. -/
def execQueueEnable (q : Nat) (v : Word) (s : State) : Host.Outcome State Fault Refusal :=
  .next (if 256 ≤ q then s else s.regEvent (queueOff q 0) v (s.queueWord0 q v 1))
/-- QUEUE_DISABLE (R294): a write of word 0 with CMD 2. -/
def execQueueDisable (q : Nat) (v : Word) (s : State) : Host.Outcome State Fault Refusal :=
  .next (if 256 ≤ q then s else s.regEvent (queueOff q 0) v (s.queueWord0 q v 2))
/-- QUEUE_FLUSH (R294): a write of word 0 with CMD 3. -/
def execQueueFlush (q : Nat) (v : Word) (s : State) : Host.Outcome State Fault Refusal :=
  .next (if 256 ≤ q then s else s.regEvent (queueOff q 0) v (s.queueWord0 q v 3))
/-- QUEUE_TAIL_WRITE (R293). -/
def execQueueTailWrite (q : Nat) (v : Word) (s : State) : Host.Outcome State Fault Refusal :=
  .next (if 256 ≤ q then s else s.regEvent (queueOff q 4) v (s.queueTail q v))

/-! ## Freeing a rod (R344, R351) -/

/-- Whether a queue waits on a rod. -/
def State.queueWaitsOn (s : State) (x : Queue) (r : Word) : Bool :=
  x.st == .waiting && (match s.headCmd x with
    | .ok w => cmdOpc w == 3 && cw w 1 == r
    | .error _ => false)

/-- Whether a pass waits on a rod that is no memory rod. -/
def Active.waitsOn (a : Active) (r : Word) : Bool := match a.pass.wait with | .rod k _ _ _ => k == r | _ => false

/-- An allocated die or group rod becomes FREE (R344). -/
def State.freeRod (s : State) (r : Word) : State :=
  let s1 := s.setRod r {}
  let s2 := s1.each (s1.eng.map (·.1)) fun e t => t.faultPasses e (fun a => a.waitsOn r) ⟨cFrame, 0, 0⟩
  (s2.cp.queues.filter fun (_, x) => s2.queueWaitsOn x r).foldl (fun t (q, x) =>
    t.haltQueue q ⟨cFrame, 0, BitVec.ofNat 64 (match t.headCmd x with | .ok w => cmdTag w | .error _ => 0)⟩) s2

/-- ROD.INIT.FREE (R351). -/
def execRodInitFree (f : FmtM) (s : State) : Host.Outcome State Fault Refusal :=
  onSup (.rodInitFree f) s fun d c =>
    let r := c.rd f.sa
    if rodFieldsOk r = false ∨ (rodKind r ≠ 1 ∧ rodKind r ≠ 2) ∨ (s.rod r).a = false then s.coreFault d cFrame 0
    else (s.setCore d c.adv).freeRod r

end Sys2Proof.Machine
end

