-- ==== Sys2Proof/Machine/Groups.lean ====
section
/-!
DEFINITION. Groups (R325–R330), the clearing of their members (R289), and the pool of a die: readiness, bins, dispatch and
promotion (R335–R338).
-/
namespace Sys2Proof.Machine

/-! ## Clearing (R289) -/

/-- Whether a loaded kernel owns a frame of a unit. -/
def State.frameOwned (s : State) (unit n : Nat) : Bool :=
  s.cp.kernels.any fun (_, k) => k.used && k.place.frames.contains (unit, n)

/-- An engine cleared for a new holder (R289): the frames of a kernel that stays loaded keep the geometry that it gave them, and no more. -/
def State.clearEngine (s : State) (e : Nat) : State :=
  let x := s.engine e
  let ft := (x.t.ft.filter fun (n, _) => s.frameOwned e n).map fun (n, f) =>
    (n, ({ ctx := f.ctx, owner := f.owner, w := f.w, spc := f.spc, base := f.base, wbase0 := f.wbase0 } : Frame))
  let t := { x.t with ft := ft, ms := [], orun := [] }
  let lo := scratchHome e 0
  let s1 := s.setEngine e { x with t := t, q := [], lanes := [], rods := [], elig := [], recvs := [], timers := [] }
  { s1 with mem := s1.mem.filter (fun (h, _) => decide (h < lo) || decide (lo + 2 ^ 20 ≤ h)),
            ecc := s1.ecc.filter fun w => decide (w * 8 + 8 ≤ lo) || decide (lo + 2 ^ 20 ≤ w * 8) }

/-- A group enters RESERVED (R330): every member is cleared, which takes 64 cycles, with the busy maps of its pooled operators. -/
def State.enterReserved (s : State) (d g : Nat) (x : Group) : State :=
  let ms := groupMembers d x
  let s1 := ms.foldl (fun t e => t.clearEngine e) s
  let p := s1.pool d
  let s2 := s1.setPool d { p with cur := p.cur.filter (fun (n, _) => n / 8 != g), lastM := tput p.lastM g (ms.length - 1),
                                  ready := p.ready.filter (fun r => r.grp != g), busy := p.busy.filter fun (n, _) => n / 2048 != g }
  s2.setGroup d g { x with st := .reserved, nmem := ms.length, clear := some (s.clock.cyc + 64) }

/-! ## Commands (R328–R330) -/

/-- Whether an engine is held by a group other than `g` of its die. -/
def State.heldByOther (s : State) (d g e : Nat) : Bool :=
  (s.units d).groups.any fun (n, x) => n != g && x.holds && (groupMembers d x).contains e

/-- Why a RESERVE is refused (R329). -/
def State.reserveFault (s : State) (d g : Nat) (x : Group) : Option Nat :=
  if groupShapeOk x = false then some cIllegal
  else if (s.ctx x.ctx).st = .free ∨ (s.ctx x.ctx).st = .tearing then some cFrame
  else if (groupMembers d x).any (s.heldByOther d g) then some cFrame
  else none

/-- Whether a kernel slot places an engine of a group, whichever context its kernel belongs to (R330). -/
def State.groupInUse (s : State) (d : Nat) (x : Group) : Bool :=
  s.cp.kernels.any fun (_, k) => k.used && k.place.map.any fun (_, e) => (groupMembers d x).contains e

/-- The group rods of a group are freed as it reaches FREE (R344). -/
def State.freeGroup (s : State) (d g : Nat) : State :=
  let x := s.group d g
  let s1 := s.setGroup d g { x with st := .free, nmem := 0, clear := none }
  ((s1.units d).grods.filter fun (_, r) => r.a && r.grp == g).foldl
    (fun t (n, _) => t.freeRod (put 62 2 1 ||| put 60 2 d ||| put 0 8 n)) s1

/-- RESERVE (R329, R330). -/
def State.groupReserve (s : State) (d g : Nat) : State :=
  let x := s.group d g
  if x.st ≠ .free then s.setGroup d g { x with rcode := cFrame }
  else match s.reserveFault d g x with
    | some c => s.setGroup d g { x with rcode := c }
    | none => s.enterReserved d g { x with rcode := 0 }

/-- FREE (R330). -/
def State.groupFree (s : State) (d g : Nat) : State :=
  let x := s.group d g
  if (x.st = .reserved ∨ x.st = .parked) ∧ s.groupInUse d x = false then
    (s.setGroup d g { x with rcode := 0 }).freeGroup d g
  else s.setGroup d g { x with rcode := cFrame }

/-- A write of word 0 of a group's block; `cmd` is its command. -/
def State.groupWord0 (s : State) (d g : Nat) (v : Word) (cmd : Nat) : State :=
  let x := s.group d g
  let s1 := if x.st = .free then s.setGroup d g { x with ctx := fld v 8 6 } else s
  match cmd with
  | 1 => s1.groupReserve d g
  | 2 => s1.groupFree d g
  | _ => s1

/-- A write of word `n` of a group's block (R328). -/
def State.groupWord (s : State) (d g n : Nat) (v : Word) : State :=
  let x := s.group d g
  match n with
  | 0 => s.groupWord0 d g v (fld v 16 4)
  | 1 => if x.st = .free then s.setGroup d g { x with rm1 := fld v 10 4, cm1 := fld v 7 3, origin := fld v 0 7 } else s
  | _ => s

/-- The words of a group's block as they read (R328). -/
def Group.readWord (x : Group) (n : Nat) : Word :=
  match n with
  | 0 => put 8 6 x.ctx ||| put 0 3 (match x.st with | .free => 0 | .reserved => 1 | .active => 2 | .parked => 3)
  | 1 => put 10 4 x.rm1 ||| put 7 3 x.cm1 ||| put 0 7 x.origin
  | 2 => put 8 8 x.rcode ||| put 0 5 x.nmem
  | _ => 0

/-- GROUP_RESERVE (R330): a write of word 0 with CMD 1. -/
def execGroupReserve (d g : Nat) (v : Word) (s : State) : Host.Outcome State Fault Refusal :=
  .next (if 4 ≤ d ∨ 72 ≤ g then s else s.regEvent (groupOff d g 0) v (s.groupWord0 d g v 1))
/-- GROUP_FREE (R330): a write of word 0 with CMD 2. -/
def execGroupFree (d g : Nat) (v : Word) (s : State) : Host.Outcome State Fault Refusal :=
  .next (if 4 ≤ d ∨ 72 ≤ g then s else s.regEvent (groupOff d g 0) v (s.groupWord0 d g v 2))

/-- GROUP_CLEAR_COMPLETE (R330): the clearing ends, and the group of a RUNNING context becomes ACTIVE. -/
def execGroupClearComplete (d g : Nat) (s : State) : Host.Outcome State Fault Refusal :=
  let x := s.group d g
  match x.clear with
  | none => .next s
  | some t =>
    if s.clock.cyc < t then .next s
    else .next (s.setGroup d g { x with clear := none, st := if (s.ctx x.ctx).st = .running then .active else x.st })

/-! ## The pool: ready colours (R336, R338) -/

/-- A ready colour that has waited one cycle more: at AGELIM it moves up one priority, and its count restarts (R338). -/
def Pool.aged (p : Pool) (r : PoolReady) : PoolReady :=
  if p.agelim = 0 ∨ 7 ≤ r.prio ∨ r.wait + 1 < p.agelim.toNat then { r with wait := r.wait + 1 }
  else { r with prio := r.prio + 1, wait := 0 }

/-- The ready list of a pool as a cycle begins: those that stay ready wait on, those that became ready in the cycle before join
(R336, R338). -/
def State.poolTick (s : State) (d : Nat) : State :=
  let p := s.pool d
  let l := (s.poolNow d).map fun (g, op, c, b, pr) =>
    p.aged ((p.ready.find? fun r => r.grp == g && r.op == op && r.col == c).getD
      { op := op, col := c, prio := pr, bin := b, grp := g, since := s.clock.cyc - 1, wait := 0 })
  if l = p.ready ∧ p.did = false then s else s.setPool d { p with ready := l, did := false }

/-! ## Dispatch (R337) -/

/-- The first of 1 to `n` steps after `a`, modulo `m`, that `p` picks. -/
def firstAfter (a m n : Nat) (p : Nat → Bool) : Option Nat :=
  ((List.range n).map fun i => (a + i + 1) % m).find? p

/-- The ready colours of a group at a priority that may be dispatched: still ready, ready before this cycle, of an ACTIVE group of
a RUNNING context. -/
def State.poolAt (s : State) (d g p : Nat) : List PoolReady :=
  (s.pool d).ready.filter fun r => r.grp == g && r.prio == p && decide (r.since < s.clock.cyc) &&
    (s.group d g).st == .active && (s.ctx (s.group d g).ctx).st == .running && (s.poolIns d g r.op r.col).isSome

/-- The colours after `c` of the same operator, bin and priority that join its run firing. -/
def State.poolGather (s : State) (d g : Nat) (l : List PoolReady) (op b c : Nat) (taken : List Nat) :
    Nat → List (Nat × List PortIn)
  | 0 => []
  | n + 1 =>
    let o := s.poolEntry d g op
    let k := (c + 1) % 4096
    if l.any fun r => r.op == op && r.bin == b && r.col == k then
      match s.poolIns d g op k, (groupMembers d (s.group d g)).head? with
      | some ins, some m =>
        if o.fate ins = .run ∧ k ∉ taken ∧ taken.all (fun y => !(s.engine m).clash o k y) then
          (k, ins) :: s.poolGather d g l op b k (k :: taken) n
        else []
      | _, _ => []
    else []

/-- A run firing moves from the pool to a member's intake. -/
def State.poolSend (s : State) (d g p b m : Nat) (r : PoolReady) (ps : List (Nat × List PortIn)) : State :=
  let o := s.poolEntry d g r.op
  let f := s.frame (.pool d) o.frame
  let ms := groupMembers d (s.group d g)
  let e := ms.getD m 0
  let fr : Firing :=
    { op := r.op, ctx := f.ctx, inst := f.inst, seq := s.instSeq f.ctx f.inst, prio := o.h.prio,
      off := (r.col + 4096 - f.wbase) % 4096, since := s.clock.cyc, len := ps.length, passes := ps, group := some g }
  let s1 := ps.foldl (fun t (c, _) => t.clearSlots (.pool d) f o c) s
  let x := s1.engine e
  let y := x.slot o.h.cls
  let s2 := s1.setEngine e (x.setSlot o.h.cls { y with intake := y.intake ++ [fr] })
  let q := s2.pool d
  let left := q.ready.filter fun z => !(z.grp == g && z.op == r.op && ps.any fun (c, _) => c == z.col)
  s2.setPool d { q with ready := left, lastG := g, cur := tset 0 q.cur (8 * g + p) b, lastM := tput q.lastM g m }

/-- dispatch_from(g) (R337): the state after the dispatch, if there is one. -/
def State.dispatchFrom (s : State) (d g : Nat) : Option State :=
  match [7, 6, 5, 4, 3, 2, 1, 0].find? fun p => s.poolAt d g p != [] with
  | none => none
  | some p =>
    let l := s.poolAt d g p
    let cur := tget 0 (s.pool d).cur (8 * g + p)
    let has := fun b => l.any fun r => r.bin == b
    let b := if has cur then cur else (firstAfter cur 64 64 has).getD cur
    let age := fun r : PoolReady =>
      let f := s.frame (.pool d) (s.poolEntry d g r.op).frame
      (ageOf (s.instSeq f.ctx f.inst) r.col).toNat
    match pickMin (fun a c => decide (age a < age c) || (age a == age c && decide (a.op < c.op))) (l.filter fun r => r.bin == b) with
    | none => none
    | some r =>
      let o := s.poolEntry d g r.op
      let ms := groupMembers d (s.group d g)
      match firstAfter (tget (ms.length - 1) (s.pool d).lastM g) ms.length ms.length fun m =>
          decide (((s.engine (ms.getD m 0)).slot o.h.cls).intake.length < 4) with
      | none => none
      | some m =>
        match s.poolIns d g r.op r.col with
        | none => none
        | some ins =>
          let more := if o.fate ins = .run then s.poolGather d g l r.op b r.col [r.col] 31 else []
          (s.decision 2 d 248 [g, r.op, r.col, m, more.length]).map fun t => t.poolSend d g p b m r ((r.col, ins) :: more)

/-- The bin pointer of a group's highest ready priority moves to the next bin with a ready colour, whether or not a member
has room (R337). -/
def State.poolAim (s : State) (d g : Nat) : State :=
  match [7, 6, 5, 4, 3, 2, 1, 0].find? fun p => s.poolAt d g p != [] with
  | none => s
  | some p =>
    let l := s.poolAt d g p
    let q := s.pool d
    let cur := tget 0 q.cur (8 * g + p)
    let has := fun b => l.any fun r => r.bin == b
    let b := if has cur then cur else (firstAfter cur 64 64 has).getD cur
    if b = cur then s else s.setPool d { q with cur := tset 0 q.cur (8 * g + p) b }

/-- The groups of a die are tried in turn until one dispatches (R337). -/
def State.poolScan (s : State) (d : Nat) : List Nat → State
  | [] => s
  | g :: r =>
    let t := s.poolAim d g
    match t.dispatchFrom d g with
    | some u => u.setPool d { u.pool d with did := true }
    | none => t.poolScan d r

/-- pool_cycle() of R337, at most once in a cycle. -/
def State.poolCycle (s : State) (d : Nat) : State :=
  let p := s.pool d
  if p.did then s else s.poolScan d ((List.range 72).map fun n => (p.lastG + n + 1) % 72)
/-- POOL_DISPATCH (R337): the dispatcher acts at some moment of the cycle, and at its end where it has not (State.cycle). -/
def execPoolDispatch (d : Nat) (s : State) : Host.Outcome State Fault Refusal :=
  .next (if 4 ≤ d then s else s.poolCycle d)

/-- POOL_PRIORITY_PROMOTE (R338): between the cycles, at each of which State.poolTick promotes, only a new AGELIM can make a colour
due. -/
def execPoolPriorityPromote (d n : Nat) (s : State) : Host.Outcome State Fault Refusal :=
  let p := s.pool d
  match p.ready[n]? with
  | none => .next s
  | some r =>
    if p.agelim = 0 ∨ 7 ≤ r.prio ∨ r.wait < p.agelim.toNat then .next s
    else .next (s.setPool d { p with ready := p.ready.set n { r with prio := r.prio + 1, wait := 0 } })

/-- The words of the pool block as they read (R338). -/
def State.poolReadWord (s : State) (d n : Nat) : Word :=
  let p := s.pool d
  match n with
  | 0 => p.agelim.setWidth 64
  | 1 => BitVec.ofNat 64 (32768 - (p.ms.filter fun (_, x) => x.p).length)
  | _ => 0

/-- A write of word `n` of the pool block (R338). -/
def State.poolWord (s : State) (d n : Nat) (v : Word) : State :=
  if n = 0 then let p := s.pool d; s.setPool d { p with agelim := v.extractLsb' 0 32 } else s

end Sys2Proof.Machine
end

