-- ==== Sys2Proof/Machine/Contexts.lean ====
section
/-!
DEFINITION. Contexts (R279–R287, R290): the context block, the states and commands, region scheduling, soft and hard
pre-emption, tear-down.
-/
namespace Sys2Proof.Machine

/-! ## The context block (R279, R280) -/

/-- The words of a context's block as they read (R279). -/
def Ctx.readWord (x : Ctx) (n : Nat) : Word :=
  match n with
  | 0 => put 7 1 (b2n x.hv) ||| put 4 3 x.prio ||| put 0 3 (match x.st with
      | .free => 0 | .ready => 1 | .running => 2 | .draining => 3 | .stopped => 4 | .tearing => 5)
  | 1 => put 16 32 x.r.root.toNat
  | 2 => put 32 32 x.r.hdead.toNat ||| put 0 32 x.r.quantum.toNat
  | 3 => x.r.hentry
  | 4 => x.r.ovbase
  | 5 => put 0 32 x.r.ovsize.toNat
  | 6 => put 0 48 x.r.dshb.toNat
  | 7 => x.r.seed
  | 8 => x.r.age
  | 13 => put 14 14 x.r.pcnt ||| put 0 14 x.r.pfirst
  | 14 => x.r.savea
  | 15 => put 8 4 x.rstd.toNat ||| put 4 4 x.snapd.toNat ||| put 1 1 (b2n x.hards) ||| put 0 1 (b2n x.svalid)
  | n => if 9 ≤ n ∧ n ≤ 12 then
      let w := tget {} x.r.win (n - 9)
      put 8 7 w.cnt ||| put 0 7 w.first
    else 0

/-- Whether words 1 and 4 to 13 of a block may be written (R280). -/
def Ctx.open_ (x : Ctx) : Bool := x.st == .free || x.st == .ready

/-- The registers of a block after a write of word `n` (R280); word 0 apart. -/
def CtxRegs.write (r : CtxRegs) (isOpen : Bool) (n : Nat) (v : Word) : CtxRegs :=
  match n with
  | 2 => { r with hdead := v.extractLsb' 32 32, quantum := v.extractLsb' 0 32 }
  | 3 => if v.toNat % 8 = 0 then { r with hentry := v } else r
  | 14 => { r with savea := v }
  | n =>
    if isOpen = false then r
    else match n with
      | 1 => { r with root := v.extractLsb' 16 32 }
      | 4 => { r with ovbase := v }
      | 5 => { r with ovsize := v.extractLsb' 0 32 }
      | 6 => if fld v 0 48 % 524288 = 0 then { r with dshb := v.extractLsb' 0 48 } else r
      | 7 => { r with seed := v }
      | 8 => { r with age := v }
      | 13 => if fld v 0 14 + fld v 14 14 ≤ 12288 then { r with pcnt := fld v 14 14, pfirst := fld v 0 14 } else r
      | n =>
        if 9 ≤ n ∧ n ≤ 12 ∧ fld v 0 7 + fld v 8 7 ≤ 72 then
          let w : VWin := { cnt := fld v 8 7, first := fld v 0 7 }
          { r with win := tset {} r.win (n - 9) w }
        else r

/-! ## Groups of a context -/

/-- The groups of a context, as (die, group), whose state `p` picks. -/
def State.ctxGroups (s : State) (c : Nat) (p : GroupSt → Bool) : List (Nat × Nat) :=
  (List.range 4).flatMap fun d => ((s.units d).groups.filter fun (_, x) => x.ctx == c && p x.st).map fun (g, _) => (d, g)
/-- The dies that hold engines of a context. -/
def State.ctxDies (s : State) (c : Nat) : List Nat := ((s.ctxGroups c fun t => t != .free).map (·.1)).dedup
/-- The engines that a context's groups hold. -/
def State.ctxEngines (s : State) (c : Nat) : List Nat :=
  (s.ctxGroups c fun t => t == .reserved || t == .active).flatMap fun (d, g) => groupMembers d (s.group d g)
/-- The RESERVED groups of a context whose clearing has finished become ACTIVE (R330). -/
def State.activate (s : State) (c : Nat) : State :=
  (s.ctxGroups c fun t => t == .reserved).foldl (fun t (d, g) =>
    let x := t.group d g
    if x.clear.isNone then t.setGroup d g { x with st := .active } else t) s
/-- The command processor rings the cores of the dies that hold a context's engines. -/
def State.ringDies (s : State) (c : Nat) : State := s.each (s.ctxDies c) fun d t => t.ring d
/-- Whether the bits of a map cover the dies that hold a context's engines. -/
def State.covers (s : State) (c : Nat) (m : BitVec 4) : Bool := (s.ctxDies c).all fun d => m.getLsbD d
/-- The multiply arrays of a context's engines freeze or run again (R185). -/
def State.freezeArrays (s : State) (c : Nat) (on : Bool) : State :=
  s.each (s.ctxEngines c) fun e t => let x := t.engine e; t.setEngine e { x with frozen := on }

/-! ## RUN (R282) -/

/-- Ticks in one µs (R399, R458). -/
def ticksPerUs : Nat := 850
/-- Ticks rounded up to whole µs. -/
def usOf (n : Nat) : Nat := (n + ticksPerUs - 1) / ticksPerUs
/-- A packet with `n` ticks added to its age (R399). -/
def Packet.aged (p : Packet) (n : Nat) : Packet := { p with age := BitVec.ofNat 16 (Nat.min 2047 (p.age.toNat + usOf n)) }
/-- The packet of a collective with `n` ticks added to its age. -/
def agePacket (n : Nat) (i : Instr) : Instr :=
  match i with
  | .creq c t p => .creq c t (p.aged n)
  | .cclr c t p => .cclr c t (p.aged n)
  | .cdata c t p => .cdata c t (p.aged n)
  | .cdone c t p => .cdone c t (p.aged n)
  | .cbusy c t p => .cbusy c t (p.aged n)
  | .cabt c t p => .cabt c t (p.aged n)
  | .cack c t p => .cack c t (p.aged n)
  | i => i

/-- The limits of the steps and aborts of a context's collectives leave out `n` ticks in which it did not run (R410,
R423). -/
def State.shiftLimits (s : State) (c n : Nat) : State :=
  let late := fun a : AbortWait => if a.ctx = c then { a with start := a.start + n } else a
  let s1 := { s with cp := { s.cp with aborts := s.cp.aborts.map late } }
  s1.each (List.range 4) fun d t => t.each (List.range 8) fun k u =>
    match u.prog d k with
    | some p =>
      let outs := p.outs.map fun x => { x with start := x.start + n }
      if p.ctx = c then u.setProg d k (some { p with outs := outs }) else u
    | none => u

/-- The collective packets that have waited for a context in the receive buffers are handled now (R287). -/
def State.handleHeld (s : State) (c : Nat) : State :=
  let mine := s.held.filter fun (n, _, _) => n == c
  mine.foldl (fun t (_, at0, i) => t.post (agePacket (s.tick.toNat - at0) i))
    { s with held := s.held.filter fun (n, _, _) => n != c }

/-- A context enters RUNNING: its groups become ACTIVE, its quantum starts, its spilled tokens of R287 come back. -/
def State.enterRunning (s : State) (c : Nat) : State :=
  let x := s.ctx c
  let s1 := s.setCtx c { x with st := .running, svalid := false, rstd := 0, runReq := false, hStart := none,
                                  qStart := s.tick.toNat }
  let s2 := if x.st = .stopped ∨ x.svalid then s1.shiftLimits c (s.tick.toNat - x.pausedAt) else s1
  (((s2.activate c).freezeArrays c false).reinjectNr c).handleHeld c

/-- A PARKED group is granted where no other group holds an engine of it (R330). -/
def State.grantParked (s : State) (c : Nat) : State :=
  (s.ctxGroups c fun t => t == .parked).foldl (fun t (d, g) =>
    let x := t.group d g
    if (groupMembers d x).any (t.heldByOther d g) then t else t.enterReserved d g x) s

/-- A RUN of a READY context acts as far as its groups allow (R282, R330). -/
def State.tryRun (s : State) (c : Nat) : State :=
  let x := s.ctx c
  if x.st ≠ .ready ∨ x.runReq = false then s
  else if x.svalid = false then s.enterRunning c
  else
    let s1 := s.grantParked c
    let waits := (s1.ctxGroups c fun t => t == .parked) != [] ||
      (s1.ctxGroups c fun t => t == .reserved).any fun (d, g) => (s1.group d g).clear.isSome
    if waits then s1
    else
      let s2 := (s1.activate c).setCtx c { s1.ctx c with st := .stopped, runReq := false, rstd := 0, snapd := 0 }
      s2.ringDies c

/-- RUN (R282). -/
def State.runCmd (s : State) (c : Nat) : State :=
  let x := s.ctx c
  match x.st with
  | .ready => (s.setCtx c { x with runReq := true }).tryRun c
  | .stopped => if x.svalid = false ∨ s.covers c x.rstd then s.enterRunning c else s
  | _ => s

/-! ## Stopping (R283–R285) -/

/-- SOFT (R284): no firing of the context issues any more, since only a RUNNING context issues. The passes that wait, suspended
or in a slot that they keep, abort and are queued again with their ages (R349). -/
def State.softCmd (s : State) (c : Nat) : State :=
  let x := s.ctx c
  if x.st = .running then
    let s1 := s.setCtx c { x with st := .draining, hStart := some s.tick.toNat, hardReq := false, pausedAt := s.tick.toNat }
    s1.each (s1.eng.map (·.1)) fun e t => t.abortPasses e fun a => a.fr.ctx == c && a.pass.wait != .none
  else s

/-- The collectives of a context abort with a reason, once for each table and generation (R422). -/
def State.abortColls (s : State) (c reason : Nat) : State :=
  let l := (List.range 4).flatMap fun d => (List.range 8).filterMap fun k =>
    match s.prog d k with
    | some p => if p.ctx = c then some (d, k, p.tbl, p.gen) else none
    | none => none
  let first := l.filter fun (d, k, t, g) => (l.find? fun (_, _, t2, g2) => t2 == t && g2 == g) == some (d, k, t, g)
  first.foldl (fun t (d, k, _, _) => t.collAbort d k reason 0) s

/-- HARD (R285): the open passes abort and are queued again; the arrays freeze. -/
def State.hardCmd (s : State) (c : Nat) : State :=
  let x := s.ctx c
  if x.st ≠ .running ∧ x.st ≠ .draining then s
  else
    let left := if x.st = .running then s.tick.toNat else x.pausedAt
    let s1 := s.setCtx c { x with st := .draining, hardReq := true, pausedAt := left }
    let s2 := s1.each (s1.eng.map (·.1)) fun e t => t.abortPasses e fun a => a.fr.ctx == c
    (s2.freezeArrays c true).abortColls c 5

/-- The context of a message made by an engine, or of a token, that is still under way (R284). -/
def msgCtx : Instr → Option Nat
  | .tokenArrival _ _ t _ | .pushLanding _ _ t _ _ | .exitToken t _ => some (tokCtx t)
  | .tokenAtLinkPort _ _ _ _ w => some w.ctx
  | .tokenPacket _ _ c _ => some c
  | .windowAccessArrival a | .accessAtHome a => some a.who.ctx
  | .rodAddArrival a => some a.who.ctx
  | .deviceQueuePost c _ _ => some c
  | _ => none

/-- A stream that a fault has stalled. -/
def StreamPhase.isStalled : StreamPhase → Bool
  | .stalled _ => true
  | _ => false

/-- Nothing of the context is under way (R284): no token, no result still owed. -/
def State.nothingMoves (s : State) (c : Nat) : Bool :=
  (s.pend.all fun m => msgCtx m.ev != some c) && (s.linkTokens.all fun (k, _, _) => k != c) && (s.net.remotes.all fun r => r.reply.isNone || r.who.ctx != c)

/-- Whether the drain of a context is complete (R284). -/
def State.drained (s : State) (c : Nat) : Bool :=
  s.nothingMoves c &&
  (s.eng.all fun (_, x) => (x.open_.all fun a => a.fr.ctx != c) &&
    x.streams.all fun y => y.who.ctx != c || y.phase.isStalled) &&
  (s.cp.copies.all fun y => y.ctx != c || y.phase.isStalled) &&
  ((List.range 4).all fun d => (List.range 8).all fun k => (s.prog d k).all fun p => p.ctx != c || p.outs == [])

/-! ## RELEASE (R282, R287) -/

/-- What the save area's layout does not hold of a context's operators stays with its engine, and its stalled streams leave
the engine's stream slots (R288). -/
def State.park (s : State) (c e : Nat) : State :=
  let x := s.engine e
  let mine := x.t.orun.filter fun (op, _) => (tget {} x.t.ft (x.op op).frame).ctx == c
  let t := { x.t with parked := mine.foldl (fun p (op, r) => tput p op r) x.t.parked }
  let strs := x.streams.map fun y => if y.who.ctx = c then { y with n := 256 + y.id } else y
  s.setEngine e { x with t := t, streams := strs, frozen := false }

/-- RELEASE (R282, R330): the groups are returned, and the context the scheduler chose runs (R283). -/
def State.releaseCmd (s : State) (c : Nat) : State :=
  let x := s.ctx c
  if x.st ≠ .stopped ∨ s.covers c x.snapd = false then s
  else
    let s1 := s.each (s.ctxEngines c) fun e t => t.park c e
    let s2 := s1.each (s1.ctxDies c) fun d t => t.each (List.range 8) fun k u =>
      match u.prog d k with
      | some p => if p.ctx = c ∧ x.snapd.getLsbD d then u.setProg d k none else u
      | none => u
    let s3 := (s2.ctxGroups c fun t => t == .active).foldl (fun t (d, g) =>
      t.setGroup d g { t.group d g with st := .parked }) s2
    let s4 := s3.setCtx c { s3.ctx c with st := .ready, svalid := true, since := s.tick.toNat, next := none }
    match x.next with
    | some n => s4.runCmd n
    | none => s4

/-! ## Tear-down (R290) -/

/-- Step 1: what has not started in the queues of a context is discarded, with the reservations of its passes. -/
def State.tearQueues (s : State) (c : Nat) : State :=
  let qs := s.cp.queues.map fun (n, q) =>
    if q.ctx = c ∧ q.st ≠ .disabled then
      (n, { q with head := q.tail, unfin := [], after := [], rodw := none, st := .idle })
    else (n, q)
  { s with cp := { s.cp with queues := qs, resv := s.cp.resv.filter fun r => r.ctx != c } }

/-- Steps 2 and 3 on one engine: its passes and firings of the context are discarded, its tokens removed, its streams go
on without what they would complete (step 4). -/
def State.tearEngine (s : State) (c e : Nat) : State :=
  let (_, s0) := s.takePasses e fun a => a.fr.ctx == c
  let x := s0.engine e
  let cut := fun sl : IssueSlot => { sl with intake := sl.intake.filter fun f => f.ctx != c }
  let ofC := fun op : Nat => (tget {} x.t.ft (x.op op).frame).ctx == c
  let strs := (x.streams.filter fun y => y.who.ctx != c || !y.phase.isStalled).map fun y =>
    if y.who.ctx = c then { y with dropTok := true, dropAdd := y.dropAdd || (y.q.rod.any fun r => rodKind r != 3) } else y
  let t := { x.t with ms := x.t.ms.filter fun (_, z) => tokCtx z.tok != c }
  s0.setEngine e { x with
    t := t, requeue := x.requeue.filter (fun f => f.ctx != c), mat := cut x.mat, vec := cut x.vec, streams := strs,
    recvs := x.recvs.filter (fun r => r.ctx != c), timers := x.timers.filter (fun r => !ofC r.op), frozen := false }

/-- Step 3 in the pool, the overflow region and the request table of one die, and step 7 on its core; the watch units of the
context are unbound (R346). -/
def State.tearDie (s : State) (c d : Nat) : State :=
  let p := s.pool d
  let s1 := s.setPool d { p with ms := p.ms.filter fun (_, z) => tokCtx z.tok != c }
  let s2 := (s1.ovUsed d c).foldl (fun t (i, b) => t.ovWrite d c i ((b.take 21) ++ [0] ++ b.drop 22)) s1
  let x := s2.die d
  let watch := x.u.watch.map fun (n, w) => if w.ctx = c then (n, { w with v := false }) else (n, w)
  s2.setDie d { x with fids := x.fids.filter (fun f => f.ctx != c), reqs := x.reqs.filter (fun r => r.ctx != c),
                       u := { x.u with watch := watch } }

/-- TEAR (R290). -/
def State.tearCmd (s : State) (c : Nat) : State :=
  let x := s.ctx c
  if x.st = .free ∨ x.st = .tearing then s
  else
    let s1 := (s.setCtx c { x with st := .tearing, runReq := false, hardReq := false, next := none }).tearQueues c
    let s2 := s1.each (s1.eng.map (·.1)) fun e t => t.tearEngine c e
    let s3 := s2.each (List.range 4) fun d t => t.tearDie c d
    let live := (s3.cp.kernels.filter fun (_, k) => k.used && k.ctx == c && k.st.live).map (·.1)
    let s4 := s3.each live fun k t => t.vacate k
    let mine := fun y : CopyStream => y.ctx == c && y.phase.isStalled
    let rems := s4.net.remotes.map fun r => if r.who.ctx = c then { r with reply := none } else r
    let s5 := { s4 with cp := { s4.cp with copies := s4.cp.copies.filter fun y => !mine y },
                        net := { s4.net with remotes := rems }, held := s4.held.filter fun (n, _, _) => n != c }
    (s5.abortColls c 5).lkDrop (fun r => r.ctx == c) fun w => w.ctx == c

/-! ## Commands (R279, R282) -/

/-- ALLOC (R282); the lock matrix and the threshold of the context start anew (R358, R375). -/
def State.allocCmd (s : State) (c : Nat) : State :=
  let x := s.ctx c
  if x.st = .free then
    s.setCtx c { x with st := .ready, svalid := false, since := s.tick.toNat, torn := false, lk := { x.lk with matrix := 0x100450CF, esc := 32 } }
  else s

/-- A write of word 0 of a context's block; `cmd` is its command. -/
def State.ctxWord0 (s : State) (c : Nat) (v : Word) (cmd : Nat) : State :=
  let s1 := s.setCtx c { s.ctx c with hv := v.getLsbD 7, prio := fld v 4 3 }
  match cmd with
  | 1 => s1.allocCmd c
  | 2 => s1.softCmd c
  | 3 => s1.hardCmd c
  | 4 => s1.releaseCmd c
  | 5 => s1.runCmd c
  | 6 => s1.tearCmd c
  | _ => s1

/-- What the walks of a die have read of the page table is void, with all that its passes and its core have read ahead (R391; log
entry 137). -/
def State.voidWalks (s : State) (d : Nat) : State :=
  let void := fun (a : Active) => { a with pass := { a.pass with pre := [] } }
  let cut := fun (y : IssueSlot) => { y with act := y.act.map void }
  let s1 := s.each ((s.eng.map (·.1)).filter fun e => e / 72 == d) fun e t =>
    let x := t.engine e
    let strs := x.streams.map fun y => { y with pre := [] }
    t.setEngine e { x with mat := cut x.mat, vec := cut x.vec, susp := x.susp.map void, ready := x.ready.map void, streams := strs }
  let s2 := s1.setCore d { s1.core d with pre := [] }
  s2.setUnits d { s2.units d with walk := { (s2.units d).walk with pre := [] } }

/-- The second-level entries of a context and the page entries of its streams go, on every die (R391). -/
def State.dropPages (s : State) (c : Nat) : State :=
  let s1 := s.each (s.dies.map (·.1)) fun d t =>
    let u := t.units d
    (t.setUnits d { u with walk := { u.walk with stc := u.walk.stc.filter (fun (k, _) => k != c),
                                                 cbuf := u.walk.cbuf.filter fun k => k.ctx != c } }).voidWalks d
  s1.each (s1.eng.map (·.1)) fun e t =>
    let x := t.engine e
    let strs := x.streams.map fun y => if y.who.ctx = c then { y with ents := [] } else y
    t.setEngine e { x with streams := strs }

/-- The INV that a write of ROOT performs on the four dies (R391): the entries go, and each walker is busy while accesses made through them
are on their way or held. -/
def State.rootInv (s : State) (c : Nat) : State :=
  (s.dropPages c).each (List.range 4) fun d t =>
    let v := t.awaitUsers d (· == c)
    let w := (v.units d).walk
    if w.await = [] ∧ w.opens = [] then v else v.setUnits d { v.units d with walk := { w with busy := true } }

/-- A write of word `n` of a context's block (R279, R280); a write of ROOT discards what the old root mapped (R391). -/
def State.ctxWord (s : State) (c n : Nat) (v : Word) : State :=
  let x := s.ctx c
  match n with
  | 0 => s.ctxWord0 c v (fld v 8 4)
  | 1 => if x.open_ then (s.setCtx c { x with r := x.r.write true 1 v }).rootInv c else s
  | n => s.setCtx c { x with r := x.r.write x.open_ n v }

/-- CONTEXT_ALLOC (R282): a write of word 0 with CMD 1. -/
def execContextAlloc (c : Nat) (v : Word) (s : State) : Host.Outcome State Fault Refusal :=
  .next (if 64 ≤ c then s else s.regEvent (ctxOff c 0) v (s.ctxWord0 c v 1))
/-- CONTEXT_SOFT (R284): a write of word 0 with CMD 2. -/
def execContextSoft (c : Nat) (v : Word) (s : State) : Host.Outcome State Fault Refusal :=
  .next (if 64 ≤ c then s else s.regEvent (ctxOff c 0) v (s.ctxWord0 c v 2))
/-- CONTEXT_HARD (R285): a write of word 0 with CMD 3. -/
def execContextHard (c : Nat) (v : Word) (s : State) : Host.Outcome State Fault Refusal :=
  .next (if 64 ≤ c then s else s.regEvent (ctxOff c 0) v (s.ctxWord0 c v 3))
/-- CONTEXT_RELEASE (R282): a write of word 0 with CMD 4. -/
def execContextRelease (c : Nat) (v : Word) (s : State) : Host.Outcome State Fault Refusal :=
  .next (if 64 ≤ c then s else s.regEvent (ctxOff c 0) v (s.ctxWord0 c v 4))
/-- CONTEXT_RUN (R282): a write of word 0 with CMD 5. -/
def execContextRun (c : Nat) (v : Word) (s : State) : Host.Outcome State Fault Refusal :=
  .next (if 64 ≤ c then s else s.regEvent (ctxOff c 0) v (s.ctxWord0 c v 5))
/-- CONTEXT_TEAR (R290): a write of word 0 with CMD 6. -/
def execContextTear (c : Nat) (v : Word) (s : State) : Host.Outcome State Fault Refusal :=
  .next (if 64 ≤ c then s else s.regEvent (ctxOff c 0) v (s.ctxWord0 c v 6))
/-- CONTEXT_ROOT_WRITE (R391): a write of word 1. -/
def execContextRootWrite (c : Nat) (v : Word) (s : State) : Host.Outcome State Fault Refusal :=
  .next (if 64 ≤ c then s else s.regEvent (ctxOff c 1) v (s.ctxWord c 1 v))

/-! ## Steps of the command processor -/

/-- CONTEXT_RUN_GRANT (R282): a RUN that waits is examined again. -/
def execContextRunGrant (c : Nat) (s : State) : Host.Outcome State Fault Refusal := .next (s.tryRun c)

/-- Whether a context has a command waiting at the head of a queue (R283). -/
def State.hasWork (s : State) (c : Nat) : Bool :=
  s.cp.queues.any fun (_, q) => q.ctx == c && q.head != q.tail && (q.st == .ready || q.st == .waiting)

/-- QUANTUM_EXPIRY (R283). -/
def execQuantumExpiry (c : Nat) (s : State) : Host.Outcome State Fault Refusal :=
  let x := s.ctx c
  if x.st ≠ .running ∨ x.r.quantum = 0 ∨ s.tick.toNat < x.qStart + x.r.quantum.toNat then .next s
  else
    let cand := (List.range 64).filter fun n =>
      (s.ctx n).st == .ready && s.hasWork n && decide (x.prio ≤ (s.ctx n).prio)
    let better := fun a b : Nat =>
      decide ((s.ctx b).prio < (s.ctx a).prio) ||
        ((s.ctx a).prio == (s.ctx b).prio && decide ((s.ctx a).since < (s.ctx b).since))
    match pickMin better cand with
    | none => .next (s.setCtx c { x with qStart := s.tick.toNat })
    | some n => .next ((s.setCtx c { x with next := some n }).softCmd c)

/-- HARD_DEADLINE_EXPIRY (R282). -/
def execHardDeadlineExpiry (c : Nat) (s : State) : Host.Outcome State Fault Refusal :=
  let x := s.ctx c
  let due := x.hStart.any fun t => decide (t + x.r.hdead.toNat ≤ s.tick.toNat)
  if x.st ≠ .draining ∨ x.hardReq ∨ x.r.hdead = 0 ∨ due = false then .next s else .next (s.hardCmd c)

/-- CONTEXT_DRAIN_COMPLETE (R284). -/
def execContextDrainComplete (c : Nat) (s : State) : Host.Outcome State Fault Refusal :=
  let x := s.ctx c
  if x.st ≠ .draining ∨ x.hardReq ∨ s.drained c = false then .next s
  else .next ((s.setCtx c { x with st := .stopped, hards := false, snapd := 0, hStart := none }).ringDies c)

/-- HARD_PREEMPT_COMPLETE (R285). -/
def execHardPreemptComplete (c : Nat) (s : State) : Host.Outcome State Fault Refusal :=
  let x := s.ctx c
  if x.st ≠ .draining ∨ x.hardReq = false ∨ s.drained c = false then .next s
  else .next (s.setCtx c { x with st := .stopped, hards := true, snapd := 0, hStart := none, hardReq := false })

/-- The allocated die rods of a context are freed. -/
def State.freeCtxRods (s : State) (c : Nat) : State :=
  s.each (List.range 4) fun d t =>
    ((t.units d).rods.filter fun (_, r) => r.a && r.ctx == c).foldl
      (fun u (n, _) => u.freeRod (put 62 2 2 ||| put 60 2 d ||| put 0 8 n)) t

/-- TEARDOWN_COMPLETE (R290 step 8): once the streams of the context have joined and nothing of it is under way. -/
def execTeardownComplete (c : Nat) (s : State) : Host.Outcome State Fault Refusal :=
  let x := s.ctx c
  if x.st ≠ .tearing ∨ s.drained c = false then .next s
  else
    -- a stream that has stalled since the TEAR ends under FAIL as well
    let s0 := (s.each (s.eng.map (·.1)) fun e t => t.tearEngine c e).each (List.range 4) fun d t => t.tearDie c d
    let s1 := (s0.ctxGroups c fun t => t != .free).foldl (fun t (d, g) => t.freeGroup d g) s0
    let s2 := { s1 with cp := { s1.cp with copies := s1.cp.copies.filter fun y => y.ctx != c } }.freeCtxRods c
    .next (s2.setCtx c { s2.ctx c with st := .free, torn := true })

end Sys2Proof.Machine
end

