-- ==== Sys2Proof/Machine/Links.lean ====
section
/-!
DEFINITION. Abnal Links (R392–R404): ports, flits and retry, packets and routing, tokens and remote operations at both
ends.
-/
namespace Sys2Proof.Machine

/-- A 32-bit counter saturates. -/
def sat32 (c : BitVec 32) (n : Nat) : BitVec 32 := if c.toNat + n < 2 ^ 32 then c + BitVec.ofNat 32 n else BitVec.allOnes 32

/-! ## Counters and losses (R395, R396, R399) -/

/-- A packet is dropped at a port; one that has reached none counts at port 0 of its die (R395, R399). -/
def State.countDrop (s : State) (d i : Nat) : State :=
  let n := if i < 4 then i else 0
  let p := s.port d n
  s.setPort d n { p with drops := sat32 p.drops 1 }

/-- The valid table that holds a key, as (context, table) (R402). -/
def State.keyTable (s : State) (k : BitVec 32) : Option (Nat × Nat) :=
  (List.range 64).findSome? fun c => ((s.ctx c).pgts.find? fun (_, g) => g.v && g.gkey == k).map fun (t, _) => (c, t)

/-- Whether a kind is one of a collective (R398). -/
def collKind (k : BitVec 8) : Bool := k ∈ [0x20#8, 0x21#8, 0x22#8, 0x23#8, 0x24#8, 0x28#8, 0x29#8]
/-- Whether a kind is a remote operation made by a pass. -/
def opKind (k : BitVec 8) : Bool := k ∈ [0x10#8, 0x11#8, 0x12#8, 0x13#8]
/-- Whether R398 names a kind. -/
def kindOk (k : BitVec 8) : Bool := collKind k || opKind k || k == 0x01 || k == 0x18 || k == 0x19

/-- A generation aborts with a reason that this package has detected (R422): its own CABT. -/
def State.selfAbort (s : State) (c t gen reason : Nat) : State :=
  let g := s.pgt c t
  s.post (.cabt c t
    { kind := 0x28, die := 0, dnode := s.net.nodeid, snode := s.net.nodeid, age := 0, gkey := g.gkey,
      srank := BitVec.ofNat 16 g.own, drank := BitVec.ofNat 16 g.own, gen := BitVec.ofNat 16 gen, tag := 0, len := 0,
      addr := 0, xdata := BitVec.ofNat 192 (reason + 16 * g.own), payload := [] })

/-- The collective of a packet aborts with reason 2 where it has a local context (R396, R422). -/
def State.peerLost (s : State) (p : Packet) : State :=
  match s.keyTable p.gkey with
  | some (c, t) => s.selfAbort c t p.gen.toNat 2
  | none => s

/-- The remote operation that a packet made here belongs to. -/
def State.remoteOf (s : State) (p : Packet) : Option RemoteOp :=
  if opKind p.kind ∧ p.snode = s.net.nodeid then
    s.net.remotes.find? fun r => r.tag == p.tag.toNat && r.node == p.dnode.toNat && r.kind == p.kind
  else none

/-- A remote operation ends without effect here: no result token and no completion add (R253, R396). -/
def State.failRemote (s : State) (r : RemoteOp) : State :=
  let s1 := { s with net := { s.net with remotes := s.net.remotes.filter fun x => x.id != r.id } }
  let e := 72 * r.who.die + r.who.unit
  let x := s1.engine e
  let strs := x.streams.map fun y => if y.acks.contains r.id then { y with dropTok := true, dropAdd := true } else y
  s1.setEngine e { x with streams := strs }

/-- A packet in a port that enters DOWN is lost (R396). -/
def State.losePacket (s : State) (d i : Nat) (p : Packet) (who : Option Origin) : State :=
  let y := s.port d i
  let s1 := s.setPort d i { y with lost := sat32 y.lost 1 }
  let err := fun (t : State) (w : Origin) => t.report d cLinkerr { w with die := d, unit := 224 + i } 0 0 none
  if p.snode ≠ s.net.nodeid then s1
  else if collKind p.kind then s1.peerLost p
  else match s1.remoteOf p with
    | some r => err (s1.failRemote r) r.who
    | none => match who with
      | some w => err s1 w
      | none => s1

/-! ## Flits (R393, R397) -/

/-- CRC-32C of bytes (R393). -/
def crc32c (bs : List Byte) : BitVec 32 :=
  let bit := fun (c : BitVec 32) (_ : Nat) => if c.getLsbD 0 then (c >>> 1) ^^^ 0x82F63B78#32 else c >>> 1
  ~~~ bs.foldl (fun c b => (List.range 8).foldl bit (c ^^^ b.setWidth 32)) (BitVec.allOnes 32)

/-- A flit from its content, SEQ, FK and the acknowledgement (R393). -/
def mkFlit (body : BitVec 448) (seq fk : Nat) (ack : Option Nat) : BitVec 512 :=
  let n := body.toNat + (seq % 4096 + fk % 16 * 4096) * 2 ^ 448 +
    ((ack.getD 0) % 4096 + b2n ack.isSome * 32768) * 2 ^ 464
  BitVec.ofNat 512 (n + (crc32c (leBytes 60 n)).toNat * 2 ^ 480)
def flitSeq (f : BitVec 512) : Nat := fld f 448 12
def flitKind (f : BitVec 512) : Nat := fld f 460 4
def flitAck (f : BitVec 512) : Option Nat := if f.getLsbD 479 then some (fld f 464 12) else none
/-- Whether the CRC of a flit holds. -/
def flitCrcOk (f : BitVec 512) : Bool := crc32c (leBytes 60 f.toNat) == f.extractLsb' 480 32

/-- The header of a packet (R397). -/
def Packet.header (p : Packet) : BitVec 448 :=
  let l := [(1, p.kind.toNat), (1, p.die.toNat), (2, p.dnode.toNat), (2, p.snode.toNat), (2, p.age.toNat), (4, p.gkey.toNat),
            (2, p.srank.toNat), (2, p.drank.toNat), (2, p.gen.toNat), (2, p.tag.toNat), (4, p.len.toNat), (8, p.addr.toNat),
            (24, p.xdata.toNat)]
  BitVec.ofNat 448 (leNat (l.flatMap fun (n, v) => leBytes n v))
/-- A packet from its header, without payload; reserved bits of its fields are ignored. -/
def packetOf (h : BitVec 448) : Packet :=
  let n := fun b k => fld h (8 * b) (8 * k)
  { kind := BitVec.ofNat 8 (n 0 1), die := BitVec.ofNat 8 (n 1 1 % 4), dnode := BitVec.ofNat 16 (n 2 2),
    snode := BitVec.ofNat 16 (n 4 2), age := BitVec.ofNat 16 (n 6 2 % 2048), gkey := BitVec.ofNat 32 (n 8 4),
    srank := BitVec.ofNat 16 (n 12 2 % 4096), drank := BitVec.ofNat 16 (n 14 2 % 4096), gen := BitVec.ofNat 16 (n 16 2),
    tag := BitVec.ofNat 16 (n 18 2 % 2048), len := BitVec.ofNat 32 (n 20 4), addr := BitVec.ofNat 64 (n 24 8),
    xdata := BitVec.ofNat 192 (n 32 24), payload := [] }

/-- Payload bytes of a packet of a kind with its header (R397, R398; log entry 45). -/
def Packet.payloadLen (p : Packet) : Nat :=
  if p.kind = 0x22 then Nat.min 256 (p.len.toNat - p.addr.toNat)
  else if opKind p.kind then Nat.min 256 p.len.toNat
  else 0
/-- Data flits of a packet. -/
def Packet.dataFlits (p : Packet) : Nat := (p.payloadLen + 55) / 56

/-- The contents of a packet's flits, in order. -/
def Packet.bodies (p : Packet) : List (Nat × BitVec 448) :=
  (1, p.header) :: (List.range p.dataFlits).map fun j => (2, BitVec.ofNat 448 (leNat ((p.payload.drop (56 * j)).take 56)))

/-! ## Sending (R394, R399) -/

/-- The acknowledgement that a port puts into its flits: the last SEQ that it has taken. -/
def LinkPort.ackOut (p : LinkPort) : Option Nat := some ((p.expSeq + 4095) % 4096)

/-- The flits of a packet enter the replay buffer and the wire. -/
def LinkPort.push (x : LinkPort) (p : Packet) (who : Option Origin) (since tick : Nat) : LinkPort :=
  let bs := p.bodies
  bs.zipIdx.foldl (fun y ((fk, b), j) =>
    let last := decide (j + 1 = bs.length)
    let t : TxFlit := { seq := y.nextSeq, body := b, fk := fk, pkt := if last then some p else none,
                        who := if last then who else none, since := since }
    { y with tx := y.tx ++ [t], nextSeq := (y.nextSeq + 1) % 4096, wire := y.wire ++ [mkFlit b y.nextSeq fk y.ackOut],
             ackTick := if y.tx = [] then tick else y.ackTick }) x

/-- Whose a packet is that comes to port `i` of die `d`, or is made here: of a packet in transit the port at which it has arrived, of
one of this package the maker (R396, R399). -/
def State.ownerOf (s : State) (d i : Nat) (p : Packet) : Option Origin :=
  if p.snode ≠ s.net.nodeid ∧ i < 4 then some ⟨64, none, d, 224 + i, 0, 0⟩ else (s.remoteOf p).map (·.who)
/-- The port that counts a packet which is dropped as it leaves port `i` of die `d`: that at which it has arrived (R399). -/
def State.dropPort (s : State) (d i : Nat) (p : Packet) (who : Option Origin) : Nat × Nat :=
  match who with
  | some w => if p.snode = s.net.nodeid then (d, i) else (w.die, w.unit - 224)
  | none => (d, i)

/-- Packets of a port's queue become flits while the port is UP and its replay buffer has room; a packet too old is dropped
(R399). -/
def State.pump (s : State) (d i : Nat) : Nat → State
  | 0 => s
  | n + 1 =>
    let x := s.port d i
    match x.queue with
    | [] => s
    | (p, since, who) :: r =>
      if x.st ≠ .up ∨ 1024 < x.tx.length + 1 + p.dataFlits then s
      else
        let age := p.age.toNat + usOf (s.tick.toNat - since)
        let s1 := s.setPort d i { x with queue := r }
        if 1024 ≤ age then (s1.countDrop (s.dropPort d i p who).1 (s.dropPort d i p who).2).pump d i n
        else
          let y := ({ x with queue := r } : LinkPort).push { p with age := BitVec.ofNat 16 age } who since s.tick.toNat
          (s.setPort d i y).pump d i n
/-- Everything that may leave a port now leaves. -/
def State.drainPort (s : State) (d i : Nat) : State := s.pump d i ((s.port d i).queue.length + 1)

/-- A port enters DOWN (R396). -/
def State.portDown (s : State) (d i : Nat) : State :=
  let x := s.port d i
  let lost := (x.tx.filterMap fun t => t.pkt.map fun p => (p, t.who)) ++ x.queue.map fun (p, _, w) => (p, w)
  let s1 := s.setPort d i { x with st := .down, tx := [], queue := [], wire := [], rx := [], nextSeq := 0, expSeq := 0, tries := 0 }
  lost.foldl (fun t (p, w) => t.losePacket d i p w) s1

/-! ## Arrival of a packet (R398, R399, R402, R421) -/

/-- The oldest generation of a table that is not retired, or GEN (R421). -/
def Pgt.oldest (g : Pgt) : Nat :=
  let back := fun n => (g.gen.toNat + 65536 - n) % 65536
  (pickMin (fun a b => decide (back b < back a)) g.live).getD g.gen.toNat
/-- Whether a generation among those from the oldest on has retired: it has started and runs no more (R421). -/
def Pgt.over (g : Pgt) (n : Nat) : Bool :=
  decide ((n + 65536 - g.oldest) % 65536 < (g.gen.toNat + 65536 - g.oldest) % 65536) && !g.live.contains n
/-- Whether a collective packet of a generation is accepted (R421). -/
def Pgt.accepts (g : Pgt) (p : Packet) : Bool :=
  (decide ((p.gen.toNat + 65536 - g.oldest) % 65536 < 8) && !g.over p.gen.toNat) ||
    ((p.kind == 0x28 || p.kind == 0x29) && g.retired.any fun (n, _) => n == p.gen.toNat)

/-- The event that a packet for this package is; one of a collective keeps the port at which it has arrived (R399). -/
def packetEvent (d i c t : Nat) (pkt : Packet) : Instr :=
  let p := if collKind pkt.kind then { pkt with inAt := 4 * d + i % 16 % 4 } else pkt
  match p.kind.toNat with
  | 0x01 => .tokenPacket d i c p
  | 0x18 => .rack c p
  | 0x19 => .rfail c p
  | 0x20 => .creq c t p
  | 0x21 => .cclr c t p
  | 0x22 => .cdata c t p
  | 0x23 => .cdone c t p
  | 0x24 => .cbusy c t p
  | 0x28 => .cabt c t p
  | 0x29 => .cack c t p
  | _ => .remoteOpArrival d i c p

/-- A packet for this package is taken in at a port (16 for one made here); a token and a packet of a collective that is not
accepted, or that no table takes, is dropped. -/
def State.receive (s : State) (d i : Nat) (p : Packet) : State :=
  match s.keyTable p.gkey with
  | none => s.countDrop d i
  | some (c, t) =>
    let g := s.pgt c t
    if g.own ≠ p.drank.toNat ∨ kindOk p.kind = false ∨ (collKind p.kind ∧ g.accepts p = false) then s.countDrop d i
    else (if p.kind = 0x01 then s.touch d c else s).post (packetEvent d i c t p)

/-- A packet that has arrived whole at a port (R399). -/
def State.arrivePacket (s : State) (d i : Nat) (p : Packet) : State :=
  if kindOk p.kind = false ∨ 1024 ≤ p.age.toNat then s.countDrop d i
  else if p.dnode ≠ s.net.nodeid then s.post (.packetForward d i p)
  else s.receive d i p

/-- A packet is routed to its egress port, or to this package itself (R217, R399). -/
def State.forward (s : State) (d i : Nat) (p : Packet) (who : Option Origin) : State :=
  if p.dnode = s.net.nodeid then s.receive d i p
  else
    let r := tget 0 s.net.routes p.dnode.toNat
    if r.getLsbD 7 = false ∨ 1024 ≤ p.age.toNat then
      let s1 := s.countDrop d i
      if collKind p.kind ∧ r.getLsbD 7 = false ∧ p.snode = s.net.nodeid then s1.peerLost p else s1
    else
      let n := fld r 0 4
      let x := s.port (n / 4) (n % 4)
      if x.st = .down then s.losePacket (n / 4) (n % 4) p who
      else (s.setPort (n / 4) (n % 4) { x with queue := x.queue ++ [(p, s.tick.toNat, who)] }).drainPort (n / 4) (n % 4)

/-- PACKET_FORWARD (R399); port 16 stands for a packet made in this package. -/
def execPacketForward (d i : Nat) (p : Packet) (s : State) : Host.Outcome State Fault Refusal :=
  .next (s.forward d i p (s.ownerOf d i p))

/-! ## Tokens (R403) -/

/-- TOKEN_AT_LINK_PORT (R23, R403): the token leaves for its peer; that of a torn context is dropped silently (R290). -/
def execTokenAtLinkPort (die unit : Nat) (tok : Token) (remote : Option Word) (who : Origin) (s : State) :
    Host.Outcome State Fault Refusal :=
  let _ := unit
  if (s.ctx who.ctx).isTorn then .next s
  else match remote, s.launchTable who.ctx (who.inst.getD 256) with
  | some ref, some t =>
    let g := s.pgt who.ctx t
    let f := refRmt ref
    let rank := if f / 2 % 2 = 1 then (g.own + refCimm ref) % g.n else refCimm ref
    if g.n ≤ rank then .next (s.report die cBadpath who 0 0 (some tok))
    else
      let u := f / 4 % 128
      let k := { tokFields tok with die := f / 512, unit := if u = 127 then 248 else u }.mk128
      let p : Packet :=
        { kind := 0x01, die := BitVec.ofNat 8 (f / 512), dnode := s.rankNode g rank, snode := s.net.nodeid, age := 0,
          gkey := g.gkey, srank := BitVec.ofNat 16 g.own, drank := BitVec.ofNat 16 rank, gen := 0, tag := 0, len := 0,
          addr := 0, xdata := k.setWidth 192, payload := [] }
      .next (s.relayed ((s.touch die who.ctx).forward die 16 p (some who)))
  | _, _ => .next (s.frameReport die who.src tok)

/-- TOKEN_PACKET (R403): the token is delivered in the receiving context, colour and flags kept; the link port checks its DEST
as any sender does (R20). -/
def execTokenPacket (d i ctx : Nat) (p : Packet) (s : State) : Host.Outcome State Fault Refusal :=
  let t : Token := p.xdata.setWidth 128
  let k := { tokFields t with ctx := ctx }.mk128
  .next (s.relayed (s.sendChecked d (224 + i % 4) k none ⟨ctx, none, d, 224 + i % 4, 0, 0⟩))

/-! ## Remote operations at a peer (R253–R255, R404) -/

/-- The answer to a packet. -/
def State.answer (s : State) (d : Nat) (p : Packet) (kind : BitVec 8) (xdata : BitVec 192) (addr : Word) : State :=
  s.sendPacket [] d { p with kind := kind, dnode := p.snode, snode := s.net.nodeid, age := 0, srank := p.drank,
                             drank := p.srank, len := 0, addr := addr, xdata := xdata, payload := [] }

/-- DETAIL of a failure of a remote operation at a peer (R388): ACC 6. -/
def remoteDetail (v : Word) : Word := (v &&& 0x00000000000100FF#64) ||| put 48 8 Config.linkStrm.toNat ||| put 40 8 0xFF ||| put 12 4 6

/-- A remote store that is no single-copy atomic access (R223): the bytes go to their homes one by one, those of a run chunk by chunk, and
the acknowledgement follows them. -/
def State.remoteBytes (s : State) (d i ctx : Nat) (p : Packet) (who : Origin) (hs : List Nat) : State :=
  let t := s.postPieces [] (if p.kind = 0x11 then 64 else 1) hs p.payload who
  t.postDep (t.idsSince s) (.remoteOpArrival d i ctx { p with payload := [] })

/-- REMOTE_OP_ARRIVAL (R404): the operation acts at the word's home in the receiving context, and is acknowledged; on a
failure it is dropped, logged here, and answered with RFAIL. -/
def execRemoteOpArrival (d i ctx : Nat) (p : Packet) (s : State) : Host.Outcome State Fault Refusal :=
  let va := put 0 48 (addrVa p.addr)
  let isAdd := p.kind = 0x13 ∧ p.xdata.getLsbD 0
  let atomic := p.kind = 0x12 ∨ isAdd
  let n := if p.kind = 0x12 ∨ p.kind = 0x13 then 8 else p.payload.length
  let v : Via := { by_ := .link d, ctx := some ctx, kind := if atomic then .atomic else .store }
  let who : Origin := ⟨ctx, none, d, 224 + i % 4, 0, 0⟩
  if (p.kind = 0x10 ∨ p.kind = 0x11) ∧ p.payload = [] ∧ p.len ≠ 0 then .next (s.answer d p 0x18 0 va)
  else match s.resolve v [0x0] va n (p.kind = 0x12 ∨ p.kind = 0x13) with
  | (.error f, t) =>
    let det := if f.cause = cXlate ∨ f.cause = cPerm then remoteDetail f.detail else f.detail
    let t1 := t.report d f.cause { who with ctx := 64 } f.addr det none
    .next (t1.answer d p 0x19 (BitVec.ofNat 192 (f.cause + f.detail.toNat % 65536 * 256)) va)
  | (.ok hs, t) =>
    let data := BitVec.ofNat 64 (leNat (p.payload.take 8))
    if atomic ∧ t.eccHomes hs then
      .next ((t.report d cEcc { who with ctx := 64 } va (Config.eccPlace (hs.headD 0)) none).answer d p 0x19
        (BitVec.ofNat 192 cEcc) va)
    else if p.kind = 0x12 then
      let m := leNat (t.rdHomes hs)
      .next ((t.storeHomes hs (leBytes 8 (m + data.toNat))).answer d p 0x18 (BitVec.ofNat 192 m) va)
    else if isAdd ∧ 2 ^ 64 ≤ leNat (t.rdHomes hs) + data.toNat % 2 ^ 32 then
      .next ((t.report d cRodovf { who with ctx := 64 } va 0 none).answer d p 0x19 (BitVec.ofNat 192 cRodovf) va)
    else if isAdd then
      .next ((t.addRod ⟨put 62 2 3 ||| va, hs.headD 0, data.toNat % 2 ^ 32, who, 0⟩).answer d p 0x18 0 va)
    else if (p.kind = 0x10 ∧ va.toNat % n ≠ 0) ∨ (p.kind = 0x11 ∧ 64 < va.toNat % 64 + n) then .next (t.remoteBytes d i ctx p who hs)
    else .next ((t.storeHomes hs (p.payload.take n)).answer d p 0x18 0 va)

/-- The remote operation that an answer is for. -/
def State.answered (s : State) (p : Packet) : Option RemoteOp :=
  s.net.remotes.find? fun r => r.tag == p.tag.toNat && r.node == p.snode.toNat

/-- RACK (R254): the operation has been made; RMT.FAA's old value is its result token. -/
def execRack (ctx : Nat) (p : Packet) (s : State) : Host.Outcome State Fault Refusal :=
  let _ := ctx
  match s.answered p with
  | none => .next s
  | some r =>
    let s1 := { s with net := { s.net with remotes := s.net.remotes.filter fun x => x.id != r.id } }
    .next (s1.sendReply r.reply (p.xdata.setWidth 64))

/-- STRM of an operation that failed at a peer (R388): the stream whose run it is, or 0xFF. -/
def State.remoteStrm (s : State) (r : RemoteOp) : Nat :=
  (((s.engine (72 * r.who.die + r.who.unit)).streams.find? fun x => x.acks.contains r.id).map (·.n)).getD 0xFF

/-- RFAIL (R253): the sender's control core receives the cause, with the rank and the address. -/
def execRfail (ctx : Nat) (p : Packet) (s : State) : Host.Outcome State Fault Refusal :=
  let _ := ctx
  match s.answered p with
  | none => .next s
  | some r =>
    let cause := fld p.xdata 0 8
    let det := put 0 16 (fld p.xdata 8 16)
    let ad := put 60 4 3 ||| put 48 12 p.srank.toNat ||| put 0 48 (addrVa p.addr)
    let out := if cause = cXlate ∨ cause = cPerm then
        (det &&& 0xFF) ||| put 12 4 6 ||| put 16 1 (b2n r.plane) ||| put 48 8 (s.remoteStrm r) ||| put 40 8 r.who.unit else 0
    .next ((s.failRemote r).report r.who.die cause r.who ad out none)

/-! ## Ports (R393–R396) -/

/-- The flits of the replay buffer go on the wire again from the first (R394). -/
def LinkPort.resend (x : LinkPort) : LinkPort :=
  { x with tx := x.tx.map fun t => { t with tries := t.tries + 1 }, replay := sat32 x.replay 1,
           wire := x.wire ++ x.tx.map fun t => mkFlit t.body t.seq t.fk x.ackOut }

/-- A replay (R394): a flit that has been replayed 8 times makes the port train again. -/
def State.replayPort (s : State) (d i : Nat) : State :=
  let x := s.port d i
  if x.st ≠ .up ∨ x.tx = [] then s
  else if x.tx.any fun t => decide (8 ≤ t.tries) then
    s.setPort d i { x with st := .training, tries := 0, tx := x.tx.map fun t => { t with tries := 0 } }
  else s.setPort d i { x.resend with ackTick := s.tick.toNat }

/-- Flits up to an acknowledged SEQ leave the replay buffer. -/
def LinkPort.acked (x : LinkPort) (ack : Option Nat) (tick : Nat) : LinkPort :=
  match ack with
  | none => x
  | some a =>
    let n := match x.tx.head? with
      | some t => (a + 4096 - t.seq) % 4096 + 1
      | none => 0
    if n ≤ x.tx.length ∧ 0 < n then { x with tx := x.tx.drop n, ackTick := tick } else x

/-- Whether the flits received since the last header make up its packet. -/
def rxPacket (rx : List (BitVec 448)) : Option Packet :=
  match rx with
  | [] => none
  | h :: data =>
    let p := packetOf h
    if data.length = p.dataFlits then
      some { p with payload := (data.flatMap fun b => leBytes 56 b.toNat).take p.payloadLen }
    else none

/-- A flit is discarded, and a link-control flit reports it (R393, R394). -/
def State.discardFlit (s : State) (d i : Nat) : State :=
  let x := s.port d i
  s.setPort d i { x with crcerr := sat32 x.crcerr 1, wire := x.wire ++ [mkFlit 0 x.nextSeq 3 x.ackOut] }

/-- An idle flit goes on the wire with the acknowledgement of what the port has taken (R393, R394). -/
def LinkPort.ackFlit (x : LinkPort) : LinkPort := { x with wire := x.wire ++ [mkFlit 0 x.nextSeq 0 x.ackOut] }

/-- FLIT_RECEIVE (R393): a flit from the far end. Under replay a packet that the log does not hold next is not taken
(R457). A data flit that no header awaits belongs to a packet that has been dropped, and goes with it (R398). -/
def execFlitReceive (d i : Nat) (flit : BitVec 512) (s : State) : Host.Outcome State Fault Refusal :=
  let x := s.port d i
  let fk := flitKind flit
  if 4 ≤ d ∨ 4 ≤ i ∨ x.st ≠ .up then .next s
  else if flitCrcOk flit = false ∨ 3 < fk ∨ flitSeq flit ≠ x.expSeq then .next (s.discardFlit d i)
  else
    let y := x.acked (flitAck flit) s.tick.toNat
    if fk = 0 then .next ((s.setPort d i y).drainPort d i)
    else if fk = 3 then .next (((s.setPort d i y).drainPort d i).post (.replayRequest d i))
    else
      let body := flit.extractLsb' 0 448
      let rx := if fk = 1 then [body] else if y.rx = [] then [] else y.rx ++ [body]
      let since := if fk = 1 then s.tick.toNat else y.rxTick
      let z := ({ y with rx := rx, rxTick := since, expSeq := (y.expSeq + 1) % 4096 } : LinkPort).ackFlit
      match rxPacket rx with
      | none => .next ((s.setPort d i z).drainPort d i)
      | some p =>
        let age := p.age.toNat + usOf (s.tick.toNat - since) + 1
        let q := { p with age := BitVec.ofNat 16 age }
        match s.decision 1 d (224 + i) [p.header.toNat, leNat p.payload] with
        | none => .next s
        | some t => .next (((t.setPort d i { z with rx := [] }).drainPort d i).arrivePacket d i q)

/-- REPLAY_REQUEST (R394): the far end has reported a discarded flit. -/
def execReplayRequest (d i : Nat) (s : State) : Host.Outcome State Fault Refusal := .next (s.replayPort d i)

/-- REPLAY_TIMEOUT (R394): 16 µs have passed without an acknowledgement. -/
def execReplayTimeout (d i : Nat) (s : State) : Host.Outcome State Fault Refusal :=
  if (s.port d i).ackTick + 16 * ticksPerUs ≤ s.tick.toNat then .next (s.replayPort d i) else .next s

/-- TRAIN (R395). -/
def State.trainPort (s : State) (d i : Nat) : State :=
  let x := s.port d i
  if x.st = .down then s.setPort d i { x with st := .training, tries := 0 } else s
/-- DOWN (R395). -/
def State.downPort (s : State) (d i : Nat) : State := if (s.port d i).st = .down then s else s.portDown d i

/-- LINK_TRAIN (R395): a write of CMD 1. -/
def execLinkTrain (d i : Nat) (s : State) : Host.Outcome State Fault Refusal :=
  .next (if 4 ≤ d ∨ 4 ≤ i then s else s.trainPort d i)
/-- LINK_DOWN (R395): a write of CMD 2. -/
def execLinkDown (d i : Nat) (s : State) : Host.Outcome State Fault Refusal :=
  .next (if 4 ≤ d ∨ 4 ≤ i then s else s.downPort d i)

/-- LINK_TRAIN_ATTEMPT_DONE (R395): an attempt succeeds, and replay goes on from the first flit not acknowledged, or fails;
the third failure takes the port down. -/
def execLinkTrainAttemptDone (d i : Nat) (ok : Bool) (s : State) : Host.Outcome State Fault Refusal :=
  let x := s.port d i
  if 4 ≤ d ∨ 4 ≤ i ∨ x.st ≠ .training then .next s
  else if ok then
    let y := { x with st := .up, tries := 0, ackTick := s.tick.toNat,
                      wire := x.wire ++ x.tx.map fun t => mkFlit t.body t.seq t.fk x.ackOut }
    .next ((s.setPort d i y).drainPort d i)
  else if 2 ≤ x.tries then .next (s.portDown d i)
  else .next (s.setPort d i { x with tries := x.tries + 1 })

/-- A write of word 0 of a port's block (R395). -/
def State.portWord (s : State) (d i n : Nat) (v : Word) : State :=
  if n ≠ 0 then s
  else match fld v 8 4 with
    | 1 => s.trainPort d i
    | 2 => s.downPort d i
    | _ => s

/-- The words of a port's block as they read (R395). -/
def LinkPort.readWord (x : LinkPort) (n : Nat) : Word :=
  match n with
  | 0 => put 0 2 (match x.st with | .down => 0 | .training => 1 | .up => 2)
  | 1 => put 32 32 x.replay.toNat ||| put 0 32 x.crcerr.toNat
  | 2 => put 32 32 x.drops.toNat ||| put 0 32 x.lost.toNat
  | _ => 0

end Sys2Proof.Machine
end

