-- ==== Sys2Proof/Machine/Collectives.lean ====
section
/-!
DEFINITION. Collective programs (R405–R425): the steps, the rendezvous of messages, RECV ports, generations and aborts,
process-group tables (R400, R401).
-/
namespace Sys2Proof.Machine

/-! ## Process-group tables (R400, R401) -/

/-- The nodes of a table's list (R400). -/
def State.nodeList (s : State) (g : Pgt) : List (BitVec 16) := (List.range g.n).map (s.rankNode g)
/-- Whether another valid table of the package has the key (R401). -/
def State.keyTaken (s : State) (c t : Nat) (key : BitVec 32) : Bool :=
  (List.range 64).any fun c2 => (s.ctx c2).pgts.any fun (t2, g) => g.v && g.gkey == key && !(c2 == c && t2 == t)

/-- V := 1 is tried (R401): it stays 0 unless exactly one entry of the node list is this package and the key is new. -/
def State.validatePgt (s : State) (c t : Nat) : State :=
  let g := s.pgt c t
  let mine := (s.nodeList g).zipIdx.filter fun (n, _) => n == s.net.nodeid
  match mine with
  | [(_, i)] =>
    if 1 ≤ g.n ∧ g.n ≤ 4096 ∧ s.keyTaken c t g.gkey = false then s.setPgt c t { g with v := true, own := i } else s
  | _ => s

/-- PGT_VALIDATE (R401). -/
def execPgtValidate (ctx t : Nat) (s : State) : Host.Outcome State Fault Refusal :=
  .next (if (s.pgt ctx t).v then s else s.validatePgt ctx t)

/-- A write of word `n` of a table's block (R400); a write of V := 1 starts the search of R401. -/
def State.pgtWord (s : State) (c t n : Nat) (v : Word) : State :=
  let g := s.pgt c t
  match n with
  | 0 =>
    if g.v then s.setPgt c t { g with v := v.getLsbD 63 }
    else
      let s1 := s.setPgt c t { g with n := fld v 32 13, gkey := v.extractLsb' 0 32 }
      if v.getLsbD 63 then s1.post (.pgtValidate c t) else s1
  | 1 => if g.v ∨ v.toNat % 64 ≠ 0 then s else s.setPgt c t { g with base := v.extractLsb' 0 48 }
  | 2 => s.setPgt c t { g with tmo := v.extractLsb' 0 32 }
  | 3 => if fld v 0 2 = 3 then s else s.setPgt c t { g with tmode := fld v 0 2 }
  | 4 => if addrPath v ≠ 0 ∨ v.toNat % 8 ≠ 0 then s else s.setPgt c t { g with tbase := v }
  | 5 => s.setPgt c t { g with tlen := v.extractLsb' 0 32 }
  | _ => s

/-- The words of a table's block as they read (R400). -/
def Pgt.readWord (g : Pgt) (n : Nat) : Word :=
  match n with
  | 0 => put 63 1 (b2n g.v) ||| put 48 12 g.own ||| put 32 13 g.n ||| put 0 32 g.gkey.toNat
  | 1 => put 0 48 g.base.toNat
  | 2 => put 32 16 g.gen.toNat ||| put 0 32 g.tmo.toNat
  | 3 => put 0 2 g.tmode
  | 4 => g.tbase
  | 5 => put 0 32 g.tlen.toNat
  | 6 => put 0 32 g.tpos.toNat
  | _ => 0

/-! ## Packets of collectives (R397, R398). XDATA of CREQ: [63:0] the extension word and [75:64] the colour of CS.SEND.G, [76]
that it is one, [191:128] the sender's step; the packets that follow a CREQ carry its XDATA (log entry 46). -/

/-- A packet of a generation to a rank, made on die `d`. -/
def State.collPkt (s : State) (kind : BitVec 8) (d c t gen rank tag len : Nat) (xdata : BitVec 192) : Packet :=
  let g := s.pgt c t
  { kind := kind, die := BitVec.ofNat 8 d, dnode := s.rankNode g rank, snode := s.net.nodeid, age := 0, gkey := g.gkey,
    srank := BitVec.ofNat 16 g.own, drank := BitVec.ofNat 16 rank, gen := BitVec.ofNat 16 gen, tag := BitVec.ofNat 16 tag,
    len := BitVec.ofNat 32 len, addr := 0, xdata := xdata, payload := [] }
/-- The reply to a packet of a message. -/
def State.replyTo (s : State) (p : Packet) (kind : BitVec 8) : State :=
  s.sendPacket [] p.die.toNat { p with kind := kind, dnode := p.snode, snode := s.net.nodeid, age := 0, srank := p.drank,
                                       drank := p.srank, addr := 0, payload := [] }
/-- The sender's step that a packet names. -/
def Packet.mark (p : Packet) : Nat := fld p.xdata 128 64
/-- Whether a message goes to a RECV port. -/
def Packet.graph (p : Packet) : Bool := p.xdata.getLsbD 76

/-- CREQ (R409) for a sending step. -/
def State.sendCreq (s : State) (d : Nat) (p : CProg) (x : CStep) : State :=
  let xd := match x.graph with
    | some w => w.toNat + (x.col % 4096) * 2 ^ 64 + 2 ^ 76
    | none => 0
  s.sendPacket [] d (s.collPkt 0x20 d p.ctx p.tbl p.gen x.peer x.tag x.len (BitVec.ofNat 192 (xd + x.id * 2 ^ 128)))

/-! ## Matching of requests (R405, R409, R410, R413, R414, R425) -/

/-- The running program of a generation on a die. -/
def State.progOf (s : State) (d c t gen : Nat) : Option (Nat × CProg) :=
  (List.range 8).findSome? fun k =>
    match s.prog d k with
    | some p => if p.ctx = c ∧ p.tbl = t ∧ p.gen = gen ∧ p.stop = false then some (k, p) else none
    | none => none

/-- Whether a step is an ARR step, whose clearances TMODE governs (R425). -/
def CStep.isArr (x : CStep) : Bool :=
  match x.kind with
  | .rrs true _ _ => x.fmt != 12
  | _ => false

/-- The trace entry of a clearance (R425). -/
def traceEntry (d gen rank : Nat) (x : CStep) : Word :=
  put 44 20 x.done ||| put 32 12 rank ||| put 28 4 d ||| put 16 12 x.word ||| put 0 16 gen

/-- A request is cleared for a receiving step, or its length differs (R409, R413). -/
def State.clearStep (s : State) (d k : Nat) (p : CProg) (x : CStep) (r : Packet) : State :=
  if r.len.toNat ≠ x.len then s.collAbort d k 4 0
  else
    let g := s.pgt p.ctx p.tbl
    let rec_ := x.isArr && g.tmode == 1 && decide (g.tpos.toNat < g.tlen.toNat)
    let tr := if rec_ then x.trace ++ [(g.tpos.toNat, traceEntry d p.gen r.srank.toNat x)] else x.trace
    let s1 := if rec_ || (x.isArr && g.tmode == 2) then s.setPgt p.ctx p.tbl { g with tpos := g.tpos + 1 } else s
    (s1.setStep d k { x with cleared := some r.srank.toNat, mark := r.mark, snode := r.snode.toNat,
                             todo := stepChunks x.len, buf := [], trace := tr }).replyTo r 0x21

/-- A request meets an ARR step under REPLAY (R425): none where the trace names another rank. -/
def State.replayStep (s : State) (d k : Nat) (p : CProg) (x : CStep) (r : Packet) : Option State :=
  let g := s.pgt p.ctx p.tbl
  if g.tlen.toNat ≤ g.tpos.toNat then some (s.collAbort d k 7 0)
  else match s.resolve (seqVia d p.ctx .load) [0x0] (g.tbase + BitVec.ofNat 64 (8 * g.tpos.toNat)) 8 true with
    | (.error f, t) => some (t.stepFault d k f)
    | (.ok hs, t) =>
      let e := BitVec.ofNat 64 (leNat (t.rdHomes hs))
      if fld e 16 12 ≠ x.word ∨ fld e 28 4 ≠ d then some (t.collAbort d k 7 0)
      else if fld e 32 12 = r.srank.toNat then some (t.clearStep d k p x r)
      else none

/-- What a request does to a step: none where the step does not take it. -/
def State.acceptStep (s : State) (d k : Nat) (p : CProg) (r : Packet) (x : CStep) : Option State :=
  let free := x.cleared.isNone && x.tag == r.tag.toNat
  match x.kind with
  | .recv => if free ∧ x.peer = r.srank.toNat then some (s.clearStep d k p x r) else none
  | .rrs arr n _ =>
    if free = false ∨ n ≤ x.done ∨ (arr = false ∧ x.peer ≠ r.srank.toNat) then none
    else if x.isArr ∧ (s.pgt p.ctx p.tbl).tmode = 2 then s.replayStep d k p x r
    else some (s.clearStep d k p x r)
  | _ => none

/-- The fields of UP of a port of a RECV operator (R405). -/
def upTag (u : BitVec 32) : Nat := fld u 21 11
def upLen (u : BitVec 32) : Nat := (fld u 15 6 + 1) * 128
def upTmo (u : BitVec 32) : Nat := fld u 0 10

/-- Whether the sub-slot of a colour at a tile port is free (R48): no tile present, arriving, kept or held by a firing lies in
its ring entry. -/
def State.subSlotFree (s : State) (e op k c : Nat) : Bool :=
  let x := s.engine e
  let o := x.op op
  let f := tget {} x.t.ft o.frame
  let j := c % o.rcnt
  let same := fun n : Nat => n % o.rcnt == j
  (f.window.all fun n => !same n || ((s.portTok (.eng e) f o n k).all fun t => !tileTok o k t)) &&
  (x.recvs.all fun r => !(r.op == op && r.port == k && same r.col)) &&
  (x.firings.all fun g => g.op != op ||
    g.passes.all fun (n, ins) => !same n || ((ins.getD k {}).tok.all fun t => !tileTok o k t)) &&
  !(x.run op).isKept k j

/-- A request for a RECV port is cleared, waits (none), or has the wrong length (R405). -/
def State.acceptGraph (s : State) (c t : Nat) (r : Packet) : Option State :=
  let w := r.xdata.setWidth 64
  let e := 72 * fld w 62 2 + fld w 55 7
  let op := fld w 47 8
  let k := fld w 45 2
  let x := s.engine e
  let o := x.op op
  let f := tget {} x.t.ft o.frame
  let u := o.upRef k
  let col := fld r.xdata 64 12
  if 72 ≤ fld w 55 7 ∨ o.h.kind ≠ .recv ∨ f.v = false ∨ f.ctx ≠ c ∨ o.frame ≠ fld w 35 10 ∨ o.h.nin ≤ k ∨
      u.getLsbD 10 = false ∨ upTag u ≠ r.tag.toNat ∨ r.gen.toNat ∉ (s.pgt c t).live then none
  else if upLen u ≠ r.len.toNat then some (s.selfAbort c t r.gen.toNat 4)
  else if f.live col = false ∨ s.subSlotFree e op k col = false then none
  else
    let m : RecvMsg :=
      { op := op, port := k, col := col, ctx := c, tbl := t, gen := r.gen.toNat, tag := r.tag.toNat, srank := r.srank.toNat,
        snode := r.snode.toNat, len := r.len.toNat, die := r.die.toNat, mark := r.mark, todo := stepChunks r.len.toNat }
    some ((s.setEngine e { x with recvs := x.recvs ++ [m] }).replyTo r 0x21)

/-- What a request does now on a die: none where it has to wait. -/
def State.accept (s : State) (d c t : Nat) (r : Packet) : Option State :=
  if r.graph then s.acceptGraph c t r
  else match s.progOf d c t r.gen.toNat with
    | none => none
    | some (k, p) => p.outs.findSome? (s.acceptStep d k p r)

/-- The requests of a die's table are tried in the order in which they arrived (R409). -/
def State.reqSweep (s : State) (d : Nat) : State :=
  (s.die d).reqs.foldl (fun t e =>
    match t.accept d e.ctx e.tbl e.pkt with
    | none => t
    | some u => let x := u.die d; u.setDie d { x with reqs := x.reqs.erase e }) s

/-! ## Issue of steps (R408, R411) -/

/-- What the issue of an asynchronous step leads to. -/
inductive StepRes where
  | abort (f : Failure)
  | done (x : CStep)
  | start (x : CStep)
deriving DecidableEq, Repr, Inhabited

/-- A step that has issued begins its message. -/
def State.startStep (s : State) (d k : Nat) (x : CStep) : State :=
  match x.kind, s.prog d k with
  | .send, some p => s.sendCreq d p x
  | .copy, _ => s
  | _, _ => s.reqSweep d

/-- An asynchronous step issues; a ninth waits (R408). -/
def State.issueStep (s : State) (d k : Nat) (p : CProg) (r : StepRes) : State :=
  if 8 ≤ p.outs.length then s
  else
    let go := fun (x : CStep) (end_ : Bool) =>
      let bad := match x.rod with
        | none => none
        | some w => match (s.checkRod ⟨.seq d, some p.ctx⟩ .add w).1 with
          | .error f => some f
          | .ok _ => none
      match bad with
      | some f => s.stepFault d k f
      | none =>
        let s1 := { s with nextId := s.nextId + 1 }.setProg d k (some { p with pc := p.npc, outs := p.outs ++ [x] })
        if end_ then s1.finishStep d k x else s1.startStep d k x
    match r with
    | .abort f => s.stepFault d k f
    | .done x => go x true
    | .start x => go x false

/-- The step that a word issues, before its operands are known. -/
def State.newStep (s : State) (p : CProg) (kind : CStepKind) (len tag : Nat) (rod : Option Word) : CStep :=
  { id := s.nextId, word := p.pc, kind := kind, len := len, tag := tag, rod := rod, start := s.tick.toNat }

/-- Whether an address may be that of a step (R408). -/
def stepAddrOk (a : Word) : Bool := (addrPath a == 0x0 || addrPath a == 0x9) && a.toNat % 64 == 0
/-- Whether a length may be that of a step (R408). -/
def stepLenOk (n : Nat) : Bool := n % 64 == 0 && decide (64 ≤ n) && decide (n ≤ 2 ^ 30)
/-- The first breach of R408 among a length and addresses; one on path 0xF is PRIV (R216). -/
def stepFailure (n : Nat) (addrs : List Word) : Option Failure :=
  if stepLenOk n = false then some ⟨cBadpath, BitVec.ofNat 64 n, 0⟩
  else (addrs.find? fun a => !stepAddrOk a).map fun a => ⟨pathCause (.seq 0) a, a, 0⟩
/-- Whether a value names no rank (R411). -/
def State.badPeer (s : State) (p : CProg) (v : Word) : Bool := v != peerNone && decide ((s.pgt p.ctx p.tbl).n ≤ v.toNat)

/-- A message step towards or from one peer (R411). -/
def State.peerStep (s : State) (p : CProg) (peer : Word) (x : CStep) : StepRes :=
  if peer = peerNone then .done x
  else if s.badPeer p peer then .abort ⟨cBadpath, peer, 0⟩
  else match stepFailure x.len [x.addr] with
    | some f => .abort f
    | none => .start { x with peer := peer.toNat }

/-- CS.SEND (R412). -/
def execCsSend (f : FmtA) (x : Option Word) (s : State) : Host.Outcome State Fault Refusal :=
  onSeq (.csSend f x) s fun d k p =>
    let y := s.newStep p .send (s.progRd d p f.sc).toNat f.imm.toNat x
    s.issueStep d k p (s.peerStep p (s.progRd d p f.sa) { y with addr := s.progRd d p f.sb })

/-- CS.SEND.G (R412). -/
def execCsSendG (f : FmtA) (x : Word) (s : State) : Host.Outcome State Fault Refusal :=
  onSeq (.csSendG f x) s fun d k p =>
    let y := s.newStep p .send (s.progRd d p f.sc).toNat f.imm.toNat none
    s.issueStep d k p (s.peerStep p (s.progRd d p f.sa)
      { y with addr := s.progRd d p f.sb, graph := some x, col := fld (s.progRd d p f.dst) 0 12 })

/-- CS.RECV (R413). -/
def execCsRecv (f : FmtA) (x : Option Word) (s : State) : Host.Outcome State Fault Refusal :=
  onSeq (.csRecv f x) s fun d k p =>
    let y := s.newStep p .recv (s.progRd d p f.sc).toNat f.imm.toNat x
    s.issueStep d k p (s.peerStep p (s.progRd d p f.sa) { y with addr := s.progRd d p f.sb })

/-- A CS.RRS that has received its messages sends the buffer on, or ends (R414). -/
def CStep.forward (x : CStep) (fwd : Option Nat) : StepRes :=
  match fwd with
  | none => .done x
  | some r => .start { x with kind := .send, peer := r, cleared := none, todo := [], buf := [] }

/-- The step that a CS.RRS is (R414); a TREE step whose peer is NONE does nothing (R411), whatever its DST.
DEDUCED (log 150). -/
def State.rrsStep (s : State) (d : Nat) (p : CProg) (f : FmtA) (x : Option Word) : StepRes :=
  let sa := s.progRd d p f.sa
  let dst := s.progRd d p f.dst
  let tree := f.red == 0
  let fwd := if f.dst = 56 ∨ dst = peerNone then none else some dst.toNat
  let n := if tree then 1 else sa.toNat
  let y := s.newStep p (.rrs (!tree) n fwd) (s.progRd d p f.sc).toNat f.imm.toNat x
  let z := { y with addr := s.progRd d p f.sb, fmt := f.f1.toNat, op := f.f2.toNat, peer := if tree then sa.toNat else 0 }
  if tree ∧ sa = peerNone then .done z
  else if tree ∧ s.badPeer p sa then .abort ⟨cBadpath, sa, 0⟩
  else if f.dst ≠ 56 ∧ s.badPeer p dst then .abort ⟨cBadpath, dst, 0⟩
  else if tree = false ∧ 4095 < n then .abort ⟨cBadpath, sa, 0⟩
  else if f.red = 2 ∧ z.len % 192 ≠ 0 then .abort ⟨cBadpath, BitVec.ofNat 64 z.len, 0⟩
  else match stepFailure z.len [z.addr] with
    | some g => .abort g
    | none => if n = 0 then z.forward fwd else .start z

/-- CS.RRS (R414). -/
def execCsRrs (f : FmtA) (x : Option Word) (s : State) : Host.Outcome State Fault Refusal :=
  onSeq (.csRrs f x) s fun d k p => s.issueStep d k p (s.rrsStep d p f x)

/-- CS.COPY (R415). -/
def execCsCopy (f : FmtA) (x : Option Word) (s : State) : Host.Outcome State Fault Refusal :=
  onSeq (.csCopy f x) s fun d k p =>
    let y := s.newStep p .copy (s.progRd d p f.sc).toNat 0 x
    let dst := s.progRd d p f.sa
    let src := s.progRd d p f.sb
    s.issueStep d k p (match stepFailure y.len [dst, src] with
      | some g => .abort g
      | none => .start { y with addr := dst, addr2 := src, todo := stepChunks y.len })

/-! ## Steps that are not asynchronous (R416–R419) -/

/-- The program goes on with its next word. -/
def State.nextStep (s : State) (d k : Nat) (p : CProg) : State := s.setProg d k (some { p with pc := p.npc })

/-- CS.WAIT and CS.WAIT.ROD (R416). -/
def execCsWait (f : FmtA) (s : State) : Host.Outcome State Fault Refusal :=
  onSeq (.csWait f) s fun d k p =>
    if f.imm = 0 then if p.outs = [] then (s.acquireAt p.ctx 5).2.nextStep d k p else s
    else
      let r := s.progRd d p f.sa
      match s.checkRod ⟨.seq d, some p.ctx⟩ .wait r with
      | (.error g, t) => t.stepFault d k g
      | (.ok h, t) =>
        let q := (t.prog d k).getD p
        match t.rodWaitStep ⟨.seq d, some p.ctx⟩ q.rodw r h (s.progRd d p f.sb) (t.rodCount r h) 5 with
        | none => (t.acquireAt p.ctx 5).2.nextStep d k { q with rodw := none }
        | w => t.setProg d k (some { q with rodw := w })

/-- The word indices at which an instruction of a program begins. -/
def wordStarts (ws : List Word) : List Nat :=
  (ws.zipIdx.foldl (fun (st : List Nat × Bool) (w, i) => if st.2 then (st.1, false) else (st.1 ++ [i], wordXt w)) ([], false)).1

/-- CS.LOOP (R417). -/
def execCsLoop (f : FmtA) (s : State) : Host.Outcome State Fault Refusal :=
  onSeq (.csLoop f) s fun d k p =>
    let v := s.progRd d p f.dst - 1
    let target := (p.pc : Int) + f.imm.toInt
    if target < 0 ∨ f.imm = 0 ∨ target.toNat ∉ wordStarts p.words then s.collAbort d k 3 0
    else
      let q := p.wr f.dst v
      s.setProg d k (some { q with pc := if v = 0 then p.npc else target.toNat })

/-- The value of CS.PEER (R418); `n` is N. -/
def peerVal (op n : Nat) (a b : Word) : Word :=
  match op with
  | 0 => a + b
  | 1 => a - b
  | 2 => a ^^^ b
  | 3 => a &&& b
  | 4 => a >>> (b.toNat % 64)
  | 5 => a <<< (b.toNat % 64)
  | 6 => a * b
  | 7 => if b = 0 then peerNone else BitVec.ofNat 64 (a.toNat / b.toNat)
  | 8 => BitVec.ofNat 64 ((a.toNat + b.toNat) % n)
  | _ => BitVec.ofNat 64 n

/-- The result of CS.PEER: with RK a value that is no rank becomes NONE (R418). -/
def peerResult (op n : Nat) (rk : Bool) (a b : Word) : Word :=
  let x := peerVal op n a b
  if rk ∧ (n ≤ a.toNat ∨ b = peerNone ∨ n ≤ x.toNat) then peerNone else x

/-- CS.PEER (R418). -/
def execCsPeer (f : FmtA) (s : State) : Host.Outcome State Fault Refusal :=
  onSeq (.csPeer f) s fun d k p =>
    let n := (s.pgt p.ctx p.tbl).n
    let b := s.progRd d p f.sb + f.imm.signExtend 64
    s.nextStep d k (p.wr f.dst (peerResult f.f1.toNat n (f.f2.getLsbD 0) (s.progRd d p f.sa) b))

/-! ## Generations (R420) -/

/-- A generation retires at this package (R420); the requests that its table no longer accepts are dropped (R421). -/
def State.retireGen (s : State) (c t gen : Nat) : State :=
  let g := s.pgt c t
  let g1 := { g with live := g.live.filter (· != gen), retired := tput g.retired gen s.tick.toNat }
  let keep := fun e : CReqEntry => !(e.ctx == c && e.tbl == t) || (g1.accepts e.pkt && e.pkt.gen.toNat != gen)
  (s.setPgt c t g1).each (List.range 4) fun d u => let x := u.die d; u.setDie d { x with reqs := x.reqs.filter keep }

/-- A COLL completes (R296). -/
def State.completeColl (s : State) (y : Coll) : State :=
  let s1 := { s with cp := { s.cp with colls := s.cp.colls.filter (· != y) } }
  let s2 := s1.retireGen y.ctx y.tbl y.gen
  let before := s2.effectIds fun w => w.ctx == y.ctx && w.unit == 255
  let s3 := match y.rod with
    | some r => s2.cpAdd before y.ctx y.tag r y.cadd.toNat
    | none => s2
  s3.commandDone y.queue.1 y.queue.2 (before ++ s3.idsSince s2)

/-- A program has ended on its die (R419). -/
def State.endProgram (s : State) (d k : Nat) (p : CProg) : State :=
  let s1 := s.setProg d k none
  match s1.cp.colls.find? fun y => y.ctx == p.ctx && y.tbl == p.tbl && y.gen == p.gen with
  | none => s1
  | some y =>
    let z := { y with ended := y.ended ||| BitVec.ofNat 4 (2 ^ d) }
    if y.mask &&& ~~~ z.ended = 0 then s1.completeColl y
    else { s1 with cp := { s1.cp with colls := s1.cp.colls.map fun w => if w = y then z else w } }

/-- CS.END (R419). -/
def execCsEnd (f : FmtA) (s : State) : Host.Outcome State Fault Refusal :=
  onSeq (.csEnd f) s fun d k p => if p.outs = [] then s.endProgram d k p else s

/-! ## Messages (R409–R414) -/

/-- A packet of a collective for context `c`: handled where the context runs or drains, kept in the receive buffer while it is
stopped or away (R287), dropped once it is torn down (R290); a packet that has waited beyond its lifetime is
counted at the port where it arrived, and ends the collective (R399). -/
def collPacket (i : Instr) (c t : Nat) (p : Packet) (s : State) (k : State) : Host.Outcome State Fault Refusal :=
  let x := s.ctx c
  if x.st = .tearing ∨ x.st = .free then .next s
  else if x.st = .stopped ∨ (x.st = .ready ∧ x.svalid) then
    .next { s with held := s.held ++ [(c, s.tick.toNat, i)] }
  else if 1024 ≤ p.age.toNat then .next ((s.countDrop (p.inAt / 4) (p.inAt % 4)).selfAbort c t p.gen.toNat 2)
  else .next k

/-- CREQ (R409, R410). -/
def execCreq (ctx t : Nat) (p : Packet) (s : State) : Host.Outcome State Fault Refusal :=
  let d := p.die.toNat % 4
  collPacket (.creq ctx t p) ctx t p s
    (match s.accept d ctx t p with
     | some u => u
     | none =>
       let x := s.die d
       if 256 ≤ x.reqs.length then s.replyTo p 0x24
       else s.setDie d { x with reqs := x.reqs ++ [⟨ctx, t, p⟩] })

/-- The sending step that a packet names, with its slot. -/
def State.sender (s : State) (c t : Nat) (p : Packet) : Option (Nat × CProg × CStep) :=
  match s.progOf (p.die.toNat % 4) c t p.gen.toNat with
  | none => none
  | some (k, q) => match q.step? p.mark with
    | none => none
    | some x => if x.kind = .send then some (k, q, x) else none

/-- The bytes of a run of up to 256 that a sender has read in full. -/
def CStep.runReady (x : CStep) (o : Nat) : Option (List Byte) :=
  let n := Nat.min 256 (x.len - o)
  if x.todo.any fun j => decide (o ≤ j) && decide (j < o + n) then none else some (tgets 0 x.buf o n)

/-- A chunk of a cleared message is read; a run of 256 bytes that is complete leaves as CDATA (R409). -/
def State.sendChunk (s : State) (d k : Nat) (q : CProg) (x : CStep) (p : Packet) (o : Nat) : State :=
  match s.readChunk d q.ctx (x.addr + BitVec.ofNat 64 o) with
  | (.error f, t) => t.stepFault d k f
  | (.ok bs, t) =>
    let y := { x with todo := x.todo.filter (· != o), buf := tsets 0 x.buf o bs }
    let t1 := t.setStep d k y
    let run := o / 256 * 256
    match y.runReady run with
    | none => t1
    | some data =>
      let pk := t1.collPkt 0x22 d q.ctx q.tbl q.gen x.peer x.tag x.len p.xdata
      t1.sendPacket [] d { pk with addr := BitVec.ofNat 64 run, payload := data }

/-- CCLR (R409): the sender reads its chunks one by one, at times of their own; this event comes back until it has read
all. -/
def execCclr (ctx t : Nat) (p : Packet) (s : State) : Host.Outcome State Fault Refusal :=
  let d := p.die.toNat % 4
  collPacket (.cclr ctx t p) ctx t p s
    (match s.sender ctx t p with
     | none => s
     | some (k, q, x) =>
       let y := if x.cleared.isNone then { x with cleared := some x.peer, todo := stepChunks x.len, buf := [] } else x
       let (r, s1) := s.drawFree
       let o := y.todo.getD (r.toNat % y.todo.length) 0
       let s2 := s1.sendChunk d k q y p o
       if y.todo = [] then s else if y.todo.length = 1 then s2 else s2.post (.cclr ctx t p))

/-- Images merged one with one (R78). -/
def mergeImages (b m : List Byte) : List Byte :=
  (List.range (b.length / 96)).flatMap fun i =>
    let img := fun l : List Byte => ((l.drop (96 * i)).take 96).map (·.toNat)
    ((({} : Lane).merge (img b)).merge (img m)).image

/-- A chunk of B with a chunk of a message combined into it (R414). -/
def CStep.combine (x : CStep) (b m : List Byte) : List Byte :=
  let op := if x.fmt = 8 then (match x.op with | 0 => 0 | 1 => 4 | _ => 5) else 9 + x.op
  redtBytes op x.fmt false b m

/-- The chunk of a buffer at `o` is replaced by `g` of what it holds. -/
def State.updateChunk (s : State) (d c : Nat) (ad : Word) (g : List Byte → List Byte) : Except Failure State :=
  match s.readChunk d c ad with
  | (.error f, _) => .error f
  | (.ok b, t) =>
    match t.chunkHomes d c .swrite ad with
    | (.error f, _) => .error f
    | (.ok hs, u) => .ok (u.storeHomes hs (g b))

/-- The buffer of an EXACT step merged with its message, chunk by chunk (R414). -/
def State.mergeMessage (s : State) (d c : Nat) (x : CStep) : Except Failure State :=
  let old := (stepChunks x.len).mapM fun o => (s.readChunk d c (x.addr + BitVec.ofNat 64 o)).1
  match old with
  | .error f => .error f
  | .ok bs =>
    let new := mergeImages bs.flatten (tgets 0 x.buf 0 x.len)
    (stepChunks x.len).foldlM (fun t o => t.updateChunk d c (x.addr + BitVec.ofNat 64 o) fun _ => (new.drop o).take 64) s

/-- The last chunk of a message has been taken: CDONE, and the step goes on (R409, R414). -/
def State.messageDone (s : State) (d k : Nat) (x : CStep) (p : Packet) : State :=
  match x.kind with
  | .rrs arr n fwd =>
    let y := { x with done := x.done + 1, cleared := none, todo := [], buf := [] }
    let s1 := s.replyTo p 0x23
    if y.done < n then (s1.setStep d k { y with kind := .rrs arr n fwd }).reqSweep d
    else match y.forward fwd with
      | .start z => (s1.setStep d k z).startStep d k z
      | _ => s1.finishStep d k y
  | _ => (s.replyTo p 0x23).finishStep d k x

/-- A chunk arrives for a receiving step: it is written, combined, or, for EXACT, kept until the message is whole. -/
def State.takeChunk (s : State) (d k : Nat) (q : CProg) (x : CStep) (p : Packet) : State :=
  let o := p.addr.toNat
  let bs := p.payload.take 64
  let ad := x.addr + BitVec.ofNat 64 o
  let y := { x with todo := x.todo.filter (· != o) }
  let res : Except Failure (State × CStep) :=
    match x.kind with
    | .rrs _ _ _ =>
      if x.fmt = 12 then
        let z := { y with buf := tsets 0 y.buf o bs }
        if z.todo = [] then (s.mergeMessage d q.ctx z).map fun t => (t, z) else .ok (s, z)
      else (s.updateChunk d q.ctx ad fun b => x.combine b bs).map fun t => (t, y)
    | _ => match s.chunkHomes d q.ctx .swrite ad with
      | (.error f, _) => .error f
      | (.ok hs, t) => .ok (t.storeHomes hs bs, y)
  match res with
  | .error f => s.stepFault d k f
  | .ok (t, z) =>
    let t1 := t.setStep d k z
    if z.todo = [] then t1.messageDone d k z p else t1

/-- The payload of a RECV port's token (R405): the linear descriptor of the sub-slot. -/
def recvDesc (line rows : Nat) : Word := put 32 4 12 ||| put 20 3 7 ||| put 14 6 rows ||| put 0 14 line

/-- A chunk arrives for a RECV port; with the last the port becomes present (R405). -/
def State.takeRecv (s : State) (e : Nat) (m : RecvMsg) (p : Packet) : State :=
  let x := s.engine e
  let o := x.op m.op
  let off := p.addr.toNat
  let line := o.inLine m.port (m.col % o.rcnt)
  let rest := m.todo.filter (· != off)
  let bs := p.payload.take 64
  let s1 := s.storeHomes ((List.range 64).map fun i => scratchHome e (64 * line + off + i)) bs
  let y := s1.engine e
  if rest ≠ [] then
    s1.setEngine e { y with recvs := y.recvs.map fun r => if r = m then { r with todo := rest } else r }
  else
    let s2 := s1.setEngine e { y with recvs := y.recvs.filter (· != m) }
    let tok := { die := e / 72, unit := e % 72, op := m.op, port := m.port, col := m.col, frame := o.frame, ctx := m.ctx,
                 pay := recvDesc line (m.len / 128 - 1) : TokF }.mk128
    (s2.arriveCtx (.eng e) tok false).replyTo p 0x23

/-- The engine and message of a RECV port that a packet belongs to. -/
def State.recvOf (s : State) (c t : Nat) (p : Packet) : Option (Nat × RecvMsg) :=
  s.eng.findSome? fun (e, x) => (x.recvs.find? fun r => r.ctx == c && r.tbl == t && r.gen == p.gen.toNat &&
    r.srank == p.srank.toNat && r.mark == p.mark && r.die == p.die.toNat).map fun r => (e, r)

/-- CDATA (R409): the chunks of the packet are taken one at a time; this event comes back with the rest. -/
def execCdata (ctx t : Nat) (p : Packet) (s : State) : Host.Outcome State Fault Refusal :=
  let d := p.die.toNat % 4
  let o := p.addr.toNat
  let rest := p.payload.drop 64
  let s1 := if rest = [] then s else s.post (.cdata ctx t { p with addr := p.addr + 64, payload := rest })
  collPacket (.cdata ctx t p) ctx t p s
    (if p.payload = [] then s
     else if p.graph then
       match s1.recvOf ctx t p with
       | some (e, m) => if o ∈ m.todo then s1.takeRecv e m p else s1
       | none => s1
     else match s1.progOf d ctx t p.gen.toNat with
       | none => s1
       | some (k, q) =>
         match q.outs.find? fun x => x.kind != .send && x.cleared == some p.srank.toNat && x.mark == p.mark with
         | some x => if o ∈ x.todo then s1.takeChunk d k q x p else s1
         | none => s1)

/-- CDONE (R409): the sending step completes. -/
def execCdone (ctx t : Nat) (p : Packet) (s : State) : Host.Outcome State Fault Refusal :=
  collPacket (.cdone ctx t p) ctx t p s
    (match s.sender ctx t p with
     | some (k, _, x) => s.finishStep (p.die.toNat % 4) k x
     | none => s)

/-- CBUSY (R410): the request is sent again after 1 µs. -/
def execCbusy (ctx t : Nat) (p : Packet) (s : State) : Host.Outcome State Fault Refusal :=
  collPacket (.cbusy ctx t p) ctx t p s
    (match s.sender ctx t p with
     | some (k, _, x) => s.setStep (p.die.toNat % 4) k { x with resend := some (s.tick.toNat + ticksPerUs) }
     | none => s)

/-- CREQ_RESEND (R410): step `n` sends its request again. -/
def execCreqResend (d k n : Nat) (s : State) : Host.Outcome State Fault Refusal :=
  match s.prog d k with
  | none => .next s
  | some p => match p.step? n with
    | none => .next s
    | some x =>
      if x.resend.any fun t => decide (t ≤ s.tick.toNat) then
        let y := { x with resend := none }
        .next ((s.setStep d k y).sendCreq d p y)
      else .next s

/-- COLL_STEP_TIMEOUT (R410): step `n` still lacks CCLR or CDONE after TMO µs. -/
def execCollStepTimeout (d k n : Nat) (s : State) : Host.Outcome State Fault Refusal :=
  match s.prog d k with
  | none => .next s
  | some p => match p.step? n with
    | none => .next s
    | some x =>
      let tmo := (s.pgt p.ctx p.tbl).tmo.toNat
      if tmo ≠ 0 ∧ x.kind ≠ .copy ∧ p.stop = false ∧ (s.ctx p.ctx).st = .running ∧
          x.start + tmo * ticksPerUs ≤ s.tick.toNat then .next (s.collAbort d k 1 0)
      else .next s

/-! ## Timers of RECV ports (R405) -/

/-- Whether the timer of a port runs for a colour. -/
def State.recvWaits (s : State) (e op k c : Nat) : Bool :=
  let x := s.engine e
  let o := x.op op
  let f := tget {} x.t.ft o.frame
  o.h.kind == .recv && f.v && decide (k < o.h.nin) && (o.upRef k).getLsbD 10 && upTmo (o.upRef k) != 0 && f.live c &&
    (s.portTok (.eng e) f o c k).isNone &&
    (List.range o.h.nin).any fun j => j != k && (s.portTok (.eng e) f o c j).isSome

/-- The timers of an engine's RECV ports start, go on or stop. -/
def State.recvTimers (s : State) (e : Nat) : State :=
  let x := s.engine e
  let ops := (x.t.ot.filter fun (_, o) => o.h.kind == .recv).map (·.1)
  let run := ops.flatMap fun op => (List.range 4).flatMap fun k =>
    ((tget {} x.t.ft (x.op op).frame).window.filter fun c => s.recvWaits e op k c).map fun c =>
      (x.timers.find? fun t => t.op == op && t.port == k && t.col == c).getD ⟨op, k, c, s.tick.toNat⟩
  if ops = [] then s else s.setEngine e { x with timers := run }

/-- RECV_PORT_TIMEOUT (R405): the port receives an E token. -/
def execRecvPortTimeout (e op port col : Nat) (s : State) : Host.Outcome State Fault Refusal :=
  let x := s.engine e
  let o := x.op op
  match x.timers.find? fun t => t.op == op && t.port == port && t.col == col with
  | none => .next s
  | some t =>
    if s.tick.toNat < t.start + upTmo (o.upRef port) * 64 * ticksPerUs ∨ s.recvWaits e op port col = false then .next s
    else
      let f := tget {} x.t.ft o.frame
      let tok := { die := e / 72, unit := e % 72, op := op, port := port, col := col, frame := o.frame, e := true,
                   ctx := f.ctx : TokF }.mk128
      .next ((s.setEngine e { x with timers := x.timers.filter (· != t) }).arriveCtx (.eng e) tok false)

/-! ## Aborts (R422–R424) -/

/-- The tree neighbours of a rank among `n` (R423). -/
def treeNeighbours (i n : Nat) : List Nat :=
  (if i = 0 then [] else [(i - 1) / 2]) ++ [2 * i + 1, 2 * i + 2].filter fun j => decide (j < n)

/-- The programs of a generation, as (die, slot, program). -/
def State.genProgs (s : State) (c t gen : Nat) : List (Nat × Nat × CProg) :=
  (List.range 4).flatMap fun d => (List.range 8).filterMap fun k =>
    match s.prog d k with
    | some p => if p.ctx = c ∧ p.tbl = t ∧ p.gen = gen then some (d, k, p) else none
    | none => none

/-- What every sequencer and engine holds of a generation is dropped (R423). -/
def State.dropGen (s : State) (c t gen : Nat) : State :=
  let s1 := (s.genProgs c t gen).foldl (fun u (d, k, _) => u.setProg d k none) s
  let s2 := s1.dropReqs c t gen
  let s3 := s2.each (s2.eng.map (·.1)) fun e u =>
    let x := u.engine e
    u.setEngine e { x with recvs := x.recvs.filter fun r => !(r.ctx == c && r.tbl == t && r.gen == gen) }
  { s3 with cp := { s3.cp with colls := s3.cp.colls.filter fun y => !(y.ctx == c && y.tbl == t && y.gen == gen) } }

/-- DETAIL of a CABORT record without ACKD (R424). -/
def cabortDetail (idx reason det t gen : Nat) : Word :=
  put 36 12 idx ||| put 32 4 reason ||| put 20 12 det ||| put 16 3 t ||| put 0 16 gen

/-- An abort is over at this rank: it answers, and reports if it dropped a program (R423, R424). -/
def State.finishAbort (s : State) (w : AbortWait) (ackd : Bool) : State :=
  let others := s.cp.aborts.filter fun a => !(a.ctx == w.ctx && a.tbl == w.tbl && a.gen == w.gen)
  let s1 := { s with cp := { s.cp with aborts := others ++ [{ w with done := true, await := [] }] } }
  let s2 := match w.toward with
    | some r => s1.sendPacket [] 0 (s1.collPkt 0x29 0 w.ctx w.tbl w.gen r 0 0 0)
    | none => s1
  w.recs.foldl (fun u r => u.raise 0 { r with detail := r.detail ||| put 19 1 (b2n ackd) }) s2

/-- The first CABT of a generation at this rank (R423); it goes on with the address that R424 reports. -/
def State.firstAbort (s : State) (c t gen reason det : Nat) (addr : Word) (sender : Option Nat) : State :=
  let g := s.pgt c t
  let nb := (treeNeighbours g.own g.n).filter fun r => sender != some r
  let s1 := nb.foldl (fun u r =>
    u.sendPacket [] 0 { u.collPkt 0x28 0 c t gen r 0 0 (BitVec.ofNat 192 (reason + 16 * det)) with addr := addr }) s
  let recs := match s.genProgs c t gen with
    | [] => []
    | (_, _, p) :: _ =>
      [s.record cCabort ⟨c, none, 0, 255, 0, 0⟩ (if reason = 6 then addr else 0) (cabortDetail p.pc reason det t gen) none]
  let s2 := s1.dropGen c t gen
  let s3 := if gen ∈ g.live then s2.retireGen c t gen else s2
  let w : AbortWait :=
    { ctx := c, tbl := t, gen := gen, reason := reason, det := det, toward := sender, await := nb, start := s.tick.toNat,
      recs := recs, early := gen ∉ g.live ∧ (gen + 65536 - g.gen.toNat) % 65536 < 8 }
  if nb = [] then s3.finishAbort w true
  else if (s.ctx c).st = .tearing ∨ (s.ctx c).st = .free then s3.finishAbort w false
  else { s3 with cp := { s3.cp with aborts := s3.cp.aborts ++ [w] } }

/-- The abort of a generation that this rank knows of. -/
def State.abortOf (s : State) (c t gen : Nat) : Option AbortWait :=
  s.cp.aborts.find? fun a => a.ctx == c && a.tbl == t && a.gen == gen

/-- A CABT is taken: the first of its generation aborts it, a later one is only answered (R423). -/
def State.takeCabt (s : State) (c t : Nat) (p : Packet) (own : Bool) : State :=
  let gen := p.gen.toNat
  let sender := if own then none else some p.srank.toNat
  match s.abortOf c t gen, sender with
  | none, _ => s.firstAbort c t gen (fld p.xdata 0 4) (fld p.xdata 4 12) p.addr sender
  | some _, some r => s.sendPacket [] 0 (s.collPkt 0x29 0 c t gen r 0 0 0)
  | some _, none => s

/-- CABT (R423). This package's own detection is one from itself. -/
def execCabt (ctx t : Nat) (p : Packet) (s : State) : Host.Outcome State Fault Refusal :=
  let own := p.srank == p.drank && p.snode == s.net.nodeid
  if own then .next (s.takeCabt ctx t p true)
  else collPacket (.cabt ctx t p) ctx t p s (s.takeCabt ctx t p false)

/-- CACK (R423): a neighbour has answered. -/
def execCack (ctx t : Nat) (p : Packet) (s : State) : Host.Outcome State Fault Refusal :=
  collPacket (.cack ctx t p) ctx t p s
    (match s.abortOf ctx t p.gen.toNat with
     | none => s
     | some w =>
       let y := { w with await := w.await.filter (· != p.srank.toNat) }
       if w.done then s
       else if y.await = [] then s.finishAbort y true
       else { s with cp := { s.cp with aborts := s.cp.aborts.map fun a => if a = w then y else a } })

/-- ABORT_ACK_TIMEOUT (R423): TMO µs, or 2,048 µs where TMO is 0, have passed without every answer. -/
def execAbortAckTimeout (ctx t gen : Nat) (s : State) : Host.Outcome State Fault Refusal :=
  match s.abortOf ctx t gen with
  | none => .next s
  | some w =>
    let tmo := (s.pgt ctx t).tmo.toNat
    let limit := if tmo = 0 then 2048 else tmo
    if w.done ∨ (s.ctx ctx).st ≠ .running ∨ s.tick.toNat < w.start + limit * ticksPerUs then .next s
    else .next (s.finishAbort w false)

end Sys2Proof.Machine
end

