-- ==== Sys2Proof/Machine/Pages.lean ====
section
/-!
DEFINITION. Changing a mapping (R390, R391), and RETRYF with its FAIL form (R271, R386, R387).
-/
namespace Sys2Proof.Machine

/-! ## The walker block (R390, R391) -/

/-- Whether an INV takes in a translation of context `c`. -/
def Walker.hits (w : Walker) (c : Nat) (t : Trans) : Bool :=
  match w.kind with
  | 0 =>
    let lo := w.vpn * 65536
    let hi := lo + w.npg.toNat * 65536
    c == w.ctx && decide (t.base < hi) && decide (lo < t.base + 2 ^ t.log)
  | 1 => c == w.ctx
  | _ => true

/-- The entries of the caches and streams of die `d` that an INV takes in are removed, and its walks start afresh. -/
def State.dropTrans (s : State) (d : Nat) (w : Walker) : State :=
  let u := s.units d
  let s1 := (s.setUnits d { u with walk := { u.walk with
    stc := u.walk.stc.filter (fun (c, t) => !w.hits c t)
    cbuf := u.walk.cbuf.filter fun k => !w.hits k.ctx { base := k.va * 64, log := 6 } } }).voidWalks d
  s1.each ((s1.eng.map (·.1)).filter fun e => e / 72 == d) fun e t =>
    let x := t.engine e
    let strs := x.streams.map fun y => { y with ents := y.ents.filter fun t => !w.hits y.who.ctx t.2 }
    t.setEngine e { x with streams := strs }

/-- Whether an INV concerns accesses of a context. -/
def Walker.takesIn (w : Walker) (c : Nat) : Bool := decide (c < 64) && (w.kind == 2 || c == w.ctx)

/-- INV (R390, R391). -/
def State.inv (s : State) (d : Nat) : State :=
  let u := s.units d
  let w := u.walk
  if w.kind = 3 ∨ (w.kind = 0 ∧ w.npg = 0) then s
  else
    let s1 := (s.setUnits d { u with walk := { w with busy := true, await := [], opens := [] } }).awaitUsers d w.takesIn
    s1.each (if w.bcast then List.range 4 else [d]) fun e t => t.dropTrans e w

/-- A write of word 0 of the walker block of a die; `cmd` is its command. -/
def State.walkWord0 (s : State) (d : Nat) (v : Word) (cmd : Nat) : State :=
  let u := s.units d
  if u.walk.busy then s
  else
    let s1 := s.setUnits d { u with walk := { u.walk with bcast := v.getLsbD 7, kind := fld v 0 2 } }
    if cmd = 1 then s1.inv d else s1

/-- A write of word `n` of the walker block of a die (R390). -/
def State.walkWord (s : State) (d n : Nat) (v : Word) : State :=
  let u := s.units d
  match n with
  | 0 => s.walkWord0 d v (fld v 8 4)
  | 1 => if u.walk.busy then s else s.setUnits d { u with walk := { u.walk with ctx := fld v 48 6, vpn := fld v 16 32 } }
  | 2 => if u.walk.busy then s else s.setUnits d { u with walk := { u.walk with npg := v.extractLsb' 0 32 } }
  | _ => s

/-- The words of the walker block as they read (R390). -/
def Walker.readWord (w : Walker) (n : Nat) : Word :=
  match n with
  | 0 => put 7 1 (b2n w.bcast) ||| put 0 2 w.kind
  | 1 => put 48 6 w.ctx ||| put 16 32 w.vpn
  | 2 => put 0 32 w.npg.toNat
  | 3 => put 0 1 (b2n w.busy)
  | _ => 0

/-- WALKER_INV (R391): a write of word 0 with CMD 1. -/
def execWalkerInv (d : Nat) (v : Word) (s : State) : Host.Outcome State Fault Refusal :=
  .next (if 4 ≤ d then s else s.regEvent (walkerOff d 0) v (s.walkWord0 d v 1))

/-- WALKER_INV_COMPLETE (R391): BUSY clears once the accesses made through what was removed have taken effect, those that an open pass
held included. -/
def execWalkerInvComplete (d : Nat) (s : State) : Host.Outcome State Fault Refusal :=
  let u := s.units d
  let open_ := (s.holding fun _ => true).any u.walk.opens.contains
  if 4 ≤ d ∨ u.walk.busy = false ∨ s.depsDone u.walk.await = false ∨ open_ then .next s
  else .next (s.setUnits d { u with walk := { u.walk with busy := false, await := [], opens := [] } })

/-! ## RETRYF (R271) -/

/-- The open fault of a die that a word names as its FID. DEDUCED (log 148): all 64 bits count. -/
def State.fidNamed (s : State) (d : Nat) (w : Word) : Option OpenFid :=
  if fld w 0 30 = 0 then none else (s.die d).fids.find? fun f => f.fid.setWidth 64 == w

/-- Every firing and stream of the package that a fault holds, changed: firings by `f`, streams and copies by `g` (removed
where it gives none). -/
def State.onFault (s : State) (key : Nat) (f : Firing → Firing) (g : Stream → Option Stream)
    (k : CopyStream → Option CopyStream) : State :=
  let s1 := s.each (s.eng.map (·.1)) fun e t =>
    let x := t.engine e
    let rq := x.requeue.map fun y => if y.hold = .fault key then f y else y
    let strs := x.streams.filterMap fun y => if y.phase = .stalled key then g y else some y
    t.setEngine e { x with requeue := rq, streams := strs }
  let cs := s1.cp.copies.filterMap fun y => if y.phase = .stalled key then k y else some y
  { s1 with cp := { s1.cp with copies := cs } }

/-- The page of a fault leaves the second-level cache of a die (R386). -/
def State.dropPage (s : State) (d : Nat) (f : OpenFid) : State :=
  let u := s.units d
  let keep := fun (p : Nat × Trans) => !(p.1 == f.ctx && p.2.covers (f.page * 65536))
  s.setUnits d { u with walk := { u.walk with stc := u.walk.stc.filter keep } }

/-- RETRYF (R271): held firings become eligible again, stalled streams walk again. -/
def State.retryFault (s : State) (d : Nat) (f : OpenFid) : State :=
  ((s.dropPage d f).onFault f.key (fun y => { y with hold := .free }) (fun y => some (y.retried s.clock.cyc))
    fun y => some { y with phase := .running }).closeFault d f.key

/-- RETRYF.FAIL (R271): held firings stay for PURGE, stalled streams end under FAIL. -/
def State.failFault (s : State) (d : Nat) (f : OpenFid) : State :=
  (s.onFault f.key (fun y => { y with hold := .closed }) (fun _ => none) fun _ => none).closeFault d f.key

/-- Whether a fault holds a stream of a context that is not resident: the stream stands in the save area, and the fault stays open
until RSTOR has brought it back (R288; log 41). -/
def State.faultParked (s : State) (key : Nat) : Bool :=
  s.eng.any fun (_, x) => x.streams.any fun y => decide (256 ≤ y.n) && y.phase == .stalled key

/-- RETRYF (R268, R271). -/
def execRetryf (f : FmtCG) (s : State) : Host.Outcome State Fault Refusal :=
  onCore (.retryf f) s fun d c =>
    match s.fidNamed d (c.rd f.ga) with
    | none => s.setCore d (c.wr f.gd 0).adv
    | some x =>
      if c.mayName x.ctx = false then s.coreFault d cPriv (wordOf (.retryf f))
      else if s.faultParked x.key then s.setCore d (c.wr f.gd 0).adv
      else
        let t := s.retryFault d x
        t.setCore d ((t.core d).wr f.gd 1).adv

/-- RETRYF.FAIL (R268, R271). -/
def execRetryfFail (f : FmtCG) (s : State) : Host.Outcome State Fault Refusal :=
  onCore (.retryfFail f) s fun d c =>
    match s.fidNamed d (c.rd f.ga) with
    | none => s.setCore d (c.wr f.gd 0).adv
    | some x =>
      if c.mayName x.ctx = false then s.coreFault d cPriv (wordOf (.retryfFail f))
      else
        let t := s.failFault d x
        t.setCore d ((t.core d).wr f.gd 1).adv

end Sys2Proof.Machine
end

