-- ==== Sys2Proof/Machine/RootCore.lean ====
section
/-!
DEFINITION. The Root Core (R449–R453, R455–R458): boot, freeze, capture and replay, power, attestation, its block.
-/
namespace Sys2Proof.Machine

/-- BSTATE changes; vector 2 fires (R448, R452). -/
def State.setBoot (s : State) (b : BootSt) : State :=
  if s.root.bstate = b then s else { s with root := { s.root with bstate := b } }.fireMsix 2

/-! ## Reset and boot (R451, R452) -/

/-- RESET_RELEASE (R452): the ROM begins its tests. -/
def execResetRelease (s : State) : Host.Outcome State Fault Refusal :=
  .next (if s.root.bstate = .rom then s.post .romTestsDone else s)

/-- ROM_TESTS_DONE (R452). -/
def execRomTestsDone (s : State) : Host.Outcome State Fault Refusal :=
  .next (if s.root.bstate = .rom then s.setBoot .waitimg else s)

/-- BOOT (R452). -/
def State.bootCmd (s : State) : State :=
  if s.root.bstate = .waitimg ∨ s.root.bstate = .failed then (s.setBoot .verify).post .imageVerifyDone else s

/-- BOOT (R452): the command of the Root Core block. -/
def execBoot (s : State) : Host.Outcome State Fault Refusal := .next s.bootCmd

/-- Little-endian number at bytes `i` to `i + n − 1` of the image. -/
def State.imgAt (s : State) (i n : Nat) : Nat := leNat (s.rdBytes (hbmHome (s.root.imgaddr.toNat + i)) n)

/-- Whether the header of an image is good (R451). -/
def State.imgHeaderOk (s : State) : Bool :=
  let len := s.root.imglen.toNat
  let entry := BitVec.ofNat 64 (s.imgAt 8 8)
  decide (64 + 114 ≤ len) && s.imgAt 0 4 == 0x57464756 && s.imgAt 4 2 == 1 && s.imgAt 6 2 == 0 &&
    addrPath entry == 0 && fieldsOk entry && entry.toNat % 8 == 0 && decide (64 + s.imgAt 16 4 + 114 ≤ len) &&
    s.imgAt 20 4 == 0 && s.imgAt 24 40 == 0

/-- The prehash of the image: SHAKE256 of everything but the signature (R451). -/
def State.imgPrehash (s : State) : List Byte :=
  Config.shake256 (s.rdBytes (hbmHome s.root.imgaddr.toNat) (s.root.imglen.toNat - 114)) 64

/-- The first check of an image that fails: BERR (R450, R451). -/
def State.imgFault (s : State) : Option Nat :=
  let a := s.root.imgaddr.toNat
  let len := s.root.imglen.toNat
  if 2 ^ 39 < a + len ∨ s.eccAt (hbmHome a) len then some 3
  else if s.imgHeaderOk = false then some 1
  else if Config.firmwareSigOk s.imgPrehash (s.rdBytes (hbmHome (a + len - 114)) 114) = false then some 2
  else none

/-- A control core is released at a start address, in supervisor mode with ASEL = 64 (R258, R259, R452). -/
def State.releaseCore (s : State) (d : Nat) (entry : Word) : State :=
  let c := s.core d
  s.setCore d { c with pc := entry, npc := entry, run := true, csr := { c.csr with mode := true, asel := 64 } }

/-- The Root Core patches of the image (R451). -/
def State.imgPatches (s : State) : List Byte := s.rdBytes (hbmHome (s.root.imgaddr.toNat + 64)) (s.imgAt 16 4)

/-- IMAGE_VERIFY_DONE (R452): the patches are applied, which the state shows as the patches in force (log entry 19). -/
def execImageVerifyDone (s : State) : Host.Outcome State Fault Refusal :=
  if s.root.bstate ≠ .verify then .next s
  else match s.imgFault with
    | some e => .next ({ s with root := { s.root with berr := e } }.setBoot .failed)
    | none =>
      let entry := BitVec.ofNat 64 (s.imgAt 8 8)
      let s1 := { s with root := { s.root with digest := s.imgPrehash, patches := s.imgPatches } }
      .next ((s1.each (List.range 4) fun d t => t.releaseCore d entry).setBoot .running)

/-! ## Freeze (R455) and package reset (R449) -/

/-- FREEZE (R455): the clocks stop at the end of the cycle. -/
def execFreeze (s : State) : Host.Outcome State Fault Refusal := .next (s.setBoot .frozen)

/-- PACKAGE_RESET (R449, R452): the package is as after reset; the memory of the host is not its own, and what the model
keeps for its schedule goes on. The aperture has its reset size until it is negotiated again (R446). -/
def execPackageReset (s : State) : Host.Outcome State Fault Refusal :=
  .next { State.reset with
    mem := s.mem.filter fun (h, _) => decide (2 ^ 48 ≤ h) && decide (h < 2 ^ 49)
    sched := s.sched
    choices := s.choices
    free := s.free
    nextId := s.nextId
    host := { ({} : HostBlock) with out := s.host.out } }

/-- DEBUG_STEP_WORD (R455): on a frozen package a word, with its extension word, is fed to a core. -/
def execDebugStepWord (d : Nat) (w x : Word) (s : State) : Host.Outcome State Fault Refusal :=
  if 4 ≤ d ∨ s.isFrozen = false then .next s
  else
    let c := s.core d
    .next (s.setCore d { c with step := some (w, x) })

/-! ## Capture and replay (R456, R457) -/

/-- CAPTURE (R456). -/
def State.captureCmd (s : State) : State := { s with root := { s.root with cmode := 1 } }
/-- CAPSTOP (R456). -/
def State.capstopCmd (s : State) : State := { s with root := { s.root with cmode := 0 } }
/-- REPLAY (R457): accepted while the firmware runs and before any context has been allocated; one that is FREE and has been torn down
has been. -/
def State.replayCmd (s : State) : State :=
  if s.root.bstate = .running ∧ (s.ctxs.all fun (_, c) => c.st == .free && !c.torn) then
    { s with root := { s.root with cmode := 2, cappos := 0, capDie := [], divAt := (List.range 4).map fun d => (d, s.tick.toNat), div := false } }
  else s

/-- CAPTURE (R456): the command of the Root Core block. -/
def execCapture (s : State) : Host.Outcome State Fault Refusal := .next s.captureCmd
/-- CAPSTOP (R456): the command of the Root Core block. -/
def execCapstop (s : State) : Host.Outcome State Fault Refusal := .next s.capstopCmd
/-- REPLAY (R457): the command of the Root Core block. -/
def execReplay (s : State) : Host.Outcome State Fault Refusal := .next s.replayCmd

/-- Whether the next recorded decision of a die could not be made for 2^24 ticks (R457). -/
def State.stuckReplay (s : State) (d : Nat) : Bool :=
  (s.nextEntry d).isSome && decide (tget 0 s.root.divAt d + 2 ^ 24 ≤ s.tick.toNat)

/-- REPLAY_DIVERGENCE (R457): a recorded decision of a die could not be made for 2^24 ticks. -/
def execReplayDivergence (s : State) : Host.Outcome State Fault Refusal :=
  let r := s.root
  if r.cmode ≠ 2 ∨ (List.range 4).any s.stuckReplay = false then .next s
  else .next ({ s with root := { r with div := true, cmode := 0 } }.fireMsix 3)

/-! ## Power (R458) -/

/-- Ticks in a power window of 1 ms. -/
def powerWindowTicks : Nat := 850000

/-- MULT after a window (R458): `hot` is a die temperature above 105 °C. -/
def nextMult (mult watts cap : Nat) (hot : Bool) : Nat :=
  if cap < watts ∨ hot then Nat.max 16 (mult - 1)
  else if watts * 100 < 95 * cap then Nat.min 32 (mult + 1)
  else mult

/-- POWER_WINDOW (R458): a window ends with an average package power. Vector 4 fires where OVER changes (R448). -/
def execPowerWindow (watts : Nat) (hot : Bool) (s : State) : Host.Outcome State Fault Refusal :=
  let r := s.root
  if s.tick.toNat < r.winStart + powerWindowTicks then .next s
  else
    let over_ := decide (r.mult = 16) && decide (r.pcap.toNat < watts)
    let s1 := { s with root := { r with mult := nextMult r.mult watts r.pcap.toNat hot, overCap := over_,
                                        winStart := r.winStart + powerWindowTicks } }
    .next (if r.overCap = over_ then s1 else s1.fireMsix 4)

/-! ## The Root Core block (R450) -/

/-- A write of word `n` of the Root Core block. -/
def State.rootWord (s : State) (n : Nat) (v : Word) : State :=
  let r := s.root
  match n with
  | 1 => if fld v 0 48 % 64 = 0 then { s with root := { r with imgaddr := v.extractLsb' 0 48 } } else s
  | 2 => { s with root := { r with imglen := v.extractLsb' 0 32 } }
  | 3 => (match fld v 0 8 with
    | 1 => s.bootCmd
    | 2 => s.setBoot .frozen
    | 3 => s.captureCmd
    | 4 => s.replayCmd
    | 5 => s.capstopCmd
    | _ => s)
  | 4 => if fld v 0 48 % 64 = 0 then { s with root := { r with capbase := v.extractLsb' 0 48 } } else s
  | 5 => { s with root := { r with caplen := v.extractLsb' 0 32 } }
  | 7 => if fld v 0 16 < 800 then s else { s with root := { r with pcap := v.extractLsb' 0 16 } }
  | _ => s

/-- BSTATE as it reads. -/
def BootSt.code : BootSt → Nat
  | .rom => 0 | .waitimg => 1 | .verify => 2 | .running => 3 | .failed => 4 | .frozen => 5

/-- The words of the Root Core block as they read. -/
def Root.readWord (r : Root) (n : Nat) : Word :=
  match n with
  | 0 => put 8 8 r.berr ||| put 0 3 r.bstate.code
  | 1 => put 0 48 r.imgaddr.toNat
  | 2 => put 0 32 r.imglen.toNat
  | 4 => put 0 48 r.capbase.toNat
  | 5 => put 0 32 r.caplen.toNat
  | 6 => put 32 32 r.cappos.toNat ||| put 2 1 (b2n r.div) ||| put 0 2 r.cmode
  | 7 => put 0 16 r.pcap.toNat
  | 8 => put 9 1 (b2n r.overCap) ||| put 0 6 r.mult
  | 9 => put 0 4 r.halt.toNat
  | _ => 0

/-! ## Management (R449, R453) -/

/-- An answer leaves for the management controller or the host. -/
def State.respond (s : State) (bs : List Byte) : State := { s with host := { s.host with out := bs :: s.host.out } }

/-- MCTP_CONTROL_MESSAGE (R449). -/
def execMctpControlMessage (msg : List Byte) (s : State) : Host.Outcome State Fault Refusal :=
  .next (s.respond (Config.mctpReply msg))

/-- MCTP_READ_ROOT_BLOCK (R449, R450): the ten words. -/
def execMctpReadRootBlock (s : State) : Host.Outcome State Fault Refusal :=
  .next (s.respond ((List.range 10).flatMap fun n => leBytes 8 (s.root.readWord n).toNat))

/-- MCTP_READ_ERROR_LOG (R449, R451): the entries, oldest first. -/
def execMctpReadErrorLog (s : State) : Host.Outcome State Fault Refusal :=
  .next (s.respond (s.root.log.flatMap fun l => [l.word0, l.tick, l.detail, l.src].flatMap fun w => leBytes 8 w.toNat))

/-- MCTP_READ_SENSORS (R449). -/
def execMctpReadSensors (s : State) : Host.Outcome State Fault Refusal := .next (s.respond (Config.sensors s.tick))

/-- Bytes cut or padded with zeros to `n`. -/
def fitBytes (n : Nat) (bs : List Byte) : List Byte := bs.take n ++ List.replicate (n - bs.length) 0

/-- Bytes 0 to 271 of an attestation report (R453). -/
def State.reportBody (s : State) (nonce : List Byte) : List Byte :=
  let seed := Config.shake256 Config.pufResponse 57
  let digest := if s.root.bstate = .failed then [] else s.root.digest
  [0x56, 0x47, 0x41, 0x52] ++ leBytes 2 1 ++ leBytes 2 s.net.nodeid.toNat ++ fitBytes 64 nonce ++
    fitBytes 64 (Config.shake256 Config.romImage 64) ++ fitBytes 64 digest ++ leBytes 8 s.tick.toNat ++
    fitBytes 64 (fitBytes 57 (Config.ed448Public seed))

/-- ATTESTATION_REPORT_REQUEST (R453): the 448-byte report. -/
def execAttestationReportRequest (nonce : List Byte) (s : State) : Host.Outcome State Fault Refusal :=
  let b := s.reportBody nonce
  let sig := fitBytes 114 (Config.ed448Sign (Config.shake256 Config.pufResponse 57) b)
  .next (s.respond (fitBytes 448 (b ++ sig)))

end Sys2Proof.Machine
end

