-- ==== Sys2Proof/Machine/Save.lean ====
section
/-!
DEFINITION. The state instructions of a control core (R272): SNAP and RSTOR with the save area (R286, R288), QDRN (R185),
MSRD and MSWR.
-/
namespace Sys2Proof.Machine

/-! ## Accesses of a core -/

/-- A word of a core that writes memory writes bytes at an address (R259, R272): it acts after every earlier access of the core (R264). -/
def State.coreStore (s : State) (d : Nat) (a : Word) (bs : List Byte) : Except Failure State :=
  match s.resolve (s.coreVia d .store) [0x0, 0x1, 0x2, 0x8, 0x9] a bs.length false with
  | (.error f, _) => .error f
  | (.ok hs, t) => .ok (t.storeHomes hs bs)

/-- A word of a core that reads memory reads bytes at an address (R259), with the state after its translations. -/
def State.coreLoad (s : State) (d : Nat) (a : Word) (n : Nat) : Except Failure (List Byte) × State :=
  match s.resolve (s.coreVia d .load) [0x0, 0x1, 0x2, 0x8, 0x9] a n false with
  | (.error f, t) => (.error f, t)
  | (.ok hs, t) =>
    if t.eccHomes hs then (.error ⟨cEcc, a, Config.eccPlace (hs.headD 0)⟩, t)
    else (.ok (if addrPath a = 1 then t.rdConst (288 + d) (t.core d).acq hs else t.rdHomes hs), t)

/-! ## Entries as words -/

/-- A frame-table entry as its 64 bits (R25). -/
def Frame.word (f : Frame) : Word :=
  put 63 1 (b2n f.v) ||| put 55 8 f.inst ||| put 49 6 f.ctx ||| put 43 6 (f.w - 1) ||| put 31 12 f.wbase |||
    put 21 10 (f.spc - 1) ||| put 8 13 f.base ||| put 0 8 f.owner

/-- A frame entry from its 64 bits, NEXT and retired map; `old` keeps the image's WBASE. -/
def Frame.ofWord (old : Frame) (w : Word) (next : Nat) (retired : Word) : Frame :=
  { v := w.getLsbD 63, inst := fld w 55 8, ctx := fld w 49 6, w := fld w 43 6 + 1, wbase := fld w 31 12,
    spc := fld w 21 10 + 1, base := fld w 8 13, owner := fld w 0 8, next := next % 4096, retired := retired,
    wbase0 := old.wbase0 }

/-- The 16,384 bytes of an accumulator: 64 rows of its 64 cells (R272). -/
def Engine.accBytes (x : Engine) (i : Nat) : List Byte :=
  (List.range 4096).flatMap fun n => leBytes 4 (tget 0 x.q (4096 * i + n)).toNat

/-! ## The save area (R288) -/

/-- Little-endian numbers, as (bytes, value). -/
def packLe (l : List (Nat × Nat)) : List Byte := l.flatMap fun (n, v) => leBytes n v
/-- Bytes padded with zeros to a multiple of 64. -/
def pad64 (bs : List Byte) : List Byte := bs ++ List.replicate ((64 - bs.length % 64) % 64) 0
/-- A section: its head, its records, padding; nothing where it has no record. -/
def section_ (ty eng : Nat) (recs : List Byte) : List (List Byte) :=
  if recs = [] then [] else [pad64 (packLe [(2, ty), (2, eng), (4, 0), (8, recs.length)] ++ recs)]

/-- The frames of a context at a store, as FRAMES records. -/
def framesRec (c : Nat) (ft : Table Frame) : List Byte :=
  (ft.filter fun (_, f) => f.v && f.ctx == c).flatMap fun (n, f) =>
    packLe [(4, n), (2, f.next), (2, 0), (8, f.word.toNat), (8, f.retired.toNat)]
/-- The present slots of a context at a store, as SLOTS records; `hi` is added to the slot number. -/
def slotsRec (c hi : Nat) (ms : Table Slot) : List Byte :=
  (ms.filter fun (_, x) => x.p && tokCtx x.tok == c).flatMap fun (n, x) => packLe [(4, n + hi), (4, 0), (16, x.tok.toNat)]

/-- The operators of a context on an engine. -/
def Engine.ctxOps (x : Engine) (l : Nat → Frame) (c : Nat) : List (Nat × OpEntry) :=
  x.t.ot.filter fun (_, o) => o.h.kind != .none && (l o.frame).v && (l o.frame).ctx == c
/-- The operators of a context on engine `e`, pooled ones by their pool frame. -/
def State.opsOf (s : State) (e c : Nat) : List (Nat × OpEntry) :=
  let x := s.engine e
  x.t.ot.filter fun (_, o) =>
    let f := s.frame (o.home e) o.frame
    o.h.kind != .none && f.v && f.ctx == c

/-- An OPSTATE record: 488 bytes. -/
def State.opRec (s : State) (e op : Nat) (o : OpEntry) : List Byte :=
  let r := (s.engine e).run op
  let arm := fun i => r.arms.getD i {}
  packLe ([(4, op), (4, o.h.olcnt)] ++ ((List.range 8).map fun i => (8, (tget 0 r.s i).toNat)) ++
    ((List.range 32).map fun i => (8, (tget 0 r.ssh i).toNat)) ++ ((List.range 4).map fun i => (8, (tget 0 r.kept i).toNat)) ++
    ((List.range 8).map fun i => (8, (s.busyMap (o.home e) (s.busyOp e op o) i).toNat)) ++
    (List.range 4).flatMap fun i => [(2, (arm i).first), (2, 0), (4, (arm i).n), (4, (arm i).handed), (4, (arm i).retired)])

/-- The accumulators that a save holds: all after a hard stop, else those in QLIVE masks and their shadows (R286). -/
def State.savedAccs (s : State) (e c : Nat) (hard : Bool) : List Nat :=
  if hard then List.range 8
  else ((s.opsOf e c).flatMap fun (_, o) =>
    liveAccs o.h.qlive (s.tangents c (s.frame (o.home e) o.frame).inst o)).dedup

/-- The lines of a sub-slot and of its tangent slices, as (first line, count). -/
def subSlotLines (line size str k slices : Nat) : List (Nat × Nat) :=
  (line, size) :: ((List.range k).flatMap fun t => (List.range slices).map fun i =>
    (line + (t + 1) * str + i * (str / 8), size))

/-- The live tiles of an operator (R286): input sub-slots that hold a present tile or a kept entry, output sub-slots that a
consumer has not released, those of a PUSH by the entry that it copied. -/
def State.liveTiles (s : State) (e c op : Nat) (o : OpEntry) : List (Nat × Nat) :=
  let x := s.engine e
  let r := x.run op
  let str := s.shadowStride e op
  let f := s.frame (o.home e) o.frame
  let k := if str = 0 then 0 else s.tangents c f.inst o
  let ports := (List.range o.h.nin).filter fun p => (o.ports.getD p {}).tile
  let ins := ports.flatMap fun p => (List.range o.rcnt).flatMap fun j =>
    let held := (s.ms (o.home e)).find? fun (_, z) =>
      z.p && tokOp z.tok == op && tokFrame z.tok == o.frame && tokPort z.tok == p && tokCol z.tok % o.rcnt == j &&
        tileTok o p z.tok
    match held with
    | some (_, z) => subSlotLines (o.inLine p j) o.rsize str k (fmtSlices (dFmt (tokPay z.tok)))
    | none =>
      if r.isKept p j then
        subSlotLines (o.inLine p j) o.rsize str k (fmtSlices (dFmt (tokPay (tget 0 r.keptTok (64 * p + j)))))
      else []
  let outs := (x.tileRefs o).flatMap fun n =>
    let busy := s.busyMap (o.home e) (s.busyOp e op o) n
    let js := if refMode (x.ref o n) = 1 then
        r.pushed.filterMap fun (i, j) => if i / 64 = n ∧ busy.getLsbD (i % 64) then some j else none
      else (List.range o.rcnt).filter busy.getLsbD
    js.flatMap fun j => subSlotLines (o.outLine j) o.rsize str k 8
  ins ++ outs

/-- A TILES record. -/
def State.tileRec (s : State) (e : Nat) (r : Nat × Nat) : List Byte :=
  packLe [(4, r.1), (4, r.2)] ++ s.rdBytes (scratchHome e (64 * r.1)) (64 * r.2)

/-- Bits [127:64] of a completion token, or 0. -/
def compHi (t : Option Token) : Nat := (t.getD 0).toNat / 2 ^ 64
/-- The FID of a fault of a die. -/
def State.fidOf (s : State) (d : Nat) (p : StreamPhase) : Nat :=
  match p with
  | .stalled key => (((s.die d).fids.find? fun f => f.key == key).map (·.fid.toNat)).getD 0
  | _ => 0
/-- The pieces of a stream that are done: moved, and, of an LDT, written to scratch. -/
def State.piecesDone (s : State) (e c : Nat) (y : Stream) : List Nat :=
  let kept := fun p =>
    let row := y.q.rowAddr (pieceRow p)
    let (lo, hi) := chunkSpan row (dRowBytes y.q.desc) (pieceChunk p)
    (s.scratchHomes e (y.q.planeDesc (piecePlane p)) (pieceRow p) lo hi).any (bufHas y.buf)
  (s.pieces c y.q).filter fun p => !y.todo.contains p && !(y.q.kind == .ldt && kept p)

/-- A STREAMS record: 64 bytes. -/
def State.streamRec (s : State) (e c : Nat) (y : Stream) : List Byte :=
  packLe [(8, y.q.f.toNat), (8, y.q.ext.toNat), (8, y.q.addr.toNat), (8, y.q.desc.toNat),
          (4, (s.piecesDone e c y).length), (4, s.fidOf (e / 72) y.phase), (8, (y.q.rod.getD 0).toNat),
          (8, compHi y.q.comp), (8, 0)]

/-- The sections of one engine of a context. -/
def State.engineSects (s : State) (e c : Nat) (hard : Bool) : List (List Byte) :=
  let x := s.engine e
  let u := e % 72
  let r := (s.ctx c).r
  let tiles := ((s.opsOf e c).flatMap fun (op, o) => s.liveTiles e c op o) ++ if r.pcnt = 0 then [] else [(r.pfirst, r.pcnt)]
  section_ 1 u (framesRec c x.t.ft) ++ section_ 2 u (slotsRec c 0 x.t.ms) ++
  section_ 3 u ((s.opsOf e c).flatMap fun (op, o) => s.opRec e op o) ++
  section_ 4 u ((s.savedAccs e c hard).flatMap fun i => packLe [(4, i), (4, 0)] ++ x.accBytes i) ++
  (if hard then section_ 6 u (s.rdBytes (scratchHome e 0) 786432) else section_ 5 u (tiles.dedup.flatMap (s.tileRec e))) ++
  section_ 7 u ((List.range 128).flatMap fun i => (tget {} x.lanes i).image) ++
  section_ 8 u (packLe ((List.range 48).map fun i => (8, (tget 0 x.rods i).toNat))) ++
  section_ 9 u ((x.streams.filter fun y => y.who.ctx == c && y.phase.isStalled).flatMap (s.streamRec e c))

/-- The record of a stopped program: 256 bytes (R424). -/
def State.collRec (s : State) (p : CProg) : List Byte :=
  packLe ([(8, p.addr.toNat), (2, p.gen), (1, p.tbl), (1, p.mask.toNat), (4, p.pc), (8, (p.rod.getD 0).toNat),
           (4, p.cadd.toNat), (4, (s.pgt p.ctx p.tbl).tpos.toNat)] ++
    ((List.range 16).map fun i => (8, (tget 0 p.w i).toNat)) ++ [(96, 0)])

/-- The sections of a die: pool frames and slots, die rods, then group rods as numbers from 256 up (log entry 40), programs. -/
def State.dieSects (s : State) (d c : Nat) : List (List Byte) :=
  let p := s.pool d
  let u := s.units d
  let rods := fun (t : Table Rod) (off : Nat) => (t.filter fun (_, r) => r.a && r.ctx == c).flatMap fun (n, r) =>
    packLe [(2, n + off), (2, 0), (4, 0), (8, r.count.toNat)]
  let progs := (List.range 8).flatMap fun k =>
    match s.prog d k with
    | some q => if q.ctx = c then s.collRec q else []
    | none => []
  section_ 1 0xFFFF (framesRec c p.ft) ++ section_ 2 0xFFFF (slotsRec c (2 ^ 31) p.ms) ++
  section_ 8 0xFFFF (rods u.rods 0 ++ rods u.grods 256) ++ section_ 10 0xFFFF progs

/-- What SNAP writes for a context on a die (R288). -/
def State.saveArea (s : State) (d c : Nat) : List Byte :=
  let hard := (s.ctx c).hards
  let es := (s.ctxEngines c).filter fun e => e / 72 == d
  let sects := es.flatMap (fun e => s.engineSects e c hard) ++ s.dieSects d c
  let body := sects.flatten
  packLe [(4, 0x56534756), (2, 1), (1, b2n hard), (1, d), (1, c), (7, 0), (8, s.tick.toNat), (4, sects.length), (4, 0),
          (8, 64 + body.length), (24, 0)] ++ body

/-- SNAP (R272, R286). -/
def execSnap (f : FmtCG) (s : State) : Host.Outcome State Fault Refusal :=
  onSup (.snap f) s fun d k =>
    let c := (k.rd f.ga).toNat
    if 64 ≤ c ∨ (s.ctx c).st ≠ .stopped then s.coreFault d cSnap 0
    else
      let bs := s.saveArea d c
      match s.coreStore d (k.rd f.gb) bs with
      | .error g => s.coreFault d g.cause g.addr
      | .ok t =>
        let x := t.ctx c
        let t1 := t.setCtx c { x with snapd := x.snapd ||| BitVec.ofNat 4 (2 ^ d) }
        t1.setCore d ((t1.core d).wr f.gd (BitVec.ofNat 64 bs.length)).adv

/-! ## Restoring (R288) -/

/-- The sections of a save area: type, engine, records. -/
def parseSects : Nat → List Byte → List (Nat × Nat × List Byte)
  | 0, _ => []
  | n + 1, bs =>
    let len := leAt bs 8 8
    (leAt bs 0 2, leAt bs 2 2, (bs.drop 16).take len) :: parseSects n (bs.drop ((16 + len + 63) / 64 * 64))

/-- Records of `n` bytes each. -/
def records (n : Nat) (bs : List Byte) : List (List Byte) :=
  (List.range (bs.length / n)).map fun i => (bs.drop (i * n)).take n

/-- A 64-bit number of a record. -/
def le64 (b : List Byte) (i : Nat) : Word := BitVec.ofNat 64 (leAt b i 8)

/-- A slot whose present token is `t`: a ROD-mode port is tested again (R352). -/
def State.restoreSlot (s : State) (l : Loc) (n : Nat) (p : Bool) (t : Token) : State :=
  let o := s.opAt l (tokOp t) (tokFrame t)
  let rod := (o.ports.getD (tokPort t) {}).mode == .rod
  s.setSlot l n { p := p, tok := t, rodOk := p && rod && decide (wwTarget (tokPay t) ≤ (s.wwCount (tokPay t)).toNat) }

/-- The armings of a record; what the layout does not hold of them is taken from `old`. -/
def armsOf (b : List Byte) (old : List Arming) : List Arming :=
  (List.range 4).filterMap fun i =>
    let a := 424 + 16 * i
    let n := leAt b (a + 4) 4
    let o := old.getD i {}
    if n = 0 then none
    else some { first := leAt b a 2 % 4096, n := n, handed := leAt b (a + 8) 4, retired := leAt b (a + 12) 4,
                outer := o.outer, start := o.start }

/-- An OPSTATE record restored. -/
def State.restoreOp (s : State) (e : Nat) (b : List Byte) : State :=
  let op := leAt b 0 4 % 256
  let x := s.engine e
  let o := x.op op
  let old := if (x.t.parked.find? fun y => y.1 == op).isSome then tget {} x.t.parked op else x.run op
  let run : OpRun :=
    { s := tsets 0 [] 0 ((List.range 8).map fun i => le64 b (8 + 8 * i)),
      ssh := tsets 0 [] 0 ((List.range 32).map fun i => le64 b (72 + 8 * i)),
      kept := tsets 0 [] 0 ((List.range 4).map fun i => le64 b (328 + 8 * i)),
      keptTok := old.keptTok, sticky := old.sticky, fired := old.fired, pushed := old.pushed, arms := armsOf b old.arms }
  let s1 := s.setEngine e { x with t := { x.t with orun := tset {} x.t.orun op run, parked := tdel x.t.parked op } }
  (List.range 8).foldl (fun t i => t.setBusy (o.home e) (s.busyOp e op o) i (le64 b (360 + 8 * i))) s1

/-- A lane from its 96-byte image (R78). -/
def laneOfImage (b : List Byte) : Lane :=
  let fl := leAt b 80 1
  { v := BitVec.ofNat 640 (leAt b 0 80), nan := fl.testBit 0, pinf := fl.testBit 1, ninf := fl.testBit 2 }

/-- The stream that a STREAMS record describes where its engine has kept nothing of it (log entry 41). -/
def State.newStream (s : State) (e c key : Nat) (b : List Byte) : Stream :=
  let w := le64 b 0
  let kind : StreamKind := match decodeWord w (some (le64 b 8)) with
    | .ok (.ldt ..) => .ldt
    | .ok (.stt ..) => .stt
    | .ok (.clrm ..) => .clrm
    | .ok (.rmtStt ..) => .rmtStt
    | _ => .redt
  let inst := ((s.die (e / 72)).fids.find? fun f => f.key == key).map (·.inst)
  let ext := le64 b 8
  let desc := le64 b 24
  let hi := leAt b 56 8
  let q : StreamReq :=
    { kind := kind, f := w, ext := ext, addr := le64 b 16, desc := desc,
      pitch := if kind = StreamKind.clrm then 0 else extPitch ext desc, cadd := extCadd ext,
      rod := if leAt b 48 8 = 0 then none else some (le64 b 48),
      comp := if hi = 0 then none else some (BitVec.ofNat 128 (hi * 2 ^ 64 + if kind = StreamKind.ldt then desc.toNat else 0)) }
  let home := match q.rod with
    | some r => (match (s.checkRod ⟨.engine e, some c⟩ .add r).1 with | .ok h => h | .error _ => 0)
    | none => 0
  { eng := e, q := { q with rodHome := home }, who := ⟨c, inst, e / 72, e % 72, 0, 0⟩,
    todo := (s.pieces c q).drop (leAt b 32 4) }

/-- The streams of a context on engine `e` that stand in no slot go back to one: those numbered `ids`, and those that a RETRYF has set going
(R271, R288). -/
def State.seatStreams (s : State) (e c : Nat) (ids : List Nat) : State :=
  let mine := (s.engine e).streams.filter fun y => y.who.ctx == c && decide (256 ≤ y.n) && (ids.contains y.id || !y.phase.isStalled)
  mine.foldl (fun t y =>
    let x := t.engine e
    t.setEngine e { x with streams := x.streams.map fun z => if z.id = y.id then { z with n := x.freeStream } else z }) s

/-- The streams of a context on engine `e` leave their slots. -/
def State.unseatStreams (s : State) (e c : Nat) : State :=
  let x := s.engine e
  s.setEngine e { x with streams := x.streams.map fun y => if y.who.ctx = c then { y with n := 256 + y.id } else y }

/-- A STREAMS record restored: stalled under its FID. -/
def State.restoreStream (s : State) (e c : Nat) (b : List Byte) : State :=
  let d := e / 72
  let fid := leAt b 36 4
  match (s.die d).fids.find? fun f => f.fid.toNat == fid with
  | none => s
  | some g =>
    let x := s.engine e
    let same := fun y : Stream => decide (96 ≤ y.n) && y.who.ctx == c && y.phase == .stalled g.key && y.q.f == le64 b 0 &&
      y.q.ext == le64 b 8 && y.q.addr == le64 b 16 && y.q.desc == le64 b 24
    match x.streams.find? same with
    | some y =>
      let strs := x.streams.erase y ++ [{ y with n := x.freeStream }]
      s.setEngine e { x with streams := strs }
    | none =>
      let y := { s.newStream e c g.key b with id := s.nextId, n := x.freeStream, phase := .stalled g.key }
      { s.setEngine e { x with streams := x.streams ++ [y] } with nextId := s.nextId + 1 }

/-- A COLL record restored: its program is read again, and goes on at its next word (R424), in the slot where it stands if the context was
not released. -/
def State.restoreColl (s : State) (d c : Nat) (b : List Byte) : State :=
  let addr := le64 b 0
  let tbl := leAt b 10 1 % 8
  let there := (List.range 8).find? fun k => (s.prog d k).any fun p =>
    p.ctx == c && p.tbl == tbl && p.gen == leAt b 8 2 && p.addr == addr
  match (match there with | some k => some k | none => s.freeSlot d), s.readProgram d c addr with
  | some k, .ok (_, words) =>
    let rod := if leAt b 16 8 = 0 then none else some (le64 b 16)
    let pc := leAt b 12 4
    let g := s.pgt c tbl
    (s.setPgt c tbl { g with tpos := BitVec.ofNat 32 (leAt b 28 4) }).setProg d k (some
      { ctx := c, tbl := tbl, gen := leAt b 8 2, mask := BitVec.ofNat 4 (leAt b 11 1), addr := addr, rod := rod,
        cadd := BitVec.ofNat 32 (leAt b 24 4), words := words, pc := pc, npc := pc,
        w := tsets 0 [] 0 ((List.range 16).map fun i => le64 b (32 + 8 * i)) })
  | _, _ => s

/-- The TILES records of a section, one after another; `n` bounds their number. -/
def State.restoreTiles (s : State) (e : Nat) : Nat → List Byte → State
  | 0, _ => s
  | n + 1, b =>
    if b.length < 8 then s
    else
      let len := 64 * leAt b 4 4
      let bs := (b.drop 8).take len
      (s.wrBytes (scratchHome e (64 * (leAt b 0 4 % 12288))) bs).restoreTiles e n (b.drop (8 + len))

/-- A section of a save area of context `c` on die `d` is restored; the ports that wait for a restored rod are tested (R352). -/
def State.restoreSect (s : State) (d c : Nat) (ty eng : Nat) (b : List Byte) : State :=
  let l := if eng = 0xFFFF then Loc.pool d else .eng (72 * d + eng)
  let e := 72 * d + eng
  let x := s.engine e
  match ty with
  | 1 => (records 24 b).foldl (fun t r =>
      let n := leAt r 0 4
      t.setFrame l n (Frame.ofWord (t.frame l n) (le64 r 8) (leAt r 4 2) (le64 r 16))) s
  | 2 => (records 24 b).foldl (fun t r => t.restoreSlot l (leAt r 0 4 % 2 ^ 31) true (BitVec.ofNat 128 (leAt r 8 16))) s
  | 3 => (records 488 b).foldl (fun t r => t.restoreOp e r) s
  | 4 =>
    let q := (records 16392 b).foldl (fun q r =>
      tsets 0 q (4096 * (leAt r 0 4 % 8)) ((List.range 4096).map fun n => BitVec.ofNat 32 (leAt r (8 + 4 * n) 4))) x.q
    s.setEngine e { x with q := q }
  | 5 => s.restoreTiles e b.length b
  | 6 => s.wrBytes (scratchHome e 0) (b.take 786432)
  | 7 => s.setEngine e { x with lanes := tsets {} [] 0 ((records 96 b).map laneOfImage) }
  | 8 =>
    if eng = 0xFFFF then
      (records 16 b).foldl (fun t r =>
        let n := leAt r 0 2
        let ref := if n < 256 then put 62 2 2 ||| put 60 2 d ||| put 0 8 n else put 62 2 1 ||| put 60 2 d ||| put 0 8 n
        let y := t.rod ref
        if y.a ∧ y.ctx = c then (t.setRod ref { y with count := le64 r 8 }).rodChanged ref else t) s
    else
      let t := s.setEngine e { x with rods := tsets 0 [] 0 ((records 8 b).map fun r => le64 r 0) }
      t.each (List.range 48) fun n u => u.rodChanged (put 60 2 d ||| put 53 7 eng ||| put 0 8 n)
  | 9 => (records 64 b).foldl (fun t r => t.restoreStream e c r) s
  | 10 => (records 256 b).foldl (fun t r => t.restoreColl d c r) s
  | _ => s

/-- Whether a save area's header is one of the context on the die, and its engines are the context's (R288). -/
def State.areaOk (s : State) (d c : Nat) (h : List Byte) (sects : List (Nat × Nat × List Byte)) : Bool :=
  leAt h 0 4 == 0x56534756 && leAt h 4 2 == 1 && leAt h 7 1 == d && leAt h 8 1 == c &&
    sects.all fun (_, e, _) => e == 0xFFFF || (decide (e < 72) && (s.ctxEngines c).contains (72 * d + e))

/-- RSTOR (R272, R288). -/
def execRstor (f : FmtCG) (s : State) : Host.Outcome State Fault Refusal :=
  onSup (.rstor f) s fun d k =>
    let c := (k.rd f.ga).toNat
    let a := k.rd f.gb
    if 64 ≤ c ∨ (s.ctx c).st ≠ .stopped then s.coreFault d cSnap 0
    else match s.coreLoad d a 64 with
      | (.error g, t) => t.coreFault d g.cause g.addr
      | (.ok h, t) =>
        if leAt h 0 4 ≠ 0x56534756 then t.coreFault d cSnap 0
        else
          let len := leAt h 32 8
          match t.coreLoad d (a + 64) (len - 64) with
          | (.error g, t1) => t1.coreFault d g.cause g.addr
          | (.ok b, t1) =>
            let sects := parseSects (leAt h 24 4) b
            if t1.areaOk d c h sects = false then t1.coreFault d cSnap 0
            else
              let es := (t1.ctxEngines c).filter fun e => e / 72 == d
              let ids := es.flatMap fun e => ((t1.engine e).streams.filter fun y => y.who.ctx == c && decide (y.n < 256)).map (·.id)
              let t1u := t1.each es fun e u => u.unseatStreams e c
              let t2 := (sects.foldl (fun u (ty, e, r) => u.restoreSect d c ty e r) t1u).each es fun e u => u.seatStreams e c ids
              let x := t2.ctx c
              let t3 := t2.setCtx c { x with rstd := x.rstd ||| BitVec.ofNat 4 (2 ^ d) }
              t3.setCore d ((t3.core d).wr f.gd (BitVec.ofNat 64 len)).adv

/-! ## QDRN, MSRD, MSWR (R272) -/

/-- QDRN (R272, R185). -/
def execQdrn (f : FmtCG) (s : State) : Host.Outcome State Fault Refusal :=
  onSup (.qdrn f) s fun d k =>
    let n := (k.rd f.ga).toNat
    let x := s.engine (72 * d + n)
    if 72 ≤ n ∨ x.frozen = false then s.coreFault d cSnap 0
    else match s.coreStore d (k.rd f.gb) (x.accBytes (fld f.imm 0 3)) with
      | .error g => s.coreFault d g.cause g.addr
      | .ok t => t.setCore d ((t.core d).wr f.gd 16384).adv

/-- The store and slot that a slot address names (R272). -/
def slotAddr (d : Nat) (a : Word) : Option (Loc × Nat) :=
  if fld a 24 40 ≠ 0 ∨ a.getLsbD 15 then none
  else if a.getLsbD 23 then (if fld a 16 7 = 0 then some (.pool d, fld a 0 15) else none)
  else if fld a 16 7 < 72 ∧ fld a 0 15 < 8192 then some (.eng (72 * d + fld a 16 7), fld a 0 15)
  else none

/-- The context of a slot: that of the group that holds the engine; in the pool that of the frame whose slots take it in,
or of the token that it holds (log entry 42). -/
def State.slotCtx (s : State) (l : Loc) (n : Nat) : Nat :=
  match l with
  | .eng e => s.engineCtx e
  | .pool d =>
    match (s.pool d).ft.find? fun (_, f) => f.v && decide (f.base ≤ n) && decide (n < f.base + f.w * f.spc) with
    | some (_, f) => f.ctx
    | none => let x := s.slot l n; if x.p then tokCtx x.tok else 64

/-- The slot of a slot address where MSRD or MSWR may act on it: the cause of the exception otherwise. -/
def State.slotFor (s : State) (d : Nat) (a : Word) : Except Nat (Loc × Nat) :=
  match slotAddr d a with
  | none => .error cBadpath
  | some (l, n) => if s.isFrozen ∨ (s.ctx (s.slotCtx l n)).st = .stopped then .ok (l, n) else .error cSnap

/-- MSRD (R272). -/
def execMsrd (f : FmtCG) (s : State) : Host.Outcome State Fault Refusal :=
  onSup (.msrd f) s fun d k =>
    let a := k.rd f.ga
    match s.slotFor d a with
    | .error c => s.coreFault d c (if c = cBadpath then a else 0)
    | .ok (l, n) =>
      let x := s.slot l n
      let k1 := (k.wr f.gd (BitVec.ofNat 64 (b2n x.p))).wr f.gb (x.tok.extractLsb' 64 64)
      s.setCore d (k1.wr f.gc (x.tok.extractLsb' 0 64)).adv

/-- MSWR (R272). -/
def execMswr (f : FmtCG) (s : State) : Host.Outcome State Fault Refusal :=
  onSup (.mswr f) s fun d k =>
    let a := k.rd f.ga
    match s.slotFor d a with
    | .error c => s.coreFault d c (if c = cBadpath then a else 0)
    | .ok (l, n) =>
      let old := (s.slot l n).p
      let t : Token := k.rd f.gb ++ k.rd f.gc
      let s1 := s.restoreSlot l n (f.imm.getLsbD 0) t
      s1.setCore d (k.wr f.gd (BitVec.ofNat 64 (b2n old))).adv

end Sys2Proof.Machine
end

