-- ==== Sys2Proof/Machine/Control.lean ====
section
/-!
DEFINITION. Control space (R6, R216): how the registers of every block read, and what a write does.
-/
namespace Sys2Proof.Machine

/-! ## Reading -/

/-- The words of a rod's block (R345). -/
def Rod.readWord (r : Rod) (w : Nat) : Word := if w = 0 then r.count else put 8 7 r.ctx ||| put 7 1 (b2n r.a) ||| put 0 7 r.grp
/-- The words of a watch unit's block (R345). -/
def Watch.readWord (x : Watch) (w : Nat) : Word :=
  if w = 0 then put 63 1 (b2n x.v) ||| put 48 6 x.ctx ||| put 3 45 x.addr else x.last
/-- The words of the host block (R446). -/
def HostBlock.readWord (h : HostBlock) (w : Nat) : Word :=
  if w = 0 then put 8 1 (b2n h.apmode) ||| put 0 6 h.aplog2
  else if w = 1 then put 0 48 h.apbase.toNat
  else if w = 2 then put 0 6 h.apctx
  else if w ≤ 18 then
    let b := tget {} h.vf (w - 2)
    put 7 1 (b2n b.en) ||| put 0 6 b.ctx
  else put 0 32 h.cacnt.toNat

/-- KIND, MODE and EPOL as their codes (R36). -/
def OpKind.code : OpKind → Nat
  | .none => 0 | .compute => 1 | .loop => 2 | .load => 3 | .store => 4 | .recv => 5
def PortMode.code : PortMode → Nat
  | .token => 0 | .sticky => 1 | .order => 2 | .demand => 3 | .any => 4 | .rod => 5
def EPol.code : EPol → Nat
  | .absorb => 0 | .forward => 1 | .replace => 2
/-- The 7 bits of a port (R36). -/
def PortCfg.code (p : PortCfg) : Nat := 16 * p.mode.code + 4 * p.epol.code + 2 * b2n p.tile + b2n p.sc
/-- Word `n` of an operator-table entry (R36). -/
def OpEntry.readWord (o : OpEntry) (n : Nat) : Word :=
  let h := o.h
  let up := fun k => (o.up.getD k 0).toNat
  let port := fun k => (o.ports.getD k {}).code
  match n with
  | 8 => put 61 3 h.kind.code ||| put 58 3 h.nin ||| put 55 3 (h.gate.getD 7) ||| put 54 1 h.cls ||| put 51 3 h.prio |||
      put 50 1 (b2n h.pool) ||| put 47 3 h.dualk ||| put 39 8 h.qlive.toNat ||| put 28 11 h.body ||| put 22 6 h.blen |||
      put 12 10 h.olbase ||| put 8 4 h.olcnt
  | 9 => put 54 10 o.frame ||| put 44 10 o.slotoff ||| put 37 7 (port 3) ||| put 30 7 (port 2) ||| put 23 7 (port 1) |||
      put 16 7 (port 0) ||| put 6 10 o.inner
  | 10 => put 50 14 o.rbase ||| put 42 8 (o.rsize - 1) ||| put 36 6 (o.rcnt - 1) ||| put 22 14 o.rstr
  | 11 => put 32 32 (up 0) ||| put 0 32 (up 1)
  | 12 => put 32 32 (up 2) ||| put 0 32 (up 3)
  | 13 => 0
  | 14 => 0
  | 15 => 0
  | k => o.sinit.getD k 0

/-- How a register reads: write-only and reserved bits read 0 (R6). -/
def State.regRead (s : State) (r : CtlReg) : Word :=
  match r with
  | .ctx c w => (s.ctx c).readWord w
  | .queue q w => (s.queue q).readWord w
  | .kernel d k w => s.kslotWord d k w
  | .det d w => (s.units d).det.readWord w
  | .group d g w => (s.group d g).readWord w
  | .pool d w => s.poolReadWord d w
  | .rod d n w => (tget {} (s.units d).rods n).readWord w
  | .grod d n w => (tget {} (s.units d).grods n).readWord w
  | .watch d u w => (tget {} (s.units d).watch u).readWord w
  | .lock d w => s.lkReadWord d w
  | .walker d w => (s.units d).walk.readWord w
  | .port d i w => (s.port d i).readWord w
  | .nodeid => s.net.nodeid.setWidth 64
  | .routes n => BitVec.ofNat 64 (leNat ((List.range 8).map fun i => tget 0 s.net.routes (n + i)))
  | .pgt c t w => (s.pgt c t).readWord w
  | .host w => s.host.readWord w
  | .root w => s.root.readWord w
  | .frame u n => (s.frame (if u < 288 then .eng u else .pool (u - 288)) n).word
  | .outRef e n => tget 0 (s.engine e).t.ol n
  | .oper e n w => ((s.engine e).op n).readWord w

/-- A read of 8 bytes of control space. -/
def State.ctlRead (s : State) (off : Nat) : Word :=
  match ctlReg off with
  | some r => s.regRead r
  | none => 0

/-! ## Writing -/

/-- Whether a wait is pending on a watch unit (R345): a pass, a ROD-mode port, the core or a sequencer program of its die, or,
on die 0, a queue that waits for its word. -/
def State.watchBusy (s : State) (d u : Nat) : Bool :=
  let w := tget {} (s.units d).watch u
  let hit := fun (a : Active) => match a.pass.wait with
    | .rod r _ _ _ => rodKind r == 3 && a.fr.ctx == w.ctx && addrVa r / 8 == w.addr
    | _ => false
  let port := fun (x : Slot) => x.p && !x.rodOk && wwKind (tokPay x.tok) == 3 && wwDie (tokPay x.tok) == d &&
    wwIndex (tokPay x.tok) == u
  let other := fun (r : Option RodWaiter) => match r, s.watchHome w with
    | some y, some h => y.key == 2 ^ 64 + h && y.ctx == w.ctx
    | _, _ => false
  w.v && (
    other (s.core d).rodw || ((List.range 8).any fun k => (s.prog d k).any fun p => other p.rodw) ||
    (s.eng.any fun (e, x) => e / 72 == d && ((x.waiting hit) != [] ||
      x.t.ms.any fun (_, y) => port y && s.portMode e y.tok == .rod)) ||
    ((s.pool d).ms.any fun (_, y) => port y &&
      ((s.opAt (.pool d) (tokOp y.tok) (tokFrame y.tok)).ports.getD (tokPort y.tok) {}).mode == .rod) ||
    (d == 0 && s.cp.queues.any fun (_, q) => q.st == .waiting && q.ctx == w.ctx && (match s.headCmd q with
      | .ok c => cmdOpc c == 3 && rodKind (cw c 1) == 3 && addrVa (cw c 1) / 8 == w.addr
      | .error _ => false)))

/-- A write of word `n` of a watch unit's block (R345). -/
def State.watchWord (s : State) (d u n : Nat) (v : Word) : State :=
  let x := s.units d
  let w := tget {} x.watch u
  if n ≠ 0 ∨ s.watchBusy d u then s
  else s.setUnits d { x with watch := tset {} x.watch u { w with v := v.getLsbD 63, ctx := fld v 48 6, addr := fld v 3 45 } }

/-- A write of eight bytes of the routing table (R392). -/
def State.routesWord (s : State) (n : Nat) (v : Word) : State :=
  let bytes := (List.range 8).map fun i => (v.extractLsb' (8 * i) 8 : Byte) &&& 0x8F#8
  { s with net := { s.net with routes := tsets 0 s.net.routes n bytes } }

/-- A write of word `n` of the host block (R446). -/
def State.hostWord (s : State) (n : Nat) (v : Word) : State :=
  let h := s.host
  if n = 0 then { s with host := { h with apmode := v.getLsbD 8 } }
  else if n = 1 then
    if fld v 0 48 % 2 ^ h.aplog2 = 0 then { s with host := { h with apbase := v.extractLsb' 0 48 } } else s
  else if n = 2 then { s with host := { h with apctx := fld v 0 6 } }
  else if n ≤ 18 then
    let b : VfBind := { en := v.getLsbD 7, ctx := fld v 0 6 }
    { s with host := { h with vf := tset {} h.vf (n - 2) b } }
  else s

/-- A write of a register, its reserved bits apart (R6). -/
def State.regWrite (s : State) (r : CtlReg) (v : Word) : State :=
  match r with
  | .ctx c w => s.ctxWord c w v
  | .queue q w => s.queueWord q w v
  | .kernel _ _ _ => s
  | .det d w => s.detWord d w v
  | .group d g w => s.groupWord d g w v
  | .pool d w => s.poolWord d w v
  | .rod _ _ _ => s
  | .grod _ _ _ => s
  | .watch d u w => s.watchWord d u w v
  | .lock d w => s.lkWord d w v
  | .walker d w => s.walkWord d w v
  | .port d i w => s.portWord d i w v
  | .nodeid => { s with net := { s.net with nodeid := v.extractLsb' 0 16 } }
  | .routes n => s.routesWord n v
  | .pgt c t w => s.pgtWord c t w v
  | .host w => s.hostWord w v
  | .root w => s.rootWord w v
  | .frame _ _ => s
  | .outRef _ _ => s
  | .oper _ _ _ => s

/-- A write of 8 bytes of control space that sets no reserved bit. -/
def State.ctlWrite (s : State) (off : Nat) (v : Word) : State :=
  match ctlReg off with
  | some r => s.regWrite r v
  | none => s

end Sys2Proof.Machine
end

