-- ==== Sys2Proof/Machine/ControlCore.lean ====
section
/-!
DEFINITION. The control core's own words (R261–R267, R276–R278), the trap queue (R275), the delivery of a record and the handler
limit (R276, R277), and the word that an agent cannot decode (R100, R257).
-/
namespace Sys2Proof.Machine

/-! ## Traps -/

/-- WORD_DECODE_FAULT (R100, R257, R419): a word or its fetch fails before anything executes. -/
def execWordDecodeFault (ag : Agent) (cause : Nat) (val : Word) (s : State) : Host.Outcome State Fault Refusal :=
  .next (match ag with
  | .pass e sl => s.passFault e sl ⟨cause, 0, 0⟩
  | .core d => s.coreFault d cause val
  | .seq d k => s.collAbort d k 3 0)

/-- The serial number after `n` (R271). -/
def nextSerial (n : Nat) : Nat := if n = 2 ^ 30 - 1 then 1 else n + 1

/-- TRAP_RECORD_ENQUEUE (R275, R271): a record enters the queue, an open fault with its identifier; a full queue turns it away
and the source tries again. -/
def execTrapRecordEnqueue (d : Nat) (r : Record) (s : State) : Host.Outcome State Fault Refusal :=
  let x := s.die d
  if 256 ≤ x.trapq.length then .next (s.post (.trapRecordEnqueue d r))
  else
    match r.key with
    | none => .next (s.setDie d { x with trapq := x.trapq ++ [r] })
    | some key =>
      let fid := BitVec.ofNat 32 (d * 2 ^ 30 + x.fidNext)
      let named := fun f : OpenFid => if f.key = key then { f with fid := fid } else f
      .next (s.setDie d { x with trapq := x.trapq ++ [{ r with fid := fid }], fidNext := nextSerial x.fidNext,
                                 fids := x.fids.map named })

/-- Whether a record of die `d` may be delivered now (R276); a word of R268 runs to its end first, and an exception ends it. -/
def State.mayDeliver (s : State) (d : Nat) : Bool :=
  let x := s.die d
  x.core.csr.ie && !x.core.csr.ebusy && !x.core.csr.xbusy && !x.trapq.isEmpty && !x.core.halted && x.core.busy.isNone

/-- TRAP_DELIVERY (R276). -/
def execTrapDelivery (d : Nat) (s : State) : Host.Outcome State Fault Refusal :=
  .next (if s.mayDeliver d then s.deliverRecord d else s)

/-- XCAUSE of the handler limit (R277): HTO and code 0x0A. -/
def htoCause : Word := 0x20A

/-- Whether the user handler of die `d` has reached the limit that HTMO gave it at its entry, in whatever mode the core is by
then (R276–R278). -/
def State.handlerLate (s : State) (d : Nat) : Bool :=
  let c := s.core d
  c.run && !c.halted && c.busy.isNone && c.htEnd.any fun t => decide (t ≤ s.tick.toNat)

/-- HANDLER_TIMEOUT (R277). -/
def execHandlerTimeout (d : Nat) (s : State) : Host.Outcome State Fault Refusal :=
  if s.handlerLate d then
    let t := s.exception d (s.core d).pc htoCause 0
    .next (t.setCore d { t.core d with htEnd := none })
  else .next s

/-! ## LD and ST (R263) -/

/-- The address of LD and ST (R263). -/
def cmAddr (f : FmtCM) (c : CoreState) : Word := c.rd f.ga + f.off.signExtend 64

/-- What an access on path 0xF meets (R6, R258, R263): PRIV in user mode, BADPATH for another size or alignment, ILLEGAL for a
reserved bit that a write sets. -/
def ctlFault (c : CoreState) (size : Nat) (a : Word) (v : Option Word) : Option Nat :=
  if c.csr.mode = false then some cPriv
  else if size ≠ 3 ∨ a.toNat % 8 ≠ 0 then some cBadpath
  else match v with
    | some w => if ctlReserved (fld a 0 60) w then some cIllegal else none
    | none => none

/-- A load of a core (R263, R264): its homes and bytes. The core sees its own stores that are on their way; where the load is no
acquire, it may return what the core has read ahead. -/
def State.coreRead (s : State) (d : Nat) (a : Word) (n acq : Nat) : Except Failure (List Nat × List Byte) × State :=
  match s.resolve (s.coreVia d .load) [0x0, 0x1, 0x2, 0x8, 0x9] a n false with
  | (.error f, t) => (.error f, t)
  | (.ok hs, t) =>
    if t.eccHomes hs then (.error ⟨cEcc, a, Config.eccPlace (hs.headD 0)⟩, t)
    else if addrPath a = 1 then (.ok (hs, t.rdConst (288 + d) (t.core d).acq hs), t)
    else
      let live := t.rdHomes hs
      let bs := if acq = 0 then earlyBytes (t.core d).pre (decide (a.toNat % n = 0)) hs live else live
      (.ok (hs, t.coreView d hs bs), t)

/-- LD (R263, R264). With ORD = 3 it waits for every earlier access of the core. -/
def execLd (f : FmtCM) (s : State) : Host.Outcome State Fault Refusal :=
  onCore (.ld f) s fun d c =>
    let a := cmAddr f c
    let acq := acqScope f.ord.toNat (scopeOn a f.scope.toNat)
    let finish := fun (t : State) (hs : List Nat) (v : Word) =>
      let k := t.core d
      (t.setCore d { (k.wr f.gd v).adv with pre := forget k.pre hs }).coreAcquired d acq (byteKeys hs)
    if f.ord = 3 ∧ s.corePend d ≠ [] then s.coreAgain d (.ld f)
    else if addrPath a = 0xF then
      match ctlFault c f.size.toNat a none with
      | some cause => s.coreFault d cause a
      | none => finish s [] (s.ctlRead (fld a 0 60))
    else match s.coreRead d a (sizeBytes f.size.toNat) acq with
      | (.error g, t) => t.coreFault d g.cause g.addr
      | (.ok (hs, bs), t) => finish t hs (loadExt f.size.toNat (leNat bs))

/-- A store of a core goes on its way (R231, R264): behind the core's accesses to the same bytes and, where it is a release, behind
every earlier one, or ahead of those for an observer outside its scope (R222). What the core has read ahead of those bytes is void. -/
def State.corePost (s : State) (d : Nat) (hs : List Nat) (bs : List Byte) (release : Bool) (scope : Nat) : State :=
  let (hard, soft) := s.coreDeps d hs release scope
  ((s.postDep hard (.accessAtHome ⟨hs, .store bs, 0, s.coreOrigin d, none⟩)).noteSoft s.nextId (byteKeys hs) (s.coreOrigin d) scope
    soft).coreForget d hs

/-- Whether a store in control space is an INV, or a write of ROOT, which performs one (R391), or a RELALL (R376): it acts after the
core's earlier accesses. -/
def invStore (a v : Word) : Bool :=
  decide (addrPath a = 0xF) && match ctlReg (fld a 0 60) with
    | some (.walker _ 0) => fld v 8 4 == 1
    | some (.ctx _ 1) => true
    | some (.lock _ 2) => fld v 8 4 == 1
    | _ => false

/-- ST (R263, R264). An unaligned store goes byte by byte (R223). With ORD = 3 it waits for every earlier access of the core and acts
before any later one; an INV and a RELALL wait for them too (R391, R376). -/
def execSt (f : FmtCM) (s : State) : Host.Outcome State Fault Refusal :=
  onCore (.st f) s fun d c =>
    let a := cmAddr f c
    let v := c.rd f.gd
    let n := sizeBytes f.size.toNat
    let scope := scopeOn a f.scope.toNat
    let finish := fun (t : State) => (t.setCore d (t.core d).adv).coreAcquired d (acqScope f.ord.toNat scope) []
    if (f.ord = 3 ∨ invStore a v) ∧ s.corePend d ≠ [] then s.coreAgain d (.st f)
    else if addrPath a = 0xF then
      match ctlFault c f.size.toNat a (some v) with
      | some cause => s.coreFault d cause a
      | none => finish (s.ctlWrite (fld a 0 60) v)
    else match s.resolve (s.coreVia d .store) [0x0, 0x1, 0x2, 0x8, 0x9] a n false with
      | (.error g, _) => s.coreFault d g.cause g.addr
      | (.ok hs, t) =>
        let bs := leBytes n v.toNat
        let rel := f.ord.toNat / 2 == 1
        if f.ord = 3 then finish (t.storeHomes hs bs)
        else if a.toNat % n = 0 then finish (t.corePost d hs bs rel scope)
        else finish ((hs.zip bs).foldl (fun u (h, b) => u.corePost d [h] [b] rel scope) t)

/-! ## Branches (R265) -/

/-- The address of a word offset from PC (R265). -/
def branchTo (pc : Word) (off : BitVec 35) : Word := pc + 8 * off.signExtend 64

/-- BR.cc (R265). -/
def execBr (f : FmtCB) (s : State) : Host.Outcome State Fault Refusal :=
  onCore (.br f) s fun d c =>
    s.setCore d (if condHolds f.cc.toNat (c.rd f.ga) (c.rd f.gb) then { c with pc := branchTo c.pc f.off } else c.adv)

/-- JAL (R265). -/
def execJal (f : FmtCJ) (s : State) : Host.Outcome State Fault Refusal :=
  onCore (.jal f) s fun d c => s.setCore d { c.wr f.gd (c.pc + 8) with pc := branchTo c.pc f.off }

/-- JALR (R265, R257): a target that is not a multiple of 8 raises BADPATH. -/
def execJalr (f : FmtCJ) (s : State) : Host.Outcome State Fault Refusal :=
  onCore (.jalr f) s fun d c =>
    let target := c.rd f.ga + f.off.signExtend 64
    if target.toNat % 8 ≠ 0 then s.coreFault d cBadpath target
    else s.setCore d { c.wr f.gd (c.pc + 8) with pc := target }

/-! ## Control and status registers (R260, R266) -/

/-- CSTAT (R260). -/
def CoreCsr.cstat (c : CoreCsr) : Word := put 3 1 (b2n c.xbusy) ||| put 2 1 (b2n c.ebusy) ||| put 1 1 (b2n c.mode) ||| put 0 1 (b2n c.ie)

/-- The value of a CSR of die `d` (R260); none for a number that is no CSR. -/
def State.csrRead (s : State) (d n : Nat) : Option Word :=
  let c := (s.core d).csr
  match n with
  | 0x000 => some c.cstat
  | 0x001 => some c.epc
  | 0x002 => some c.est
  | 0x003 => some c.xpc
  | 0x004 => some c.xst
  | 0x005 => some c.xcause
  | 0x006 => some c.xval
  | 0x010 => some c.stvec
  | 0x011 => some c.sxvec
  | 0x012 => some c.htmo
  | 0x013 => some c.asel
  | 0x028 => some (BitVec.ofNat 64 (s.die d).trapq.length)
  | 0x029 => some (BitVec.ofNat 64 c.cctx)
  | 0x030 => some s.tick
  | 0x031 => some (put 0 1 (b2n c.pend))
  | n => if 0x020 ≤ n ∧ n ≤ 0x027 then some (tget 0 c.trec (n - 0x020)) else none

/-- Whether user mode may read the CSR: column U of R260. -/
def csrUser (n : Nat) : Bool := n == 0 || (decide (0x020 ≤ n) && decide (n ≤ 0x029)) || n == 0x030

/-- A write of a CSR (R260, R266): RW and W1C bits change, an address space above 64 is ignored. -/
def CoreCsr.write (c : CoreCsr) (n : Nat) (v : Word) : CoreCsr :=
  match n with
  | 0x000 => { c with ie := v.getLsbD 0 }
  | 0x001 => { c with epc := v }
  | 0x002 => { c with est := v }
  | 0x003 => { c with xpc := v }
  | 0x004 => { c with xst := v }
  | 0x010 => { c with stvec := v }
  | 0x011 => { c with sxvec := v }
  | 0x012 => { c with htmo := v }
  | 0x013 => if v.toNat ≤ 64 then { c with asel := v } else c
  | 0x031 => { c with pend := c.pend && !v.getLsbD 0 }
  | _ => c

/-- What a CSR word does (R266, R258): `new` forms the value written from the old one. -/
def csrWord (i : Instr) (f : FmtCS) (s : State) (new : Option (Word → Word → Word)) : Host.Outcome State Fault Refusal :=
  onCore i s fun d c =>
    let n := f.csr.toNat
    match s.csrRead d n with
    | none => s.coreFault d cIllegal (wordOf i)
    | some old =>
      if c.csr.mode = false ∧ (new.isSome ∨ csrUser n = false) then s.coreFault d cPriv (wordOf i)
      else match new with
        | none => s.setCore d (c.wr f.gd old).adv
        | some g =>
          let v := g old (c.rd f.ga)
          if n = 0 ∧ fld v 4 60 ≠ 0 then s.coreFault d cIllegal (wordOf i)
          else s.setCore d { (c.wr f.gd old).adv with csr := c.csr.write n v }

/-- CSRR (R266). -/
def execCsrr (f : FmtCS) (s : State) : Host.Outcome State Fault Refusal := csrWord (.csrr f) f s none
/-- CSRW (R266). -/
def execCsrw (f : FmtCS) (s : State) : Host.Outcome State Fault Refusal := csrWord (.csrw f) f s (some fun _ v => v)
/-- CSRS (R266). -/
def execCsrs (f : FmtCS) (s : State) : Host.Outcome State Fault Refusal := csrWord (.csrs f) f s (some fun o v => o ||| v)
/-- CSRC (R266). -/
def execCsrc (f : FmtCS) (s : State) : Host.Outcome State Fault Refusal := csrWord (.csrc f) f s (some fun o v => o &&& ~~~ v)

/-! ## TRAPC, ERET, WFE (R267, R278) -/

/-- TRAPC (R267): the exception saves the address of the next word; CALL and the code stand in XCAUSE. -/
def execTrapc (f : FmtCG) (s : State) : Host.Outcome State Fault Refusal :=
  onCore (.trapc f) s fun d c => s.exception d c.npc (put 16 8 (fld f.imm 0 8) ||| put 8 1 1) 0

/-- ERET (R278). -/
def execEret (f : FmtCG) (s : State) : Host.Outcome State Fault Refusal :=
  onCore (.eret f) s fun d _ => s.eret d (wordOf (.eret f))

/-- WFE (R267): the core goes on at the next word, where it idles until EVT.PEND or a record that may be delivered. -/
def execWfe (f : FmtCG) (s : State) : Host.Outcome State Fault Refusal :=
  onSup (.wfe f) s fun d c =>
    s.setCore d { c.adv with wfe := !(c.csr.pend || (!(s.die d).trapq.isEmpty && c.csr.ie)) }

end Sys2Proof.Machine
end

