-- ==== Sys2Proof/Machine/Dual.lean ====
section
/-!
DEFINITION. Seeding and extraction of tangents (R205–R209).
-/
namespace Sys2Proof.Machine

/-- The checks of the tile forms (R140, R202, R205): destinations and sources, the tangents of the destination `dt` and
of the source `st` that the word uses. -/
def State.seedFault (s : State) (e : Nat) (a : Active) (d : Word) (src : List Word) (dt st : List Nat) : Option Nat :=
  let n := s.nmemOf e
  let str := s.shadowStride e a.fr.op
  let one := fun (ts : List Nat) (x : Word) =>
    match descFault n x with
    | some c => some c
    | none => if x = 0 then none else ts.findSome? fun t => tanFaultAt n str t x
  match one dt d with
  | some c => some c
  | none =>
    match src.findSome? (one st) with
    | some c => some c
    | none => if d = 0 ∨ dLoc d ≠ 0 then some cDesc else none

/-- The tangent number of IMM11. -/
def tanNum (f : FmtA) : Nat := fld f.imm 0 3
/-- Tangent `t`, where the pass carries it (R205). -/
def Pass.carried (p : Pass) (t : Nat) : List Nat := if 1 ≤ t ∧ t ≤ p.kfire then [t] else []

/-- DSEED (R206). -/
def execDseed (f : FmtA) (s : State) : Host.Outcome State Fault Refusal :=
  vecWord (.dseed f) s fun e a =>
    let p := a.pass
    let m := f.f1.toNat
    let t := tanNum f
    let d := p.rd s.tick f.dst
    let x := p.maybeScal s.tick f.sa m (f.imm.getLsbD 3)
    let src := if x.scal.isNone then [x.desc] else []
    match s.seedFault e a d src (p.carried t) [] with
    | some c => .error (plain c)
    | none =>
      if 8 ≤ dFmt d ∨ (x.scal.isNone ∧ srcOk x.desc m (dRows d) (dEpr d) = false) then .error (plain cDesc)
      else if p.carried t = [] then .ok p
      else
        match s.tileEcc e src with
        | some g => .error g
        | none =>
          let vals := (x.vals s e p (dRows d) (dEpr d)).map fun row => row.map fun b =>
            let v := fvOf m b
            some (if v.isNan then 0 else tanEnc (dFmt d) v)
          .ok (s.writeTan e p (s.shadowStride e a.fr.op) t d (p.masked f vals))

/-- DTGET (R207). -/
def execDtget (f : FmtA) (s : State) : Host.Outcome State Fault Refusal :=
  vecWord (.dtget f) s fun e a =>
    let p := a.pass
    let t := tanNum f
    if f.imm.getLsbD 4 then
      let p1 := p.wr f.dst (if p.carried t = [] then 0 else p.rdSh f.sa t)
      .ok (if p.kfire = 0 then p1 else p1.wrShs f.dst 1 [0, 0, 0, 0])
    else
      let n := f.f1.toNat
      let d := p.rd s.tick f.dst
      let x := p.rd s.tick f.sa
      let str := s.shadowStride e a.fr.op
      match s.seedFault e a d [x] ((List.range p.kfire).map (· + 1)) (p.carried t) with
      | some c => .error (plain c)
      | none =>
        if dFmt d ≠ n ∨ dGs d ≠ 0 ∨ (x ≠ 0 ∧ (8 ≤ dFmt x ∨ dRows x ≠ dRows d ∨ dEpr x ≠ dEpr d)) then
          .error (plain cDesc)
        else
          match s.tileEcc e [x] with
          | some g => .error g
          | none =>
            let tv := if p.carried t = [] then [] else s.tanTile e p str t (dRows d) (dEpr d) x
            let vals := (List.range (dRows d)).map fun r => (List.range (dEpr d)).map fun i =>
              some (encFloat n f.rm.toNat (if f.rm = 4 then s.sr e a t (r * dEpr d + i) else 0)
                (tanVal (dFmt x) (at2 tv r i)))
            .ok (s.writeDual e p str d (p.masked f vals) none)

/-- DTSET (R208). -/
def execDtset (f : FmtA) (s : State) : Host.Outcome State Fault Refusal :=
  passWord (.dtset f) s fun _ a =>
    let p := a.pass
    .ok ((p.carried (tanNum f)).foldl (fun q t => q.wrSh f.dst t (p.rd s.tick f.sa)) p)

/-- DTZRO (R209): tangent 0 names every tangent. A td with scales raises DESC, as R140 check 5 excepts DSEED's alone. -/
def execDtzro (f : FmtA) (s : State) : Host.Outcome State Fault Refusal :=
  vecWord (.dtzro f) s fun e a =>
    let p := a.pass
    let ts := if tanNum f = 0 then (List.range p.kfire).map (· + 1) else p.carried (tanNum f)
    if f.imm.getLsbD 4 then .ok (ts.foldl (fun q t => q.wrSh f.dst t 0) p)
    else
      let d := p.rd s.tick f.dst
      match s.seedFault e a d [] ts [] with
      | some c => .error (plain c)
      | none =>
        if dGs d ≠ 0 then .error (plain cDesc)
        else
        let vals := p.masked f ((zeros (dRows d) (dEpr d)).map (·.map some))
        .ok (ts.foldl (fun q t => s.writeTan e q (s.shadowStride e a.fr.op) t d vals) p)

end Sys2Proof.Machine
end

