-- ==== Sys2Proof/Machine/Image.lean ====
section
/-!
DEFINITION. Graph images and placement maps as GLOAD reads them: the sections and records of R106 and R107, the map of R306, and the
checks that need nothing but the image (R25, R26, R36, R37, R39, R44, R46, R56, R90, R91, R97, R196, R202, R210, R281, R314, R325,
R335, R401, R403, R405). A refusal is a `Failure`: its cause, the image offset it names, DETAIL (R269).
-/
namespace Sys2Proof.Machine

/-- A check of an image (R269): it holds, or the image is refused at an offset. -/
def checkAt (b : Bool) (cause off : Nat) : Except Failure Unit :=
  if b then .ok () else .error ⟨cause, BitVec.ofNat 64 off, 0⟩

/-- The first refusal among a list of things to check. -/
def checkAll {α : Type} (f : α → Except Failure Unit) : List α → Except Failure Unit
  | [] => .ok ()
  | x :: r => match f x with
    | .ok _ => checkAll f r
    | .error e => .error e

/-! ## Sections and records (R106, R107) -/

/-- A directory entry (R106); `at0` is its own offset in the image. -/
structure ImgSec where
  ty  : Nat := 0
  tgt : Nat := 0
  off : Nat := 0
  len : Nat := 0
  cnt : Nat := 0
  at0 : Nat := 0
deriving DecidableEq, Repr, Inhabited

/-- A record of a section: the section's TARGET, the record's offset in the image, its bytes. -/
structure ImgRec where
  tgt : Nat := 0
  off : Nat := 0
  bs  : List Byte := []
deriving DecidableEq, Repr, Inhabited

/-- MAGIC of an image (R106), little-endian. -/
def imageMagic : Nat := 0x31494756
/-- MAGIC of a placement map (R306), little-endian. -/
def mapMagic : Nat := 0x4D504756

/-- Directory entry `i` of an image. -/
def imgSec (img : List Byte) (i : Nat) : ImgSec :=
  let a := 64 + 32 * i
  { ty := leAt img a 2, tgt := leAt img (a + 2) 2, off := leAt img (a + 8) 8, len := leAt img (a + 16) 8,
    cnt := leAt img (a + 24) 8, at0 := a }

/-- The directory of an image, after the checks of R106; bytes 4–7 of an entry must be 0 (log 96). -/
def imgSecs (img : List Byte) : Except Failure (List ImgSec) :=
  let n := leAt img 6 2
  if leAt img 0 4 ≠ imageMagic ∨ leAt img 4 2 ≠ 1 ∨ img.length < 64 + 32 * n then .error ⟨cIllegal, 0, 0⟩
  else
    let secs := (List.range n).map (imgSec img)
    match checkAll (fun s => checkAt (decide (1 ≤ s.ty) && decide (s.ty ≤ 10) && leAt img (s.at0 + 4) 4 == 0 &&
        decide (s.off + s.len ≤ img.length) && (s.tgt == 0xFFFF || decide (s.tgt < 288))) cIllegal s.at0) secs with
    | .ok _ => .ok secs
    | .error e => .error e

/-- The records of a section, each as long as `size` of its first bytes says; `n` is how many are left. A record that runs past
its section is refused. -/
def recsFrom (img : List Byte) (s : ImgSec) (size : List Byte → Nat) : Nat → Nat → Except Failure (List ImgRec)
  | _, 0 => .ok []
  | off, n + 1 =>
    let len := size ((img.drop off).take 16)
    if s.off + s.len < off + len then .error ⟨cIllegal, BitVec.ofNat 64 s.at0, 0⟩
    else (recsFrom img s size (off + len) n).map (⟨s.tgt, off, (img.drop off).take len⟩ :: ·)

/-- The byte length of a record of a section type, from its first 16 bytes (R107, R401). -/
def recSize (ty : Nat) (b : List Byte) : Nat :=
  match ty with
  | 1 => 136
  | 2 => 16
  | 3 => 16
  | 4 => 8 + 8 * leAt b 4 4
  | 5 => 128
  | 6 => 16 + (leAt b 8 8 + 7) / 8 * 8
  | 8 => 16 + (2 * leAt b 4 4 + 7) / 8 * 8
  | _ => 16

/-- The records of all sections of a type, in image order; CNT is bounded by SLEN, for no record is empty. -/
def recsOf (img : List Byte) (ty : Nat) : List ImgSec → Except Failure (List ImgRec)
  | [] => .ok []
  | s :: r =>
    if s.ty ≠ ty then recsOf img ty r
    else if s.len < s.cnt then .error ⟨cIllegal, BitVec.ofNat 64 s.at0, 0⟩
    else match recsFrom img s (recSize ty) s.off s.cnt with
      | .error e => .error e
      | .ok l => (recsOf img ty r).map (l ++ ·)

/-- The word of a record at byte `i`. -/
def ImgRec.word (r : ImgRec) (i : Nat) : Word := BitVec.ofNat 64 (leAt r.bs i 8)

/-! ## Operator entries (R36, R37) -/

/-- KIND of a code (R36). -/
def opKindOf : Nat → OpKind
  | 1 => .compute | 2 => .loop | 3 => .load | 4 => .store | 5 => .recv | _ => .none
/-- MODE of a code (R36). -/
def portModeOf : Nat → PortMode
  | 1 => .sticky | 2 => .order | 3 => .demand | 4 => .any | 5 => .rod | _ => .token
/-- EPOL of a code (R36). -/
def ePolOf : Nat → EPol
  | 1 => .forward | 2 => .replace | _ => .absorb

/-- The port of the 7 bits of word 9 (R36). -/
def portOf (w9 : Word) (k : Nat) : PortCfg where
  mode := portModeOf (fld w9 (20 + 7 * k) 3)
  epol := ePolOf (fld w9 (18 + 7 * k) 2)
  tile := w9.getLsbD (17 + 7 * k)
  sc := w9.getLsbD (16 + 7 * k)

/-- The entry of an OPTAB record (R36). -/
def opOfRec (r : ImgRec) : OpEntry :=
  let w := fun i => r.word (8 + 8 * i)
  let gate := fld (w 8) 55 3
  let h : OpHead :=
    { kind := opKindOf (fld (w 8) 61 3), nin := fld (w 8) 58 3, gate := if gate = 7 then none else some gate,
      cls := fld (w 8) 54 1, prio := fld (w 8) 51 3, pool := (w 8).getLsbD 50, dualk := fld (w 8) 47 3,
      qlive := (w 8).extractLsb' 39 8, body := fld (w 8) 28 11, blen := fld (w 8) 22 6, olbase := fld (w 8) 12 10,
      olcnt := fld (w 8) 8 4 }
  { h := h, sinit := (List.range 8).map w, frame := fld (w 9) 54 10, slotoff := fld (w 9) 44 10,
    ports := (List.range 4).map (portOf (w 9)), inner := fld (w 9) 6 10, rbase := fld (w 10) 50 14,
    rsize := fld (w 10) 42 8 + 1, rcnt := fld (w 10) 36 6 + 1, rstr := fld (w 10) 22 14,
    up := [(w 11).extractLsb' 32 32, (w 11).extractLsb' 0 32, (w 12).extractLsb' 32 32, (w 12).extractLsb' 0 32] }

/-- Whether the upstream words of an entry keep their reserved bits (R36, R405). -/
def OpEntry.upOk (o : OpEntry) : Bool :=
  if o.h.kind = .recv then o.up.all fun u => fld u 11 4 == 0 else o.up.all fun u => fld u 0 10 == 0

/-- Whether an OPTAB record passes R37 by itself; the output count is compared with the body's header (R90). -/
def opRecOk (r : ImgRec) (o : OpEntry) : Bool :=
  let w := fun i => r.word (8 + 8 * i)
  decide (leAt r.bs 0 4 < 256) && leAt r.bs 4 4 == 0 &&
  fld (w 8) 0 8 == 0 && fld (w 9) 0 6 == 0 && fld (w 10) 0 22 == 0 && w 13 == 0 && w 14 == 0 && w 15 == 0 &&
  decide (fld (w 8) 61 3 ≤ 5) && decide (o.h.nin ≤ 4) && (fld (w 8) 55 3 ∈ [0, 1, 2, 3, 7]) && decide (o.h.dualk ≤ 4) &&
  decide (o.h.olcnt ≤ 8) && (o.h.kind == .loop || o.inner == 0) &&
  ((List.range 4).all fun k => decide (fld (w 9) (20 + 7 * k) 3 ≤ 5) && decide (fld (w 9) (18 + 7 * k) 2 ≤ 2)) &&
  o.upOk && decide (o.h.body + o.h.blen + 1 ≤ 2048) && decide (o.h.olbase + o.h.olcnt ≤ 1024) &&
  decide (o.entryLine o.rcnt ≤ 12288) &&
  (o.h.kind != .recv || (o.ports.take o.h.nin).all fun p => p.tile && !p.sc)

/-- Whether the messages of a RECV operator fit its sub-slots (R405). -/
def OpEntry.recvFits (o : OpEntry) : Bool :=
  o.h.kind != .recv || (o.up.take o.h.nin).all fun u => decide ((fld u 15 6 + 1) * 128 ≤ o.rsize * 64)

/-! ## The image -/

/-- A placement map: physical engines are global. -/
structure PlaceMap where
  kid    : BitVec 16 := 0
  nexit  : BitVec 32 := 0
  dmask  : BitVec 4 := 0
  dremap : List Nat := []
  map    : List (Nat × Nat) := []
deriving DecidableEq, Repr, Inhabited

/-- The physical engine of an image engine. -/
def PlaceMap.eng (m : PlaceMap) (e : Nat) : Option Nat := m.map.lookup e

/-- An operator of an image. -/
structure ImgOp where
  r    : ImgRec := {}
  slot : Nat := 0
  o    : OpEntry := {}
deriving DecidableEq, Repr, Inhabited

/-- The sections of an image by type, with its directory and the placement map it is loaded under. -/
structure Image where
  secs   : List ImgSec := []
  pm     : PlaceMap := {}
  ops    : List ImgOp := []
  refs   : List ImgRec := []
  frames : List ImgRec := []
  bodies : List ImgRec := []
  consts : List ImgRec := []
  data   : List ImgRec := []
  inject : List ImgRec := []
  pgts   : List ImgRec := []
  attrs  : List ImgRec := []
  groups : List ImgRec := []
deriving DecidableEq, Repr, Inhabited

/-- An image from its bytes (R106, R107). -/
def parseImage (img : List Byte) : Except Failure Image := do
  let secs ← imgSecs img
  let ops ← recsOf img 1 secs
  let refs ← recsOf img 2 secs
  let frames ← recsOf img 3 secs
  let bodies ← recsOf img 4 secs
  let consts ← recsOf img 5 secs
  let data ← recsOf img 6 secs
  let inject ← recsOf img 7 secs
  let pgts ← recsOf img 8 secs
  let attrs ← recsOf img 9 secs
  let groups ← recsOf img 10 secs
  checkAll (fun s => checkAt (s.ty != 9 || 16 * s.cnt == s.len) cIllegal s.at0) secs
  checkAll (fun s => checkAt (decide (6 ≤ s.ty) || s.tgt != 0xFFFF) cIllegal s.at0) secs
  let o := ops.map fun r => { r := r, slot := leAt r.bs 0 4, o := opOfRec r : ImgOp }
  return { secs := secs, ops := o, refs := refs, frames := frames, bodies := bodies, consts := consts, data := data, inject := inject,
           pgts := pgts, attrs := attrs, groups := groups }

/-! ## Parts of records -/

/-- Whether a FRAMES record goes to the pool's table (R107). -/
def ImgRec.pooled (r : ImgRec) : Bool := leAt r.bs 4 4 % 2 == 1
/-- First body-store index and word count of a BODY record (R107). -/
def ImgRec.bodyFirst (r : ImgRec) : Nat := leAt r.bs 0 4
/-- Word count of a BODY record. -/
def ImgRec.bodyCnt (r : ImgRec) : Nat := leAt r.bs 4 4
/-- The address of a DATA record (R107). -/
def ImgRec.dataAddr (r : ImgRec) : Word := r.word 0
/-- The bytes of a DATA record. -/
def ImgRec.dataBytes (r : ImgRec) : List Byte := (r.bs.drop 16).take (leAt r.bs 8 8)
/-- The token of an INJECT record. -/
def ImgRec.token (r : ImgRec) : Token := BitVec.ofNat 128 (leAt r.bs 0 16)
/-- Rows and columns of a GROUP record (R327). -/
def ImgRec.rows (r : ImgRec) : Nat := leAt r.bs 2 1
/-- Columns of a GROUP record. -/
def ImgRec.cols (r : ImgRec) : Nat := leAt r.bs 3 1
/-- The image engines of an image group, in member order (R327). -/
def ImgRec.members (r : ImgRec) : List Nat := (List.range (r.rows * r.cols)).map (leAt r.bs 4 2 + ·)

/-- The image group that holds an image engine (R327). -/
def Image.groupOf (g : Image) (e : Nat) : Option ImgRec := g.groups.find? fun r => r.members.contains e
/-- The output-list word of an image engine at an index; the last record for it counts, an unlisted entry reads 0 (R44). -/
def Image.refRec (g : Image) (e i : Nat) : Option ImgRec := g.refs.reverse.find? fun r => r.tgt == e && leAt r.bs 0 4 == i
/-- The BODY record of an image engine that holds a body-store word. -/
def Image.bodyRec (g : Image) (e i : Nat) : Option ImgRec :=
  g.bodies.reverse.find? fun r => r.tgt == e && decide (r.bodyFirst ≤ i) && decide (i < r.bodyFirst + r.bodyCnt)
/-- A body-store word of an image engine, 0 where the image has none. -/
def Image.bodyWord (g : Image) (e i : Nat) : Word :=
  match g.bodyRec e i with
  | some r => r.word (8 + 8 * (i - r.bodyFirst))
  | none => 0
/-- The words of an operator's body. -/
def Image.body (g : Image) (p : ImgOp) : List Word := (List.range (p.o.h.blen + 1)).map fun j => g.bodyWord p.r.tgt (p.o.h.body + j)
/-- The die on which an image engine is placed. -/
def Image.dieOf (g : Image) (e : Nat) : Option Nat := (g.pm.eng e).map (· / 72)
/-- The FRAMES record that an operator's FRAME names: of its engine, or of the pool of the die that holds it (R335). -/
def Image.frameRec (g : Image) (e f : Nat) (pooled : Bool) : Option ImgRec :=
  let same := fun t : Nat => t == e || (pooled && g.dieOf t == g.dieOf e)
  g.frames.find? fun r => r.pooled == pooled && leAt r.bs 0 4 == f && same r.tgt

/-- A frame entry from its 64 bits, as GLOAD writes it for a context (R25, R310). -/
def loadedFrame (w : Word) (c : Nat) : Frame :=
  { v := false, inst := 0, ctx := c, w := fld w 43 6 + 1, wbase := fld w 31 12, spc := fld w 21 10 + 1, base := fld w 8 13,
    owner := fld w 0 8, next := fld w 31 12, retired := 0, wbase0 := fld w 31 12 }
/-- The frame of a FRAMES record. -/
def ImgRec.frame (r : ImgRec) : Frame := loadedFrame (r.word 8) 0

/-- The shadow stride of an image: its common non-zero RSTR (R202). -/
def Image.stride (g : Image) : Nat := ((g.ops.map (·.o.rstr)).find? (· != 0)).getD 0

/-- A pooled operator stands on every member of its image group (R56): the members that have no record of their own for the slot
get the one of the image engine that has, with its output references and body words. -/
def Image.spread (g : Image) : Image :=
  let pooled := g.ops.filter (·.o.h.pool)
  let others := fun p : ImgOp => match g.groupOf p.r.tgt with
    | some r => r.members.filter fun m => m != p.r.tgt && !(g.ops.any fun q => q.r.tgt == m && q.slot == p.slot)
    | none => []
  let move := fun (r : ImgRec) (m : Nat) => { r with tgt := m }
  let ops := pooled.flatMap fun p => (others p).map fun m => { p with r := move p.r m }
  let refs := pooled.flatMap fun p => (g.refs.filter fun r => r.tgt == p.r.tgt && decide (p.o.h.olbase ≤ leAt r.bs 0 4) &&
    decide (leAt r.bs 0 4 < p.o.h.olbase + p.o.h.olcnt)).flatMap fun r => (others p).map (move r)
  let bodies := pooled.flatMap fun p => (g.bodies.filter fun r => r.tgt == p.r.tgt && decide (r.bodyFirst ≤ p.o.h.body + p.o.h.blen) &&
    decide (p.o.h.body < r.bodyFirst + r.bodyCnt)).flatMap fun r => (others p).map (move r)
  { g with ops := g.ops ++ ops, refs := refs ++ g.refs, bodies := bodies ++ g.bodies }

/-! ## References (R44, R56, R109, R314, R403) -/

/-- The consumer of a reference in the image: an operator of the image engine or, for unit 248, the pooled one that its slot and
frame name on the die of the reference (R109, R335). -/
def Image.consumer (g : Image) (w : Word) : Option ImgOp :=
  if refUnit w ≤ 71 then g.ops.find? fun p => p.r.tgt == refDie w * 72 + refUnit w && p.slot == refOp w
  else if refUnit w = 248 then g.ops.find? fun p => p.o.h.pool && p.slot == refOp w && p.o.frame == refFrame w &&
      g.dieOf p.r.tgt == some (g.pm.dremap.getD (refDie w) 0)
  else none

/-- Whether a reference is a tile reference (R109): by the consumer's port, which is none where the image has no such operator; by
EMODE toward a unit that is neither an engine nor the pool. -/
def Image.isTile (g : Image) (w : Word) : Bool :=
  match g.consumer w with
  | some p => (p.o.ports.getD (refPort w) {}).tile
  | none => decide (71 < refUnit w) && refUnit w != 248 && refMode w == 1

/-- What GLOAD records about a reference. -/
def Image.info (g : Image) (w : Word) : OutInfo :=
  match g.consumer w with
  | some p => ⟨(p.o.ports.getD (refPort w) {}).tile, (p.o.ports.getD (refPort w) {}).mode == .order, p.o.h.dualk⟩
  | none => ⟨g.isTile w, false, 0⟩

/-- The cause that refuses a reference by itself (R44, R46, R56, R314, R403). -/
def refCause (w : Word) : Option Nat :=
  let u := refUnit w
  if refMode w = 3 ∨ 5 ≤ refCt w then some cIllegal
  else if 224 ≤ u ∧ u ≤ 227 then
    let e := fld w 2 7
    if refMode w ≠ 0 ∨ refCt w ≠ 0 ∨ w.getLsbD 0 ∨ (72 ≤ e ∧ e ≠ 127) then some cIllegal else none
  else if refRmt w ≠ 0 then some cIllegal
  else if u = 248 ∧ refMode w ≠ 2 then some cIllegal
  else if u = 252 ∧ refOp w ≠ 0xFE then some cFrame
  else if refMode w = 2 ∧ 71 < u ∧ u ≠ 248 then some cFrame
  else none

/-- Whether a reference to a pooled operator has the EMODE that R56 asks for. -/
def Image.poolRefOk (g : Image) (w : Word) : Bool :=
  match g.consumer w with
  | some p => !p.o.h.pool || refMode w == 2
  | none => true

/-- The cause that refuses a reference of an operator (R46, R335); its placement is checked later, and R210 at arming. -/
def ImgOp.opRefCause (p : ImgOp) (w : Word) : Option Nat :=
  if p.o.h.pool ∧ refMode w = 0 then some cIllegal
  else if refMode w = 0 ∧ refUnit w ≤ 71 ∧ refDie w * 72 + refUnit w ≠ p.r.tgt then some cFrame
  else none

/-! ## Checks of the whole image -/

/-- The refusal of a body (R91): at the image offset of the word, or at the OPTAB record. -/
def Image.bodyBad (g : Image) (p : ImgOp) : BodyBad → Failure
  | .record c => ⟨c, BitVec.ofNat 64 p.r.off, 0⟩
  | .word j c =>
    match g.bodyRec p.r.tgt (p.o.h.body + j) with
    | some r => ⟨c, BitVec.ofNat 64 (r.off + 8 + 8 * (p.o.h.body + j - r.bodyFirst)), 0⟩
    | none => ⟨c, BitVec.ofNat 64 p.r.off, 0⟩

/-- The output words of an operator: index in the operator, offset of its record, word. -/
def Image.outputs (g : Image) (p : ImgOp) : List (Nat × Nat × Word) :=
  (List.range p.o.h.olcnt).map fun n =>
    match g.refRec p.r.tgt (p.o.h.olbase + n) with
    | some r => (n, r.off, r.word 8)
    | none => (n, p.r.off, 0)
/-- Output `n` of an operator. -/
def Image.output (g : Image) (p : ImgOp) (n : Nat) : Word :=
  match g.refRec p.r.tgt (p.o.h.olbase + n) with
  | some r => r.word 8
  | none => 0

/-- Whether an operator keeps tiles in a ring: it has a tile port that takes a sub-slot, or a tile reference. -/
def Image.hasRing (g : Image) (p : ImgOp) : Bool := decide (0 < p.o.tilePorts) || (g.outputs p).any fun (_, _, w) => g.isTile w

/-- LOOP operators (R39): INNER is a frame of the image on the same engine, not the operator's own, owned by it, and named by no
other LOOP. -/
def Image.loopOk (g : Image) (p : ImgOp) : Bool :=
  p.o.h.kind != .loop ||
    (match g.frameRec p.r.tgt p.o.inner false with
     | some r => p.o.inner != p.o.frame && r.frame.owner == p.slot &&
         !(g.ops.any fun q => q.o.h.kind == .loop && q.r.tgt == p.r.tgt && q.slot != p.slot && q.o.inner == p.o.inner)
     | none => false)

/-- The frame of an operator and its slots (R26, R335). -/
def Image.opFrameOk (g : Image) (p : ImgOp) : Bool :=
  match g.frameRec p.r.tgt p.o.frame p.o.h.pool with
  | some r => decide (p.o.slotoff + p.o.h.nin ≤ r.frame.spc)
  | none => !p.o.h.pool

/-- QLIVE masks of the operators of one engine share no accumulator (R97, R201). -/
def Image.qliveOk (g : Image) (p : ImgOp) : Bool :=
  let mine := liveAccs p.o.h.qlive p.o.h.dualk
  !(g.ops.any fun q => q.r.tgt == p.r.tgt && q.slot != p.slot &&
    (liveAccs q.o.h.qlive q.o.h.dualk).any fun a => mine.contains a)

/-- The checks of one operator. -/
def Image.checkOp (g : Image) (p : ImgOp) : Except Failure Unit := do
  checkAt (opRecOk p.r p.o) cIllegal p.r.off
  checkAt p.o.recvFits cFrame p.r.off
  checkAt (g.opFrameOk p) cFrame p.r.off
  checkAt (g.loopOk p) cFrame p.r.off
  checkAt (p.o.rstr == 0 || (p.o.rstr == g.stride && p.o.rstr % 8 == 0)) cIllegal p.r.off
  checkAt (p.o.h.qliveFits p.o.h.dualk) cIllegal p.r.off
  checkAt (p.o.h.dualk == 0 || !g.hasRing p || ringFits p.o g.stride p.o.h.dualk) cIllegal p.r.off
  checkAll (fun (_, off, w) => match p.opRefCause w with
    | some c => checkAt false c off
    | none => .ok ()) (g.outputs p)
  if p.o.h.runs then
    match checkBody p.o (fun n => g.isTile (g.output p n)) (g.body p) with
    | .ok _ => .ok ()
    | .error b => .error (g.bodyBad p b)
  else .ok ()
  checkAt (g.qliveOk p) cFrame p.r.off

/-- The checks of an image that need no placement. The zero word of an OLIST record and FRAMES flags [31:1] must be 0
(log 96). -/
def Image.check (g : Image) : Except Failure Unit := do
  checkAll (fun r => checkAt (leAt r.bs 4 4 == 0 && decide (leAt r.bs 0 4 < 1024)) cIllegal r.off) g.refs
  checkAll (fun r => match refCause (r.word 8) with
    | some c => checkAt false c r.off
    | none => .ok ()) g.refs
  checkAll (fun r => checkAt (g.poolRefOk (r.word 8)) cIllegal r.off) g.refs
  checkAll (fun r => checkAt (decide (leAt r.bs 4 4 ≤ 1) && decide (leAt r.bs 0 4 < 1024)) cIllegal r.off) g.frames
  checkAll (fun r => checkAt (decide (r.frame.base + r.frame.w * r.frame.spc ≤ if r.pooled then 32768 else 8192)) cFrame r.off) g.frames
  checkAll (fun r => checkAt (decide (r.bodyFirst + r.bodyCnt ≤ 2048)) cIllegal r.off) g.bodies
  checkAll (fun r => checkAt (leAt r.bs 4 4 == 0 && decide (1 ≤ leAt r.bs 0 4) && decide (leAt r.bs 0 4 ≤ 8)) cIllegal r.off) g.attrs
  checkAll (fun r => checkAt (decide (leAt r.bs 0 4 < 8) && decide (1 ≤ leAt r.bs 4 4) && decide (leAt r.bs 4 4 ≤ 4096) &&
    leAt r.bs 12 4 == 0) cIllegal r.off) g.pgts
  checkAll (fun r => checkAt (leAt r.bs 6 2 == 0 && leAt r.bs 8 8 == 0 && decide (r.rows ≤ 9) && decide (r.cols ≤ 8) &&
    (r.rows * r.cols) ∈ [1, 2, 4, 6, 8, 9, 12, 16]) cIllegal r.off) g.groups
  checkAll g.checkOp g.ops

/-! ## The placement map (R306) -/

/-- Whether a list has no repeats. -/
def noRepeats : List Nat → Bool
  | [] => true
  | x :: r => !r.contains x && noRepeats r

/-- The entries of a map: image engine and global physical engine. -/
def mapEntries (b : List Byte) (n : Nat) : List (Nat × Nat) :=
  (List.range n).map fun i => (leAt b (8 * i) 2, 72 * leAt b (8 * i + 2) 1 + leAt b (8 * i + 3) 1)

/-- A header's fields that do not depend on the entries. -/
def mapHeadOk (h : List Byte) : Bool :=
  leAt h 0 4 == mapMagic && leAt h 4 2 == 1 && leAt h 8 4 != 0 && decide (leAt h 12 1 < 16) && leAt h 13 1 == 0 &&
    decide (1 ≤ leAt h 14 2) && decide (leAt h 14 2 ≤ 288) && ((List.range 4).all fun i => decide (leAt h (16 + i) 1 < 4)) &&
    leAt h 20 12 == 0

/-- Whether the entries are good: numbers in range, zero fields zero, no duplicate. -/
def mapBodyOk (b : List Byte) (n : Nat) : Bool :=
  ((List.range n).all fun i => decide (leAt b (8 * i) 2 < 288) && decide (leAt b (8 * i + 2) 1 < 4) &&
    decide (leAt b (8 * i + 3) 1 < 72) && leAt b (8 * i + 4) 4 == 0) &&
  noRepeats ((mapEntries b n).map (·.1)) && noRepeats ((mapEntries b n).map (·.2))

/-- The map of its header and entries. -/
def placeMap (h b : List Byte) : PlaceMap where
  kid := BitVec.ofNat 16 (leAt h 6 2)
  nexit := BitVec.ofNat 32 (leAt h 8 4)
  dmask := BitVec.ofNat 4 (leAt h 12 1)
  dremap := (List.range 4).map fun i => leAt h (16 + i) 1
  map := mapEntries b (leAt h 14 2)

/-- A die and unit in image terms as a physical die and unit (R308); none where the map has no entry. -/
def PlaceMap.unit (m : PlaceMap) (die u : Nat) : Option (Nat × Nat) :=
  if u ≤ 71 then (m.eng (die * 72 + u)).map fun p => (p / 72, p % 72)
  else if 128 ≤ u ∧ u ≤ 199 then (m.eng (die * 72 + (u - 128))).map fun p => (p / 72, 128 + p % 72)
  else if (224 ≤ u ∧ u ≤ 227) ∨ u = 240 ∨ u = 248 then some (m.dremap.getD die 0, u)
  else some (die, u)

/-- A reference with its unit mapped (R308). -/
def PlaceMap.ref (m : PlaceMap) (w : Word) : Word :=
  let (d, u) := (m.unit (refDie w) (refUnit w)).getD (refDie w, refUnit w)
  (w &&& 0x003FFFFFFFFFFFFF) ||| put 62 2 d ||| put 54 8 u
/-- An upstream reference with its unit mapped (R308); a receive word and a reference that names none stay. -/
def PlaceMap.up (m : PlaceMap) (k : OpKind) (u : BitVec 32) : BitVec 32 :=
  if k = .recv ∨ u.getLsbD 10 = false then u
  else
    let (d, n) := (m.unit (fld u 30 2) (fld u 22 8)).getD (fld u 30 2, fld u 22 8)
    (u &&& 0x003FFFFF) ||| BitVec.ofNat 32 (d * 2 ^ 30 + n * 2 ^ 22)
/-- An initial token with its unit mapped (R308, R312). -/
def PlaceMap.tok (m : PlaceMap) (t : Token) : Token :=
  let (d, u) := (m.unit (tokDie t) (tokUnit t)).getD (tokDie t, tokUnit t)
  { tokFields t with die := d, unit := u }.mk128

end Sys2Proof.Machine
end

