-- ==== Sys2Proof/Machine/Gload.lean ====
section
/-!
DEFINITION. GLOAD (R269, R305–R308, R310): the checks of an image against its placement and against what is loaded already, and the
writing of its tables (R25, R36, R44, R90, R96), data, initial tokens, process-group tables (R401) and demands on the context (R281).
-/
namespace Sys2Proof.Machine

/-- A load: the die, the context, the map and the image. -/
structure Load where
  d : Nat := 0
  c : Nat := 0
  m : PlaceMap := {}
  g : Image := {}
deriving DecidableEq, Repr, Inhabited

/-- The physical engine of an image engine, when it lies on the die that loads. -/
def Load.mine (l : Load) (e : Nat) : Option Nat :=
  match l.m.eng e with
  | some p => if p / 72 = l.d then some p else none
  | none => none
/-- The engines of the kernel on the die that loads. -/
def Load.engines (l : Load) : List Nat := (l.m.map.map (·.2)).filter fun p => p / 72 == l.d
/-- Whether the die is the lowest of DMASK. -/
def Load.lowest (l : Load) : Bool := (List.range l.d).all fun i => !l.m.dmask.getLsbD i
/-- Whether the records of a section are loaded on this die (R307). -/
def Load.takes (l : Load) (tgt : Nat) : Bool := if tgt = 0xFFFF then l.lowest else (l.mine tgt).isSome

/-! ## What the load claims -/

/-- The frames: unit (engine, or 288 + die for the pool), index, entry (R25, R335). -/
def Load.frames (l : Load) : List (Nat × Nat × Frame × Nat) :=
  l.g.frames.filterMap fun r => (l.mine r.tgt).map fun p =>
    (if r.pooled then 288 + l.d else p, leAt r.bs 0 4, loadedFrame (r.word 8) l.c, r.off)
/-- The operators with their engines. -/
def Load.ops (l : Load) : List (Nat × ImgOp) := l.g.ops.filterMap fun p => (l.mine p.r.tgt).map fun e => (e, p)
/-- The output-list ranges: of the records, and of the operators. -/
def Load.ols (l : Load) : List TRange :=
  (l.g.refs.filterMap fun r => (l.mine r.tgt).map fun e => ⟨e, leAt r.bs 0 4, 1⟩) ++
  (l.ops.map fun (e, p) => ⟨e, p.o.h.olbase, p.o.h.olcnt⟩)
/-- The body-store ranges: of the records, and of the operators that run bodies. -/
def Load.bodies (l : Load) : List TRange :=
  (l.g.bodies.filterMap fun r => (l.mine r.tgt).map fun e => ⟨e, r.bodyFirst, r.bodyCnt⟩) ++
  ((l.ops.filter fun (_, p) => p.o.h.runs).map fun (e, p) => ⟨e, p.o.h.body, p.o.h.blen + 1⟩)

/-- Whether two ranges have something in common. -/
def TRange.meets (a b : TRange) : Bool :=
  a.unit == b.unit && decide (0 < a.cnt) && decide (0 < b.cnt) && decide (a.first < b.first + b.cnt) && decide (b.first < a.first + a.cnt)
/-- The matching-store range of a frame (R26). -/
def frameRange (unit : Nat) (f : Frame) : TRange := ⟨unit, f.base, f.w * f.spc⟩
/-- The store of a unit number. -/
def unitLoc (u : Nat) : Loc := if u < 288 then .eng u else .pool (u - 288)

/-- The kernels that are loaded, with their numbers. -/
def State.loadedKernels (s : State) : List (Nat × Kernel) := s.cp.kernels.filter fun (_, k) => k.used

/-- The kernel of a context and KID (R305). -/
def State.kernelOf (s : State) (c : Nat) (kid : BitVec 16) : Option Nat :=
  (s.loadedKernels.find? fun (_, k) => k.ctx == c && k.kid == kid).map (·.1)

/-- Whether the load may join the kernel that has its KID: one that is PLACED, waits for this die, and has the same map. -/
def Load.joins (l : Load) (k : Kernel) : Bool :=
  k.st == .placed && !k.place.loaded.getLsbD l.d && k.dmask == l.m.dmask && k.nexit == l.m.nexit && k.place.map == l.m.map

/-! ## Checks of the placement (R307, R308, R327) -/

/-- Every section's TARGET, be the section empty, and every unit named has an entry (R307). -/
def Load.checkUnits (l : Load) : Except Failure Unit := do
  checkAll (fun x => checkAt (x.tgt == 0xFFFF || (l.m.eng x.tgt).isSome) cFrame x.at0) l.g.secs
  checkAll (fun r => checkAt (l.m.unit (refDie (r.word 8)) (refUnit (r.word 8))).isSome cFrame r.off) l.g.refs
  checkAll (fun p => checkAt (p.o.h.kind == .recv || p.o.up.all fun u => !u.getLsbD 10 || (l.m.unit (fld u 30 2) (fld u 22 8)).isSome)
    cFrame p.r.off) l.g.ops
  checkAll (fun r => checkAt (l.m.unit (tokDie r.token) (tokUnit r.token)).isSome cFrame r.off) l.g.inject

/-- The physical group of an image group, when its members stand on one group of the context in order (R327). -/
def State.placedGroup (s : State) (l : Load) (r : ImgRec) : Option (Nat × Nat) :=
  match r.members.map l.m.eng with
  | some p :: _ =>
    match s.groupOf p with
    | some (i, _) =>
      let x := s.group (p / 72) i
      if x.ctx = l.c ∧ x.rm1 + 1 = r.rows ∧ x.cm1 + 1 = r.cols ∧
          r.members.map l.m.eng = (groupMembers (p / 72) x).map some then some (p / 72, i) else none
    | none => none
  | _ => none

/-- The image groups (R327). -/
def State.checkGroups (s : State) (l : Load) : Except Failure Unit := do
  checkAll (fun r => checkAt (r.members.all fun e => (l.m.eng e).isSome) cIllegal r.off) l.g.groups
  checkAll (fun r => checkAt (s.placedGroup l r).isSome cFrame r.off) l.g.groups
  checkAll (fun (i, r) => checkAt (!((l.g.groups.take i).any fun q => s.placedGroup l q == s.placedGroup l r)) cFrame r.off)
    (l.g.groups.zipIdx.map fun (r, i) => (i, r))

/-- WINDOW references stay within the producer's group (R46). -/
def State.checkWindows (s : State) (l : Load) : Except Failure Unit :=
  checkAll (fun (e, p) => checkAll (fun (_, off, w) =>
    let mate := fun q : Option Nat => match q with
      | some x => x / 72 == e / 72 && (s.groupOf x).map (·.1) == (s.groupOf e).map (·.1) && (s.groupOf e).isSome
      | none => false
    checkAt (refMode w != 2 || (if refUnit w ≤ 71 then mate (l.m.eng (refDie w * 72 + refUnit w))
      else match l.g.consumer w with
        | some q => mate (l.m.eng q.r.tgt)
        | none => true)) cFrame off) (l.g.outputs p)) l.ops

/-- What is loaded already leaves room (R96, R97, R305, R307, R335); `k0` is the kernel that the load joins. -/
def State.checkRoom (s : State) (l : Load) (k0 : Option Nat) : Except Failure Unit := do
  let others := s.loadedKernels.filter fun (n, _) => some n != k0
  checkAt (l.m.dmask.getLsbD l.d) cFrame 0
  checkAt (match k0 with | some n => l.joins (s.kernel n) | none => true) cFrame 0
  checkAt ((List.range 32).any fun i => (tget none (s.units l.d).kslots i).isNone) cFrame 0
  checkAll (fun e => checkAt (match s.groupOf e with | some (i, _) => (s.group (e / 72) i).ctx == l.c | none => false) cPriv 0)
    (l.m.map.map (·.2))
  checkAll (fun (u, n, f, off) => checkAt (!(others.any fun (_, k) => k.place.frames.any fun (v, j) =>
      v == u && (j == n || (frameRange v (s.frame (unitLoc v) j)).meets (frameRange u f)))) cFrame off) l.frames
  checkAll (fun (e, p) => checkAt (!(others.any fun (_, k) => k.place.ops.contains (e, p.slot))) cFrame p.r.off) l.ops
  checkAll (fun (e, p) => checkAt (!(others.any fun (_, k) => k.place.ols.any (·.meets ⟨e, p.o.h.olbase, p.o.h.olcnt⟩) ||
      (p.o.h.runs && k.place.bodies.any (·.meets ⟨e, p.o.h.body, p.o.h.blen + 1⟩)))) cFrame p.r.off) l.ops
  checkAll (fun r => checkAt (!(others.any fun (_, k) => (l.mine r.tgt).any fun e => k.place.ols.any (·.meets ⟨e, leAt r.bs 0 4, 1⟩)))
    cFrame r.off) l.g.refs
  checkAll (fun r => checkAt (!(others.any fun (_, k) => (l.mine r.tgt).any fun e =>
    k.place.bodies.any (·.meets ⟨e, r.bodyFirst, r.bodyCnt⟩))) cFrame r.off) l.g.bodies
  checkAll (fun e => checkAt (decide ((s.engine e).t.banks.length < 32)) cFrame 0) l.engines
  checkAll (fun (e, p) => checkAt (!((s.engine e).t.ot.any fun (n, o) => n != p.slot &&
    (liveAccs o.h.qlive o.h.dualk).any fun a => (liveAccs p.o.h.qlive p.o.h.dualk).contains a)) cFrame p.r.off) l.ops

/-- Whether the context meets an attribute of the CONTEXT section (R281). -/
def State.attrOk (s : State) (c code v : Nat) : Bool :=
  let x := s.ctx c
  match code with
  | 1 => x.r.dshb.toNat == v
  | 2 => x.r.seed.toNat == v
  | 3 => decide (v ≤ x.r.ovsize.toNat)
  | 4 => decide (v ≤ x.lk.tidn.toNat)
  | 5 => decide (v ≤ x.r.pcnt)
  | _ => true

/-- The CONTEXT section (R281). -/
def State.checkAttrs (s : State) (l : Load) : Except Failure Unit :=
  checkAll (fun r => checkAt (!l.takes r.tgt || s.attrOk l.c (leAt r.bs 0 4) (leAt r.bs 8 8)) cFrame r.off) l.g.attrs

/-! ## Data and process-group tables -/

/-- How a DATA record's bytes are stored: from the engine that its section targets, or from the core, in the context (R269). -/
def Load.dataVia (l : Load) (r : ImgRec) : Via :=
  { by_ := match l.mine r.tgt with | some e => .engine e | none => .core l.d, ctx := some l.c, kind := .store }

/-- The homes of the DATA records that are loaded, each checked as a store (R269), with the state after the translations. -/
def State.dataHomes (s : State) (l : Load) : List ImgRec → Except Failure (List (List Nat × List Byte)) × State
  | [] => (.ok [], s)
  | r :: rest =>
    if l.takes r.tgt = false then s.dataHomes l rest
    else match s.resolve (l.dataVia r) [0x0, 0x1, 0x2, 0x8, 0x9, 0xA, 0xB] r.dataAddr r.dataBytes.length false with
      | (.error f, t) => (.error ⟨f.cause, BitVec.ofNat 64 r.off, f.addr⟩, t)
      | (.ok hs, t) =>
        match t.dataHomes l rest with
        | (.error f, u) => (.error f, u)
        | (.ok more, u) => (.ok ((hs, r.dataBytes) :: more), u)

/-- The PGT records (R401): each table is as the record says, or is written and made valid, or the image is refused. -/
def State.loadPgts (s : State) (l : Load) : List ImgRec → Except Failure State
  | [] => .ok s
  | r :: rest =>
    if l.takes r.tgt = false then s.loadPgts l rest
    else
      let t := leAt r.bs 0 4
      let n := leAt r.bs 4 4
      let key := BitVec.ofNat 32 (leAt r.bs 8 4)
      let nodes := (r.bs.drop 16).take (2 * n)
      let g := s.pgt l.c t
      let bad : Except Failure State := .error ⟨cFrame, BitVec.ofNat 64 r.off, 0⟩
      if g.v then
        if g.n = n ∧ g.gkey = key ∧ s.rdBytes (hbmHome g.base.toNat) (2 * n) = nodes then s.loadPgts l rest else bad
      else if g.base = 0 then bad
      else
        let s1 := (s.setPgt l.c t { g with n := n, gkey := key }).storeHomes ((List.range nodes.length).map (hbmHome g.base.toNat + ·)) nodes
        let s2 := s1.validatePgt l.c t
        if (s2.pgt l.c t).v then s2.loadPgts l rest else bad

/-! ## Writing the tables -/

/-- The output-list entries and body words of an image on the die. -/
def State.loadLists (s : State) (l : Load) : State :=
  let s1 := l.g.refs.foldl (fun t r => match l.mine r.tgt with
    | some e =>
      let x := t.engine e
      let i := leAt r.bs 0 4
      t.setEngine e { x with t := { x.t with ol := tput x.t.ol i (l.m.ref (r.word 8)), olx := tput x.t.olx i (l.g.info (r.word 8)) } }
    | none => t) s
  l.g.bodies.foldl (fun t r => match l.mine r.tgt with
    | some e =>
      let x := t.engine e
      let ws := (List.range r.bodyCnt).map fun j => r.word (8 + 8 * j)
      t.setEngine e { x with t := { x.t with body := tsets 0 x.t.body r.bodyFirst ws } }
    | none => t) s1

/-- The entry of an operator as GLOAD writes it: UP references mapped (R308), the image's stride (R202), and whether its firings are
serial (R97) or use the Abacus (R186). -/
def Load.entry (l : Load) (p : ImgOp) : OpEntry :=
  let ws := match parseBody 1 0 ((l.g.body p).drop 1) with
    | .ok ws => if p.o.h.runs then ws else []
    | .error _ => []
  { p.o with rstr := l.g.stride, up := p.o.up.map (l.m.up p.o.h.kind),
             serial := p.o.h.qlive != 0 || ws.any (fun b => writesS b.i), abx := ws.any fun b => isAbx b.i }

/-- The frames, operators and constant banks of an image on the die; `k` is the kernel's number. -/
def State.loadTables (s : State) (l : Load) (k : Nat) : State :=
  let s1 := l.frames.foldl (fun t (u, n, f, _) => t.setFrame (unitLoc u) n f) s
  let s2 := l.ops.foldl (fun t (e, p) =>
    let x := t.engine e
    t.setEngine e { x with t := { x.t with ot := tput x.t.ot p.slot (l.entry p), orun := tdel x.t.orun p.slot,
                                           opBank := tput x.t.opBank p.slot k } }) s1
  l.m.map.foldl (fun t (i, e) =>
    if e / 72 = l.d then
      let x := t.engine e
      let bank := match l.g.consts.reverse.find? fun r => r.tgt == i with
        | some r => (List.range 16).map fun j => r.word (8 * j)
        | none => List.replicate 16 0
      t.setEngine e { x with t := { x.t with banks := tput x.t.banks k bank } }
    else t) s2

/-- The lowest kernel number that is free. -/
def State.freeKernel (s : State) : Nat := ((List.range 129).find? fun k => !(s.kernel k).used).getD 128

/-- Initial tokens merged by the image offset of their records, the order in which they are sent (R312). -/
def addInject (l new : List (Nat × Token)) : List (Nat × Token) :=
  new.foldl (fun acc x => acc.filter (fun y => decide (y.1 ≤ x.1)) ++ [x] ++ acc.filter fun y => !decide (y.1 ≤ x.1)) l

/-- The kernel after the load (R305, R310): PLACED, or ARMED once every die of DMASK has loaded. -/
def Load.kernel (l : Load) (x : Kernel) (slot : Nat) : Kernel :=
  let old := x.place
  let loaded := old.loaded ||| BitVec.ofNat 4 (2 ^ l.d)
  let toks := (l.g.inject.filter fun r => l.takes r.tgt).map fun r => (r.off, l.m.tok r.token)
  let place : Placement :=
    { map := l.m.map, dremap := l.m.dremap, loaded := loaded, slots := old.slots ++ [(l.d, slot)],
      frames := old.frames ++ l.frames.map (fun (u, n, _, _) => (u, n)), ops := old.ops ++ l.ops.map (fun (e, p) => (e, p.slot)),
      ols := old.ols ++ l.ols, bodies := old.bodies ++ l.bodies, inject := addInject old.inject toks }
  { x with used := true, kid := l.m.kid, ctx := l.c, dmask := l.m.dmask, nexit := l.m.nexit,
           st := if l.m.dmask &&& ~~~ loaded = 0 then .armed else .placed, place := place }

/-- The load of an image (R269, R307): the kernel slot it fills and the state, or why it is refused. -/
def State.load (s : State) (l : Load) : Except Failure (Nat × State) := do
  l.g.check
  l.checkUnits
  s.checkGroups l
  let k0 := s.kernelOf l.c l.m.kid
  s.checkRoom l k0
  s.checkWindows l
  s.checkAttrs l
  match s.dataHomes l l.g.data with
  | (.error f, _) => .error f
  | (.ok data, t) =>
    let t1 ← t.loadPgts l l.g.pgts
    let t2 := data.foldl (fun u (hs, bs) => u.storeHomes hs bs) t1
    let k := k0.getD t2.freeKernel
    let slot := ((List.range 32).find? fun i => (tget none (t2.units l.d).kslots i).isNone).getD 0
    let t3 := (t2.loadLists l).loadTables l k
    let u := t3.units l.d
    let t4 := t3.setUnits l.d { u with kslots := tput u.kslots slot (some k) }
    return (slot, t4.setKernel k (l.kernel (if k0.isSome then t4.kernel k else {}) slot))

/-! ## GLOAD (R268, R269) -/

/-- The bytes that GLOAD reads: the image, whose header says how long it is, and the placement map. -/
def State.readImageNow (s : State) (d : Nat) (a b : Word) : Except Failure (List Byte × List Byte × List Byte) × State :=
  match s.coreLoad d a 64 with
  | (.error f, t) => (.error f, t)
  | (.ok h, t) =>
    let n := if leAt h 0 4 = imageMagic ∧ leAt h 4 2 = 1 then leAt h 8 8 - 64 else 0
    match t.coreLoad d (a + 64) n with
    | (.error f, t1) => (.error f, t1)
    | (.ok rest, t1) =>
      match t1.coreLoad d b 32 with
      | (.error f, t2) => (.error f, t2)
      | (.ok mh, t2) =>
        match t2.coreLoad d (b + 32) (if mapHeadOk mh then 8 * leAt mh 14 2 else 0) with
        | (.error f, t3) => (.error f, t3)
        | (.ok mb, t3) => (.ok ((h ++ rest).take (leAt h 8 8), mh, mb), t3)

/-- The bytes of a GLOAD: those it has read already, where it has waited, or those it reads now (R268). -/
def State.readImage (s : State) (d : Nat) (a b : Word) : Except Failure (List Byte × List Byte × List Byte) × State :=
  match (s.core d).img with
  | some x => (.ok x, s)
  | none => s.readImageNow d a b
/-- A GLOAD that waits keeps what it has read. -/
def State.keepImage (s : State) (d : Nat) (x : List Byte × List Byte × List Byte) : State :=
  s.setCore d { s.core d with img := some x }

/-- The load of the bytes read: the image and the map are parsed, then loaded. -/
def State.loadBytes (s : State) (d c : Nat) (img mh mb : List Byte) : Except Failure (Nat × State) := do
  let g ← parseImage img
  checkAt (mapHeadOk mh && mapBodyOk mb (leAt mh 14 2)) cIllegal 0
  s.load { d := d, c := c, m := placeMap mh mb, g := { g with pm := placeMap mh mb }.spread }

/-- Whether an engine of die `d` that the kernel in a slot places is still being cleared for its holder (R289). -/
def State.slotClearing (s : State) (d slot : Nat) : Bool :=
  match tget none (s.units d).kslots slot with
  | some k => (s.kernel k).place.map.any fun (_, e) => e / 72 == d && s.clearing e
  | none => false

/-- GLOAD (R269): a refusal writes 0 and queues a record for the context; an accepted load waits until the clearing of the
engines that it writes has finished (R289). -/
def execGload (f : FmtCG) (s : State) : Host.Outcome State Fault Refusal :=
  onSup (.gload f) s fun d k =>
    let c := k.rd f.gc
    if 64 ≤ c.toNat then s.coreFault d cIllegal (wordOf (.gload f))
    else match s.readImage d (k.rd f.ga) (k.rd f.gb) with
      | (.error e, t) => t.coreFault d e.cause e.addr
      | (.ok (img, mh, mb), t) =>
        match t.loadBytes d c.toNat img mh mb with
        | .ok (slot, u) =>
          if u.slotClearing d slot then (t.keepImage d (img, mh, mb)).stayBusy d (.gload f) else u.endWord d f.gd (put 63 1 1 ||| BitVec.ofNat 64 slot)
        | .error e => (t.endWord d f.gd 0).report d e.cause ⟨c.toNat, none, d, 240, 0, 0⟩ e.addr e.detail none

end Sys2Proof.Machine
end

