-- ==== Sys2Proof/Machine/HostPort.lean ====
section
/-!
DEFINITION. The host port (R445–R448): accesses through the BARs of the functions, host AtomicOps (R234, R447), and writes of single
registers. An offset below 2^40 is one of BAR2 of function 0; offset 2^40 + 2^24 n + o is offset o of BAR0 of function n.
-/
namespace Sys2Proof.Machine

/-- How the host reaches HBM through the aperture (R447): physically, or in APCTX by die 0's walker. -/
def State.hostVia (s : State) (k : AccKind) : Via :=
  { by_ := .link 0, kind := k, ctx := if s.host.apmode then some s.host.apctx else none }

/-- The address of an aperture offset (R447). -/
def State.hostAddr (s : State) (off : Nat) : Word := BitVec.ofNat 64 ((s.host.apbase.toNat + off) % 2 ^ 48)

/-- A request fails (R447): CACNT and the error log count it, a non-posted one is answered with Completer Abort. -/
def State.hostFail (s : State) (cause off : Nat) (posted : Bool) : State :=
  let s1 := s.hostCount cause off
  if posted then s1 else s1.respond []

/-- The homes of `n` bytes of the aperture (R447): the request must lie in it. -/
def State.hostHomes (s : State) (k : AccKind) (off n : Nat) (aligned : Bool) : Except Failure (List Nat) × State :=
  if 2 ^ s.host.aplog2 < off + n then (.error ⟨cBadpath, BitVec.ofNat 64 off, 0⟩, s)
  else s.resolve (s.hostVia k) [0x0] (s.hostAddr off) n aligned

/-- Whether an access of the host is one aligned scalar access (R223). -/
def State.hostScalar (s : State) (off n : Nat) : Bool := n ∈ [1, 2, 4, 8] && (s.hostAddr off).toNat % n == 0

/-- An access of the host meets an uncorrectable error (R447, R454): it fails, and the error is recorded for the context of the aperture. -/
def State.hostEcc (s : State) (off : Nat) (hs : List Nat) : State :=
  let h := hs.headD 0
  (s.report (homeDie h) cEcc { s.hostWho with unit := 255 } (s.hostAddr off) (Config.eccPlace h) none).hostFail cEcc off false

/-- A read or posted write through the aperture (R447). One that is no aligned scalar access acts byte by byte: the bytes of a write are
on their way one by one, and a read returns what has been read ahead of it at moments of their own (R223). -/
def State.aperture (s : State) (off len : Nat) (data : Option (List Byte)) : State :=
  match data with
  | some bs =>
    match s.hostHomes .store off bs.length false with
    | (.error f, t) => t.hostFail f.cause off true
    | (.ok hs, t) => if s.hostScalar off bs.length then t.storeHomes hs bs else t.postPieces [] 1 hs bs t.hostWho
  | none =>
    match s.hostHomes .load off len false with
    | (.error f, t) => t.hostFail f.cause off false
    | (.ok hs, t) =>
      if t.eccHomes hs then t.hostEcc off hs
      else t.respond (if s.hostScalar off len then t.rdHomes hs else earlyBytes t.host.pre false hs (t.rdHomes hs))

/-- The queue block that a virtual function reaches at an offset of its BAR0 (R445): the queue and the word. -/
def State.vfWord (s : State) (fn o : Nat) : Option (Nat × Nat) :=
  let q := o / 64
  let b := tget {} s.host.vf fn
  if o < 2 ^ 14 ∧ b.en ∧ (s.queue q).ctx = b.ctx then some (q, o % 64 / 8) else none

/-- A write of a register of control space by the host or the Root Core (R6, R445). -/
def State.hostWrite (s : State) (o : Nat) (v : Word) : State := s.regEvent o v (s.ctlWrite o v)

/-- A write of 8 bytes of a function's BAR0 (R445). -/
def State.barWrite (s : State) (fn o : Nat) (v : Word) : State :=
  if fn = 0 then s.hostWrite o v
  else match s.vfWord fn o with
    | some (q, 4) => s.regEvent (queueOff q 4) v (s.queueTail q v)
    | _ => s

/-- A read of 8 bytes of a function's BAR0 (R445). -/
def State.barRead (s : State) (fn o : Nat) : Word :=
  if fn = 0 then s.ctlRead o
  else match s.vfWord fn o with
    | some (q, w) => if w ∈ [0, 3, 4, 5] then (s.queue q).readWord w else 0
    | none => 0

/-- An access to the BAR0 of a function: 8 bytes at a multiple of 8 (R216). Any other access fails on function 0; on a virtual
function it reads 0, and a write is ignored (R445). -/
def State.bar0 (s : State) (fn o len : Nat) (data : Option (List Byte)) : State :=
  match data with
  | some bs =>
    if bs.length = 8 ∧ o % 8 = 0 then s.barWrite fn o (BitVec.ofNat 64 (leNat bs))
    else if fn = 0 then s.hostFail cBadpath o true else s
  | none =>
    if len = 8 ∧ o % 8 = 0 then s.respond (leBytes 8 (s.barRead fn o).toNat)
    else if fn = 0 then s.hostFail cBadpath o false else s.respond (List.replicate len 0)

/-- What the host has read ahead is spent: a later access comes after this one (R231, R233). -/
def State.hostSpent (s : State) : State := { s with host := { s.host with pre := [] } }

/-- An access of the host, by its offset. -/
def State.hostAccess (s : State) (off len : Nat) (data : Option (List Byte)) : State :=
  if off < 2 ^ 40 then s.aperture off len data
  else
    let o := off - 2 ^ 40
    if o / 2 ^ 24 ≤ 16 then s.bar0 (o / 2 ^ 24) (o % 2 ^ 24) len data else s

/-- HOST_APERTURE_ACCESS (R445–R447, R455, R456). -/
def execHostApertureAccess (off len : Nat) (data : Option (List Byte)) (s : State) : Host.Outcome State Fault Refusal :=
  match data with
  | none => .next (if s.isFrozen then s.respond [] else (s.hostAccess off len none).hostSpent)
  | some bs =>
    if s.isFrozen then .next s
    else match s.decision 0 0 255 (off :: bs.map (·.toNat)) with
      | some t => .next (t.hostAccess off len (some bs)).hostSpent
      | none => .next s

/-- Whether the leaf of an address lets host AtomicOps through (R234). -/
def State.hostAtomicPage (s : State) (c : Nat) (a : Word) : Bool :=
  match (s.translate 0 c (addrVa a) (s.walkPre (s.hostVia .atomic))).1 with
  | .ok t => t.sa
  | .error _ => false

/-- The size of an AtomicOp that the port completes (R445): FetchAdd and Swap of 4 or 8 bytes, CAS of 4 or 8. -/
def hostAtomicSize : AccOp → Option Nat
  | .atom op n _ => if (op = 0 ∨ op = 8) ∧ (n = 4 ∨ n = 8) then some n else none
  | .cas n _ _ => if n = 4 ∨ n = 8 then some n else none
  | .store _ => none

/-- The word after an AtomicOp. -/
def hostAtomicNew (op : AccOp) (n m : Nat) : Nat :=
  match op with
  | .atom k _ v => atomNew k n m v.toNat
  | .cas _ new cmp => if m = cmp.toNat % 2 ^ (8 * n) then new.toNat % 2 ^ (8 * n) else m
  | .store _ => m

/-- HOST_ATOMICOP (R234, R445, R447). -/
def execHostAtomicop (off : Nat) (op : AccOp) (s : State) : Host.Outcome State Fault Refusal :=
  if s.isFrozen then .next (s.respond [])
  else match hostAtomicSize op with
    | none => .next (s.hostFail cSysatom off false)
    | some n =>
      if s.host.apmode = false then .next (s.hostFail cSysatom off false)
      else match s.hostHomes .atomic off n true with
        | (.error f, t) => .next (t.hostFail f.cause off false)
        | (.ok hs, t) =>
          if t.hostAtomicPage t.host.apctx (t.hostAddr off) = false then .next (t.hostFail cSysatom off false)
          else if t.eccHomes hs then .next (t.hostEcc off hs)
          else
            let m := leNat (t.rdHomes hs)
            .next ((t.storeHomes hs (leBytes n (hostAtomicNew op n m))).respond (leBytes n m)).hostSpent

/-- REGISTER_WRITE (R6, R445): a write of 8 bytes of BAR0 of a function. -/
def execRegisterWrite (off : Nat) (v : Word) (s : State) : Host.Outcome State Fault Refusal :=
  if s.isFrozen ∨ 17 ≤ off / 2 ^ 24 ∨ off % 8 ≠ 0 then .next s
  else match s.decision 0 0 255 [off, v.toNat] with
    | some t => .next (t.barWrite (off / 2 ^ 24) (off % 2 ^ 24) v).hostSpent
    | none => .next s

end Sys2Proof.Machine
end

