-- ==== Sys2Proof/Machine/Integer.lean ====
section
/-!
DEFINITION. Integer, compare, select and move instructions (R123–R128), on a pass and on a control core (R262).
-/
namespace Sys2Proof.Machine

/-- ADD (R124). -/
def execAdd (f : FmtA) (s : State) := scalarWord (.add f) f s fun a b _ => a + b
/-- SUB (R124). -/
def execSub (f : FmtA) (s : State) := scalarWord (.sub f) f s fun a b _ => a - b
/-- MUL (R124). -/
def execMul (f : FmtA) (s : State) := scalarWord (.mul f) f s fun a b _ => a * b
/-- Bits [127:64] of the signed product (R124). -/
def mulHigh (a b : Word) : Word := BitVec.ofInt 64 (a.toInt * b.toInt / 2 ^ 64)
/-- MULH (R124). -/
def execMulh (f : FmtA) (s : State) := scalarWord (.mulh f) f s fun a b _ => mulHigh a b
/-- Bits [127:64] of the unsigned product (R124). -/
def mulHighU (a b : Word) : Word := BitVec.ofNat 64 (a.toNat * b.toNat / 2 ^ 64)
/-- MULHU (R124). -/
def execMulhu (f : FmtA) (s : State) := scalarWord (.mulhu f) f s fun a b _ => mulHighU a b
/-- The unsigned quotient; all ones for division by zero (R124). -/
def divU (a b : Word) : Word := if b = 0 then BitVec.allOnes 64 else BitVec.ofNat 64 (a.toNat / b.toNat)
/-- DIVU (R124). -/
def execDivu (f : FmtA) (s : State) := scalarWord (.divu f) f s fun a b _ => divU a b
/-- The unsigned remainder; the dividend for division by zero (R124). -/
def remU (a b : Word) : Word := if b = 0 then a else BitVec.ofNat 64 (a.toNat % b.toNat)
/-- REMU (R124). -/
def execRemu (f : FmtA) (s : State) := scalarWord (.remu f) f s fun a b _ => remU a b
/-- AND (R124). -/
def execAnd (f : FmtA) (s : State) := scalarWord (.and f) f s fun a b _ => a &&& b
/-- OR (R124). -/
def execOr (f : FmtA) (s : State) := scalarWord (.or f) f s fun a b _ => a ||| b
/-- XOR (R124). -/
def execXor (f : FmtA) (s : State) := scalarWord (.xor f) f s fun a b _ => a ^^^ b
/-- ANDN (R124). -/
def execAndn (f : FmtA) (s : State) := scalarWord (.andn f) f s fun a b _ => a &&& ~~~ b
/-- SHL (R124): b[63:6] are ignored. -/
def execShl (f : FmtA) (s : State) := scalarWord (.shl f) f s fun a b _ => a <<< fld b 0 6
/-- SHR (R124). -/
def execShr (f : FmtA) (s : State) := scalarWord (.shr f) f s fun a b _ => a >>> fld b 0 6
/-- SRA (R124). -/
def execSra (f : FmtA) (s : State) := scalarWord (.sra f) f s fun a b _ => a.sshiftRight (fld b 0 6)
/-- MIN, signed (R124). -/
def execMin (f : FmtA) (s : State) := scalarWord (.min f) f s fun a b _ => if b.slt a then b else a
/-- MAX, signed (R124). -/
def execMax (f : FmtA) (s : State) := scalarWord (.max f) f s fun a b _ => if a.slt b then b else a
/-- MINU (R124). -/
def execMinu (f : FmtA) (s : State) := scalarWord (.minu f) f s fun a b _ => if b.ult a then b else a
/-- MAXU (R124). -/
def execMaxu (f : FmtA) (s : State) := scalarWord (.maxu f) f s fun a b _ => if a.ult b then b else a
/-- CMP.cc (R125). -/
def execCmp (f : FmtA) (s : State) :=
  scalarWord (.cmp f) f s fun a b _ => BitVec.ofNat 64 (b2n (condHolds f.f1.toNat a b))
/-- SEL (R125, R138). -/
def execSel (f : FmtA) (s : State) := copyWord (.sel f) f s fun _ _ c => c != 0
/-- MOV (R125, R138). -/
def execMov (f : FmtA) (s : State) := copyWord (.mov f) f s fun _ _ _ => true

/-- The number of leading zero bits of the low `n` bits of a value (R126). -/
def leadingZeros (x : Nat) : Nat → Nat
  | 0 => 0
  | n + 1 => if x.testBit n then 0 else 1 + leadingZeros x n
/-- The number of set bits among the low `n` bits of a value (R126). -/
def popCount (x : Nat) : Nat → Nat
  | 0 => 0
  | n + 1 => b2n (x.testBit n) + popCount x n
/-- CLZ (R126). -/
def execClz (f : FmtA) (s : State) := scalarWord (.clz f) f s fun a _ _ => BitVec.ofNat 64 (leadingZeros a.toNat 64)
/-- POPC (R126). -/
def execPopc (f : FmtA) (s : State) := scalarWord (.popc f) f s fun a _ _ => BitVec.ofNat 64 (popCount a.toNat 64)

/-- BFX: the field at pos = b[5:0], of length b[11:6] + 1; bits above bit 63 read 0 (R127). -/
def bitExtract (a b : Word) : Word := BitVec.ofNat 64 (a.toNat / 2 ^ fld b 0 6 % 2 ^ (fld b 6 6 + 1))
/-- BFX (R127). -/
def execBfx (f : FmtA) (s : State) := scalarWord (.bfx f) f s fun a b _ => bitExtract a b
/-- BFI: the low bits of `c` replace the field; bits beyond bit 63 are discarded (R127). -/
def bitInsert (a b c : Word) : Word :=
  let mask := BitVec.ofNat 64 ((2 ^ (fld b 6 6 + 1) - 1) * 2 ^ fld b 0 6)
  (a &&& ~~~ mask) ||| ((c <<< fld b 0 6) &&& mask)
/-- BFI (R127). -/
def execBfi (f : FmtA) (s : State) := scalarWord (.bfi f) f s bitInsert

/-- The value LI writes (R104). -/
def liValue (f : FmtB) (x : Option Word) : Word :=
  match x with
  | some w => w
  | none => f.imm.signExtend 64
/-- LI (R104, R128). -/
def execLi (f : FmtB) (x : Option Word) (s : State) : Host.Outcome State Fault Refusal :=
  match s.cur with
  | .pass e sl =>
    match s.active e sl with
    | none => .next s
    | some a => .next (s.setPass e sl a (a.pass.wrP f.dst (liValue f x)))
  | .core d => .next (s.setCore d ((s.core d).wr f.dst (liValue f x)).adv)
  | .seq _ _ => .next (s.illegal (.li f x))

end Sys2Proof.Machine
end

