-- ==== Sys2Proof/Machine/Dispatch.lean ====
section
/-!
DEFINITION. One arm for each row of the table of operations and events: the meaning of the row.
-/
namespace Sys2Proof.Machine

/-- What an instruction of an agent, or a step of a unit, does to the package. -/
def exec (i : Instr) (s : State) : Host.Outcome State Fault Refusal :=
  match i with
  | .tokenArrival die unit tok sent => Sys2Proof.Machine.execTokenArrival die unit tok sent s
  | .loopArm e op => Sys2Proof.Machine.execLoopArm e op s
  | .loopHandOut e op => Sys2Proof.Machine.execLoopHandOut e op s
  | .overflowReinject die eng frame => Sys2Proof.Machine.execOverflowReinject die eng frame s
  | .firingIssue e slot => Sys2Proof.Machine.execFiringIssue e slot s
  | .passCommit e slot => Sys2Proof.Machine.execPassCommit e slot s
  | .passAbort e fid => Sys2Proof.Machine.execPassAbort e fid s
  | .pushLanding die unit tok rows tans => Sys2Proof.Machine.execPushLanding die unit tok rows tans s
  | .streamChunkTransfer owner n chunk => Sys2Proof.Machine.execStreamChunkTransfer owner n chunk s
  | .streamCompletion owner n => Sys2Proof.Machine.execStreamCompletion owner n s
  | .translationWalkComplete owner n => Sys2Proof.Machine.execTranslationWalkComplete owner n s
  | .rodAddArrival a => Sys2Proof.Machine.execRodAddArrival a s
  | .suspendedPassResume e fid => Sys2Proof.Machine.execSuspendedPassResume e fid s
  | .windowAccessArrival a => Sys2Proof.Machine.execWindowAccessArrival a s
  | .lockRequestDecide r => Sys2Proof.Machine.execLockRequestDecide r s
  | .woundArrival e fid name => Sys2Proof.Machine.execWoundArrival e fid name s
  | .lockReleaseArrival r => Sys2Proof.Machine.execLockReleaseArrival r s
  | .trapRecordEnqueue d r => Sys2Proof.Machine.execTrapRecordEnqueue d r s
  | .trapDelivery d => Sys2Proof.Machine.execTrapDelivery d s
  | .handlerTimeout d => Sys2Proof.Machine.execHandlerTimeout d s
  | .exitToken tok who => Sys2Proof.Machine.execExitToken tok who s
  | .instanceQuiesce k => Sys2Proof.Machine.execInstanceQuiesce k s
  | .stall d ctx => Sys2Proof.Machine.execStall d ctx s
  | .poolDispatch d => Sys2Proof.Machine.execPoolDispatch d s
  | .poolPriorityPromote d n => Sys2Proof.Machine.execPoolPriorityPromote d n s
  | .groupClearComplete d g => Sys2Proof.Machine.execGroupClearComplete d g s
  | .contextRunGrant c => Sys2Proof.Machine.execContextRunGrant c s
  | .teardownComplete c => Sys2Proof.Machine.execTeardownComplete c s
  | .quantumExpiry c => Sys2Proof.Machine.execQuantumExpiry c s
  | .hardDeadlineExpiry c => Sys2Proof.Machine.execHardDeadlineExpiry c s
  | .contextDrainComplete c => Sys2Proof.Machine.execContextDrainComplete c s
  | .hardPreemptComplete c => Sys2Proof.Machine.execHardPreemptComplete c s
  | .cmdLaunch q => Sys2Proof.Machine.execCmdLaunch q s
  | .cmdRodAdd q => Sys2Proof.Machine.execCmdRodAdd q s
  | .cmdRodWait q => Sys2Proof.Machine.execCmdRodWait q s
  | .cmdCopy q => Sys2Proof.Machine.execCmdCopy q s
  | .cmdColl q => Sys2Proof.Machine.execCmdColl q s
  | .cmdFence q => Sys2Proof.Machine.execCmdFence q s
  | .cmdMark q => Sys2Proof.Machine.execCmdMark q s
  | .lnchReservation e fid => Sys2Proof.Machine.execLnchReservation e fid s
  | .deviceQueuePost ctx inst post => Sys2Proof.Machine.execDeviceQueuePost ctx inst post s
  | .walkerInvComplete d => Sys2Proof.Machine.execWalkerInvComplete d s
  | .linkTrainAttemptDone d j ok => Sys2Proof.Machine.execLinkTrainAttemptDone d j ok s
  | .flitReceive d j flit => Sys2Proof.Machine.execFlitReceive d j flit s
  | .replayRequest d j => Sys2Proof.Machine.execReplayRequest d j s
  | .replayTimeout d j => Sys2Proof.Machine.execReplayTimeout d j s
  | .packetForward d j p => Sys2Proof.Machine.execPacketForward d j p s
  | .tokenPacket d j ctx p => Sys2Proof.Machine.execTokenPacket d j ctx p s
  | .remoteOpArrival d j ctx p => Sys2Proof.Machine.execRemoteOpArrival d j ctx p s
  | .rack ctx p => Sys2Proof.Machine.execRack ctx p s
  | .rfail ctx p => Sys2Proof.Machine.execRfail ctx p s
  | .creq ctx t p => Sys2Proof.Machine.execCreq ctx t p s
  | .cclr ctx t p => Sys2Proof.Machine.execCclr ctx t p s
  | .cdata ctx t p => Sys2Proof.Machine.execCdata ctx t p s
  | .cdone ctx t p => Sys2Proof.Machine.execCdone ctx t p s
  | .cbusy ctx t p => Sys2Proof.Machine.execCbusy ctx t p s
  | .creqResend d k n => Sys2Proof.Machine.execCreqResend d k n s
  | .cabt ctx t p => Sys2Proof.Machine.execCabt ctx t p s
  | .cack ctx t p => Sys2Proof.Machine.execCack ctx t p s
  | .abortAckTimeout ctx t gen => Sys2Proof.Machine.execAbortAckTimeout ctx t gen s
  | .collStepTimeout d k n => Sys2Proof.Machine.execCollStepTimeout d k n s
  | .recvPortTimeout e op port col => Sys2Proof.Machine.execRecvPortTimeout e op port col s
  | .pgtValidate ctx t => Sys2Proof.Machine.execPgtValidate ctx t s
  | .imageVerifyDone => Sys2Proof.Machine.execImageVerifyDone s
  | .resetRelease => Sys2Proof.Machine.execResetRelease s
  | .romTestsDone => Sys2Proof.Machine.execRomTestsDone s
  | .replayDivergence => Sys2Proof.Machine.execReplayDivergence s
  | .emit f => Sys2Proof.Machine.execEmit f s
  | .null f => Sys2Proof.Machine.execNull f s
  | .steer f x => Sys2Proof.Machine.execSteer f x s
  | .lgen f => Sys2Proof.Machine.execLgen f s
  | .dmnd f => Sys2Proof.Machine.execDmnd f s
  | .rels f => Sys2Proof.Machine.execRels f s
  | .keep f => Sys2Proof.Machine.execKeep f s
  | .colr f => Sys2Proof.Machine.execColr f s
  | .nop f => Sys2Proof.Machine.execNop f s
  | .exit f => Sys2Proof.Machine.execExit f s
  | .add f => Sys2Proof.Machine.execAdd f s
  | .sub f => Sys2Proof.Machine.execSub f s
  | .mul f => Sys2Proof.Machine.execMul f s
  | .mulh f => Sys2Proof.Machine.execMulh f s
  | .mulhu f => Sys2Proof.Machine.execMulhu f s
  | .divu f => Sys2Proof.Machine.execDivu f s
  | .remu f => Sys2Proof.Machine.execRemu f s
  | .and f => Sys2Proof.Machine.execAnd f s
  | .or f => Sys2Proof.Machine.execOr f s
  | .xor f => Sys2Proof.Machine.execXor f s
  | .andn f => Sys2Proof.Machine.execAndn f s
  | .shl f => Sys2Proof.Machine.execShl f s
  | .shr f => Sys2Proof.Machine.execShr f s
  | .sra f => Sys2Proof.Machine.execSra f s
  | .min f => Sys2Proof.Machine.execMin f s
  | .max f => Sys2Proof.Machine.execMax f s
  | .minu f => Sys2Proof.Machine.execMinu f s
  | .maxu f => Sys2Proof.Machine.execMaxu f s
  | .cmp f => Sys2Proof.Machine.execCmp f s
  | .sel f => Sys2Proof.Machine.execSel f s
  | .mov f => Sys2Proof.Machine.execMov f s
  | .clz f => Sys2Proof.Machine.execClz f s
  | .popc f => Sys2Proof.Machine.execPopc f s
  | .bfx f => Sys2Proof.Machine.execBfx f s
  | .bfi f => Sys2Proof.Machine.execBfi f s
  | .li f x => Sys2Proof.Machine.execLi f x s
  | .tdmk f => Sys2Proof.Machine.execTdmk f s
  | .tdget f => Sys2Proof.Machine.execTdget f s
  | .tdset f => Sys2Proof.Machine.execTdset f s
  | .tdadv f => Sys2Proof.Machine.execTdadv f s
  | .tdsub f => Sys2Proof.Machine.execTdsub f s
  | .fadd f => Sys2Proof.Machine.execFadd f s
  | .fsub f => Sys2Proof.Machine.execFsub f s
  | .fmul f => Sys2Proof.Machine.execFmul f s
  | .ffma f => Sys2Proof.Machine.execFfma f s
  | .fmin f => Sys2Proof.Machine.execFmin f s
  | .fmax f => Sys2Proof.Machine.execFmax f s
  | .fcmp f => Sys2Proof.Machine.execFcmp f s
  | .fcvt f => Sys2Proof.Machine.execFcvt f s
  | .frcp f => Sys2Proof.Machine.execFrcp f s
  | .frsq f => Sys2Proof.Machine.execFrsq f s
  | .vadd f => Sys2Proof.Machine.execVadd f s
  | .vsub f => Sys2Proof.Machine.execVsub f s
  | .vmul f => Sys2Proof.Machine.execVmul f s
  | .vfma f => Sys2Proof.Machine.execVfma f s
  | .vmin f => Sys2Proof.Machine.execVmin f s
  | .vmax f => Sys2Proof.Machine.execVmax f s
  | .vabs f => Sys2Proof.Machine.execVabs f s
  | .vneg f => Sys2Proof.Machine.execVneg f s
  | .vand f => Sys2Proof.Machine.execVand f s
  | .vor f => Sys2Proof.Machine.execVor f s
  | .vxor f => Sys2Proof.Machine.execVxor f s
  | .vshl f => Sys2Proof.Machine.execVshl f s
  | .vshr f => Sys2Proof.Machine.execVshr f s
  | .vsra f => Sys2Proof.Machine.execVsra f s
  | .vcmp f => Sys2Proof.Machine.execVcmp f s
  | .vsel f => Sys2Proof.Machine.execVsel f s
  | .vmsk f => Sys2Proof.Machine.execVmsk f s
  | .vcvt f => Sys2Proof.Machine.execVcvt f s
  | .vrcp f => Sys2Proof.Machine.execVrcp f s
  | .vrsq f => Sys2Proof.Machine.execVrsq f s
  | .vnrs f => Sys2Proof.Machine.execVnrs f s
  | .vexp2 f => Sys2Proof.Machine.execVexp2 f s
  | .vlog2 f => Sys2Proof.Machine.execVlog2 f s
  | .vtanh f => Sys2Proof.Machine.execVtanh f s
  | .vsumr f => Sys2Proof.Machine.execVsumr f s
  | .vmaxr f => Sys2Proof.Machine.execVmaxr f s
  | .vscan f => Sys2Proof.Machine.execVscan f s
  | .vbcst f => Sys2Proof.Machine.execVbcst f s
  | .vlsh f => Sys2Proof.Machine.execVlsh f s
  | .vperm f => Sys2Proof.Machine.execVperm f s
  | .vtrn f => Sys2Proof.Machine.execVtrn f s
  | .vqnt f => Sys2Proof.Machine.execVqnt f s
  | .vdqnt f => Sys2Proof.Machine.execVdqnt f s
  | .vaddc f => Sys2Proof.Machine.execVaddc f s
  | .vmulw f => Sys2Proof.Machine.execVmulw f s
  | .vtopk f => Sys2Proof.Machine.execVtopk f s
  | .mma f => Sys2Proof.Machine.execMma f s
  | .mmaq f => Sys2Proof.Machine.execMmaq f s
  | .mmax f => Sys2Proof.Machine.execMmax f s
  | .mmag f x => Sys2Proof.Machine.execMmag f x s
  | .mzro f => Sys2Proof.Machine.execMzro f s
  | .mldq f => Sys2Proof.Machine.execMldq f s
  | .mstq f => Sys2Proof.Machine.execMstq f s
  | .abxClr f => Sys2Proof.Machine.execAbxClr f s
  | .abxAdd f => Sys2Proof.Machine.execAbxAdd f s
  | .abxDot f => Sys2Proof.Machine.execAbxDot f s
  | .abxMrg f => Sys2Proof.Machine.execAbxMrg f s
  | .abxRnd f => Sys2Proof.Machine.execAbxRnd f s
  | .abxOut f => Sys2Proof.Machine.execAbxOut f s
  | .ldt f x => Sys2Proof.Machine.execLdt f x s
  | .stt f x => Sys2Proof.Machine.execStt f x s
  | .ldg f => Sys2Proof.Machine.execLdg f s
  | .stg f => Sys2Proof.Machine.execStg f s
  | .lds f => Sys2Proof.Machine.execLds f s
  | .sts f => Sys2Proof.Machine.execSts f s
  | .clrm f x => Sys2Proof.Machine.execClrm f x s
  | .ordj f => Sys2Proof.Machine.execOrdj f s
  | .fence f => Sys2Proof.Machine.execFence f s
  | .atom f x => Sys2Proof.Machine.execAtom f x s
  | .cas f x => Sys2Proof.Machine.execCas f x s
  | .redt f x => Sys2Proof.Machine.execRedt f x s
  | .rmtFaa f x => Sys2Proof.Machine.execRmtFaa f x s
  | .rmtSt f => Sys2Proof.Machine.execRmtSt f s
  | .rmtStt f x => Sys2Proof.Machine.execRmtStt f x s
  | .rmtFlag f => Sys2Proof.Machine.execRmtFlag f s
  | .rodAdd f => Sys2Proof.Machine.execRodAdd f s
  | .rodWait f => Sys2Proof.Machine.execRodWait f s
  | .rodRd f => Sys2Proof.Machine.execRodRd f s
  | .rodInit f => Sys2Proof.Machine.execRodInit f s
  | .rodInitFree f => Sys2Proof.Machine.execRodInitFree f s
  | .lkAcq f => Sys2Proof.Machine.execLkAcq f s
  | .lkUpg f => Sys2Proof.Machine.execLkUpg f s
  | .lkRel f => Sys2Proof.Machine.execLkRel f s
  | .lkRall f => Sys2Proof.Machine.execLkRall f s
  | .lkQry f => Sys2Proof.Machine.execLkQry f s
  | .lkmLd f => Sys2Proof.Machine.execLkmLd f s
  | .lkeSet f => Sys2Proof.Machine.execLkeSet f s
  | .lnch f => Sys2Proof.Machine.execLnch f s
  | .trig f => Sys2Proof.Machine.execTrig f s
  | .dseed f => Sys2Proof.Machine.execDseed f s
  | .dtget f => Sys2Proof.Machine.execDtget f s
  | .dtset f => Sys2Proof.Machine.execDtset f s
  | .dtzro f => Sys2Proof.Machine.execDtzro f s
  | .csSend f x => Sys2Proof.Machine.execCsSend f x s
  | .csSendG f x => Sys2Proof.Machine.execCsSendG f x s
  | .csRecv f x => Sys2Proof.Machine.execCsRecv f x s
  | .csRrs f x => Sys2Proof.Machine.execCsRrs f x s
  | .csCopy f x => Sys2Proof.Machine.execCsCopy f x s
  | .csWait f => Sys2Proof.Machine.execCsWait f s
  | .csLoop f => Sys2Proof.Machine.execCsLoop f s
  | .csPeer f => Sys2Proof.Machine.execCsPeer f s
  | .csEnd f => Sys2Proof.Machine.execCsEnd f s
  | .ld f => Sys2Proof.Machine.execLd f s
  | .st f => Sys2Proof.Machine.execSt f s
  | .br f => Sys2Proof.Machine.execBr f s
  | .jal f => Sys2Proof.Machine.execJal f s
  | .jalr f => Sys2Proof.Machine.execJalr f s
  | .csrr f => Sys2Proof.Machine.execCsrr f s
  | .csrw f => Sys2Proof.Machine.execCsrw f s
  | .csrs f => Sys2Proof.Machine.execCsrs f s
  | .csrc f => Sys2Proof.Machine.execCsrc f s
  | .trapc f => Sys2Proof.Machine.execTrapc f s
  | .eret f => Sys2Proof.Machine.execEret f s
  | .wfe f => Sys2Proof.Machine.execWfe f s
  | .gload f => Sys2Proof.Machine.execGload f s
  | .garm f => Sys2Proof.Machine.execGarm f s
  | .gdisarm f => Sys2Proof.Machine.execGdisarm f s
  | .inj f => Sys2Proof.Machine.execInj f s
  | .purge f => Sys2Proof.Machine.execPurge f s
  | .retryf f => Sys2Proof.Machine.execRetryf f s
  | .retryfFail f => Sys2Proof.Machine.execRetryfFail f s
  | .snap f => Sys2Proof.Machine.execSnap f s
  | .rstor f => Sys2Proof.Machine.execRstor f s
  | .qdrn f => Sys2Proof.Machine.execQdrn f s
  | .msrd f => Sys2Proof.Machine.execMsrd f s
  | .mswr f => Sys2Proof.Machine.execMswr f s
  | .accessAtHome a => Sys2Proof.Machine.execAccessAtHome a s
  | .tokenAtLinkPort die unit tok remote who => Sys2Proof.Machine.execTokenAtLinkPort die unit tok remote who s
  | .wordDecodeFault ag cause val => Sys2Proof.Machine.execWordDecodeFault ag cause val s
  | .groupReserve d g v => Sys2Proof.Machine.execGroupReserve d g v s
  | .groupFree d g v => Sys2Proof.Machine.execGroupFree d g v s
  | .contextAlloc c v => Sys2Proof.Machine.execContextAlloc c v s
  | .contextSoft c v => Sys2Proof.Machine.execContextSoft c v s
  | .contextHard c v => Sys2Proof.Machine.execContextHard c v s
  | .contextRelease c v => Sys2Proof.Machine.execContextRelease c v s
  | .contextRun c v => Sys2Proof.Machine.execContextRun c v s
  | .contextTear c v => Sys2Proof.Machine.execContextTear c v s
  | .contextRootWrite c v => Sys2Proof.Machine.execContextRootWrite c v s
  | .queueEnable q v => Sys2Proof.Machine.execQueueEnable q v s
  | .queueDisable q v => Sys2Proof.Machine.execQueueDisable q v s
  | .queueFlush q v => Sys2Proof.Machine.execQueueFlush q v s
  | .queueTailWrite q v => Sys2Proof.Machine.execQueueTailWrite q v s
  | .reckonerRelall d v => Sys2Proof.Machine.execReckonerRelall d v s
  | .walkerInv d v => Sys2Proof.Machine.execWalkerInv d v s
  | .linkTrain d j => Sys2Proof.Machine.execLinkTrain d j s
  | .linkDown d j => Sys2Proof.Machine.execLinkDown d j s
  | .hostApertureAccess off len data => Sys2Proof.Machine.execHostApertureAccess off len data s
  | .hostAtomicop off op => Sys2Proof.Machine.execHostAtomicop off op s
  | .mctpControlMessage msg => Sys2Proof.Machine.execMctpControlMessage msg s
  | .mctpReadRootBlock => Sys2Proof.Machine.execMctpReadRootBlock s
  | .mctpReadErrorLog => Sys2Proof.Machine.execMctpReadErrorLog s
  | .mctpReadSensors => Sys2Proof.Machine.execMctpReadSensors s
  | .attestationReportRequest nonce => Sys2Proof.Machine.execAttestationReportRequest nonce s
  | .packageReset => Sys2Proof.Machine.execPackageReset s
  | .freeze => Sys2Proof.Machine.execFreeze s
  | .boot => Sys2Proof.Machine.execBoot s
  | .capture => Sys2Proof.Machine.execCapture s
  | .replay => Sys2Proof.Machine.execReplay s
  | .capstop => Sys2Proof.Machine.execCapstop s
  | .powerWindow watts hot => Sys2Proof.Machine.execPowerWindow watts hot s
  | .debugStepWord d w x => Sys2Proof.Machine.execDebugStepWord d w x s
  | .registerWrite off v => Sys2Proof.Machine.execRegisterWrite off v s

end Sys2Proof.Machine
end

