-- ==== Sys2Proof/Machine/Clock.lean ====
section
/-!
DEFINITION. The package clock (R3, R13, R458) and what the units do in every cycle: issue slots become free to issue (R53), the cycles
since which colours are eligible (R55), the pool's dispatch and ready colours (R336–R338), the deadlock detectors (R319, R320), RECV port timers (R405),
and the look of the request tables and, under replay, of the Reckoners at what waits there (R410, R457).
-/
namespace Sys2Proof.Machine

/-- The eligible colours of an engine with the cycle since which each has been (R55). -/
def State.newElig (s : State) (e : Nat) : List (Nat × Nat × Nat) :=
  let x := s.engine e
  (s.eligibles e).map fun (op, c) => (op, c, ((x.elig.find? fun (p, k, _) => p == op && k == c).map (·.2.2)).getD s.clock.cyc)

/-- An engine at a new cycle (R53, R55). -/
def State.engineCycle (s : State) (e : Nat) : State :=
  let x := s.engine e
  s.setEngine e { x with mat := { x.mat with issued := false }, vec := { x.vec with issued := false }, elig := s.newElig e }

/-- The deadlock counter of a context after one more cycle (R319, R321). -/
def Detector.count (x : Detector) (c : Nat) : Detector :=
  let n := tget 0 x.cnt c
  { x with cnt := tset 0 x.cnt c (if n + 1 < 2 ^ 41 then n + 1 else n) }

/-- A die at a new cycle (R319, R320, R336, R338). -/
def State.dieCycle (s : State) (d : Nat) : State :=
  let u := s.units d
  let run := (s.ctxs.filter fun (_, x) => x.st == .running).map (·.1)
  (s.setUnits d { u with det := run.foldl Detector.count u.det }).poolTick d |>.each run fun c t => t.stallTest d c

/-- One arithmetic-clock cycle: the dispatchers that have not acted in the one that ends do so (R337), and a new one begins. -/
def State.cycle (s : State) : State :=
  let s1 := s.each (List.range 4) fun d t => t.poolCycle d
  let s0 := { s1 with clock := { s1.clock with cyc := s1.clock.cyc + 1, came := [] } }
  (s0.each (s0.eng.map (·.1)) fun e t => t.engineCycle e).each (List.range 4) fun d t => t.dieCycle d

/-- What the units that keep the tick do: RECV port timers (R405), request tables (R410), changes of kept maps whose turn has come
(R120), and the Reckoners under replay (R457). -/
def State.tickUnits (s : State) : State :=
  let s1 := s.each (s.eng.map (·.1)) fun e t => t.recvTimers e
  let s2 := (s1.each (List.range 4) fun d t => if (t.die d).reqs = [] then t else t.reqSweep d).keptTick
  if s2.root.cmode = 2 then s2.each (List.range 4) fun d t => t.lkRescan d else s2

/-- One tick of the package counter (R3, R13); the arithmetic clock runs at MULT / 32 of its rate (R458). The spec gives the rate
alone: DESIGN CHOICE (log 126), the cycles are spread evenly over the ticks, by a fraction that starts at 0 and that a change of MULT
keeps. -/
def State.clockTick (s : State) : State :=
  let f := s.clock.frac + s.root.mult
  let s1 := { s with clock := { s.clock with tick := s.clock.tick + 1, frac := f % 32 } }
  (if 32 ≤ f then s1.cycle else s1).tickUnits

end Sys2Proof.Machine
end

