-- ==== Sys2Proof/Machine/Fetch.lean ====
section
/-!
DEFINITION. What moves next and which event that move is: the schedule, the arrival of a message, the word that a pass
(R90, R92), a control core (R257, R262) or a collective program (R407) executes next, and the placing of one word for it.
-/
namespace Sys2Proof.Machine

/-- The event that a move turns out to be: a row of the table to run, a state with nothing to run, or a move of an
agent that does not exist. -/
inductive Sel where
  | run (i : Instr) (s : State)
  | stay (s : State)
  | bad
deriving Repr

/-- The next move: the head of the schedule, or the free choice where the schedule is empty. -/
def State.nextMove (s : State) : Move × State :=
  match s.sched with
  | m :: r => (m, { s with sched := r })
  | [] => (Config.nextMove s.choices, { s with choices := s.choices + 1 })

/-- Whether an event may come about by itself: an internal step that checks its own condition, or an input from
outside. Arrivals come only as messages, and words only from their agents. -/
def instrOccurs : Instr → Bool
  | .loopArm .. | .loopHandOut .. | .overflowReinject .. | .firingIssue .. | .streamChunkTransfer ..
  | .streamCompletion .. | .translationWalkComplete .. | .suspendedPassResume .. | .handlerTimeout ..
  | .instanceQuiesce .. | .stall .. | .poolDispatch .. | .poolPriorityPromote .. | .groupClearComplete ..
  | .groupReserve .. | .groupFree .. | .contextAlloc .. | .contextSoft .. | .contextHard .. | .contextRelease ..
  | .contextRun .. | .contextRunGrant .. | .contextTear .. | .teardownComplete .. | .quantumExpiry ..
  | .hardDeadlineExpiry .. | .contextDrainComplete .. | .hardPreemptComplete .. | .contextRootWrite ..
  | .queueEnable .. | .queueDisable .. | .queueFlush .. | .queueTailWrite .. | .cmdLaunch .. | .cmdRodAdd ..
  | .cmdRodWait .. | .cmdCopy .. | .cmdColl .. | .cmdFence .. | .cmdMark .. | .reckonerRelall .. | .walkerInv ..
  | .walkerInvComplete .. | .linkTrain .. | .linkDown .. | .linkTrainAttemptDone .. | .flitReceive ..
  | .replayTimeout .. | .creqResend .. | .abortAckTimeout .. | .collStepTimeout ..
  | .recvPortTimeout .. | .hostApertureAccess .. | .hostAtomicop .. | .mctpControlMessage .. | .mctpReadRootBlock
  | .mctpReadErrorLog | .mctpReadSensors | .attestationReportRequest .. | .packageReset | .freeze | .boot
  | .capture | .replay | .capstop | .replayDivergence | .powerWindow ..
  | .debugStepWord .. | .registerWrite .. | .lnchReservation .. => true
  | _ => false

/-! ## The word of a pass -/

/-- The pass whose word at index `j` of the body executes next: `idx`, `next` and the tangents in force (R195). -/
def Pass.at (p : Pass) (j n : Nat) (pref : Bool) : Pass :=
  { p with idx := j, next := j + n, kp := if p.all || pref then p.kfire else 0 }

/-- The instruction of the open pass at word `j` of its body, as the agent's next event (R90, R193). -/
def State.passWordAt (s : State) (e sl : Nat) (a : Active) (j : Nat) (pref : Bool) : Instr × State :=
  let x := s.engine e
  let base := (x.op a.fr.op).h.body
  let w := tget 0 x.t.body (base + j)
  let n := if wordXt w then 2 else 1
  let ext := if wordXt w then some (tget 0 x.t.body (base + j + 1)) else none
  let s1 := s.setPass e sl a (a.pass.at j n pref)
  match decodeWord w ext with
  | .ok i => (i, s1)
  | .error _ => (.wordDecodeFault (.pass e sl) cIllegal w, s1)

/-- The next event of an issue slot: the commit of a finished body, the next step of the word under way (R184), the next
word, the return of a satisfied pass (R349), or an issue (R50, R55, R92). A pass that waits in its slot does nothing until
its wait ends (R349), nor one that has read what is ordered behind effects that have not acted (R226). -/
def State.selectEngine (s : State) (e sl : Nat) : Sel :=
  let s0 := { s with cur := .pass e sl }
  match s0.active e sl with
  | none =>
    let x := s0.engine e
    match x.ready.find? fun a => decide ((x.op a.fr.op).h.cls = sl) with
    | some a => .run (.suspendedPassResume e a.fr.uid) s0
    | none => .run (.firingIssue e sl) s0
  | some a =>
    let x := s0.engine e
    let op := x.op a.fr.op
    if a.pass.wait ≠ .none then .stay s0
    else if a.pass.after ≠ [] then
      .stay (if s0.depsDone a.pass.after then s0.setPass e sl a { a.pass with after := [] } else s0)
    else if a.pass.step ≠ 0 then
      let (i, s1) := s0.passWordAt e sl a a.pass.idx (decide (a.pass.kp ≠ 0))
      .run i s1
    else if a.pass.done ∨ op.h.blen < a.pass.next then .run (.passCommit e sl) s0
    else
      let w := tget 0 x.t.body (op.h.body + a.pass.next)
      let (i, s1) :=
        if wordMaj w = 0x3E then s0.passWordAt e sl a (a.pass.next + 1) true
        else s0.passWordAt e sl a a.pass.next false
      .run i s1

/-! ## The word of a control core -/

/-- Whether every register field of a word names a g register (R98). -/
def gOk (l : List Spec) : Bool := l.all fun x => decide (x.toNat < 32)

/-- Whether a control core accepts the word (R98, R100, R261, R262). -/
def coreWordOk : Instr → Bool
  | .add f | .sub f | .mul f | .mulh f | .mulhu f | .divu f | .remu f | .and f | .or f | .xor f | .andn f | .shl f
  | .shr f | .sra f | .min f | .max f | .minu f | .maxu f | .cmp f | .sel f | .mov f | .clz f | .popc f | .bfx f
  | .bfi f => gOk [f.dst, f.sa, f.sb, f.sc]
  | .li f _ => gOk [f.dst]
  | .rodAdd f | .rodWait f | .rodRd f | .rodInit f | .rodInitFree f => gOk [f.dv, f.sa, f.sb]
  | .ld f | .st f => gOk [f.gd, f.ga]
  | .br f => gOk [f.ga, f.gb]
  | .jal f | .jalr f => gOk [f.gd, f.ga]
  | .csrr f | .csrw f | .csrs f | .csrc f => gOk [f.gd, f.ga]
  | .trapc f | .eret f | .wfe f | .gload f | .garm f | .gdisarm f | .inj f | .purge f | .retryf f | .retryfFail f
  | .snap f | .rstor f | .qdrn f | .msrd f | .mswr f => gOk [f.gd, f.ga, f.gb, f.gc]
  | _ => false

/-- The 8 bytes that a core fetches at an address, under the rules of a load (R257). -/
def State.fetchWord (s : State) (d : Nat) (a : Word) : Except Failure Word × State :=
  if addrPath a = 0xF then
    (match ctlFault (s.core d) 3 a none with
    | some cause => .error ⟨cause, a, 0⟩
    | none => .ok (s.ctlRead (fld a 0 60)), s)
  else match s.resolve (s.coreVia d .fetch) [0x0, 0x1, 0x2, 0x8, 0x9] a 8 false with
  | (.error f, s1) => (.error f, s1)
  | (.ok hs, s1) =>
    if s1.eccHomes hs then (.error ⟨cEcc, a, Config.eccPlace (hs.headD 0)⟩, s1)
    else if addrPath a = 1 then (.ok (BitVec.ofNat 64 (leNat (s1.rdConst (288 + d) (s1.core d).acq hs))), s1)
    else (.ok (BitVec.ofNat 64 (leNat (s1.coreView d hs (s1.rdHomes hs)))), s1)

/-- Whether a word of a core acts only after every earlier access of the core (R264). -/
def waitsForAll (w : Word) : Bool := decide (0x33 ≤ wordMaj w) && decide (wordMaj w ≤ 0x36)

/-- The event that a word of a core is: its instruction, or ILLEGAL at decode; none yet for a word that waits for the core's earlier
accesses (R264), after which no load returns what was read ahead of it. Those of a frozen package never act (R455). `len` is added to PC for the word after it. -/
def State.coreEvent (s : State) (d : Nat) (w : Word) (x : Option Word) (len : Nat) : Sel :=
  let c := s.core d
  if waitsForAll w ∧ s.corePend d ≠ [] ∧ s.isFrozen = false then .stay s
  else
  let s1 := s.setCore d { c with npc := c.pc + BitVec.ofNat 64 len, step := none, pre := if waitsForAll w then [] else c.pre }
  match decodeWord w x with
  | .ok i => if coreWordOk i then .run i s1 else .run (.wordDecodeFault (.core d) cIllegal w) s1
  | .error _ => .run (.wordDecodeFault (.core d) cIllegal w) s1

/-- The next event of a control core: nothing while it is not released, halted, or frozen without a fed word (R258,
R277, R455); the delivery of a record (R276); the handler limit (R277); nothing while it idles in WFE (R267);
else the word at PC, or the word fed through the step instrument. -/
def State.selectCore (s : State) (d : Nat) : Sel :=
  let s0 := { s with cur := .core d }
  let x := s0.die d
  let c := x.core
  if c.halted then .stay s0
  else if c.after ≠ [] ∧ s0.isFrozen = false then .stay (if s0.depsDone c.after then s0.setCore d { c with after := [] } else s0)
  else
    match c.step with
    | some (w, e) => s0.coreEvent d w (if wordXt w then some e else none) 0
    | none =>
      if c.run = false ∨ s0.isFrozen then .stay s0
      else if s0.mayDeliver d then .run (.trapDelivery d) s0
      else if s0.handlerLate d then .run (.handlerTimeout d) s0
      else if c.wfe ∧ c.csr.pend = false ∧ ¬ (x.trapq ≠ [] ∧ c.csr.ie) then .stay s0
      else
        match c.held with
        | some w => s0.coreEvent d w none 8
        | none => match s0.fetchWord d c.pc with
        | (.error f, s1) => .run (.wordDecodeFault (.core d) f.cause f.addr) s1
        | (.ok w, s1) =>
          let s2 := s1.setCore d { s1.core d with wfe := false }
          if wordXt w then
            match s2.fetchWord d (c.pc + 8) with
            | (.error f, s3) => .run (.wordDecodeFault (.core d) f.cause f.addr) s3
            | (.ok e, s3) => s3.coreEvent d w (some e) 16
          else s2.coreEvent d w none 8

/-! ## The word of a collective program -/

/-- Whether a specifier names a register of a collective program (R407). -/
def progSpecOk (x : Spec) : Bool := decide (x.toNat < 16) || x.toNat == 56 || x.toNat == 59 || x.toNat == 61

/-- Whether a sequencer accepts the word (R100, R407). -/
def seqWordOk : Instr → Bool
  | .csSend f _ | .csSendG f _ | .csRecv f _ | .csRrs f _ | .csCopy f _ | .csWait f | .csLoop f | .csPeer f
  | .csEnd f => [f.dst, f.sa, f.sb, f.sc].all progSpecOk
  | _ => false

/-- The next event of a sequencer program: nothing while its context is not RUNNING or it has been stopped (R284);
else the word at its word index; running past the last word is an illegal word (R419). -/
def State.selectSeq (s : State) (d k : Nat) : Sel :=
  let s0 := { s with cur := .seq d k }
  match s0.prog d k with
  | none => .stay s0
  | some p =>
    if p.stop ∨ (s0.ctx p.ctx).st ≠ .running then .stay s0
    else
      match p.words[p.pc]? with
      | none => .run (.wordDecodeFault (.seq d k) cIllegal 0) s0
      | some w =>
        let ext := if wordXt w then p.words[p.pc + 1]? else none
        let s1 := s0.setProg d k (some { p with npc := p.pc + (if wordXt w then 2 else 1) })
        if wordXt w ∧ ext = none then .run (.wordDecodeFault (.seq d k) cIllegal w) s1
        else
          match decodeWord w ext with
          | .ok i => if seqWordOk i then .run i s1 else .run (.wordDecodeFault (.seq d k) cIllegal w) s1
          | .error _ => .run (.wordDecodeFault (.seq d k) cIllegal w) s1

/-! ## Moves -/

/-- Whether an event concerns the Root Core or the debug port, which a freeze leaves running (R455). -/
def frozenRuns : Instr → Bool
  | .packageReset | .debugStepWord .. | .mctpControlMessage .. | .mctpReadRootBlock | .mctpReadErrorLog
  | .mctpReadSensors | .attestationReportRequest .. | .hostApertureAccess .. | .hostAtomicop .. | .freeze => true
  | _ => false

/-- Whether a message is the token that the last pass of a run firing sent on an output, while the next pass runs in its slot: it
leaves with what that pass joins to it (R35; log entry 49). -/
def State.joining (s : State) (id : Nat) : Bool :=
  s.eng.any fun (_, x) => [x.mat, x.vec].any fun y =>
    match y.act with
    | some a => decide (a.pass.wait = .none) && a.fr.sent.any fun (_, n) => n == id
    | none => false

/-! ## Requests of one cycle -/

/-- The taker, its number and the rank of a command that a register write gives: of one to the allocator the number of the group (R329),
of a TEAR the first of all that reach the command processor (R291). -/
def ctlCommand (off : Nat) (v : Word) : Option (Nat × Nat × Nat) :=
  match ctlReg off with
  | some (.group d g 0) => if fld v 16 4 = 0 then none else some (4, 0, 72 * d + g)
  | some (.ctx _ 0) => if fld v 8 4 = 6 then some (1, 0, 0) else none
  | _ => none

/-- The member number of an engine (R333). -/
def State.memberNo (s : State) (e : Nat) : Nat := ((s.groupOf e).map (·.2)).getD 0

/-- The key of an access of engine `e` at the banks of engine `b` (R333): the owner's own first, then window messages by member. -/
def State.bankKey (s : State) (e b : Nat) : Nat × Nat × Nat := (5, b, if b = e then 0 else 1 + s.memberNo e)

/-- The engine whose banks the memory side of a piece of a stream is at: a member's through the window, else its own (R332). -/
def State.pieceBank (s : State) (x : Stream) (p : Nat) : Nat :=
  let far := s.descEngine x.eng x.q.desc
  let (ad, _) := s.pieceSpan x.who.ctx x.q p
  if addrPath ad = 0xB then
    (match (s.byteHome (x.via false) ad).1 with
    | .ok h => (homeEngine h).getD x.eng
    | .error _ => x.eng)
  else far

/-- The engine whose banks the next word of a pass reads: a member's through the window (LDS, and a source descriptor with LOC = 1), else
its own (R332). -/
def State.wordBank (s : State) (e : Nat) (a : Active) (i : Instr) : Nat :=
  match i with
  | .lds f =>
    let ad := a.pass.memAddr s.tick f
    if addrPath ad = 0xB then (match s.groupOf e with
      | some (g, _) => (s.member (e / 72) g (fld ad 20 4)).getD e
      | none => e) else e
  | _ =>
    if 0x10 ≤ wordMaj (wordOf i) ∧ wordMaj (wordOf i) < 0x20 then
      (((operandsOf i).filterMap fun (k, x) => if k = .addr then some (s.descEngine e (a.pass.rd s.tick x)) else none).find? (· != e)).getD e
    else e

/-- What takes an event whose rank among those of one cycle the spec gives, its number, and the rank: 0 the trap queue of a die
(R275), 1 the reservations and posts of the command processor, which a TEAR comes before (R291, R302), 2 and 3 the starts and the ends
of a kernel (R310, R324), 4 the group allocator (R329), 5 the banks of an engine, whose own accesses have rank 0 (R333), 6 the other rods
(R353), 7 the Reckoner of a die (R356; log 127). -/
def State.orderKey (s : State) (i : Instr) : Option (Nat × Nat × Nat) :=
  let own : Option (Nat × Nat × Nat) := match s.cur with
    | .pass e sl => some (s.bankKey e (((s.active e sl).map fun a => s.wordBank e a i).getD e))
    | _ => none
  match i with
  | .trapRecordEnqueue d r => some (0, d, 256 * r.die + r.unit)
  | .lnchReservation e _ => some (1, 0, 1 + e)
  | .deviceQueuePost _ _ p => some (1, 0, 1 + p.eng)
  | .contextTear _ _ => some (1, 0, 0)
  | .cmdLaunch q => (match s.headCmd (s.queue q) with
    | .ok w => (s.kidKernel (s.queue q).ctx (launchKid w)).map fun k => (2, k, 0)
    | .error _ => none)
  | .garm f => (match s.cur with
    | .core d => (s.handleKernel d ((s.core d).rd f.ga)).map fun k => (2, k, 1)
    | _ => none)
  | .purge f => (match s.cur with
    | .core d =>
      let a := (s.core d).rd f.ga
      if ((s.core d).rd f.gb).getLsbD 63 then none else (s.instKernel (fld a 8 6) (fld a 0 8)).map fun k => (3, k, 0)
    | _ => none)
  | .exitToken t _ => (s.instKernel (tokCtx t) (fld (tokPay t) 0 8)).map fun k => (3, k, 1)
  | .groupReserve d g _ => some (4, 0, 72 * d + g)
  | .groupFree d g _ => some (4, 0, 72 * d + g)
  | .registerWrite off v => if off / 2 ^ 24 = 0 then ctlCommand (off % 2 ^ 24) v else none
  | .hostApertureAccess off _ (some bs) =>
    if 2 ^ 40 ≤ off ∧ (off - 2 ^ 40) / 2 ^ 24 = 0 then ctlCommand ((off - 2 ^ 40) % 2 ^ 24) (BitVec.ofNat 64 (leNat bs)) else none
  | .st f => (match s.cur with
    | .core d =>
      let a := cmAddr f (s.core d)
      if addrPath a = 0xF then ctlCommand (fld a 0 60) ((s.core d).rd f.gd) else none
    | _ => none)
  | .windowAccessArrival a => (homeEngine (a.homes.headD 0)).map fun e => (5, e, 1 + s.memberNo (72 * a.who.die + a.who.unit))
  | .accessAtHome a => (homeEngine (a.homes.headD 0)).map fun e => (5, e, 0)
  | .streamChunkTransfer e n p =>
    if e < 288 then some (((s.stream e n).map fun x => s.bankKey e (s.pieceBank x p)).getD (5, e, 0)) else none
  | .rodAddArrival a =>
    if rodKind a.ref = 0 then some (s.bankKey (72 * a.who.die + a.who.unit) (rodEngine a.ref))
    else some (6, rodKey a.ref a.home, 1 + 256 * a.who.die + a.who.unit)
  | .lockRequestDecide r => some (7, lockHome r.name, 1 + r.eng)
  | .passCommit e _ => some (5, e, 0)
  | .firingIssue .. | .suspendedPassResume .. => none
  | _ => own

/-- Whether a request with the key has come too late in its cycle: its taker has taken one of a higher rank. It is taken in a later
cycle. -/
def State.outOfTurn (s : State) (k : Nat × Nat × Nat) : Bool :=
  s.clock.came.any fun (c, n, r) => c == k.1 && n == k.2.1 && decide (k.2.2 < r)

/-- Whether an event comes too late in its cycle. -/
def State.late (s : State) (i : Instr) : Bool := (s.orderKey i).any s.outOfTurn

/-- Whether the accesses that follow an event at the command processor, a sequencer or a link port may come after another agent's effects:
their walks read the page table afresh (R385, R226). -/
def readsAfresh : Instr → Bool
  | .cmdRodWait _ | .cmdFence _ | .csWait _ | .csRecv .. | .csRrs .. | .flitReceive .. | .queueTailWrite .. | .registerWrite ..
  | .hostApertureAccess .. | .hostAtomicop .. | .deviceQueuePost .. | .st _ => true
  | _ => false

/-- Before such an event, what the walkers have read for agents that are no engine and no core is void. -/
def State.afresh (s : State) (i : Instr) : State :=
  if readsAfresh i ∧ (s.dies.any fun p => p.2.u.walk.pre != []) then
    s.each (s.dies.map (·.1)) fun d t => t.setUnits d { t.units d with walk := { (t.units d).walk with pre := [] } }
  else s

/-- The state in which an event acts in its turn: one of a rank above 0 is noted for the rest of the cycle. -/
def State.noted (s : State) (i : Instr) : State :=
  match s.orderKey i with
  | none => s
  | some k => if k.2.2 = 0 then s else { s with clock := { s.clock with came := k :: s.clock.came } }

/-- An event in its turn; one that comes too late in its cycle waits (R275, R302, R310, R324, R329, R333, R353, R356). -/
def State.inTurn (s : State) (x : Sel) : Sel :=
  match x with
  | .run i t => if t.late i then .stay s else .run i ((t.afresh i).noted i)
  | y => y

/-- Whether an atomic on its way may act: it reads its word, and sees first what comes before that for an observer (R222, R226). -/
def State.readsFree (s : State) (i : Instr) : Bool :=
  let free := fun (a : Access) => (match a.op with | .store _ => true | _ => s.seen a.who.party a.acq (byteKeys a.homes) == [])
  match i with
  | .accessAtHome a => free a
  | .windowAccessArrival a => free a
  | _ => true

/-- The chunk of a virtual address that a unit's path 0x1 reads would map, with the address space (R230, R259). -/
def State.constHome (s : State) (unit chunk : Nat) : Option (Nat × Nat) :=
  let c := if unit < 288 then some (s.engineCtx unit) else (s.coreVia (unit - 288) .load).ctx
  match c with
  | none => if chunk < 2 ^ 33 then some (64, chunk) else none
  | some n =>
    if 64 ≤ n then none
    else match s.walk (s.ctx n).r.root.toNat (64 * chunk) with
      | .ok t => if (leafCheck t 1 .load false).isNone then some (n, (t.pa + (64 * chunk - t.base)) / 64) else none
      | .error _ => none

/-- A unit keeps a chunk as it is now, for path 0x1 reads to come (R230). -/
def State.keepConst (s : State) (unit chunk : Nat) : State :=
  let d := if unit < 288 then unit / 72 else unit - 288
  match s.constHome unit chunk with
  | none => s
  | some (c, h) =>
    let u := s.units d
    let k : ConstChunk := { unit := unit, ctx := c, va := chunk, home := h, t0 := s.nextId, bytes := s.rdBytes (hbmHome (64 * h)) 64 }
    s.setUnits d { u with walk := { u.walk with cbuf := k :: u.walk.cbuf } }

/-- Chunk `n` of those that the units of a die have kept is the one that its unit's reads return, of several of one home (R230). -/
def State.pickConst (s : State) (d n : Nat) : State :=
  let u := s.units d
  match u.walk.cbuf[n]? with
  | some k => s.setUnits d { u with walk := { u.walk with cbuf := k :: u.walk.cbuf.eraseIdx n } }
  | none => s

/-- The homes, of the 64 bytes that begin at the 8-byte word `w`, that `mask` picks. -/
def earlyHomes (w mask : Nat) : List Nat := ((List.range 64).filter fun i => mask.testBit i).map fun i => 8 * w + i

/-- Bytes `bs` at homes are read ahead of what is to return them, all at one moment. -/
def State.readEarly (s : State) (pre : List PreByte) (hs : List Nat) (bs : List Byte) : List PreByte :=
  let n := (pre.map (·.t0)).foldl Nat.max 0 + 1
  if s.eccHomes hs then pre
  else forget pre hs ++ (hs.zip bs).map fun (h, b) => { home := h, t0 := n, b := b, cyc := s.clock.cyc }

/-- What an instrument of the debug port reads (R449). -/
def State.probed (s : State) : Probe → List Byte
  | .mem h n => s.rdBytes h n
  | .reg o => leBytes 8 (s.ctlRead o).toNat
  | .core d n => leBytes 8 (if n < 32 then (s.core (d % 4)).rd (BitVec.ofNat 6 n) else (s.core (d % 4)).pc).toNat

/-- What a move does in a package that is not frozen: nothing in one that is (R455). -/
def State.live (s t : State) : State := if s.isFrozen then s else t

/-- Whether bytes of a posted write of the host are on their way to memory (R223). -/
def State.hostBusy (s : State) : Bool :=
  s.pend.any fun m => match m.ev with
    | .accessAtHome a => a.who.unit == 253
    | _ => false

/-- Whether an event is an access of the host, which comes after its earlier posted writes (R231, R233). -/
def hostEvent (i : Instr) : Bool :=
  (outsideWrite i).isSome || match i with
  | .hostApertureAccess .. | .hostAtomicop .. | .registerWrite .. => true
  | _ => false

/-- An event comes about by itself: one that is a write of a register by the host is a recorded decision (R456). -/
def State.occurs (s : State) (i : Instr) : Sel :=
  match outsideWrite i with
  | none => .run i s
  | some (o, v) => match s.decision 0 0 255 [o, v.toNat] with
    | some t => .run i t
    | none => .stay s

/-- The event that a move is, whatever the turn of it. A frozen package moves only in its Root Core, its debug port and the words fed
to its cores (R455). -/
def State.moveEvent (s : State) (m : Move) : Sel :=
  match m with
  | .clock => if s.isFrozen then .stay s else .stay s.clockTick
  | .deliver n =>
    match s.pend[n]? with
    | none => .stay s
    | some g =>
      let rest := { s with pend := s.pend.eraseIdx n, arr := g.id }
      if s.isFrozen ∧ frozenRuns g.ev = false then .stay s
      else if s.joining g.id then .stay s
      else if rest.depsDone g.deps ∧ rest.readsFree g.ev then .run g.ev rest else .stay s
  | .occur i =>
    if instrOccurs i = false ∨ (s.isFrozen ∧ frozenRuns i = false) ∨ (hostEvent i ∧ s.hostBusy ∧ s.isFrozen = false) then .stay s
    else s.occurs i
  | .engine e sl =>
    if 288 ≤ e ∨ 2 ≤ sl then .bad else if s.isFrozen then .stay s else s.selectEngine e sl
  | .core d => if 4 ≤ d then .bad else s.selectCore d
  | .seq d k => if 4 ≤ d ∨ 8 ≤ k then .bad else if s.isFrozen then .stay s else s.selectSeq d k
  | .evict d n =>
    if 4 ≤ d then .bad
    else
      let u := s.units d
      .stay (s.live (s.setUnits d { u with walk := { u.walk with stc := u.walk.stc.eraseIdx n } }))
  | .constFill unit chunk =>
    if 292 ≤ unit then .bad else .stay (s.live (s.keepConst unit (chunk % 2 ^ 42)))
  | .constPick d n => if 4 ≤ d then .bad else .stay (s.live (s.pickConst d n))
  | .early e sl w mask =>
    let hs := earlyHomes w mask
    if 297 ≤ e then .bad
    else if 293 ≤ e then
      let u := s.units (e - 293)
      .stay (s.live (s.setUnits (e - 293) { u with walk := { u.walk with pre := s.readEarly u.walk.pre hs (s.rdHomes hs) } }))
    else if e = 292 then .stay (s.live { s with host := { s.host with pre := s.readEarly s.host.pre hs (s.rdHomes hs) } })
    else if e < 288 then
      .stay (s.live (if 2 ≤ sl then (match s.stream e (sl - 2) with
        | some x =>
          (match x.phase with
          | .walking _ _ =>
            if s.walkServed x then s.setStream e x.n (some { x with pre := s.readEarly x.pre hs (s.rdHomes hs) }) else s
          | _ => s)
        | none => s)
      else match s.active e sl with
        | some a => if a.pass.after = [] then s.setPass e sl a { a.pass with pre := s.readEarly a.pass.pre hs (s.rdHomes hs) } else s
        | none => s))
    else
      let c := s.core (e - 288)
      .stay (s.live (if c.after = [] then
        s.setCore (e - 288) { c with pre := s.readEarly c.pre hs (s.coreView (e - 288) hs (s.rdHomes hs)) } else s))
  | .hostStore a bs => .stay (s.storeHomes ((List.range bs.length).map fun i => hostHome ((a + i) % 2 ^ 48)) bs)
  | .barSize n => .stay (if 30 ≤ n ∧ n ≤ 39 then { s with host := { s.host with aplog2 := n } } else s)
  | .vector v => .stay (if 5 ≤ v ∧ v ≤ 7 ∧ s.root.bstate = .running then s.fireMsix v else s)
  | .probe p => .stay (if s.isFrozen then s.respond (s.probed p) else s)
  | .eccFail w => .stay { s with ecc := if w ∈ s.ecc then s.ecc else s.ecc ++ [w] }
  | .eccFix w =>
    .stay ({ s with root := { s.root with fixes := s.root.fixes + 1 } }.logError 0 (Config.eccPlace (8 * w)) (Config.logSource 1))
  | .eccSlot e n => .stay (s.live (if e < 292 then s.eccSlot (if e < 288 then .eng e else .pool (e - 288)) n else s))
  | .eccUnit d unit c w =>
    .stay (s.live (s.report (d % 4) cEcc ⟨if c < 64 then c else 64, none, d % 4, unit % 256, 0, 0⟩ 0 (Config.eccPlace (2 ^ 60 + w)) none))

/-- The event that a move is, in its turn (R275, R291, R302, R310, R324, R329, R333, R353, R356). -/
def State.selectMove (s : State) (m : Move) : Sel := s.inTurn (s.moveEvent m)

/-- The event that the next step runs. -/
def State.select (s : State) : Sel :=
  let (m, s1) := s.nextMove
  s1.selectMove m

/-! ## Placing one word -/

/-- Engine 0 with a body of one instruction at operator 0, and an open pass about to run it. -/
def State.placeBody (s : State) (w x : Word) : State :=
  let h : OpHead := { kind := .compute, body := 0, blen := 2, cls := 1 }
  let o : OpEntry := { h := h }
  let e := s.engine 0
  let t := { e.t with ot := tput e.t.ot 0 o, body := tsets 0 e.t.body 0 [0x0400000000000020#64, w, x] }
  let a : Active := { fr := { uid := s.nextId, len := 1, passes := [(0, [])] },
                      pass := { run := 256, next := 1 } }
  { s.setEngine 0 { e with t := t, vec := { e.vec with act := some a } } with
    nextId := s.nextId + 1, sched := [.engine 0 1] }

/-- Core 0, released, about to run the words at its PC. -/
def State.placeCore (s : State) (w x : Word) : State :=
  let c := s.core 0
  let pc := c.pc
  let s1 := (s.wrWord (hbmHome pc.toNat) w).wrWord (hbmHome (pc.toNat + 8)) x
  { s1.setCore 0 { c with run := true } with sched := [.core 0] }

/-- Sequencer 0 with a program of one instruction for context 0, which is RUNNING. -/
def State.placeProg (s : State) (w x : Word) : State :=
  let s1 := s.setCtx 0 { s.ctx 0 with st := .running }
  { s1.setProg 0 0 (some { words := [w, x] }) with sched := [.seq 0 0] }

/-- The package with an instruction placed so that the next step runs it: on core 0 for the majors of a control core, on
sequencer 0 for those of a collective program, in a body of engine 0 for every other (R100). -/
def State.placeWord (s : State) (w x : Word) : State :=
  let m := wordMaj w
  if 0x30 ≤ m ∧ m ≤ 0x36 ∨ (m = 0x28 ∧ wordMin w = 3) then s.placeCore w x
  else if 0x2C ≤ m ∧ m ≤ 0x2E then s.placeProg w x
  else s.placeBody w x

end Sys2Proof.Machine
end

