-- ==== Sys2Proof/Machine/Step.lean ====
section
/-!
DEFINITION. One step of the package: the next move, and the row of the table that it is.
-/
namespace Sys2Proof.Machine

/-- One step (three outcomes: next state, fault, refusal). -/
def step (s : State) : Host.Outcome State Fault Refusal :=
  match s.select with
  | .run i t => exec i t
  | .stay t => .next t
  | .bad => .fault .noSuchAgent

/-- The state in which the next step runs exactly the instruction whose bits are `w`, the bits at and above `nbits`
being 0. -/
def State.withFetchWord (s : State) (nbits w : Nat) : State :=
  let v := w % 2 ^ nbits
  s.placeWord (BitVec.ofNat 64 v) (BitVec.ofNat 64 (v / 2 ^ 64))

end Sys2Proof.Machine
end

