-- ==== Sys2Proof/Certificates/Slice0/Obligations.lean ====
section
/-!
DEFINITION. What is claimed of the model: one proposition for each obligation, with the few predicates that they share.
-/
namespace Sys2Proof.Cert
open Sys2Proof.Machine

/-- Slot `sl` of engine `e` holds the open pass `a`, which is the agent that runs. -/
abbrev InPass (s : State) (e sl : Nat) (a : Active) : Prop := s.cur = .pass e sl ∧ s.active e sl = some a

/-- In every open pass for which `H` holds, the word answers a next state that differs in the pass alone, which becomes
`r`. -/
def PassGives (i : Instr) (H : State → Nat → Active → Prop) (r : State → Nat → Active → Pass) : Prop :=
  ∀ s e sl a, InPass s e sl a → H s e a → exec i s = .next (s.setPass e sl a (r s e a))

/-- In every open pass for which `H` holds, the word aborts the pass as a fault of the cause (R52). -/
def PassTraps (i : Instr) (H : State → Nat → Active → Prop) (cause : Nat) : Prop :=
  ∀ s e sl a, InPass s e sl a → H s e a → exec i s = .next (s.passFault e sl ⟨cause, 0, 0⟩)

/-- On every control core for which `H` holds, the word answers a next state that differs in the core alone, which
becomes `r`. -/
def CoreGives (i : Instr) (H : State → Nat → Prop) (r : State → Nat → CoreState) : Prop :=
  ∀ s d, s.cur = .core d → H s d → exec i s = .next (s.setCore d (r s d))

/-- No condition. -/
abbrev always (_ : State) (_ : Nat) (_ : Active) : Prop := True

/-- The second operand of an integer word (R123). -/
def opB (f : FmtA) (v : Word) : Word := v + f.imm.signExtend 64

/-- A scalar word writes `g a b c` to DST, on a pass (tangents become 0) and on a control core (the PC goes on). -/
def ScalarGives (i : Instr) (f : FmtA) (g : Word → Word → Word → Word) : Prop :=
  PassGives i always (fun s _ a =>
    a.pass.wrP f.dst (g (a.pass.rd s.tick f.sa) (opB f (a.pass.rd s.tick f.sb)) (a.pass.rd s.tick f.sc))) ∧
  CoreGives i (fun _ _ => True) fun s d =>
    let c := s.core d
    { c.wr f.dst (g (c.rd f.sa) (opB f (c.rd f.sb)) (c.rd f.sc)) with pc := c.npc }

/-- A word copies its first operand to DST, with the operand's tangents, where the condition holds on SC. -/
def CopiesA (i : Instr) (f : FmtA) (h : Word → Prop) : Prop :=
  (PassGives i (fun s _ a => h (a.pass.rd s.tick f.sc)) fun s _ a =>
    a.pass.wrD f.dst (a.pass.rd s.tick f.sa) fun t => a.pass.rdSh f.sa t) ∧
  CoreGives i (fun s d => h ((s.core d).rd f.sc)) fun s d =>
    { (s.core d).wr f.dst ((s.core d).rd f.sa) with pc := (s.core d).npc }

/-- A word copies its second operand to DST, with the tangents of SB, where the condition holds on SC. -/
def CopiesB (i : Instr) (f : FmtA) (h : Word → Prop) : Prop :=
  (PassGives i (fun s _ a => h (a.pass.rd s.tick f.sc)) fun s _ a =>
    a.pass.wrD f.dst (opB f (a.pass.rd s.tick f.sb)) fun t => a.pass.rdSh f.sb t) ∧
  CoreGives i (fun s d => h ((s.core d).rd f.sc)) fun s d =>
    { (s.core d).wr f.dst (opB f ((s.core d).rd f.sb)) with pc := (s.core d).npc }

/-- The conditions of R89. -/
def condOf (cc : BitVec 4) (a b : Word) : Bool :=
  [decide (a = b), decide (a ≠ b), decide (a.toInt < b.toInt), decide (b.toInt ≤ a.toInt), decide (a.toNat < b.toNat),
    decide (b.toNat ≤ a.toNat), decide (b.toInt < a.toInt), decide (a.toInt ≤ b.toInt), decide (b.toNat < a.toNat),
    decide (a.toNat ≤ b.toNat)].getD cc.toNat false

end Sys2Proof.Cert

open Sys2Proof Sys2Proof.Machine Sys2Proof.Cert


/-! ## Encoding -/

/-- Words written out from the encodings of R87 and R99 (R123's example among them) decode to their instructions. -/
def Obligations.SpecWordsDecode : Prop :=
  decodeWord 0x180068F0000007FC none =
    .ok (.add { dst := 3, sa := 17, sb := 56, sc := 0, rm := 0, f1 := 0, f2 := 0, red := 0, ms := 0, me := 0, imm := 0x7FC }) ∧
  decodeWord 0x1410000000000000 none =
    .ok (.exit { dst := 0, sa := 0, sb := 0, sc := 0, rm := 0, f1 := 0, f2 := 0, red := 0, ms := 0, me := 0, imm := 0 }) ∧
  decodeWord 0xCC10000000000000 none = .ok (.eret { gd := 0, ga := 0, gb := 0, gc := 0, imm := 0 }) ∧
  decodeWord 0x180068F8000007FC (some 0) = .error .extForbidden ∧
  decodeWord 0x0400000000000020 none = .error .structural ∧
  decodeWord 0xFC00000000000000 none = .error .badOpcode

/-- Decoding the words that the encoder writes for a well-formed instruction gives that instruction back. -/
def Obligations.DecodeOfEncode : Prop :=
  ∀ (i : Instr) (w : Word) (x : Option Word), i.wellFormed → encodeWord i = some (w, x) →
    decodeWord w x = .ok i ∧ wordXt w = x.isSome

/-- A word decodes to an instruction only if the encoder writes that word for it: no bit of a word is ignored. -/
def Obligations.EncodeOfDecode : Prop :=
  ∀ (w : Word) (x : Option Word) (i : Instr), decodeWord w x = .ok i → wordXt w = x.isSome →
    i.wellFormed ∧ encodeWord i = some (w, x)

/-! ## The step -/

/-- The step runs an event in its turn of the cycle, and leaves one that comes too late in it to wait; `s1` is the state in which it
would act, `s2` the state in which it waits (R275, R291, R302, R310, R324, R329, R333, R353, R356). -/
def Sys2Proof.Cert.RunsInTurn (s s1 s2 : State) (i : Instr) : Prop :=
  (s1.late i = false → step s = exec i ((s1.afresh i).noted i)) ∧ (s1.late i = true → step s = .next s2)

/-- A move of an issue slot whose open pass has a word left runs the instruction that the word decodes to, with the pass
moved past the word; the word after a P word runs with every tangent of the pass (R90, R193). A word whose slabs or groups are not all
done goes on with the next of them (R184). A word that does not decode is the event that says so (R100). -/
def Sys2Proof.Cert.StepRunsPassWord : Prop :=
  ∀ (s t : State) (e sl : Nat) (a : Active), e < 288 → sl < 2 → s.nextMove = (.engine e sl, t) →
    t.isFrozen = false → t.active e sl = some a → a.pass.wait = .none → a.pass.after = [] →
    let op := t.opOf e a
    let body := fun j => tget 0 (t.engine e).t.body (op.h.body + j)
    let len := fun j => if wordXt (body j) then 2 else 1
    let run := fun j => match decodeWord (body j) (if wordXt (body j) then some (body (j + 1)) else none) with
      | .ok i => i
      | .error _ => .wordDecodeFault (.pass e sl) cIllegal (body j)
    let at_ := fun (j kp : Nat) => { t with cur := .pass e sl }.setPass e sl a { a.pass with idx := j, next := j + len j, kp := kp }
    let pre := wordMaj (body a.pass.next) = 0x3E
    let j := if pre then a.pass.next + 1 else a.pass.next
    (a.pass.step = 0 → a.pass.done = false → a.pass.next ≤ op.h.blen →
      RunsInTurn s (at_ j (if a.pass.all ∨ pre then a.pass.kfire else 0)) t (run j)) ∧
    (a.pass.step ≠ 0 → let i := a.pass.idx
      RunsInTurn s (at_ i (if a.pass.all ∨ a.pass.kp ≠ 0 then a.pass.kfire else 0)) t (run i))

/-- A move of a control core that may execute fetches the word at PC and runs the instruction that it decodes to, the
saved address of the next word being PC + 8, or PC + 16 with an extension word (R257, R262); a word that does not decode, or is none of a
core's, or names a register above g31, is the event that raises ILLEGAL (R98, R100). A word of majors 0x33 to 0x36 runs once every
earlier access of the core has acted, and waits before that; what was read ahead of it is void (R264). -/
def Sys2Proof.Cert.StepRunsCoreWord : Prop :=
  ∀ (s t u v : State) (d : Nat) (w : Word) (x : Option Word), d < 4 → s.nextMove = (.core d, t) →
    let c := t.core d
    let run := match decodeWord w x with
      | .ok i => if coreWordOk i then i else .wordDecodeFault (.core d) cIllegal w
      | .error _ => .wordDecodeFault (.core d) cIllegal w
    t.isFrozen = false → c.run = true → c.halted = false → c.step = none → c.after = [] → c.held = none →
    (c.csr.ie = false ∨ c.csr.ebusy = true ∨ c.csr.xbusy = true ∨ (t.die d).trapq = [] ∨ c.busy ≠ none) →
    (c.busy ≠ none ∨ ∀ n, c.htEnd = some n → t.tick.toNat < n) →
    (c.wfe = false ∨ c.csr.pend = true) →
    { t with cur := .core d }.fetchWord d c.pc = (.ok w, u) →
    (x = none ∧ wordXt w = false ∧ v = u.setCore d { u.core d with wfe := false } ∨
      ∃ y, x = some y ∧ wordXt w = true ∧
        (u.setCore d { u.core d with wfe := false }).fetchWord d (c.pc + 8) = (.ok y, v)) →
    (waitsForAll w = true ∧ v.corePend d ≠ [] → step s = .next v) ∧
    (waitsForAll w = false ∨ v.corePend d = [] →
      RunsInTurn s (v.setCore d { v.core d with
        npc := (v.core d).pc + (if x.isSome then 16 else 8)
        step := none
        pre := if waitsForAll w then [] else (v.core d).pre }) t run)

/-- A word that a core has begun and that cannot end yet runs again as it was fetched (R268), whatever stands in memory by then. -/
def Sys2Proof.Cert.StepRunsHeldWord : Prop :=
  ∀ (s t : State) (d : Nat) (w : Word), d < 4 → s.nextMove = (.core d, t) →
    let c := t.core d
    let run := match decodeWord w none with
      | .ok i => if coreWordOk i then i else .wordDecodeFault (.core d) cIllegal w
      | .error _ => .wordDecodeFault (.core d) cIllegal w
    t.isFrozen = false → c.run = true → c.halted = false → c.step = none → c.after = [] → c.held = some w → c.busy ≠ none →
    c.wfe = false → waitsForAll w = true → { t with cur := .core d }.corePend d = [] →
    RunsInTurn s ({ t with cur := .core d }.setCore d { c with npc := c.pc + 8, step := none, pre := [] }) t run

/-- A move of a sequencer whose program runs executes the instruction that the word at its word index decodes to (R407,
R408); any other word is the event that aborts with reason 3 (R100). -/
def Sys2Proof.Cert.StepRunsProgramWord : Prop :=
  ∀ (s t : State) (d k : Nat) (p : CProg) (w : Word), d < 4 → k < 8 → s.nextMove = (.seq d k, t) →
    t.isFrozen = false → t.prog d k = some p → p.stop = false → (t.ctx p.ctx).st = .running →
    p.words[p.pc]? = some w → (wordXt w = true → p.pc + 1 < p.words.length) →
    let run := match decodeWord w (if wordXt w then p.words[p.pc + 1]? else none) with
      | .ok i => if seqWordOk i then i else .wordDecodeFault (.seq d k) cIllegal w
      | .error _ => .wordDecodeFault (.seq d k) cIllegal w
    RunsInTurn s ({ t with cur := .seq d k }.setProg d k (some { p with npc := p.pc + (if wordXt w then 2 else 1) })) t run

/-- A step runs the decoded instruction: on an issue slot, on a control core and in a collective program. -/
def Obligations.StepRunsDecodedWord : Prop :=
  StepRunsPassWord ∧ StepRunsCoreWord ∧ StepRunsHeldWord ∧ StepRunsProgramWord

/-- The arrival of a message runs its event, with the message gone, once everything it follows is done, no later pass of
a run firing may still join it (R35, R225), and an atomic has seen what comes before the word it reads (R222); an event that comes about
by itself runs in the state as it is, and one that is a write of a register by the host as the recorded decision that it is (R456), behind
the host's earlier posted writes (R233). -/
def Obligations.StepRunsEvents : Prop :=
  (∀ (s t : State) (n : Nat) (m : Msg), s.nextMove = (.deliver n, t) → t.isFrozen = false → t.pend[n]? = some m →
    let rest := { t with pend := t.pend.eraseIdx n, arr := m.id }
    t.joining m.id = false → rest.depsDone m.deps = true → rest.readsFree m.ev = true → RunsInTurn s rest t m.ev) ∧
  (∀ (s t : State) (i : Instr), s.nextMove = (.occur i, t) → t.isFrozen = false → instrOccurs i = true →
    hostEvent i = false ∨ t.hostBusy = false →
    (outsideWrite i = none → RunsInTurn s t t i) ∧
    (∀ o v u, outsideWrite i = some (o, v) → t.decision 0 0 255 [o, v.toNat] = some u → RunsInTurn s u t i))

/-! ## Reset and the form of memory -/

/-- The registers that the spec gives a value at reset hold it. -/
def Obligations.ResetValues : Prop :=
  let s := State.reset
  (∀ d, (s.core d).csr.mode = true ∧ (s.core d).csr.ie = false ∧ (s.core d).csr.xbusy = false ∧
    (s.core d).csr.ebusy = false ∧ (s.core d).csr.asel = 64 ∧ (s.core d).csr.stvec = 0 ∧ (s.core d).csr.sxvec = 0) ∧
  (∀ c, (s.ctx c).st = .free) ∧ (∀ q, (s.queue q).st = .disabled) ∧ (∀ d j, (s.port d j).st = .down) ∧
  (∀ d g, (s.group d g).st = .free) ∧ s.tick = 0 ∧ s.root.bstate = .rom ∧ s.mem = []

/-- A write of memory is read back byte for byte, and changes no other byte. -/
def Obligations.MemoryReadAfterWrite : Prop :=
  ∀ (s : State) (h k : Nat) (bs : List Byte),
    (s.wrBytes h bs).rdByte k = if h ≤ k ∧ k < h + bs.length then bs.getD (k - h) 0 else s.rdByte k

/-! ## Registers -/

/-- A register of a pass: a write is read back, leaves every other register alone, and is discarded where the
specifier is no writable register; z reads 0 (R93). -/
def Sys2Proof.Cert.PassRegisterFile : Prop :=
  ∀ (p : Pass) (tick : Word) (x y : Spec) (v : Word),
    let writable := x.toNat < 24 ∨ (52 ≤ x.toNat ∧ x.toNat < 56)
    (writable → (p.wr x v).rd tick x = v) ∧ (y ≠ x → (p.wr x v).rd tick y = p.rd tick y) ∧
    (¬ writable → p.wr x v = p) ∧ p.rd tick 56 = 0

/-- A register of a control core: g0 reads 0 and discards writes; every other register reads what was written last, and a write
changes no other register (R98). -/
def Sys2Proof.Cert.CoreRegisterFile : Prop :=
  ∀ (c : CoreState) (x y : Spec) (v : Word),
    c.rd 0 = 0 ∧ c.wr 0 v = c ∧ (x ≠ 0 → (c.wr x v).rd x = v) ∧ (y ≠ x → (c.wr x v).rd y = c.rd y) ∧
    (c.wr x v).pc = c.pc ∧ (c.wr x v).csr = c.csr

/-- What a word that changes only its pass leaves as it was: everything but that pass. -/
def Sys2Proof.Cert.PassFrame : Prop :=
  ∀ (s : State) (e sl : Nat) (a : Active) (p : Pass),
    let t := s.setPass e sl a p
    t.active e sl = some { a with pass := p } ∧ t.mem = s.mem ∧ t.ecc = s.ecc ∧ t.clock = s.clock ∧ t.dies = s.dies ∧
    t.ctxs = s.ctxs ∧ t.cp = s.cp ∧ t.net = s.net ∧ t.host = s.host ∧ t.root = s.root ∧ t.pend = s.pend ∧
    t.held = s.held ∧ t.soft = s.soft ∧ t.cur = s.cur ∧ t.free = s.free ∧ (∀ h, t.rdByte h = s.rdByte h) ∧
    (∀ e', e' ≠ e → t.engine e' = s.engine e') ∧
    (sl ≤ 1 → t.active e (1 - sl) = s.active e (1 - sl)) ∧
    (t.engine e).t = (s.engine e).t ∧ (t.engine e).q = (s.engine e).q ∧ (t.engine e).lanes = (s.engine e).lanes ∧
    (t.engine e).rods = (s.engine e).rods ∧ (t.engine e).streams = (s.engine e).streams ∧
    (t.engine e).susp = (s.engine e).susp ∧ (t.engine e).requeue = (s.engine e).requeue

/-- What a word that changes only its control core leaves as it was: everything but that core. -/
def Sys2Proof.Cert.CoreFrame : Prop :=
  ∀ (s : State) (d : Nat) (c : CoreState),
    let t := s.setCore d c
    t.core d = c ∧ t.mem = s.mem ∧ t.ecc = s.ecc ∧ t.eng = s.eng ∧ t.ctxs = s.ctxs ∧ t.cp = s.cp ∧ t.net = s.net ∧
    t.host = s.host ∧ t.root = s.root ∧ t.pend = s.pend ∧ t.soft = s.soft ∧ t.clock = s.clock ∧
    (∀ h, t.rdByte h = s.rdByte h) ∧
    (∀ d', d' ≠ d → t.die d' = s.die d') ∧ (t.die d).trapq = (s.die d).trapq ∧ (t.die d).fids = (s.die d).fids ∧
    t.units d = s.units d ∧ (t.die d).progs = (s.die d).progs ∧ (t.die d).ports = (s.die d).ports

/-- The frames of a word that changes its pass alone, or its control core alone. -/
def Obligations.PassAndCoreFrames : Prop := PassFrame ∧ CoreFrame

/-! ## Integer words -/

/-- Arithmetic, logic, shifts, minimum and maximum (R124), on a pass and on a control core. -/
def Obligations.IntegerWords : Prop :=
  ∀ f : FmtA,
    ScalarGives (.add f) f (fun a b _ => a + b) ∧ ScalarGives (.sub f) f (fun a b _ => a - b) ∧
    ScalarGives (.mul f) f (fun a b _ => a * b) ∧
    ScalarGives (.mulh f) f (fun a b _ => (a.signExtend 128 * b.signExtend 128).extractLsb' 64 64) ∧
    ScalarGives (.mulhu f) f (fun a b _ => (a.setWidth 128 * b.setWidth 128).extractLsb' 64 64) ∧
    ScalarGives (.divu f) f (fun a b _ => if b = 0 then 0xFFFFFFFFFFFFFFFF else a / b) ∧
    ScalarGives (.remu f) f (fun a b _ => if b = 0 then a else a % b) ∧
    ScalarGives (.and f) f (fun a b _ => a &&& b) ∧ ScalarGives (.or f) f (fun a b _ => a ||| b) ∧
    ScalarGives (.xor f) f (fun a b _ => a ^^^ b) ∧ ScalarGives (.andn f) f (fun a b _ => a &&& ~~~ b) ∧
    ScalarGives (.shl f) f (fun a b _ => a <<< (b.toNat % 64)) ∧
    ScalarGives (.shr f) f (fun a b _ => a >>> (b.toNat % 64)) ∧
    ScalarGives (.sra f) f (fun a b _ => a.sshiftRight (b.toNat % 64)) ∧
    ScalarGives (.min f) f (fun a b _ => if a.toInt ≤ b.toInt then a else b) ∧
    ScalarGives (.max f) f (fun a b _ => if b.toInt ≤ a.toInt then a else b) ∧
    ScalarGives (.minu f) f (fun a b _ => if a.toNat ≤ b.toNat then a else b) ∧
    ScalarGives (.maxu f) f (fun a b _ => if b.toNat ≤ a.toNat then a else b)

/-- CLZ and POPC (R126): the leading zero bits, 64 of them in 0, and the set bits; SB and IMM11 are 0 in a well-formed word. -/
def Obligations.CountBits : Prop :=
  ∀ f : FmtA,
    ScalarGives (.clz f) f (fun a _ _ => BitVec.ofNat 64 (64 - a.toNat.size)) ∧
    ScalarGives (.popc f) f (fun a _ _ => BitVec.ofNat 64 ((List.range 64).countP fun k => a.getLsbD k)) ∧
    ((Instr.clz f).wellFormed → f.sb = 0 ∧ f.imm = 0) ∧ ((Instr.popc f).wellFormed → f.sb = 0 ∧ f.imm = 0)

/-- BFX, BFI (R127) and LI (R104, R128): a field of `len` bits at `pos` is read, or replaced by the low bits of value(SC); LI
writes the immediate or the extension word. -/
def Obligations.BitFieldsAndLi : Prop :=
  (∀ f : FmtA,
    ScalarGives (.bfx f) f (fun a b _ =>
      (a >>> (b.toNat % 64)) &&& BitVec.ofNat 64 (2 ^ (b.toNat / 64 % 64 + 1) - 1)) ∧
    (∀ g : Word → Word → Word → Word,
      (∀ a b c k, k < 64 → (g a b c).getLsbD k =
        if b.toNat % 64 ≤ k ∧ k ≤ b.toNat % 64 + b.toNat / 64 % 64 then c.getLsbD (k - b.toNat % 64) else a.getLsbD k) →
      ScalarGives (.bfi f) f g)) ∧
  (∀ (f : FmtB) (x : Option Word),
    let v := match x with | some w => w | none => f.imm.signExtend 64
    PassGives (.li f x) always (fun _ _ a => a.pass.wrP f.dst v) ∧
    CoreGives (.li f x) (fun _ _ => True) fun s d => { (s.core d).wr f.dst v with pc := (s.core d).npc })

/-- CMP.cc, SEL and MOV (R125): CMP writes whether the condition of R89 holds; SEL takes its first operand exactly where value(SC)
is not 0, MOV always, each with the operand's tangents in dual mode (R138). -/
def Obligations.MovesAndSelects : Prop :=
  ∀ f : FmtA,
    ScalarGives (.cmp f) f (fun a b _ => if condOf f.f1 a b then 1 else 0) ∧
    CopiesA (.sel f) f (fun c => c ≠ 0) ∧ CopiesB (.sel f) f (fun c => c = 0) ∧ CopiesA (.mov f) f (fun _ => True) ∧
    ((Instr.mov f).wellFormed → f.sb = 0 ∧ f.imm = 0) ∧
    (∀ (p : Pass) (tick v : Word) (m : Spec), 52 ≤ m.toNat → m.toNat < 56 → (p.wr m v).rd tick m = v)


/-! ## Descriptor words (R129–R132) -/

/-- TDMK, TDGET, TDSET, TDADV and TDSUB: the descriptor or field written, where the checks of R83 pass, and the causes
that stop them. -/
def Obligations.DescriptorWords : Prop :=
  ∀ f : FmtA,
    let A := fun (s : State) (a : Active) => a.pass.rd s.tick f.sa
    let B := fun (s : State) (a : Active) => a.pass.rd s.tick f.sb
    let gives := fun (i : Instr) (H : State → Active → Prop) (d : State → Active → Word) =>
      PassGives i (fun s e a => H s a ∧ descFault (s.nmemOf e) (d s a) = none) fun s _ a => a.pass.wrP f.dst (d s a)
    (∀ member : BitVec 4,
      let d := fun s a =>
        0#3 ++ member ++ (if addrPath (A s a) = 0xB then 1#2 else 0#2) ++ (B s a).extractLsb' 14 41 ++ (A s a).extractLsb' 6 14
      gives (.tdmk f) (fun s a => (A s a).extractLsb' 0 6 = 0 ∧ ((A s a).extractLsb' 0 20).toNat < 786432 ∧
        (addrPath (A s a) = 0xA ∧ (A s a).extractLsb' 20 40 = 0 ∧ member = 0 ∨
         addrPath (A s a) = 0xB ∧ (A s a).extractLsb' 24 36 = 0 ∧ member = (A s a).extractLsb' 20 4)) d) ∧
    PassTraps (.tdmk f) (fun s _ a => addrPath (A s a) ≠ 0xA ∧ addrPath (A s a) ≠ 0xB) cDesc ∧
    (∀ lo n : Nat, (f.imm.toNat, lo, n) ∈ [(0, 0, 14), (1, 14, 6), (2, 20, 3), (3, 24, 8), (4, 32, 4), (5, 36, 3),
        (6, 39, 2), (7, 41, 14), (8, 55, 2), (9, 57, 4)] →
      PassGives (.tdget f) always (fun s _ a => a.pass.wrP f.dst (((A s a).extractLsb' lo n).setWidth 64)) ∧
      (∀ d : Word, gives (.tdset f) (fun s a => (B s a).toNat < 2 ^ n ∧ d.extractLsb' lo n = (B s a).setWidth n ∧
        ∀ k < 64, k < lo ∨ lo + n ≤ k → d.getLsbD k = (A s a).getLsbD k) fun _ _ => d) ∧
      PassTraps (.tdset f) (fun s _ a => 2 ^ n ≤ (B s a).toNat) cDesc) ∧
    (∀ b : BitVec 14,
      let d := fun s a => (A s a).extractLsb' 14 50 ++ b
      gives (.tdadv f) (fun s a => b.toNat ≤ 12287 ∧
        (b.toNat : Int) = (((A s a).extractLsb' 0 14).toNat : Int) + (opB f (B s a)).toInt) d) ∧
    PassTraps (.tdadv f) (fun s _ a =>
      let n : Int := (((A s a).extractLsb' 0 14).toNat : Int) + (opB f (B s a)).toInt
      n < 0 ∨ 12287 < n) cDesc ∧
    (∀ d : Word, gives (.tdsub f) (fun s a =>
      tdSubRows (A s a) ((opB f (B s a)).toNat % 64) ((opB f (B s a)).toNat / 64 % 64 + 1) = some d) fun _ _ => d) ∧
    tdSubRows 0x00012C94007FC008 16 8 = some 0x00012E940071CC18 ∧ tdSubRows 0x00012C94007FC008 5 8 = none

/-! ## Scalar floating point (R133–R138) -/

/-- FADD, FSUB, FMUL, FFMA, FRCP, FRSQ: the exact value of the operands' values rounded once under RM into F1, with the
tangents of R138; a NaN operand decides by R62. -/
def Sys2Proof.Cert.FloatArithmetic : Prop :=
  ∀ f : FmtA,
    let m := f.f1.toNat
    let A := fun (s : State) (a : Active) => fvOf m ((a.pass.rd s.tick f.sa).toNat % 2 ^ fmtBits m)
    let B := fun (s : State) (a : Active) => fvOf m ((a.pass.rd s.tick f.sb).toNat % 2 ^ fmtBits m)
    let C := fun (s : State) (a : Active) => fvOf m ((a.pass.rd s.tick f.sc).toNat % 2 ^ fmtBits m)
    let T := fun (a : Active) (sp : Spec) (t : Nat) => tanVal m ((a.pass.rdSh sp t).toNat % 2 ^ tanBits m)
    let gives := fun (i : Instr) (v : State → Active → FV) (tan : State → Active → FV → Nat → FV) =>
      PassGives i always fun s e a =>
        let y := encFloat m f.rm.toNat (s.sr e a 0 0) (v s a)
        a.pass.wrD f.dst (BitVec.ofNat 64 y) fun t =>
          if isEmptyEnc m y then 0 else BitVec.ofNat 64 (encFloat (tanFmt m) 0 0 (tan s a (fvOf m y) t))
    gives (.fadd f) (fun s a => (A s a).add f.rm.toNat (B s a)) (fun _ a _ t => (T a f.sa t).add 0 (T a f.sb t)) ∧
    (let sub := fun (mode : Nat) (x y : FV) => match firstNan [x, y] with
        | some n => n
        | none => x.add mode y.neg
     gives (.fsub f) (fun s a => sub f.rm.toNat (A s a) (B s a)) fun _ a _ t => sub 0 (T a f.sa t) (T a f.sb t)) ∧
    gives (.fmul f) (fun s a => (A s a).mul (B s a))
      (fun s a _ t => ((T a f.sa t).mul (B s a)).add 0 ((A s a).mul (T a f.sb t))) ∧
    gives (.ffma f) (fun s a => (A s a).fma f.rm.toNat (B s a) (C s a))
      (fun s a _ t => (((T a f.sa t).mul (B s a)).add 0 ((A s a).mul (T a f.sb t))).add 0 (T a f.sc t)) ∧
    gives (.frcp f) (fun s a => (A s a).rcp) (fun _ a y t => ((FV.fin true 1 0).mul (T a f.sa t)).mul (y.mul y)) ∧
    gives (.frsq f) (fun s a => (A s a).rsq)
      (fun _ a y t => ((FV.fin true 1 (-1)).mul (T a f.sa t)).mul ((y.mul y).mul y))

/-- FMIN, FMAX (R134), FCMP (R135) and FCVT (R136). -/
def Sys2Proof.Cert.FloatCompareConvert : Prop :=
  ∀ f : FmtA,
    let m := f.f1.toNat
    let A := fun (s : State) (a : Active) => fvOf m ((a.pass.rd s.tick f.sa).toNat % 2 ^ fmtBits m)
    let B := fun (s : State) (a : Active) => fvOf m ((a.pass.rd s.tick f.sb).toNat % 2 ^ fmtBits m)
    let T := fun (a : Active) (sp : Spec) (t : Nat) => tanVal m ((a.pass.rdSh sp t).toNat % 2 ^ tanBits m)
    let picks := fun (i : Instr) (isMax : Bool) =>
      PassGives i always fun s _ a =>
        let second := if (A s a).isNan then false else if (B s a).isNan then true else minMaxSecond isMax (A s a) (B s a)
        let y := encFloat m 0 0 (if second then B s a else A s a).quiet
        a.pass.wrD f.dst (BitVec.ofNat 64 y) fun t =>
          if isEmptyEnc m y then 0
          else BitVec.ofNat 64 (encFloat (tanFmt m) 0 0 (T a (if second then f.sb else f.sa) t))
    picks (.fmin f) false ∧ picks (.fmax f) true ∧
    PassGives (.fcmp f) always (fun s _ a => a.pass.wrP f.dst (if fcond f.f2.toNat (A s a) (B s a) then 1 else 0)) ∧
    (let y := fun (s : State) (e : Nat) (a : Active) =>
        convEnc m f.f2.toNat f.rm.toNat (s.sr e a 0 0) ((a.pass.rd s.tick f.sa).toNat % 2 ^ fmtBits m)
     (f.f2.toNat ≤ 7 → PassGives (.fcvt f) always fun s e a =>
        a.pass.wrD f.dst (BitVec.ofNat 64 (y s e a)) fun t =>
          if 8 ≤ m ∨ isEmptyEnc f.f2.toNat (y s e a) then 0
          else BitVec.ofNat 64 (convEnc (tanFmt m) (tanFmt f.f2.toNat) 0 0 ((a.pass.rdSh f.sa t).toNat % 2 ^ tanBits m))) ∧
     (8 ≤ f.f2.toNat → f.f2.toNat ≤ 11 → PassGives (.fcvt f) always fun s e a =>
        a.pass.wrP f.dst (BitVec.ofInt 64 (intVal f.f2.toNat (y s e a)))) ∧
     (12 ≤ f.f2.toNat → PassGives (.fcvt f) always fun s e a => a.pass.wrP f.dst (BitVec.ofNat 64 (y s e a))))

/-- Scalar floating-point words (R133–R138). -/
def Obligations.FloatWords : Prop := FloatArithmetic ∧ FloatCompareConvert

/-! ## Outputs and steering (R108–R122) -/

/-- The output reference that output `o` of the open pass uses (R44). -/
def Sys2Proof.Cert.outRef (s : State) (e : Nat) (a : Active) (o : Nat) : Word :=
  tget 0 (s.engine e).t.ol ((s.opOf e a).h.olbase + o)

/-- The colour that a token on output `o` takes (R108): the word's transform, else the dynamic colour, else the
reference's. -/
def Sys2Proof.Cert.sentColour (s : State) (e : Nat) (a : Active) (o : Nat) (ct : Option (Nat × Nat)) : Nat :=
  let r := outRef s e a o
  match ct, (tget {} a.pass.b.outs o).dyn with
  | some (c, i), _ => colourTo c i a.pass.col
  | none, some c => c
  | none, none => colourTo (refCt r) (refCimm r) a.pass.col

/-- The pass with one more token counted on output `o` (R108). -/
def Sys2Proof.Cert.withOut (a : Active) (o : Nat) (t : OutTok) : Pass :=
  let r := tget {} a.pass.b.outs o
  { a.pass with b := { a.pass.b with outs := tput a.pass.b.outs o { r with count := r.count + 1, tok := some t } } }

/-- Output `o` of the open pass has somewhere to go: a unit that R23 names and, for a link port, a process group with the
rank (R403). -/
def Sys2Proof.Cert.outHere (s : State) (e : Nat) (a : Active) (o : Nat) : Prop :=
  let r := outRef s e a o
  unitOk (refUnit r) = true ∧ (224 ≤ refUnit r → refUnit r ≤ 227 → ∃ t, s.launchTable a.fr.ctx a.fr.inst = some t ∧
    (refRmt r / 2 % 2 = 0 → refCimm r < (s.pgt a.fr.ctx t).n))

/-- EMIT on a scalar reference or with EF, NULL, DMND and LGEN add one to the count of their output and leave the token
that R110 to R113 give; a reserved unit and a count above 32 raise FRAME. -/
def Sys2Proof.Cert.OutputWords : Prop :=
  (∀ f : FmtE,
    let o := f.out.toNat
    let xf := if f.cto = 1 then some (f.ct.toNat, f.cimm.toNat) else none
    let join := fun s e a => match xf with
      | some (c, _) => decide (c ≤ 1)
      | none => (tget {} a.pass.b.outs o).dyn.isNone && decide (refCt (outRef s e a o) ≤ 1)
    PassGives (.emit f) (fun s e a => outHere s e a o ∧ f.ef = 1)
      (fun s e a => withOut a o
        { e := true, o := f.ofl == 1, col := sentColour s e a o xf, join := join s e a }) ∧
    PassGives (.emit f) (fun s e a => outHere s e a o ∧ f.ef = 0 ∧ ((s.engine e).refInfo (s.opOf e a) o).tile = false)
      (fun s e a => withOut a o
        { o := f.ofl == 1, val := a.pass.rd s.tick f.sa, col := sentColour s e a o xf, join := join s e a }) ∧
    PassGives (.emit f) (fun s e a => outHere s e a o ∧ f.ef = 0 ∧
        ((s.engine e).refInfo (s.opOf e a) o).tile = true ∧ s.emitTileFault e a (a.pass.rd s.tick f.sa) = none)
      (fun s e a => withOut a o
        { o := f.ofl == 1, val := a.pass.rd s.tick f.sa, col := sentColour s e a o xf, tile := true,
          s := dGs (a.pass.rd s.tick f.sa) != 0, d := decide (1 ≤ a.pass.kfire) }) ∧
    PassTraps (.emit f) (fun s e a => unitOk (refUnit (outRef s e a o)) = false) cFrame ∧
    PassGives (.null f) (fun s e a => outHere s e a o)
      (fun s e a => withOut a o { n := true, o := f.ofl == 1, col := sentColour s e a o xf })) ∧
  (∀ f : FmtA,
    let o := (f.imm.extractLsb' 0 3).toNat
    PassGives (.dmnd f) (fun s e a => outHere s e a o)
      (fun s e a => withOut a o { q := true, col := sentColour s e a o none }) ∧
    PassGives (.lgen f) (fun s e a => outHere s e a o ∧ a.pass.rd s.tick f.sb = 0)
      (fun s e a => withOut a o { n := true, col := sentColour s e a o none }) ∧
    PassGives (.lgen f)
      (fun s e a => outHere s e a o ∧ a.pass.rd s.tick f.sb ≠ 0 ∧ (a.pass.rd s.tick f.sb).toNat ≤ 32)
      (fun s e a => withOut a o { val := a.pass.rd s.tick f.sa, col := sentColour s e a o none,
                                  run := (a.pass.rd s.tick f.sb).toNat - 1 }) ∧
    PassTraps (.lgen f) (fun s e a => outHere s e a o ∧ 32 < (a.pass.rd s.tick f.sb).toNat) cFrame)

/-- COLR, STEER, KEEP, RELS, NOP and EXIT act on the record of the pass as R114 to R122 say. -/
def Sys2Proof.Cert.PassRecordWords : Prop :=
  ∀ f : FmtA,
    let o := (f.imm.extractLsb' 0 3).toNat
    let k := (f.imm.extractLsb' 0 2).toNat
    let entry := fun (s : State) (e : Nat) (a : Active) => a.pass.col % (s.opOf e a).rcnt
    let rel := fun (s : State) (a : Active) => ((a.pass.rd s.tick f.sa).extractLsb' 0 6).toNat
    let block := fun (a : Active) (b : PassBlock) => { a.pass with b := b }
    PassGives (.colr f) always (fun s _ a =>
      let r := tget {} a.pass.b.outs o
      block a { a.pass.b with
        outs := tput a.pass.b.outs o { r with dyn := some ((a.pass.rd s.tick f.sa).extractLsb' 0 12).toNat } }) ∧
    (∀ x : Option Word,
      let holds := fun (s : State) (a : Active) => condOf f.f1 (a.pass.rd s.tick f.sa) (a.pass.rd s.tick f.sb)
      PassGives (.steer f x) (fun s _ a => holds s a = true ∧ a.pass.b.steers = 0)
        (fun _ _ a => block a { a.pass.b with
          steers := 1, keep := f.imm.setWidth 8, lnull := (x.getD 0).setWidth 32 }) ∧
      PassGives (.steer f x) (fun s _ a => holds s a = true ∧ 0 < a.pass.b.steers)
        (fun _ _ a => block a { a.pass.b with steers := a.pass.b.steers + 1 }) ∧
      PassGives (.steer f x) (fun s _ a => holds s a = false) (fun _ _ a => a.pass)) ∧
    (∀ tok : Token,
      PassGives (.keep f) (fun s e a => (a.pass.ins.getD k {}).tok = some tok ∧ tokN tok = false ∧ tokE tok = false ∧
          (k, entry s e a) ∉ a.pass.b.keeps)
        (fun s e a => block a { a.pass.b with keeps := a.pass.b.keeps ++ [(k, entry s e a)] }) ∧
      PassGives (.keep f) (fun s e a => (a.pass.ins.getD k {}).tok = some tok ∧ (tokN tok = true ∨ tokE tok = true ∨
          (k, entry s e a) ∈ a.pass.b.keeps)) (fun _ _ a => a.pass)) ∧
    PassGives (.rels f) (fun s _ a => (k, rel s a) ∈ a.pass.b.keeps)
      (fun s _ a => block a { a.pass.b with keeps := a.pass.b.keeps.filter (· != (k, rel s a)) }) ∧
    PassGives (.rels f) (fun s _ a => (k, rel s a) ∉ a.pass.b.keeps)
      (fun s _ a => block a { a.pass.b with rels := a.pass.b.rels ++ [(k, rel s a)] }) ∧
    PassGives (.nop f) always (fun _ _ a => a.pass) ∧
    PassGives (.exit f) always (fun _ _ a => { a.pass with done := true })


/-- The words that write what a pass commits, and those that read or change its own record. -/
def Obligations.OutputAndRecordWords : Prop := OutputWords ∧ PassRecordWords

/-! ## Tiles -/

/-- A matrix given by rows and columns. -/
def Sys2Proof.Cert.grid {α : Type} (rows cols : Nat) (g : Nat → Nat → α) : List (List α) :=
  (List.range rows).map fun r => (List.range cols).map (g r)

/-- The checks of R140 pass for an element-wise word whose destination takes the formats `ok` and whose operands are `ins`;
`dual` says that it reads their tangents. -/
def Sys2Proof.Cert.tilesReady (s : State) (e : Nat) (a : Active) (f : FmtA) (ok : Nat → Bool) (ins : List VIn) (dual : Bool) : Prop :=
  let d := a.pass.rd s.tick f.dst
  let src := (ins.filter (·.scal.isNone)).map (·.desc)
  s.operandFault e a [d] (VIn.descs ins dual) = none ∧ ok (dFmt d) = true ∧ dGs d = 0 ∧
    (ins.all fun x => x.scal.isSome || srcOk x.desc x.fmt (dRows d) (dEpr d)) = true ∧ s.tileEcc e src = none

/-- An element-wise word writes to each element [r][i] of the tile of DST, under the row mask, the value of `prim` at the
element's index and the operands' elements there; its tangents are those of `tan`, or 0. -/
def Sys2Proof.Cert.ElementGives (i : Instr) (f : FmtA) (ok : Nat → Bool) (ins : State → Active → List VIn)
    (prim : State → Nat → Active → Nat → List Nat → Nat) (tan : Option (List Nat → Nat → List Nat → Nat)) : Prop :=
  PassGives i (fun s e a => tilesReady s e a f ok (ins s a) tan.isSome) fun s e a =>
    let p := a.pass
    let d := p.rd s.tick f.dst
    let str := s.shadowStride e a.fr.op
    let els := fun r i => (ins s a).map fun x => at2 (x.vals s e p (dRows d) (dEpr d)) r i
    let out := grid (dRows d) (dEpr d) fun r i => prim s e a (r * dEpr d + i) (els r i)
    s.writeDual e p str d (p.masked f (out.map (·.map some))) (tan.map fun g t => grid (dRows d) (dEpr d) fun r i =>
      g (els r i) (at2 out r i) ((ins s a).map fun x => at2 (x.tans s e p str t (dRows d) (dEpr d)) r i))

/-- Element `n` of a list of operands. -/
def Sys2Proof.Cert.arg (o : List Nat) (n : Nat) : Nat := o.getD n 0

/-- What writing elements of a tile does to the pass: the writes are held until commit (R141), are writes of scratch
only, and nothing else of the pass changes. -/
def Sys2Proof.Cert.TileWriteFrame : Prop :=
  ∀ (s : State) (e : Nat) (p : Pass) (str : Nat) (d : Word) (vals : List (List (Option Nat)))
    (tan : Option (Nat → List (List Nat))),
    ∃ l : List Held, s.writeDual e p str d vals tan = { p with b := { p.b with held := p.b.held ++ l } } ∧
      ∀ h ∈ l, ∃ cs : List (Nat × Byte), h.eff = .scratch cs ∧ ∀ c ∈ cs, 2 ^ 50 ≤ c.1

/-- A tile with ROT = 0 that passes the checks of R83 reads back, in the same pass, the elements that were written to it
(R65, R84, R141). -/
def Sys2Proof.Cert.TileReadsBack : Prop :=
  ∀ (s : State) (e : Nat) (p : Pass) (d : Word) (v : List (List Nat)),
    d ≠ 0 → dRot d = 0 → descFault (s.nmemOf e) d = none → v.length = dRows d →
    (∀ row ∈ v, row.length = dEpr d ∧ ∀ x ∈ row, x < 2 ^ fmtBits (dFmt d)) →
    s.tile e (s.writeTile e p d (v.map (·.map some))) (dRows d) (dEpr d) d = v

/-- What a tile write changes and what it reads back as. -/
def Obligations.TileAccess : Prop := TileWriteFrame ∧ TileReadsBack

/-! ## Element-wise vector words -/

/-- VADD to VNEG on floating formats (R145), with the tangents of R166. -/
def Sys2Proof.Cert.VectorFloat : Prop :=
  ∀ f : FmtA, f.f1.toNat ≤ 3 →
    let m := f.f1.toNat
    let A := fun (s : State) (a : Active) => a.pass.tileIn s.tick f.sa m
    let B := fun (s : State) (a : Active) => a.pass.maybeScal s.tick f.sb m (f.imm.getLsbD 0)
    let C := fun (s : State) (a : Active) => a.pass.maybeScal s.tick f.sc m (f.imm.getLsbD 1)
    let v := fun (o : List Nat) (n : Nat) => fvOf m (arg o n)
    let w := fun (o : List Nat) (n : Nat) => tanVal m (arg o n)
    let rnd := fun (s : State) (e : Nat) (a : Active) (n : Nat) (x : FV) =>
      encFloat m f.rm.toNat (if f.rm = 4 then s.sr e a 0 n else 0) x
    let picks := fun (isMax : Bool) (o : List Nat) => minMaxPick isMax (v o 0) (v o 1)
    ElementGives (.vadd f) f (· == m) (fun s a => [A s a, B s a])
      (fun s e a n o => rnd s e a n ((v o 0).add f.rm.toNat (v o 1))) (some fun _ _ t => tanEnc m ((w t 0).add 0 (w t 1))) ∧
    ElementGives (.vsub f) f (· == m) (fun s a => [A s a, B s a])
      (fun s e a n o => rnd s e a n ((v o 0).sub f.rm.toNat (v o 1))) (some fun _ _ t => tanEnc m ((w t 0).sub 0 (w t 1))) ∧
    ElementGives (.vmul f) f (· == m) (fun s a => [A s a, B s a])
      (fun s e a n o => rnd s e a n ((v o 0).mul (v o 1)))
      (some fun o _ t => tanEnc m ((v o 0).prodTan (v o 1) (w t 0) (w t 1))) ∧
    ElementGives (.vfma f) f (· == m) (fun s a => [A s a, B s a, C s a])
      (fun s e a n o => rnd s e a n ((v o 0).fma f.rm.toNat (v o 1) (v o 2)))
      (some fun o _ t => tanEnc m (((v o 0).prodTan (v o 1) (w t 0) (w t 1)).add 0 (w t 2))) ∧
    ElementGives (.vmin f) f (· == m) (fun s a => [A s a, B s a])
      (fun _ _ _ _ o => encFloat m 0 0 (if picks false o then v o 1 else v o 0).quiet)
      (some fun o _ t => tanEnc m (if picks false o then w t 1 else w t 0)) ∧
    ElementGives (.vmax f) f (· == m) (fun s a => [A s a, B s a])
      (fun _ _ _ _ o => encFloat m 0 0 (if picks true o then v o 1 else v o 0).quiet)
      (some fun o _ t => tanEnc m (if picks true o then w t 1 else w t 0)) ∧
    ElementGives (.vabs f) f (· == m) (fun s a => [A s a]) (fun _ _ _ _ o => arg o 0 % 2 ^ (fmtBits m - 1))
      (some fun o _ t => tanEnc m (if (v o 0).isZero then .zero else if (v o 0).sign then (w t 0).neg else w t 0)) ∧
    ElementGives (.vneg f) f (· == m) (fun s a => [A s a])
      (fun _ _ _ _ o => (arg o 0 + 2 ^ (fmtBits m - 1)) % 2 ^ fmtBits m) (some fun _ _ t => tanEnc m (w t 0).neg)

/-- VADD to VNEG on integer formats (R145): the exact result modulo 2^bits, or clamped with SAT. -/
def Sys2Proof.Cert.VectorInteger : Prop :=
  ∀ f : FmtA, 8 ≤ f.f1.toNat →
    let m := f.f1.toNat
    let A := fun (s : State) (a : Active) => a.pass.tileIn s.tick f.sa m
    let B := fun (s : State) (a : Active) => a.pass.maybeScal s.tick f.sb m (f.imm.getLsbD 0)
    let C := fun (s : State) (a : Active) => a.pass.maybeScal s.tick f.sc m (f.imm.getLsbD 1)
    let gives := fun (i : Instr) (n : Nat) (g : Int → Int → Int → Int) =>
      ElementGives i f (· == m) (fun s a => [A s a, B s a, C s a].take n) (fun _ _ _ _ o =>
        let z := g (intVal m (arg o 0)) (intVal m (arg o 1)) (intVal m (arg o 2))
        intEnc m (if f.imm.getLsbD 2 then intClamp m z else z)) none
    gives (.vadd f) 2 (fun x y _ => x + y) ∧ gives (.vsub f) 2 (fun x y _ => x - y) ∧
    gives (.vmul f) 2 (fun x y _ => x * y) ∧ gives (.vfma f) 3 (fun x y z => x * y + z) ∧
    gives (.vmin f) 2 (fun x y _ => min x y) ∧ gives (.vmax f) 2 (fun x y _ => max x y) ∧
    gives (.vabs f) 1 (fun x _ _ => |x|) ∧ gives (.vneg f) 1 (fun x _ _ => -x)

/-- VAND to VSRA (R146): on the element bits; a count of the width or more shifts everything out. -/
def Sys2Proof.Cert.VectorLogic : Prop :=
  ∀ f : FmtA,
    let m := f.f1.toNat
    let n := fmtBits m
    let gives := fun (i : Instr) (g : Nat → Nat → Nat) =>
      ElementGives i f (· == m)
        (fun s a => [a.pass.tileIn s.tick f.sa m, a.pass.maybeScal s.tick f.sb m (f.imm.getLsbD 0)])
        (fun _ _ _ _ o => g (arg o 0) (arg o 1)) none
    gives (.vand f) (fun x y => x &&& y) ∧ gives (.vor f) (fun x y => x ||| y) ∧ gives (.vxor f) (fun x y => x ^^^ y) ∧
    gives (.vshl f) (fun x y => if y < n then x * 2 ^ y % 2 ^ n else 0) ∧
    gives (.vshr f) (fun x y => if y < n then x / 2 ^ y else 0) ∧
    gives (.vsra f) (fun x y => intEnc m (intVal m x / 2 ^ (if y < n then y else n)))

/-- Vector integer and logic words. -/
def Obligations.VectorIntegerAndLogic : Prop := VectorInteger ∧ VectorLogic

/-- VCMP (R147) writes 1 or 0 in the destination's format; VSEL (R148) takes its first operand where the condition's
element is neither +0 nor −0, a NaN condition included. -/
def Sys2Proof.Cert.VectorCompareSelect : Prop :=
  ∀ f : FmtA,
    let m := f.f1.toNat
    let A := fun (s : State) (a : Active) => a.pass.tileIn s.tick f.sa m
    let B := fun (s : State) (a : Active) => a.pass.maybeScal s.tick f.sb m (f.imm.getLsbD 0)
    (∀ df : Nat, df ≤ 12 →
      let one := encAny df 0 0 (.fin false 1 0)
      let gives := fun (holds : Nat → Nat → Bool) =>
        PassGives (.vcmp f)
          (fun s e a => dFmt (a.pass.rd s.tick f.dst) = df ∧
            tilesReady s e a f (fun x => decide (x ≤ 12)) [A s a, B s a] false)
          fun s e a =>
            let p := a.pass
            let d := p.rd s.tick f.dst
            let el := fun (x : VIn) r i => at2 (x.vals s e p (dRows d) (dEpr d)) r i
            s.writeDual e p (s.shadowStride e a.fr.op) d (p.masked f (grid (dRows d) (dEpr d) fun r i =>
              some (if holds (el (A s a) r i) (el (B s a) r i) then one else 0))) none
      (m ≤ 7 → gives fun x y => fcond f.f2.toNat (fvOf m x) (fvOf m y)) ∧
      (8 ≤ m → f.f2 = 0 → gives fun x y => decide (intVal m x = intVal m y)) ∧
      (8 ≤ m → f.f2 = 1 → gives fun x y => decide (intVal m x ≠ intVal m y)) ∧
      (8 ≤ m → f.f2 = 2 → gives fun x y => decide (intVal m x < intVal m y)) ∧
      (8 ≤ m → f.f2 = 3 → gives fun x y => decide (intVal m y ≤ intVal m x)) ∧
      (8 ≤ m → f.f2 = 4 → gives fun x y => decide (x < y)) ∧ (8 ≤ m → f.f2 = 5 → gives fun x y => decide (y ≤ x)) ∧
      (8 ≤ m → f.f2 = 6 → gives fun x y => decide (intVal m y < intVal m x)) ∧
      (8 ≤ m → f.f2 = 7 → gives fun x y => decide (intVal m x ≤ intVal m y)) ∧
      (8 ≤ m → f.f2 = 8 → gives fun x y => decide (y < x)) ∧ (8 ≤ m → f.f2 = 9 → gives fun x y => decide (x ≤ y))) ∧
    (∀ cf : Nat, cf ≠ 13 →
      let set := fun (x : Nat) => if cf ≤ 7 then x % 2 ^ (fmtBits cf - 1) != 0 else x != 0
      PassGives (.vsel f)
        (fun s e a => dFmt (a.pass.rd s.tick f.sc) = cf ∧
          tilesReady s e a f (· == m) [A s a, B s a, a.pass.plainIn s.tick f.sc cf] (decide (m ≤ 7)))
        fun s e a =>
          let p := a.pass
          let d := p.rd s.tick f.dst
          let str := s.shadowStride e a.fr.op
          let el := fun (x : VIn) r i => at2 (x.vals s e p (dRows d) (dEpr d)) r i
          let tn := fun (x : VIn) t r i => at2 (x.tans s e p str t (dRows d) (dEpr d)) r i
          let c := fun r i => set (el (p.plainIn s.tick f.sc cf) r i)
          s.writeDual e p str d
            (p.masked f (grid (dRows d) (dEpr d) fun r i => some (if c r i then el (A s a) r i else el (B s a) r i)))
            (if m ≤ 7 then some fun t => grid (dRows d) (dEpr d) fun r i =>
              if c r i then tn (A s a) t r i else tn (B s a) t r i else none))

/-- VMSK (R149): bit r of the mask says whether some element, every element, or element j of row r is non-zero, or that
element j is not empty; bits above ROWS are 0. -/
def Sys2Proof.Cert.MaskWords : Prop :=
  ∀ f : FmtA,
    let m := f.f1.toNat
    let D := fun (s : State) (a : Active) => a.pass.rd s.tick f.sa
    let j := (f.imm.extractLsb' 2 8).toNat
    let set := fun (x : Nat) => if m ≤ 7 then x % 2 ^ (fmtBits m - 1) != 0 else x != 0
    let rows := fun (s : State) (a : Active) => if D s a = 0 then 64 else dRows (D s a)
    let epr := fun (s : State) (a : Active) => if D s a = 0 then 256 else dEpr (D s a)
    let ready := fun (s : State) (e : Nat) (a : Active) =>
      s.vecFault e a [] [D s a] false = none ∧
        (D s a ≠ 0 → dFmt (D s a) = m ∧ dGs (D s a) = 0 ∧ j < dEpr (D s a)) ∧ s.tileEcc e [D s a] = none
    ∀ v : State → Nat → Active → Word,
      (∀ s e a, ready s e a → ∀ r, r < 64 →
        let row := (s.tile e a.pass (rows s a) (epr s a) (D s a)).getD r []
        (v s e a).getLsbD r = (decide (r < rows s a) &&
          (match (f.imm.extractLsb' 0 2).toNat with
            | 0 => row.any set
            | 1 => row.all set
            | 2 => set (row.getD j 0)
            | _ => !isEmptyEnc m (row.getD j 0)))) →
      PassGives (.vmsk f) ready fun s e a => a.pass.wr f.dst (v s e a)

/-- Vector compares and selects, and the mask words. -/
def Obligations.VectorSelectAndMasks : Prop := VectorCompareSelect ∧ MaskWords

/-- VCVT (R150) and the special functions of R151 and R152, with the tangents of R166. -/
def Sys2Proof.Cert.VectorFunctions : Prop :=
  ∀ f : FmtA,
    let m := f.f1.toNat
    let v := fun (o : List Nat) (n : Nat) => fvOf m (arg o n)
    let w := fun (o : List Nat) (n : Nat) => tanVal m (arg o n)
    let A := fun (s : State) (a : Active) => a.pass.tileIn s.tick f.sa m
    let k := fun (s : State) (e : Nat) (a : Active) (n : Nat) => if f.rm = 4 then s.sr e a 0 n else 0
    let gives := fun (i : Instr) (fn : Nat → FV → Nat) (tan : FV → FV → FV → FV) =>
      ElementGives i f (· == m) (fun s a => [A s a]) (fun s e a n o => fn (k s e a n) (v o 0))
        (some fun o y t => tanEnc m (tan (v o 0) (fvOf m y) (w t 0)))
    ElementGives (.vcvt f) f (· == f.f2.toNat) (fun s a => [A s a])
      (fun s e a n o => convEnc m f.f2.toNat f.rm.toNat (k s e a n) (arg o 0))
      (if f.f2.toNat ≤ 7 then some fun _ _ t => convEnc (tanFmt m) (tanFmt f.f2.toNat) 0 0 (arg t 0) else none) ∧
    gives (.vrcp f) (fun _ x => approxEnc m x.rcp) (fun _ y t => ((FV.fin true 1 0).mul t).mul (y.mul y)) ∧
    gives (.vrsq f) (fun _ x => approxEnc m x.rsq)
      (fun _ y t => ((FV.fin true 1 (-1)).mul t).mul ((y.mul y).mul y)) ∧
    gives (.vexp2 f) (fun n x => encFloat m f.rm.toNat n x.exp2) (fun _ y t => (t.mul y).mulLn2) ∧
    gives (.vlog2 f) (fun n x => encFloat m f.rm.toNat n x.log2) (fun x _ t => (t.div x).divLn2) ∧
    gives (.vtanh f) (fun n x => encFloat m f.rm.toNat n x.tanh)
      (fun _ y t => t.mul ((FV.fin false 1 0).sub 0 (y.mul y))) ∧
    ElementGives (.vnrs f) f (· == m) (fun s a => [A s a, a.pass.plainIn s.tick f.sb m])
      (fun s e a n o => newtonEnc m f.rm.toNat (k s e a n) (f.imm.getLsbD 0) (v o 0) (v o 1) (arg o 1))
      (some fun _ y t => tanEnc m (if f.imm.getLsbD 0 then (fvOf m y).rsqTan (w t 0) else (fvOf m y).rcpTan (w t 0)))

/-- Vector floating-point words and special functions. -/
def Obligations.VectorFloatAndFunctions : Prop := VectorFloat ∧ VectorFunctions

/-! ## Rows -/

/-- VSUMR, VMAXR and VSCAN (R153, R154): each row, or the whole tile with ALL, reduced to element j, or scanned, in the
destination's format and in the order of RED; other elements of the destination keep their contents. -/
def Sys2Proof.Cert.RowWords : Prop :=
  ∀ f : FmtA,
    let m := f.f1.toNat
    let j := (f.imm.extractLsb' 0 8).toNat
    let all := f.imm.getLsbD 8
    let D := fun (s : State) (a : Active) => a.pass.rd s.tick f.dst
    let X := fun (s : State) (a : Active) => a.pass.rd s.tick f.sa
    let rows := fun (s : State) (a : Active) => if X s a = 0 then dRows (D s a) else dRows (X s a)
    let epr := fun (s : State) (a : Active) => if X s a = 0 then 1 else dEpr (X s a)
    let src := fun (s : State) (e : Nat) (a : Active) => redRows all (s.tile e a.pass (rows s a) (epr s a) (X s a))
    let tsrc := fun (s : State) (e : Nat) (a : Active) (t : Nat) =>
      redRows all (s.tanTile e a.pass (s.shadowStride e a.fr.op) t (rows s a) (epr s a) (X s a))
    let ready := fun (s : State) (e : Nat) (a : Active) =>
      s.vecFault e a [D s a] [X s a] (decide (m ≤ 7)) = none ∧ accOk m (dFmt (D s a)) = true ∧
        dGs (D s a) = 0 ∧ j < dEpr (D s a) ∧ (X s a ≠ 0 → dFmt (X s a) = m ∧ dGs (X s a) = 0) ∧
        (all = true ∨ rows s a = dRows (D s a)) ∧ s.tileEcc e [X s a] = none
    let reduces := fun (i : Instr) (g : Nat → List Nat → Nat) (tn : Nat → List Nat → List Nat → Nat) =>
      PassGives i ready fun s e a =>
        let df := dFmt (D s a)
        let wide := (src s e a).map (·.map (widenEnc m df))
        s.writeDual e a.pass (s.shadowStride e a.fr.op) (D s a)
          (a.pass.masked f (wide.map fun row => List.replicate j none ++ [some (g df row)]))
          (if m ≤ 7 then some fun t => (wide.zip ((tsrc s e a t).map
              (·.map fun x => if m ≤ 7 then convEnc (tanFmt m) (tanFmt df) 0 0 x else 0))).map
            fun (v, w) => List.replicate j 0 ++ [tn df v w] else none)
    reduces (.vsumr f) (fun df => reduceEnc df f.rm.toNat f.red.toNat) (fun df _ w => reduceEnc (tanFmt df) 0 f.red.toNat w) ∧
    reduces (.vmaxr f)
      (fun df v =>
        let x := (bestOf (!f.imm.getLsbD 9) df v).2
        if df ≤ 7 then encFloat df 0 0 (fvOf df x).quiet else x)
      (fun df v w => w.getD (bestOf (!f.imm.getLsbD 9) df v).1 0) ∧
    PassGives (.vscan f)
      (fun s e a => s.vecFault e a [D s a] [X s a] (decide (m ≤ 7)) = none ∧ accOk m (dFmt (D s a)) = true ∧
        dGs (D s a) = 0 ∧ srcOk (X s a) m (dRows (D s a)) (dEpr (D s a)) = true ∧ s.tileEcc e [X s a] = none)
      (fun s e a =>
        let df := dFmt (D s a)
        let str := s.shadowStride e a.fr.op
        let excl := f.imm.getLsbD 0
        s.writeDual e a.pass str (D s a)
          (a.pass.masked f ((s.tile e a.pass (dRows (D s a)) (dEpr (D s a)) (X s a)).map fun row =>
            (scanEnc df f.rm.toNat f.red.toNat excl (row.map (widenEnc m df))).map some))
          (if m ≤ 7 then some fun t => (s.tanTile e a.pass str t (dRows (D s a)) (dEpr (D s a)) (X s a)).map fun row =>
            scanEnc (tanFmt df) 0 f.red.toNat excl (row.map fun x => convEnc (tanFmt m) (tanFmt df) 0 0 x) else none)) ∧
    reduceEnc 1 0 0 [0x3F800000, 0x33800000, 0x33800000, 0xBF800000] = 0x33800000 ∧
    reduceEnc 1 0 1 [0x3F800000, 0x33800000, 0x33800000, 0xBF800000] = 0 ∧
    reduceEnc 1 0 2 [0x3F800000, 0x33800000, 0x33800000, 0xBF800000] = 0x34000000

/-- VBCST, VLSH, VPERM and VTRN (R155–R158) move elements with their tangents and change none of their bits; a position
without a source takes the filling of its policy. -/
def Sys2Proof.Cert.MoveWords : Prop :=
  ∀ f : FmtA,
    let m := f.f1.toNat
    let j := (f.imm.extractLsb' 0 8).toNat
    let ep := (f.imm.extractLsb' 9 2).toNat
    let D := fun (s : State) (a : Active) => a.pass.rd s.tick f.dst
    let X := fun (s : State) (a : Active) => a.pass.rd s.tick f.sa
    let Y := fun (s : State) (a : Active) => a.pass.rd s.tick f.sb
    let ready := fun (s : State) (e : Nat) (a : Active) (src : List Word) =>
      s.vecFault e a [D s a] src true = none ∧ dFmt (D s a) = m ∧ dGs (D s a) = 0 ∧ s.tileEcc e src = none
    let moves := fun (i : Instr) (H : State → Nat → Active → Prop) (rows cols : State → Active → Nat)
        (pos : State → Nat → Active → Nat → Nat → Option (Nat × Nat)) (fill : Option Nat) =>
      PassGives i H fun s e a =>
        s.vecMove e a f (D s a) (s.tile e a.pass (rows s a) (cols s a) (X s a))
          (fun t => s.tanTile e a.pass (s.shadowStride e a.fr.op) t (rows s a) (cols s a) (X s a)) (pos s e a) fill
    let srcRows := fun (s : State) (a : Active) => if X s a = 0 then 64 else dRows (X s a)
    (f.imm.extractLsb' 8 2 = 0 → moves (.vbcst f)
      (fun s e a => ready s e a [X s a] ∧ srcOk (X s a) m (dRows (D s a)) (dEpr (D s a)) = true ∧ j < dEpr (D s a))
      srcRows (fun s a => dEpr (D s a)) (fun _ _ _ r _ => some (r, j)) none) ∧
    (f.imm.extractLsb' 8 2 = 1 → moves (.vbcst f)
      (fun s e a => ready s e a [X s a] ∧ j < srcRows s a ∧
        (X s a ≠ 0 → dFmt (X s a) = m ∧ dGs (X s a) = 0 ∧ dEpr (X s a) = dEpr (D s a)))
      srcRows (fun s a => dEpr (D s a)) (fun _ _ _ _ i => some (j, i)) none) ∧
    (f.imm.extractLsb' 8 2 = 2 → PassGives (.vbcst f) (fun s e a => ready s e a []) fun s e a =>
      s.vecMove e a f (D s a) [[(X s a).toNat % 2 ^ fmtBits m]]
        (fun t => [[(a.pass.rdSh f.sa t).toNat % 2 ^ tanBits m]]) (fun _ _ => some (0, 0)) none) ∧
    moves (.vlsh f) (fun s e a => ready s e a [X s a] ∧ srcOk (X s a) m (dRows (D s a)) (dEpr (D s a)) = true)
      (fun s a => dRows (D s a)) (fun s a => dEpr (D s a))
      (fun s _ a r i => (epIndex ep (dEpr (D s a)) ((i : Int) - ((f.imm.extractLsb' 0 9).toInt + (Y s a).toInt))).map
        fun k => (r, k)) (epFill ep m) ∧
    moves (.vperm f)
      (fun s e a => ready s e a [X s a, Y s a] ∧ srcOk (X s a) m (dRows (D s a)) (dEpr (D s a)) = true ∧
        srcOk (Y s a) (dFmt (Y s a)) (dRows (D s a)) (dEpr (D s a)) = true ∧
        (Y s a = 0 ∨ dFmt (Y s a) = 9 ∨ dFmt (Y s a) = 12))
      (fun s a => dRows (D s a)) (fun s a => dEpr (D s a))
      (fun s e a r i => (epIndex ep (dEpr (D s a)) (intVal (if Y s a = 0 then 12 else dFmt (Y s a))
        (at2 (s.tile e a.pass (dRows (D s a)) (dEpr (D s a)) (Y s a)) r i))).map fun k => (r, k)) (epFill ep m) ∧
    moves (.vtrn f)
      (fun s e a => ready s e a [X s a] ∧ (X s a ≠ 0 → dFmt (X s a) = m ∧ dGs (X s a) = 0 ∧ dEpr (X s a) ≤ 64 ∧
        dRows (D s a) = dEpr (X s a) ∧ dEpr (D s a) = dRows (X s a)))
      (fun s a => dEpr (D s a)) (fun s a => dRows (D s a)) (fun _ _ _ r i => some (i, r)) none


/-- Row words and tile moves. -/
def Obligations.RowAndMoveWords : Prop := RowWords ∧ MoveWords

/-! ## Quantisation (R159, R160) -/

/-- VQNT and VDQNT: blocks of a row quantised into elements and scale entries, and elements with their scales rounded into a
plain format; an empty element stays empty under VDQNT. -/
def Sys2Proof.Cert.QuantiseWords : Prop :=
  ∀ f : FmtA,
    let m := f.f1.toNat
    let n := f.f2.toNat
    let D := fun (s : State) (a : Active) => a.pass.rd s.tick f.dst
    let X := fun (s : State) (a : Active) => a.pass.rd s.tick f.sa
    let el := fun (s : State) (e : Nat) (a : Active) => s.tile e a.pass (dRows (D s a)) (dEpr (D s a)) (X s a)
    let tn := fun (s : State) (e : Nat) (a : Active) (t : Nat) =>
      s.tanTile e a.pass (s.shadowStride e a.fr.op) t (dRows (D s a)) (dEpr (D s a)) (X s a)
    let k := fun (s : State) (e : Nat) (a : Active) (i : Nat) => if f.rm = 4 then s.sr e a 0 i else 0
    (n ≤ 7 → f.sc = 56 → f.imm.getLsbD 1 = false →
      let blocks := fun (s : State) (e : Nat) (a : Active) => (el s e a).zipIdx.map fun (row, r) =>
        ((blocksOf (dGroups (D s a)) (gsSize (dGs (D s a))) (row.map (fvOf m))).zip
          (blocksOf (dGroups (D s a)) (gsSize (dGs (D s a)))
            ((List.range (dEpr (D s a))).map fun i => k s e a (r * dEpr (D s a) + i)))).map
          fun (b, ks) => quantMx n f.rm.toNat ks b
      PassGives (.vqnt f)
        (fun s e a => s.vecFault e a [D s a] [X s a] (f.imm.getLsbD 0) = none ∧ dFmt (D s a) = n ∧ dGs (D s a) = 1 ∧
          dMx (D s a) = true ∧ srcOk (X s a) m (dRows (D s a)) (dEpr (D s a)) = true ∧ s.tileEcc e [X s a] = none)
        fun s e a =>
          let b := blocks s e a
          (s.writeDual e a.pass (s.shadowStride e a.fr.op) (D s a)
            (a.pass.masked f (b.map fun bs => (bs.flatMap (·.q)).map some))
            (some fun t => if f.imm.getLsbD 0 then tn s e a t else [])).holdCells
            (b.zipIdx.flatMap fun (bs, r) =>
              if a.pass.rowOn f r then
                bs.zipIdx.map fun (q, g) => (s.scaleHome e (D s a) r g, BitVec.ofNat 8 q.scale)
              else [])) ∧
    PassGives (.vdqnt f)
      (fun s e a => s.vecFault e a [D s a] [X s a] true = none ∧ dFmt (D s a) = n ∧ dGs (D s a) = 0 ∧
        (X s a ≠ 0 → dFmt (X s a) = m ∧ dRows (X s a) = dRows (D s a) ∧ dEpr (X s a) = dEpr (D s a)) ∧
        s.tileEcc e [X s a] = none)
      (fun s e a =>
        let x := X s a
        let vals := s.tileVals e a.pass (dRows (D s a)) (dEpr (D s a)) x
        s.writeDual e a.pass (s.shadowStride e a.fr.op) (D s a)
          (a.pass.masked f (vals.zipIdx.map fun (row, r) => row.zipIdx.map fun (v, i) =>
            let bad := x != 0 && dGs x != 0 && scaleBad (dMx x) (s.scaleOf e a.pass x r (i / gsSize (dGs x)))
            if x ≠ 0 ∧ isEmptyEnc m (at2 (el s e a) r i) ∧ bad = false then some ((fmtEmpty n).getD 0)
            else some (encFloat n f.rm.toNat (k s e a (r * dEpr (D s a) + i)) v)))
          (some (tn s e a)))

/-- The integer form of VQNT, and its form with a status tile, complete on the operands that R159 accepts; each integer group
draws one free value. -/
def Sys2Proof.Cert.QuantiseCompletes : Prop :=
  ∀ (f : FmtA) (s : State) (e sl : Nat) (a : Active), InPass s e sl a →
    let d := a.pass.rd s.tick f.dst
    let x := a.pass.rd s.tick f.sa
    let y := a.pass.rd s.tick f.sc
    let stat := f.sc ≠ 56
    s.vecFault e a (if stat then [d, y] else [d]) [x] (f.imm.getLsbD 0) = none → dFmt d = f.f2.toNat →
    (if f.f2.toNat ≤ 7 then dGs d = 1 else 1 ≤ dGs d) → srcOk x f.f1.toNat (dRows d) (dEpr d) = true →
    (stat → dFmt y = 12 ∧ dGs y = 0 ∧ dRows y = dRows d) → s.tileEcc e [x] = none →
    ∃ p : Pass, p.r = a.pass.r ∧ (∃ l, p.b = { a.pass.b with held := a.pass.b.held ++ l }) ∧
      exec (.vqnt f) s = .next ({ s with free := s.free + (if dMx d then 0 else dRows d * dGroups d) }.setPass e sl a p)

/-- The quantisation words: what they write, and that they complete. -/
def Obligations.QuantiseAndCompletion : Prop := QuantiseWords ∧ QuantiseCompletes

/-! ## Carry-chained integers and selection (R161–R164) -/

/-- VADDC, VMULW and VTOPK: sums and products of multi-limb numbers, and the selected elements with their indices. -/
def Obligations.LimbAndRankWords : Prop :=
  ∀ f : FmtA,
    let D := fun (s : State) (a : Active) => a.pass.rd s.tick f.dst
    let X := fun (s : State) (a : Active) => a.pass.rd s.tick f.sa
    let Y := fun (s : State) (a : Active) => a.pass.rd s.tick f.sb
    let n := 2 ^ (f.imm.extractLsb' 0 3).toNat
    let nums := fun (s : State) (e : Nat) (a : Active) (rows epr : Nat) (d : Word) =>
      limbGroups n (s.tile e a.pass rows epr d)
    (let rows := fun (s : State) (a : Active) => dRows (D s a)
     let epr := fun (s : State) (a : Active) => dEpr (D s a)
     let ready := fun (s : State) (e : Nat) (a : Active) =>
       s.vecFault e a [D s a] [X s a, Y s a] false = none ∧ dFmt (D s a) = 8 ∧ dGs (D s a) = 0 ∧
         srcOk (X s a) 8 (rows s a) (epr s a) = true ∧ srcOk (Y s a) 8 (rows s a) (epr s a) = true ∧
         rows s a * epr s a % n = 0 ∧
         (f.imm.getLsbD 4 = true ∨ f.imm.getLsbD 5 = true → rows s a * epr s a / n ≤ 64) ∧
         s.tileEcc e [X s a, Y s a] = none
     let mask := fun (a : Active) => tget 0 a.pass.r.m f.ms.toNat
     let sums : State → Nat → Active → List Int := fun s e a =>
       ((nums s e a (rows s a) (epr s a) (X s a)).zip (nums s e a (rows s a) (epr s a) (Y s a))).zipIdx.map
         fun ((u, v), i) =>
           let cin : Int := if f.imm.getLsbD 4 ∧ (mask a).getLsbD i then 1 else 0
           (if f.imm.getLsbD 3 then (u : Int) - v - cin else (u : Int) + v + cin : Int)
     let written := fun (s : State) (e : Nat) (a : Active) =>
       s.writeTile e a.pass (D s a) (limbTile n (rows s a) (epr s a) ((sums s e a).map fun z => (z % 2 ^ (32 * n)).toNat))
     (f.imm.getLsbD 5 = false → PassGives (.vaddc f) ready written) ∧
     (f.imm.getLsbD 5 = true → PassGives (.vaddc f) ready fun s e a =>
       let p := written s e a
       { p with r := { p.r with m := tset 0 p.r.m f.ms.toNat (BitVec.ofNat 64
         (packRow 1 ((sums s e a).map fun z => if z < 0 ∨ 2 ^ (32 * n) ≤ z then 1 else 0))) } })) ∧
    (let z := fun (s : State) (a : Active) => if X s a ≠ 0 then X s a else Y s a
     let rows := fun (s : State) (a : Active) => if z s a = 0 then 1 else dRows (z s a)
     let epr := fun (s : State) (a : Active) => if z s a = 0 then dRows (D s a) * dEpr (D s a) / 2 else dEpr (z s a)
     let val := fun (u : Nat) => if f.imm.getLsbD 3 then sintOf (32 * n) u else (u : Int)
     PassGives (.vmulw f)
       (fun s e a => s.vecFault e a [D s a] [X s a, Y s a] false = none ∧ dFmt (D s a) = 8 ∧ dGs (D s a) = 0 ∧
         srcOk (X s a) 8 (rows s a) (epr s a) = true ∧ srcOk (Y s a) 8 (rows s a) (epr s a) = true ∧
         rows s a * epr s a % n = 0 ∧ dRows (D s a) * dEpr (D s a) = 2 * rows s a * epr s a ∧
         s.tileEcc e [X s a, Y s a] = none)
       fun s e a => s.writeTile e a.pass (D s a) (limbTile (2 * n) (dRows (D s a)) (dEpr (D s a))
         (((nums s e a (rows s a) (epr s a) (X s a)).zip (nums s e a (rows s a) (epr s a) (Y s a))).map
           fun (u, v) => (val u * val v % 2 ^ (64 * n)).toNat))) ∧
    (let m := f.f1.toNat
     let k := (f.imm.extractLsb' 0 8).toNat + 1
     let epr := fun (s : State) (a : Active) => if X s a = 0 then k else dEpr (X s a)
     let str := fun (s : State) (e : Nat) (a : Active) => s.shadowStride e a.fr.op
     PassGives (.vtopk f)
       (fun s e a => s.vecFault e a [D s a, Y s a] [X s a] (decide (m ≤ 7)) = none ∧ dFmt (D s a) = m ∧ dGs (D s a) = 0 ∧
         dGs (Y s a) = 0 ∧ (dFmt (Y s a) = 9 ∨ dFmt (Y s a) = 12) ∧ dRows (Y s a) = dRows (D s a) ∧
         k ≤ dEpr (D s a) ∧ k ≤ dEpr (Y s a) ∧ k ≤ epr s a ∧ srcOk (X s a) m (dRows (D s a)) (epr s a) = true ∧
         dLoc (X s a) = 0 ∧ s.tileEcc e [X s a] = none)
       fun s e a =>
         let t := s.tile e a.pass (dRows (D s a)) (epr s a) (X s a)
         let sel := t.map fun row => (topOrder (f.imm.getLsbD 8) m row).take k
         s.writeTile e
           (s.writeDual e a.pass (str s e a) (D s a)
             (a.pass.masked f ((t.zip sel).map fun (row, ix) => ix.map fun i => some (row.getD i 0)))
             (if m ≤ 7 then some fun q =>
               ((s.tanTile e a.pass (str s e a) q (dRows (D s a)) (epr s a) (X s a)).zip sel).map fun (row, ix) =>
                 ix.map fun i => row.getD i 0 else none))
           (Y s a) (a.pass.masked f (sel.map (·.map some))))

/-! ## The multiply array (R167–R183) -/

/-- An accumulator element reads back what was written to it in the same view, and no other element changes; two FP32
elements are one FP64 element (R167). -/
def Sys2Proof.Cert.AccumulatorReadsBack : Prop :=
  ∀ (p : Pass) (i r j i' r' j' v : Nat), i < 8 → r < 64 → i' < 8 → r' < 64 →
    (j < 64 → (p.accWr 1 i r j v).accRd 1 i r j = v % 2 ^ 32) ∧
    (j < 32 → (p.accWr 0 i r j v).accRd 0 i r j = v % 2 ^ 64) ∧
    (j < 32 → (p.accWr 0 i r j v).accRd 1 i r (2 * j) = v % 2 ^ 32 ∧
      (p.accWr 0 i r j v).accRd 1 i r (2 * j + 1) = v / 2 ^ 32 % 2 ^ 32) ∧
    (j < 64 → j' < 64 → (i, r, j) ≠ (i', r', j') → (p.accWr 1 i r j v).accRd 1 i' r' j' = p.accRd 1 i' r' j') ∧
    (p.accWr 1 i r j v).b = p.b ∧ (p.accWr 1 i r j v).r.w = p.r.w ∧ (p.accWr 1 i r j v).r.lanes = p.r.lanes

/-- The slabs of an operand (R169) when every one passes its checks. -/
def Sys2Proof.Cert.slabsReady (s : State) (e : Nat) (a : Active) (d : Word) (adv : Nat) (ks : List Nat) (l : List Word) : Prop :=
  slabsOf (s.nmemOf e) (s.shadowStride e a.fr.op) a.pass.kp d adv ks = .ok l

/-- MMA, MMAQ, MMAX and MMAG (R173–R180): on operands that pass their checks the next step of a slab, or group, is taken, the primal
product or one of a tangent (R215), and the word is done with the last of them (R184); with an operand that is the zero
descriptor nothing is added, once the other checks pass (R170). -/
def Sys2Proof.Cert.ProductWords : Prop :=
  ∀ f : FmtA,
    let DA := fun (s : State) (a : Active) => a.pass.rd s.tick f.sa
    let DB := fun (s : State) (a : Active) => a.pass.rd s.tick f.sb
    let PW := fun (s : State) (a : Active) => a.pass.rd s.tick f.sc
    let acc := f.dst.toNat - 44
    let isAcc := 44 ≤ f.dst.toNat ∧ f.dst.toNat < 52
    let cols := fun (s : State) (a : Active) => if pwBtr (PW s a) then dRows (DB s a) else dEpr (DB s a)
    let region := fun (s : State) (a : Active) (view rows cols : Nat) =>
      pwRow (PW s a) + rows ≤ 64 ∧ pwCol (PW s a) + cols ≤ viewCols view
    let fits := fun (s : State) (a : Active) (view rows : Nat) =>
      (if pwBtr (PW s a) then dEpr (DB s a) = dEpr (DA s a) else dRows (DB s a) = dEpr (DA s a)) ∧ region s a view rows (cols s a)
    let ks := fun (s : State) (a : Active) =>
      if DA s a ≠ 0 then dEpr (DA s a) else if DB s a = 0 then 0 else if pwBtr (PW s a) then dEpr (DB s a) else dRows (DB s a)
    let next := fun (a : Active) (n : Nat) => if a.pass.step + 1 < n then a.pass.step + 1 else 0
    let n := fun (a : Active) (op : MmOp) => op.subs a.pass.kp
    let gives := fun (i : Instr) (okA okB : Word → Prop) (more : State → Active → Prop) (op : State → Nat → Active → MmOp) =>
      ∀ la lb : List Word,
        PassGives i
          (fun s e a => isAcc ∧ pwOk (PW s a) = true ∧ DA s a ≠ 0 ∧ DB s a ≠ 0 ∧ okA (DA s a) ∧ okB (DB s a) ∧
            slabsReady s e a (DA s a) (pwAstr (PW s a)) (List.range (pwSlabs (PW s a))) la ∧
            slabsReady s e a (DB s a) (pwBstr (PW s a)) (List.range (pwSlabs (PW s a))) lb ∧
            fits s a (op s e a).view (dRows (DA s a)) ∧ more s a ∧
            s.tileEcc e [la.getD (a.pass.step / n a (op s e a)) 0, lb.getD (a.pass.step / n a (op s e a)) 0] = none)
          (fun s e a =>
            let k := n a (op s e a)
            { a.pass.mmStep (op s e a) (a.pass.step % k)
                (s.slabVals e a (la.getD (a.pass.step / k) 0) (lb.getD (a.pass.step / k) 0)) acc
                (pwRow (PW s a)) (pwCol (PW s a)) (cols s a)
                (((List.range (dRows (DA s a))).filter (a.pass.rowOn f)).map fun r => (r, r)) with
              step := next a (la.length * k) }) ∧
        PassGives i
          (fun s e a => isAcc ∧ pwOk (PW s a) = true ∧ (DA s a = 0 ∧ (DB s a = 0 ∨ okB (DB s a)) ∨
              DB s a = 0 ∧ (DA s a = 0 ∨ okA (DA s a))) ∧
            slabsReady s e a (DA s a) (pwAstr (PW s a)) (List.range (pwSlabs (PW s a))) la ∧
            slabsReady s e a (DB s a) (pwBstr (PW s a)) (List.range (pwSlabs (PW s a))) lb ∧
            region s a (op s e a).view (dRows (DA s a)) (if DB s a = 0 then 1 else cols s a) ∧ more s a)
          (fun _ _ a => a.pass)
    let fa := f.f1.toNat
    let fb := f.f2.toNat
    let view := if fa = 0 then 0 else if 10 ≤ fa then 8 else 1
    let kg := if fa = 0 then 4 else if fa = 1 then 8 else 16
    let plainOp := fun (s : State) (_ : Nat) (a : Active) =>
      (⟨view, kg, dEpr (DA s a), prodTerms (pwBtr (PW s a)), prodTans (pwBtr (PW s a)), decide (fa < 10), true⟩ : MmOp)
    gives (.mma f) (fun d => dFmt d = fa ∧ dGs d = 0) (fun d => dFmt d = fb ∧ dGs d = 0) (fun _ _ => True) plainOp ∧
    gives (.mmaq f) (fun d => dFmt d = fa ∧ dGs d = 0) (fun d => dFmt d = fb ∧ 1 ≤ dGs d)
      (fun s a => pwBtr (PW s a) = true ∧ (DB s a = 0 ∨ ks s a % gsSize (dGs (DB s a)) = 0))
      (fun s e a =>
        let sc := s.scaleOf e a.pass (DB s a)
        let g := gsSize (dGs (DB s a))
        ⟨1, g, dEpr (DA s a), fun v i j l => mmaqTerms v.rb sc fb g (vat v.a i) j l,
          fun v t i j l => mmaqTerms v.rb sc fb g (vat (v.ta t) i) j l, decide (fa < 10), false⟩) ∧
    gives (.mmax f) (fun d => dFmt d = fa ∧ dGs d = 1) (fun d => dFmt d = fb ∧ dGs d = 1)
      (fun s a => pwBtr (PW s a) = true ∧ ks s a % 32 = 0)
      (fun s _ a => ⟨1, 32, dEpr (DA s a), prodTerms (pwBtr (PW s a)), prodTans (pwBtr (PW s a)), true, true⟩) ∧
    (∀ (x : Word) (la lb : List Word),
      let cnt := fun (s : State) (a : Active) =>
        (List.range 8).map fun g => ((a.pass.rd s.tick (x.setWidth 6)).extractLsb' (8 * g) 8).toNat
      let live := fun (s : State) (a : Active) => (List.range 8).filter fun g => (cnt s a).getD g 0 != 0
      PassGives (.mmag f x)
        (fun s e a => isAcc ∧ DA s a ≠ 0 ∧ DB s a ≠ 0 ∧ live s a ≠ [] ∧ (cnt s a).sum ≤ dRows (DA s a) ∧
          pwOk (PW s a) = true ∧ (PW s a).extractLsb' 50 4 = 0 ∧ pwAstr (PW s a) = 0 ∧
          slabsReady s e a (DA s a) 0 [0] la ∧ slabsReady s e a (DB s a) (pwBstr (PW s a)) (live s a) lb ∧
          dFmt (DA s a) = fa ∧ dGs (DA s a) = 0 ∧ dFmt (DB s a) = fb ∧ dGs (DB s a) = 0 ∧
          fits s a view (cnt s a).sum ∧ s.tileEcc e [DA s a, lb.getD (a.pass.step / n a (plainOp s e a)) 0] = none)
        (fun s e a =>
          let k := n a (plainOp s e a)
          let g := (live s a).getD (a.pass.step / k) 0
          { a.pass.mmStep (plainOp s e a) (a.pass.step % k)
              (s.slabVals e a (DA s a) (lb.getD (a.pass.step / k) 0)) acc (pwRow (PW s a)) (pwCol (PW s a)) (cols s a)
              ((List.range ((cnt s a).getD g 0)).map fun i => (((cnt s a).take g).sum + i, ((cnt s a).take g).sum + i)) with
            step := next a ((live s a).length * k) }) ∧
      PassGives (.mmag f x)
        (fun s e a => isAcc ∧ (DA s a = 0 ∨ DB s a = 0 ∨ live s a = []) ∧
          (cnt s a).sum ≤ (if DA s a = 0 then 64 else dRows (DA s a)) ∧
          pwOk (PW s a) = true ∧ (PW s a).extractLsb' 50 4 = 0 ∧ pwAstr (PW s a) = 0 ∧
          slabsReady s e a (DA s a) 0 [0] la ∧ slabsReady s e a (DB s a) (pwBstr (PW s a)) (live s a) lb ∧
          (DA s a = 0 ∨ dFmt (DA s a) = fa ∧ dGs (DA s a) = 0) ∧
          (live s a = [] ∨ DB s a = 0 ∨ dFmt (DB s a) = fb ∧ dGs (DB s a) = 0) ∧
          region s a view (cnt s a).sum (if live s a = [] ∨ DB s a = 0 then 1 else cols s a))
        (fun _ _ a => a.pass) ∧
      PassTraps (.mmag f x) (fun s _ a => isAcc ∧
        ((if DA s a = 0 then 64 else dRows (DA s a)) < (cnt s a).sum ∨ 64 < pwRow (PW s a) + (cnt s a).sum)) cRagged)

/-- One K-group of a product (R71, R176): for an integer view the accumulator element becomes itself plus the products, modulo
2^32; for a floating view the exact sum is rounded once, to nearest even, and no NaN keeps a payload. -/
def Sys2Proof.Cert.KGroupSum : Prop :=
  ∀ (p : Pass) (op : MmOp) (i r j : Nat) (terms : List Nat → List FV), 0 < op.kg → op.ks ≤ op.kg → 0 < op.ks →
    (op.view = 8 → ∀ z : List Int, terms (List.range op.ks) = z.map FV.ofInt →
      p.mmElem op i r j terms =
        p.accWr 8 i r j ((((p.accRd 8 i r j : Nat) : Int) + z.sum) % 2 ^ 32).toNat) ∧
    (op.view = 0 ∨ op.view = 1 →
      p.mmElem op i r j terms = p.accWr op.view i r j (
        let v := (terms (List.range op.ks)).foldl (FV.add 0) (fvOf op.view (p.accRd op.view i r j))
        encFloat op.view 0 0 (if v.isNan then .dnan else v)))

/-- The products of the matrix unit and the sum of a k-group. -/
def Obligations.MatrixProducts : Prop := ProductWords ∧ KGroupSum

/-- MZRO, MLDQ and MSTQ (R181–R183): rows cleared with their shadows, a tile converted into an accumulator region, and a
region converted into a tile. -/
def Sys2Proof.Cert.AccumulatorWords : Prop :=
  ∀ f : FmtA,
    let D := fun (s : State) (a : Active) => a.pass.rd s.tick f.sa
    let O := fun (s : State) (a : Active) => a.pass.rd s.tick f.dst
    let PW := fun (s : State) (a : Active) => a.pass.rd s.tick f.sc
    let acc := f.dst.toNat - 44
    let isAcc := fun (sp : Spec) => 44 ≤ sp.toNat ∧ sp.toNat < 52
    let str := fun (s : State) (e : Nat) (a : Active) => s.shadowStride e a.fr.op
    let fits := fun (d pw : Word) (view : Nat) =>
      pw.extractLsb' 12 52 = 0 ∧ pwRow pw + dRows d ≤ 64 ∧ pwCol pw + dEpr d ≤ viewCols view
    PassGives (.mzro f) (fun _ _ _ => isAcc f.dst) (fun _ _ a =>
      let accs := acc :: a.pass.fireTans.map (a.pass.shadowAcc acc)
      { a.pass with r := { a.pass.r with q := a.pass.r.q.filter fun c =>
        !(decide (c.1 / 4096 ∈ accs) && a.pass.rowOn f (c.1 / 64 % 64)) } }) ∧
    (let m := f.f1.toNat
     let view := f.f2.toNat
     let put := fun (s : State) (a : Active) (q : Pass) (i : Nat) (g : Nat → Nat → Nat) =>
       ((cellsOf (dRows (D s a)) (dEpr (D s a))).filter fun (r, _) => a.pass.rowOn f r).foldl
         (fun q (r, c) => q.accWr view i (pwRow (PW s a) + r) (pwCol (PW s a) + c) (g r c)) q
     PassGives (.mldq f)
       (fun s e a => isAcc f.dst ∧ s.vecFault e a [] [D s a] (decide (m ≤ 7)) = none ∧ D s a ≠ 0 ∧ dFmt (D s a) = m ∧
         dGs (D s a) = 0 ∧ fits (D s a) (PW s a) view ∧ s.tileEcc e [D s a] = none)
       fun s e a =>
         let t := s.tile e a.pass (dRows (D s a)) (dEpr (D s a)) (D s a)
         a.pass.fireTans.foldl (fun q n =>
           let tt := if a.pass.kp = 0 ∨ view = 8 then [] else
             s.tanTile e a.pass (str s e a) n (dRows (D s a)) (dEpr (D s a)) (D s a)
           put s a q (a.pass.shadowAcc acc n) fun r c =>
             if view = 8 ∨ isEmptyEnc m (at2 t r c) then 0 else convEnc (tanFmt m) (tanFmt view) 0 0 (at2 tt r c))
           (put s a a.pass acc fun r c => convEnc m view 0 0 (at2 t r c))) ∧
    (let view := f.f1.toNat
     let n := f.f2.toNat
     let src := f.sa.toNat - 44
     PassGives (.mstq f)
       (fun s e a => isAcc f.sa ∧ s.vecFault e a [O s a] [] false = none ∧ dFmt (O s a) = n ∧ dGs (O s a) = 0 ∧
         fits (O s a) (PW s a) view)
       fun s e a =>
         let el := fun i r c => a.pass.accRd view i (pwRow (PW s a) + r) (pwCol (PW s a) + c)
         s.writeDual e a.pass (str s e a) (O s a)
           (a.pass.masked f (grid (dRows (O s a)) (dEpr (O s a)) fun r c => some (convEnc view n f.rm.toNat
             (if f.rm = 4 then s.sr e a 0 (r * dEpr (O s a) + c) else 0) (el src r c))))
           (some fun t => grid (dRows (O s a)) (dEpr (O s a)) fun r c =>
             if view = 8 then 0 else convEnc (tanFmt view) (tanFmt n) 0 0 (el (a.pass.shadowAcc src t) r c)))

/-- The accumulator words, and what an accumulator reads back as. -/
def Obligations.Accumulators : Prop := AccumulatorWords ∧ AccumulatorReadsBack

/-! ## The Abacus (R76–R78, R186–R191) -/

/-- A lane adds values exactly: the order of two additions of finite numbers does not matter, and infinities and NaNs only
set its flags; a lane that has been exported and merged into an empty lane is the same lane (R76, R78). -/
def Sys2Proof.Cert.LaneArithmetic : Prop :=
  ∀ (l : Lane) (x y : FV),
    ((l.add x).add y = (l.add y).add x) ∧
    (Lane.merge {} (l.image.map BitVec.toNat) = l) ∧
    (l.add (.inf false) = { l with pinf := true }) ∧ (l.add (.inf true) = { l with ninf := true })

/-- ABX.CLR, ABX.ADD, ABX.DOT, ABX.RND, ABX.OUT and ABX.MRG (R188–R191) on operands that pass their checks. -/
def Sys2Proof.Cert.AbacusWords : Prop :=
  ∀ f : FmtA,
    let D := fun (s : State) (a : Active) => a.pass.rd s.tick f.dst
    let X := fun (s : State) (a : Active) => a.pass.rd s.tick f.sa
    let Y := fun (s : State) (a : Active) => a.pass.rd s.tick f.sb
    let first := (f.imm.extractLsb' 0 7).toNat
    let n := 2 ^ (f.imm.extractLsb' 7 4).toNat
    let inRange := fun (a : Active) => first + n ≤ 128 / (a.pass.kfire + 1)
    let lane := fun (a : Active) (i t : Nat) => t * (128 / (a.pass.kfire + 1)) + i
    let all := fun (a : Active) => 0 :: (List.range a.pass.kfire).map (· + 1)
    let str := fun (s : State) (e : Nat) (a : Active) => s.shadowStride e a.fr.op
    let same := fun (_ : State) (a : Active) (x : Word) (m : Nat) (z : Word) =>
      x ≠ 0 ∧ dFmt x = m ∧ dRows x = dRows z ∧ dEpr x = dEpr z ∧
        laneTop f (dRows z) (dEpr z) < 128 / (a.pass.kfire + 1)
    let adds := fun (s : State) (e : Nat) (a : Active) (ops : List (Word × Nat)) (val : List FV → FV)
        (tan : List FV → List FV → List FV) =>
      let rows := dRows (X s a)
      let epr := dEpr (X s a)
      ((cellsOf rows epr).filter fun (r, _) => a.pass.rowOn f r).foldl (fun q (r, i) =>
        let xs := ops.map fun x => vat (s.tileVals e a.pass rows epr x.1) r i
        let gone := ops.any fun x => isEmptyEnc x.2 (at2 (s.tile e a.pass rows epr x.1) r i)
        q.laneAdd (decide (a.pass.kp ≠ 0) && ops.any fun x => decide (x.2 ≤ 7)) (laneOf f r i) (if f.imm.getLsbD 9 && gone then none else some (val xs)) fun t =>
          tan xs (if t ∈ a.pass.tans then ops.map fun x =>
            vat ((s.tanTile e a.pass (str s e a) t rows epr x.1).map (·.map (tanVal (dFmt x.1)))) r i else [])) a.pass
    PassGives (.abxClr f) (fun _ _ a => inRange a)
      (fun _ _ a => (List.range n).foldl (fun q i =>
        (all a).foldl (fun q t => q.setLane (lane a (first + i) t) {}) q) a.pass) ∧
    PassGives (.abxAdd f)
      (fun s e a => s.vecFault e a [] [X s a] true = none ∧ same s a (X s a) f.f1.toNat (X s a) ∧
        s.tileEcc e [X s a] = none)
      (fun s e a => adds s e a [(X s a, f.f1.toNat)] (fun v => v.headD .zero) fun _ t => t) ∧
    PassGives (.abxDot f)
      (fun s e a => s.vecFault e a [] [X s a, Y s a] true = none ∧ same s a (X s a) f.f1.toNat (X s a) ∧
        same s a (Y s a) f.f2.toNat (X s a) ∧ s.tileEcc e [X s a, Y s a] = none)
      (fun s e a => adds s e a [(X s a, f.f1.toNat), (Y s a, f.f2.toNat)] (fun v => (v.getD 0 .zero).mul (v.getD 1 .zero))
        fun v t => [(t.getD 0 .zero).mul (v.getD 1 .zero), (v.getD 0 .zero).mul (t.getD 1 .zero)]) ∧
    PassGives (.abxAdd f) (fun s e a => X s a = 0 ∧ s.vecFault e a [] [0] true = none ∧ first < 128 / (a.pass.kfire + 1))
      (fun _ _ a => a.pass) ∧
    PassGives (.abxDot f)
      (fun s e a => Y s a = 0 ∧ s.vecFault e a [] [X s a, 0] true = none ∧ same s a (X s a) f.f1.toNat (X s a))
      (fun _ _ a => a.pass) ∧
    PassGives (.abxRnd f)
      (fun s e a => inRange a ∧ s.vecFault e a [D s a] [] false = none ∧ dFmt (D s a) = 1 ∧ dGs (D s a) = 0 ∧
        n ≤ dRows (D s a) * dEpr (D s a))
      (fun s e a =>
        let el := fun t => grid (dRows (D s a)) (dEpr (D s a)) fun r i =>
          if r * dEpr (D s a) + i < n then some (a.pass.lane (lane a (first + (r * dEpr (D s a) + i)) t)).rnd else none
        s.writeDual e a.pass (str s e a) (D s a) (el 0) (some fun t => (el t).map (·.map (·.getD 0)))) ∧
    PassGives (.abxOut f)
      (fun s e a => inRange a ∧ s.imageFault e a (D s a) n a.pass.fireTans = none ∧ D s a ≠ 0 ∧ dLoc (D s a) = 0)
      (fun s e a => (all a).foldl (fun q t =>
        s.writeTile e q (imageDesc (D s a) (str s e a) t) ((List.range n).map fun j =>
          (if t ≠ 0 ∧ a.pass.kp = 0 then List.replicate 96 0 else (a.pass.lane (lane a (first + j) t)).image).map
            fun b => some b.toNat)) a.pass) ∧
    PassGives (.abxMrg f)
      (fun s e a => inRange a ∧ X s a ≠ 0 ∧ s.imageFault e a (X s a) n a.pass.tans = none ∧ s.tileEcc e [X s a] = none)
      (fun s e a => (all a).foldl (fun q t =>
        (List.range n).foldl (fun q j =>
          let i := lane a (first + j) t
          q.setLane i (if t ≠ 0 ∧ a.pass.kp = 0 then {} else
            (q.lane i).merge ((s.tile e a.pass n 96 (imageDesc (X s a) (str s e a) t)).getD j []))) q) a.pass) ∧
    PassGives (.abxMrg f) (fun s _ a => inRange a ∧ X s a = 0) (fun _ _ a => a.pass)

/-- The Abacus words and the exact arithmetic of a lane. -/
def Obligations.AbacusLanes : Prop := AbacusWords ∧ LaneArithmetic

/-! ## Tangents (R205–R209) -/

/-- DSEED, DTGET, DTSET and DTZRO: the tangents a pass carries are written, read and cleared; a tangent number that the pass
does not carry reads 0 and writes nothing. -/
def Obligations.TangentWords : Prop :=
  ∀ f : FmtA,
    let t := (f.imm.extractLsb' 0 3).toNat
    let D := fun (s : State) (a : Active) => a.pass.rd s.tick f.dst
    let X := fun (s : State) (a : Active) => a.pass.rd s.tick f.sa
    let str := fun (s : State) (e : Nat) (a : Active) => s.shadowStride e a.fr.op
    let carries := fun (a : Active) => 1 ≤ t ∧ t ≤ a.pass.kfire
    let every := fun (a : Active) => (List.range a.pass.kfire).map (· + 1)
    let named := fun (a : Active) => if t = 0 then every a else a.pass.carried t
    (let m := f.f1.toNat
     let src := fun (s : State) (a : Active) => a.pass.maybeScal s.tick f.sa m (f.imm.getLsbD 3)
     let ready := fun (s : State) (e : Nat) (a : Active) =>
       s.seedFault e a (D s a) (if f.imm.getLsbD 3 then [] else [X s a]) (a.pass.carried t) [] = none ∧
         dFmt (D s a) < 8 ∧ (f.imm.getLsbD 3 = true ∨ srcOk (X s a) m (dRows (D s a)) (dEpr (D s a)) = true)
     PassGives (.dseed f) (fun s e a => ready s e a ∧ ¬ carries a) (fun _ _ a => a.pass) ∧
     PassGives (.dseed f)
       (fun s e a => ready s e a ∧ carries a ∧ s.tileEcc e (if f.imm.getLsbD 3 then [] else [X s a]) = none)
       fun s e a => s.writeTan e a.pass (str s e a) t (D s a) (a.pass.masked f
         (((src s a).vals s e a.pass (dRows (D s a)) (dEpr (D s a))).map fun row => row.map fun b =>
           some (if (fvOf m b).isNan then 0 else tanEnc (dFmt (D s a)) (fvOf m b))))) ∧
    (f.imm.getLsbD 4 = true →
      PassGives (.dtget f) (fun _ _ a => carries a) (fun _ _ a =>
        (a.pass.wr f.dst (a.pass.rdSh f.sa t)).wrShs f.dst 1 [0, 0, 0, 0]) ∧
      PassGives (.dtget f) (fun _ _ a => ¬ carries a) (fun _ _ a =>
        if a.pass.kfire = 0 then a.pass.wr f.dst 0 else (a.pass.wr f.dst 0).wrShs f.dst 1 [0, 0, 0, 0]) ∧
      PassGives (.dtzro f) always fun _ _ a => (named a).foldl (fun q n => q.wrSh f.dst n 0) a.pass) ∧
    (f.imm.getLsbD 4 = false →
      PassGives (.dtget f)
        (fun s e a => s.seedFault e a (D s a) [X s a] (every a) (a.pass.carried t) = none ∧ dFmt (D s a) = f.f1.toNat ∧
          dGs (D s a) = 0 ∧ (X s a ≠ 0 → dFmt (X s a) < 8 ∧ dRows (X s a) = dRows (D s a) ∧
            dEpr (X s a) = dEpr (D s a)) ∧ s.tileEcc e [X s a] = none)
        (fun s e a => s.writeDual e a.pass (str s e a) (D s a) (a.pass.masked f
          (grid (dRows (D s a)) (dEpr (D s a)) fun r i => some (encFloat f.f1.toNat f.rm.toNat
            (if f.rm = 4 then s.sr e a t (r * dEpr (D s a) + i) else 0)
            (tanVal (dFmt (X s a)) (at2 (if a.pass.carried t = [] then [] else
              s.tanTile e a.pass (str s e a) t (dRows (D s a)) (dEpr (D s a)) (X s a)) r i))))) none) ∧
      PassGives (.dtzro f) (fun s e a => s.seedFault e a (D s a) [] (named a) [] = none ∧ dGs (D s a) = 0)
        fun s e a => (named a).foldl (fun q n => s.writeTan e q (str s e a) n (D s a)
          (a.pass.masked f (grid (dRows (D s a)) (dEpr (D s a)) fun _ _ => some 0))) a.pass) ∧
    PassGives (.dtset f) (fun _ _ a => carries a) (fun s _ a => a.pass.wrSh f.dst t (X s a)) ∧
    PassGives (.dtset f) (fun _ _ a => ¬ carries a) (fun _ _ a => a.pass)


/-! ## Addresses and scalar accesses (R216, R219, R220, R236–R238, R247, R248) -/

/-- How a pass makes an access of a kind; its walk may have read of the page table what the pass has read ahead (R385). -/
def Sys2Proof.Cert.madeBy (e : Nat) (a : Active) (k : AccKind) : Via :=
  { by_ := .engine e, ctx := some a.fr.ctx, kind := k, pre := a.pass.pre }

/-- The address of a format M word (R236). -/
def Sys2Proof.Cert.wordAddr (s : State) (a : Active) (f : FmtM) : Word := a.pass.rd s.tick f.sa + f.off.signExtend 64

/-- The bytes of an access by its SIZE (R237). -/
def Sys2Proof.Cert.accessBytes (f : FmtM) : Nat := 2 ^ (f.size.toNat % 4)

/-- The scope at which a word acts: on paths 0x2 and 0x3 it is SYSTEM (R222). -/
def Sys2Proof.Cert.actScope (s : State) (a : Active) (f : FmtM) : Nat :=
  if addrPath (wordAddr s a f) = 2 ∨ addrPath (wordAddr s a f) = 3 then 4 else f.scope.toNat

/-- The acquire that ORD may ask for: 0 for none, else its scope plus one. -/
def Sys2Proof.Cert.acqCode (ord scope : Nat) : Nat := if ord % 2 = 1 then scope + 1 else 0

/-- The pass after it has read `keys`, with an acquire or without: it goes on once the effects it must see have acted (R222, R226), an
acquire voids what it has read ahead, and bounds its constant path (R230). -/
def Sys2Proof.Cert.afterAcquire (t : State) (e : Nat) (a : Active) (acq : Nat) (keys : List Nat) (q : Pass) : Pass :=
  let seen := t.seen (.engine e) acq keys
  let moment := if acq = 0 then 0 else if acq < 4 then (t.ctx a.fr.ctx).acq else t.nextId
  if acq = 0 ∧ seen = [] then q
  else { q with after := q.after ++ seen, acq := Nat.max q.acq moment, pre := if acq = 0 then q.pre else [] }

/-- The state after an acquire: one at PACKAGE or SYSTEM scope is the latest of its context. -/
def Sys2Proof.Cert.acquiredState (t : State) (c acq : Nat) : State :=
  if acq < 4 then t
  else
    let u := { t with nextId := t.nextId + 1 }
    if c < 64 then u.setCtx c { t.ctx c with acq := t.nextId } else u

/-- The checks of an access in their order, and the homes of the untranslated paths: vault, own scratch, group window, and
physical HBM; translating for a read changes nothing but what the walker keeps, and for a write it sets
bit 6 (D) in bytes of leaf entries besides. -/
def Obligations.AddressResolution : Prop :=
  ∀ (s : State) (v : Via) (paths : List Nat) (ad : Word) (n : Nat) (al : Bool), 0 < n → n ≤ 4096 →
    let z := ad + BitVec.ofNat 64 (n - 1)
    let off := (ad.extractLsb' 0 20).toNat
    let bad := addrPath ad ∉ paths ∨ pathAccepted v.by_ (addrPath ad) = false ∨ fieldsOk ad = false ∨ fieldsOk z = false ∨
      addrPath z ≠ addrPath ad ∨ (al = true ∧ ad.toNat % n ≠ 0)
    let cause := match v.by_ with
      | .core _ => cBadpath
      | _ => if addrPath ad = 0xF then cPriv else cBadpath
    (bad → s.resolve v paths ad n al = (.error ⟨cause, ad, 0⟩, s)) ∧
    (¬ bad → (s.windowOk v ad = false ∨ s.windowOk v z = false) →
      s.resolve v paths ad n al = (.error ⟨cWindow, ad, 0⟩, s)) ∧
    (¬ bad → s.windowOk v ad = true → s.windowOk v z = true →
      (∀ e, v.by_ = .engine e → addrPath ad = 0xA →
        s.resolve v paths ad n al = (.ok ((List.range n).map fun i => scratchHome e (off + i)), s)) ∧
      (∀ e g m home, v.by_ = .engine e → addrPath ad = 0xB → s.groupOf e = some (g, m) →
        s.member (e / 72) g ((ad.extractLsb' 20 4).toNat) = some home →
        s.resolve v paths ad n al = (.ok ((List.range n).map fun i => scratchHome home (off + i)), s)) ∧
      (addrPath ad = 0x8 →
        s.resolve v paths ad n al = (.ok ((List.range n).map fun i =>
          2 ^ 49 + v.by_.die * 72 * 2 ^ 22 + (ad.extractLsb' 0 29).toNat + i), s)) ∧
      (addrPath ad = 0x9 →
        s.resolve v paths ad n al = (.ok ((List.range n).map fun i =>
          2 ^ 49 + (ad.extractLsb' 29 2).toNat * 72 * 2 ^ 22 + (ad.extractLsb' 0 29).toNat + i), s)) ∧
      (v.ctx = none → addrPath ad = 0x0 → (ad.extractLsb' 0 48).toNat + n ≤ 2 ^ 39 →
        s.resolve v paths ad n al = (.ok ((List.range n).map fun i => (ad.extractLsb' 0 48).toNat + i), s))) ∧
    (let t := (s.resolve v paths ad n al).2
     t.eng = s.eng ∧ t.ctxs = s.ctxs ∧ t.cp = s.cp ∧ (∀ d, t.core d = s.core d) ∧
       (v.kind.writes = false → t.mem = s.mem) ∧
       (∀ h, t.rdByte h = s.rdByte h ∨ t.rdByte h = s.rdByte h ||| 0x40))

/-- LDG and LDS read their bytes at once, or return what was read ahead for them, through the stores of their own pass with a lower
LSID, and write DV zero- or sign-extended; STG and STS are held until commit, as one access where the address is aligned and byte by byte elsewhere; ORDJ
and FENCE hold a place among the LSIDs; a failed check aborts the pass as a fault of its cause. -/
def Sys2Proof.Cert.LoadStoreWords : Prop :=
  ∀ (f : FmtM) (s : State) (e sl : Nat) (a : Active), InPass s e sl a →
    let p := a.pass
    let ad := wordAddr s a f
    let n := accessBytes f
    let l := f.lsid.toNat
    let plain := [0x0, 0x1, 0x2, 0x8, 0x9]
    let acq := acqCode f.ord.toNat (actScope s a f)
    (∀ i paths, (i = .ldg f ∧ paths = plain ∨ i = .lds f ∧ paths = [0xA, 0xB]) →
      ∀ (r : Except Failure (List Nat)) (t : State), s.resolve (madeBy e a .load) paths ad n false = (r, t) →
        (∀ hs, r = .ok hs → t.eccHomes hs = false →
          let live := if addrPath ad = 1 then t.rdConst e p.acq hs
            else if acq = 0 then earlyBytes p.pre (decide (ad.toNat % n = 0)) hs (t.rdHomes hs) else t.rdHomes hs
          let bytes := (hs.zip live).map fun x => p.loadByte l x.1 x.2
          let v : Word := if f.size.toNat < 4 then BitVec.ofNat 64 (leNat bytes)
            else (BitVec.ofNat (8 * n) (leNat bytes)).signExtend 64
          let done := fun (u : State) (homes : List Nat) (q : Pass) =>
            (acquiredState u a.fr.ctx acq).setPass e sl a
              (afterAcquire u e a acq (byteKeys homes) { q with pre := forget q.pre homes })
          ((p.kp = 0 ∨ 4 ≤ f.size.toNat) → exec i s = .next (done t hs ((p.useLsid l).wrP f.dv v))) ∧
          (∀ ht ts u, 1 ≤ p.kp → f.size.toNat < 4 → t.readTans e a paths ad n l acq p.tans = (.ok (ht, ts), u) →
            exec i s = .next (done u (hs ++ ht) (((p.useLsid l).wrP f.dv v).wrShs f.dv 1 ts)))) ∧
        (∀ hs, r = .ok hs → t.eccHomes hs = true →
          exec i s = .next (t.passFault e sl ⟨cEcc, ad, Config.eccPlace (hs.headD 0)⟩)) ∧
        (∀ g, r = .error g → exec i s = .next (t.passFault e sl g))) ∧
    (∀ i paths, (i = .stg f ∧ paths = plain ∨ i = .sts f ∧ paths = [0xA, 0xB]) → f.size.toNat ≤ 3 →
      ∀ (r : Except Failure (List Nat)) (t : State), s.resolve (madeBy e a .store) paths ad n false = (r, t) →
        (∀ hs, r = .ok hs →
          let held : Held := { lsid := l, ord := f.ord.toNat, scope := actScope s a f }
          let h := fun (homes : List Nat) (bs : List Byte) =>
            { held with eff := .access ⟨homes, .store bs, 0, a.origin e, none⟩ }
          let bs := leBytes n (p.rd s.tick f.dv).toNat
          let l0 := if ad.toNat % n = 0 then [h hs bs] else (hs.zip bs).map fun x => h [x.1] [x.2]
          (p.kp = 0 → exec i s = .next (t.setPass e sl a (l0.foldl Pass.hold (p.useLsid l)))) ∧
          (∀ xs u, t.storeTans e a held paths ad n f.dv (p.tans.flatMap fun j =>
              (List.range (if n = 8 then 1 else 4 / n)).map fun k => (j, k)) = (.ok xs, u) →
            exec i s = .next (u.setPass e sl a ((l0 ++ xs).foldl Pass.hold (p.useLsid l))))) ∧
        (∀ g, r = .error g → exec i s = .next (t.passFault e sl g))) ∧
    (∀ i eff, (i = .ordj f ∧ eff = .ordj ∨ i = .fence f ∧ eff = .fence) →
      exec i s = .next (s.setPass e sl a
        (({ p with pre := [] }.useLsid l).hold { lsid := l, scope := f.scope.toNat, eff := eff })))

/-- A byte that a load forwards is that of the store of its pass with the highest LSID below its own, where the pass has
made no tile write (R226). -/
def Sys2Proof.Cert.LoadForwarding : Prop :=
  ∀ (p : Pass) (l h : Nat) (b0 : Byte), (∀ x ∈ p.b.held, ∃ y, x.eff = .access y) →
    ((∀ x ∈ p.b.held, x.lsid < l → cellAt x.cells h = none) → p.loadByte l h b0 = b0) ∧
    (∀ x ∈ p.b.held, ∀ b, x.lsid < l → cellAt x.cells h = some b →
      (∀ y ∈ p.b.held, y.lsid < l → (cellAt y.cells h).isSome → y ≠ x → y.lsid < x.lsid) → p.loadByte l h b0 = b)

/-- Bytes read ahead of a load (R223, R225): an aligned load returns them only where every byte of it was read ahead at one moment,
another load byte by byte; with nothing read ahead of its bytes it returns those of now. A byte that has been loaded is no longer read
ahead of any load (R224). -/
def Sys2Proof.Cert.LoadsReadAhead : Prop :=
  ∀ (pre : List PreByte) (hs : List Nat) (live : List Byte), live.length = hs.length →
    ((∀ h ∈ hs, ∀ x ∈ pre, x.home ≠ h) → ∀ al, earlyBytes pre al hs live = live) ∧
    (∀ k h : Nat, hs[k]? = some h → (∀ x ∈ pre, x.home ≠ h) → (earlyBytes pre false hs live)[k]? = live[k]?) ∧
    (∀ (k h : Nat) (x : PreByte), hs[k]? = some h → pre.find? (fun y => y.home == h) = some x → (earlyBytes pre false hs live)[k]? = some x.b) ∧
    (∀ h ∈ hs, (∀ x ∈ pre, x.home ≠ h) → earlyBytes pre true hs live = live) ∧
    (∀ h ∈ hs, ∀ x ∈ forget pre hs, x.home ≠ h)

/-- Loads, stores and orders of a pass, loads that see the pass's own stores, and loads of bytes read ahead. -/
def Obligations.LoadsAndStores : Prop := LoadStoreWords ∧ LoadForwarding ∧ LoadsReadAhead

/-! ## Atomics, streams and remote operations (R240–R246, R249–R255) -/

/-- The pass after the output named by an extension word has been noted (R241): without CO it is as before; with CO, on an
output that has somewhere to go, one more emit is counted and the token waits for completion. A stream into a tile reference
carries the descriptor of its tile. -/
def Sys2Proof.Cert.resultNoted (s : State) (e : Nat) (a : Active) (x : Option Word) (tile : Option Word) (q : Pass) : Prop :=
  match x with
  | none => q = a.pass
  | some w =>
    let o := (w.extractLsb' 36 3).toNat
    let inf := (s.engine e).refInfo (s.opOf e a) o
    let r := tget {} a.pass.b.outs o
    let d := tile.getD 0
    let td := inf.tile && tile.isSome
    if w.getLsbD 39 = false then q = a.pass
    else outHere s e a o ∧ (td = true → s.emitTileFault e a d = none) ∧
      q = { a.pass with b := { a.pass.b with outs := tput a.pass.b.outs o { r with
        count := r.count + 1, co := true,
        tok := some { o := inf.order, val := d, col := sentColour s e a o none, tile := td,
                      s := td && dGs d != 0, d := td && decide (1 ≤ a.pass.kfire) } } } }

/-- The output that the completion of a word is to use. -/
def Sys2Proof.Cert.resultOut (x : Option Word) : Option Nat :=
  x.bind fun w => if w.getLsbD 39 then some (w.extractLsb' 36 3).toNat else none

/-- ATOM and CAS are held as one aligned access of their home; a failed check aborts the pass (R238, R249, R250). -/
def Sys2Proof.Cert.AtomicWords : Prop :=
  ∀ (f : FmtM) (x : Option Word) (s : State) (e sl : Nat) (a : Active), InPass s e sl a →
    let p := a.pass
    let n := accessBytes f
    let acq := acqCode f.ord.toNat (actScope s a f)
    ∀ (i : Instr) (op : AccOp) (host : Bool),
      (i = .atom f x ∧ op = .atom f.aop.toNat n (p.rd s.tick f.dv) ∧ host = (f.aop == 0 || f.aop == 8) ∨
       i = .cas f x ∧ op = .cas n (p.rd s.tick f.dv) (p.rd s.tick f.sb) ∧ host = true) →
      ∀ r t, s.resolve { madeBy e a .atomic with hostAtomic := host } [0x0, 0x1, 0x2, 0x8, 0x9, 0xA, 0xB]
          (wordAddr s a f) n true = (r, t) →
        (∀ hs q, r = .ok hs → resultNoted t e a x none q →
          exec i s = .next (t.setPass e sl a ((q.useLsid f.lsid.toNat).hold
            { lsid := f.lsid.toNat, ord := f.ord.toNat, scope := actScope s a f, co := resultOut x,
              eff := .access ⟨hs, op, acq, a.origin e, none⟩ }))) ∧
        (∀ g, r = .error g → exec i s = .next (t.passFault e sl g))

/-- LDT, STT, CLRM, REDT and RMT.STT that pass their checks are held as streams: from or into the rows at the address, a
pitch apart (R245, R246, R252), with the completion rod and amount of R242. -/
def Obligations.StreamWords : Prop :=
  ∀ (f : FmtM) (x : Word) (s : State) (e sl : Nat) (a : Active), InPass s e sl a →
    let p := a.pass
    let ad := wordAddr s a f
    let d := p.rd s.tick f.dv
    let pitch := if (x.extractLsb' 40 24).toNat = 0 then dRowBytes d else 16 * (x.extractLsb' 40 24).toNat
    let rows := (List.range (dRows d)).map fun r => (ad + BitVec.ofNat 64 (r * pitch), dRowBytes d)
    let mem := [0x0, 0x1, 0x2, 0x8, 0x9]
    let dual := decide (1 ≤ p.kp)
    let streams := fun (i : Instr) (tile : Option Word) (ok : Prop) (mk : StreamReq) =>
      ∀ (rod : Option Word) (home : Nat) (t : State) (q : Pass), ok →
        (x.getLsbD 35 = false ∧ rod = none ∧ home = 0 ∧ t = s ∨
         x.getLsbD 35 = true ∧ rod = some (p.rd s.tick f.sb) ∧
           s.checkRod ⟨.engine e, some a.fr.ctx⟩ .add (p.rd s.tick f.sb) = (.ok home, t)) →
        resultNoted t e a (some x) tile q →
        exec i s = .next (t.setPass e sl a ((q.useLsid f.lsid.toNat).hold
          { lsid := f.lsid.toNat, ord := f.ord.toNat, scope := actScope s a f, co := resultOut (some x),
            eff := .stream { mk with
              f := wordOf i, ext := x, addr := ad, desc := d, str := s.shadowStride e a.fr.op, rod := rod,
              rodHome := home, cadd := (x.extractLsb' 3 32).toNat, acq := p.acq, scope := actScope s a f } }))
    let desc := fun (k : Nat) => d ≠ 0 ∧ descFault (s.nmemOf e) d = none ∧
      tanFault (s.nmemOf e) (s.shadowStride e a.fr.op) k d = none
    streams (.ldt f x) (some d)
      (desc p.kfire ∧ s.streamFault (madeBy e a .sread) mem 16 rows = none)
      { kind := .ldt, pitch := pitch, k := p.kfire, planes := dual } ∧
    streams (.stt f x) none
      (desc p.kp ∧ s.streamFault (madeBy e a .swrite) mem 16 rows = none ∧ addrPath ad ≠ 1)
      { kind := .stt, pitch := pitch, k := p.kp, planes := dual } ∧
    streams (.rmtStt f x) none
      (desc p.kp ∧ (∀ r ∈ rows, s.rankFault a r.1 = none ∧ s.rankFault a (r.1 + BitVec.ofNat 64 (r.2 - 1)) = none) ∧
        s.streamFault (madeBy e a .swrite) [0x3] 16 rows = none)
      { kind := .rmtStt, pitch := pitch, k := p.kp, planes := dual } ∧
    (let k := if f.aop = 9 then p.kp else 0
     streams (.redt f x) none
       (desc k ∧ dGs d = 0 ∧ (f.aop.toNat ∈ [9, 10, 11] ∧ dFmt d ≤ 3 ∨ f.aop.toNat ∈ [0, 4, 5] ∧ dFmt d = 8) ∧
         s.streamFault (madeBy e a .atomic) [0x0, 0x8, 0x9, 0xA, 0xB] 16 rows = none)
       { kind := .redt, pitch := pitch, k := k, planes := dual }) ∧
    streams (.clrm f x) none
      (d.toNat % 64 = 0 ∧ d ≠ 0 ∧ d.toNat ≤ 2 ^ 32 ∧
        s.streamFault (madeBy e a .swrite) [0x0, 0x2, 0x8, 0x9, 0xA, 0xB] 64 [(ad, d.toNat)] = none)
      { kind := .clrm, planes := dual, k := if 1 ≤ p.kp ∨ addrPath ad = 0xA ∨ addrPath ad = 0xB then p.kfire else 0 }

/-- RMT.FAA, RMT.ST and RMT.FLAG to a rank of the launch's group are held as the packets that they become at commit; another
path, an unknown rank or a misaligned address raises BADPATH, path 0xF PRIV (R216, R217, R238, R253–R255). -/
def Sys2Proof.Cert.RemoteWords : Prop :=
  ∀ (f : FmtM) (x : Option Word) (s : State) (e sl : Nat) (a : Active), InPass s e sl a →
    let p := a.pass
    let ad := wordAddr s a f
    let v := p.rd s.tick f.dv
    let remote := fun (i : Instr) (aligned : Bool) (n : Nat) (y : Option Word) (kind : BitVec 8) (xdata : BitVec 192) =>
      let z := ad + BitVec.ofNat 64 (n - 1)
      let good := addrPath ad = 3 ∧ addrPath z = 3 ∧ z.extractLsb' 48 12 = ad.extractLsb' 48 12 ∧
        (∃ t, s.launchTable a.fr.ctx a.fr.inst = some t ∧
          (ad.extractLsb' 48 12).toNat < (s.pgt a.fr.ctx t).n) ∧ (aligned = true → ad.toNat % n = 0)
      (∀ q, good → resultNoted s e a y none q →
        exec i s = .next (s.setPass e sl a ((q.useLsid f.lsid.toNat).hold
          { lsid := f.lsid.toNat, ord := f.ord.toNat, scope := 4, co := resultOut y,
            eff := .remote kind ad xdata (leBytes n v.toNat) none }))) ∧
      (¬ good → exec i s = .next (s.passFault e sl ⟨if addrPath ad = 0xF then cPriv else cBadpath, ad, 0⟩))
    (f.size = 3 → remote (.rmtFaa f x) true 8 x 0x12 0) ∧ remote (.rmtSt f) false (accessBytes f) none 0x10 0 ∧
    (f.size = 3 → remote (.rmtFlag f) true 8 none 0x13 (f.aop.setWidth 192))


/-- Atomic words and words to a peer. -/
def Obligations.AtomicsAndRemotes : Prop := AtomicWords ∧ RemoteWords

/-! ## Rods (R340–R351) -/

/-- ROD.ADD, ROD.WAIT and ROD.RD in a pass: a good reference is held as an add, tested, or read, a MEMORY rod as a load reads its
word; a wait whose target has not been reached suspends the pass, or leaves it waiting in its slot where four are suspended, or aborts it
while its context drains; a bad reference aborts the pass. -/
def Sys2Proof.Cert.RodWordsOfPass : Prop :=
  ∀ (f : FmtM) (s : State) (e sl : Nat) (a : Active), InPass s e sl a →
    let p := a.pass
    let r := p.rd s.tick f.sa
    let u : RodUser := ⟨.engine e, some a.fr.ctx⟩
    let q := p.useLsid f.lsid.toNat
    let acq := acqCode f.ord.toNat f.scope.toNat
    (∀ h t, s.checkRod u .add r = (.ok h, t) →
      exec (.rodAdd f) s = .next (t.setPass e sl a (q.hold
        { lsid := f.lsid.toNat, ord := f.ord.toNat, scope := f.scope.toNat,
          eff := .rodAdd ⟨r, h, (p.rd s.tick f.dv + f.off.signExtend 64).toNat % 2 ^ 32, a.origin e, 0⟩ }))) ∧
    (∀ h t, s.checkRod u .read r = (.ok h, t) →
      let homes := homes8 h
      let live := if acq = 0 then earlyBytes p.pre true homes (t.rdHomes homes) else t.rdHomes homes
      let bytes := (homes.zip live).map fun x => p.loadByte f.lsid.toNat x.1 x.2
      let done := fun (p0 : Pass) (v : Word) => (acquiredState t a.fr.ctx acq).setPass e sl a
        (afterAcquire t e a acq (rodKeys r h) ((p0.useLsid f.lsid.toNat).wrP f.dv v))
      (rodKind r ≠ 3 → exec (.rodRd f) s = .next (done p (t.rodCount r h))) ∧
      (rodKind r = 3 → t.eccAt h 8 = false →
        exec (.rodRd f) s = .next (done { p with pre := forget p.pre homes } (BitVec.ofNat 64 (leNat bytes)))) ∧
      (rodKind r = 3 → t.eccAt h 8 = true →
        exec (.rodRd f) s = .next (t.passFault e sl ⟨cEcc, r.extractLsb' 0 48 |>.setWidth 64, Config.eccPlace h⟩))) ∧
    (∀ h t, s.checkRod u .wait r = (.ok h, t) → (p.rd s.tick f.sb).toNat ≤ (t.rodCount r h).toNat →
      exec (.rodWait f) s = .next ((acquiredState t a.fr.ctx acq).setPass e sl a
        (afterAcquire t e a acq (rodKeys r h) q))) ∧
    (∀ h t, s.checkRod u .wait r = (.ok h, t) → (t.rodCount r h).toNat < (p.rd s.tick f.sb).toNat →
      let w : Pass := { q with wait := .rod r (p.rd s.tick f.sb) h acq }
      let drains := (t.ctx a.fr.ctx).st = .draining
      (drains → exec (.rodWait f) s = .next ((t.setPass e sl a w).abortPasses e fun y => y.fr.uid == a.fr.uid)) ∧
      (¬ drains → 4 ≤ (t.engine e).susp.length → exec (.rodWait f) s = .next (t.setPass e sl a w)) ∧
      (¬ drains → (t.engine e).susp.length < 4 → ∃ v, exec (.rodWait f) s = .next v ∧ v.active e sl = none ∧
        (v.engine e).susp = (t.engine e).susp ++ [{ a with pass := w }] ∧ v.mem = t.mem ∧
        (∀ e', e' ≠ e → v.engine e' = t.engine e'))) ∧
    (∀ i use g t, (i = .rodAdd f ∧ use = .add ∨ i = .rodRd f ∧ use = .read ∨ i = .rodWait f ∧ use = .wait) →
      s.checkRod u use r = (.error g, t) → exec i s = .next (t.passFault e sl g))

/-- The rod words of a control core: ROD.ADD acts where nothing that it follows is on its way, and is sent behind that elsewhere;
ROD.RD reads; a ROD.WAIT that is not met leaves the core at its word, until a change or a notification has shown the target reached;
ROD.INIT allocates a free GROUP or DIE rod to an owner, and a bad reference or owner raises the exception of its cause. -/
def Sys2Proof.Cert.RodWordsOfCore : Prop :=
  ∀ (f : FmtM) (s : State) (d : Nat), s.cur = .core d →
    let c := s.core d
    let r := c.rd f.sa
    let u := s.coreUser d
    let on := fun (t : State) => t.setCore d { t.core d with pc := (t.core d).npc }
    let acq := acqCode f.ord.toNat f.scope.toNat
    (∀ h t, s.checkRod u .add r = (.ok h, t) →
      let x : RodAdd := ⟨r, h, (c.rd f.dv + f.off.signExtend 64).toNat % 2 ^ 32, s.coreOrigin d, 0⟩
      (t.corePend d = [] → exec (.rodAdd f) s = .next (((on t).addRod x).coreForget d (rodHomes r h))) ∧
      (∀ hard soft, (on t).coreDeps d (rodHomes r h) (f.ord.toNat / 2 == 1) f.scope.toNat = (hard, soft) →
        exec (.rodAdd f) s = .next (
          (if hard = [] then ((on t).addRod x).noteSoft 0 (rodKeys r h) (s.coreOrigin d) f.scope.toNat soft
          else ((on t).postDep hard (.rodAddArrival x)).noteSoft t.nextId (rodKeys r h) (s.coreOrigin d) f.scope.toNat soft).coreForget
            d (rodHomes r h)))) ∧
    (∀ h t, s.checkRod u .read r = (.ok h, t) →
      (rodKind r = 3 ∧ t.eccAt h 8 = true →
        exec (.rodRd f) s = .next (t.coreFault d cEcc (r.extractLsb' 0 48 |>.setWidth 64))) ∧
      (¬ (rodKind r = 3 ∧ t.eccAt h 8 = true) →
        exec (.rodRd f) s = .next (((t.setCore d { (t.core d).wr f.dv (t.coreCount d r h) with pc := (t.core d).npc }).coreForget d
          (rodHomes r h)).coreAcquired d acq (rodKeys r h)))) ∧
    (∀ h t, s.checkRod u .wait r = (.ok h, t) →
      let target := c.rd f.sb
      let y := t.core d
      let w : RodWaiter := ⟨rodKey r h, target.toNat, u.ctx.getD 64, true⟩
      let met := target.toNat ≤ (t.coreCount d r h).toNat ∨ y.rodw = some w
      (met → t.seen (.core d) acq (rodKeys r h) = [] →
        exec (.rodWait f) s = .next (((t.setCore d { y with rodw := none, pc := y.npc }).coreForget d (rodHomes r h)).coreAcquired d
          acq (rodKeys r h))) ∧
      (met → t.seen (.core d) acq (rodKeys r h) ≠ [] →
        exec (.rodWait f) s = .next ((t.setCore d { y with rodw := some w }).coreAgain d (.rodWait f))) ∧
      (¬ met → exec (.rodWait f) s = .next ((t.setCore d { y with rodw := some { w with met := false } }).coreAgain d (.rodWait f)))) ∧
    (∀ i use g t, (i = .rodAdd f ∧ use = .add ∨ i = .rodRd f ∧ use = .read ∨ i = .rodWait f ∧ use = .wait) →
      s.checkRod u use r = (.error g, t) → exec i s = .next (t.coreFault d g.cause g.addr)) ∧
    (c.csr.mode = true →
      let own := c.rd f.sb
      let ctx := (own.extractLsb' 8 7).toNat
      let grp := (own.extractLsb' 0 7).toNat
      let named := rodFieldsOk r = true ∧ (rodKind r = 1 ∨ rodKind r = 2)
      let owner := own.extractLsb' 15 49 = 0 ∧ own.getLsbD 7 = false ∧ ctx < 64 ∧
        (rodKind r = 1 → grp < 72 ∧ (s.group (rodDie r) grp).st ≠ .free ∧ (s.group (rodDie r) grp).ctx = ctx) ∧
        (rodKind r = 2 → grp = 0)
      (named ∧ owner ∧ (s.rod r).a = false → exec (.rodInit f) s = .next (((on s).setRod r
        { count := c.rd f.dv, a := true, ctx := ctx, grp := grp }).rodChanged r)) ∧
      (¬ (named ∧ owner ∧ (s.rod r).a = false) → exec (.rodInit f) s = .next (s.coreFault d cFrame 0)) ∧
      (named ∧ (s.rod r).a = true → ∃ t, exec (.rodInitFree f) s = .next t ∧ (t.rod r).a = false ∧ (t.rod r).count = 0 ∧
        t.mem = s.mem ∧ (∀ x, x ≠ r → rodFieldsOk x = true → (t.rod x).count = (s.rod x).count)) ∧
      (¬ (named ∧ (s.rod r).a = true) → exec (.rodInitFree f) s = .next (s.coreFault d cFrame 0)))

/-- A rod add acts at its home (R341, R344): the count grows by the amount, RODOVF is raised at the adder's die and the count
stays where it would pass 2^64 − 1, FRAME is raised for a rod that is not allocated, and an add of 0 to a rod that is no memory word
changes nothing at all. A record has the TAG of the command that the add is for in DETAIL (R295). The arrival of an add does this. -/
def Sys2Proof.Cert.RodAddActs : Prop :=
  ∀ (s : State) (a : RodAdd),
    let n := (s.rodCount a.ref a.home).toNat + a.amount
    let plain := rodKind a.ref = 1 ∨ rodKind a.ref = 2
    exec (.rodAddArrival a) s = .next (s.addRod a) ∧
    (plain → (s.rod a.ref).a = false → s.addRod a = s.report a.who.die cFrame a.who 0 (BitVec.ofNat 64 a.tag) none) ∧
    ((plain → (s.rod a.ref).a = true) → n < 2 ^ 64 →
      (rodKind a.ref = 3 → s.eccAt a.home 8 = false) →
      ((s.addRod a).rodCount a.ref a.home).toNat = n) ∧
    ((plain → (s.rod a.ref).a = true) → n < 2 ^ 64 → rodKind a.ref ≠ 3 → a.amount = 0 → s.addRod a = s) ∧
    ((plain → (s.rod a.ref).a = true) → n < 2 ^ 64 → rodKind a.ref = 3 → s.eccAt a.home 8 = true →
      s.addRod a = s.report a.who.die cEcc a.who 0 (Config.eccPlace a.home) none) ∧
    ((plain → (s.rod a.ref).a = true) → 2 ^ 64 ≤ n →
      s.addRod a = s.report a.who.die cRodovf
        (if plain ∧ 64 ≤ a.who.ctx then { a.who with ctx := (s.rod a.ref).ctx } else a.who) 0 (BitVec.ofNat 64 a.tag) none ∧
      ((s.addRod a).rodCount a.ref a.home) = s.rodCount a.ref a.home ∧ (s.addRod a).mem = s.mem)

/-- Barrier rods: the words of passes and cores, and the arrival of an add. -/
def Obligations.RodWords : Prop := RodWordsOfPass ∧ RodWordsOfCore ∧ RodAddActs

/-! ## Locks and launches (R301–R303, R372–R375) -/

/-- The lock words of a pass: LK.ACQ and LK.UPG send the request to the name's home, behind the reverts of the owner's aborted passes
that are on their way there, and wait for its grant; LK.REL, LK.RALL,
LKM.LD and LKE.SET are held until commit; LK.QRY reads a snapshot; a bad name raises FRAME. -/
def Sys2Proof.Cert.LockWords : Prop :=
  ∀ (f : FmtM) (s : State) (e sl : Nat) (a : Active), InPass s e sl a →
    let p := a.pass
    let n := p.rd s.tick f.sa
    let l := f.lsid.toNat
    let q := p.useLsid l
    let good := s.lkNameOk a.fr.ctx n = true
    let fits := lkLevel n = 2 → f.aop.toNat ∉ [1, 2, 4]
    let held := fun (eff : Effect) => s.setPass e sl a (q.hold { lsid := l, ord := 2, scope := f.scope.toNat, eff := eff })
    let asks := (s.setPass e sl a
        { q with b := { q.b with locks := if n ∈ q.b.locks then q.b.locks else q.b.locks ++ [n] },
                 wait := .lock n (f.scope.toNat + 1) }).postDep (s.reverting a.fr.ctx a.age n)
      (.lockRequestDecide ⟨a.fr.ctx, a.age, n, f.aop.toNat, f.size.getLsbD 0, e, a.fr.uid⟩)
    let frame := s.passFault e sl ⟨cFrame, 0, 0⟩
    (good → fits → exec (.lkAcq f) s = .next asks) ∧
    (good → fits → (s.reckoner (lockHome n)).rec? a.fr.ctx a.age n ≠ none → exec (.lkUpg f) s = .next asks) ∧
    (¬ good ∨ ¬ fits → exec (.lkAcq f) s = .next frame) ∧
    (¬ good ∨ ¬ fits ∨ (s.reckoner (lockHome n)).rec? a.fr.ctx a.age n = none → exec (.lkUpg f) s = .next frame) ∧
    (good → exec (.lkRel f) s = .next (held (.lockRel (some n)))) ∧ (¬ good → exec (.lkRel f) s = .next frame) ∧
    (let acq := acqCode f.ord.toNat f.scope.toNat
     good → exec (.lkQry f) s = .next ((acquiredState s a.fr.ctx acq).setPass e sl a
      (afterAcquire s e a acq [] (q.wrP f.dv ((s.reckoner (lockHome n)).query a.fr.ctx a.age n))))) ∧
    (¬ good → exec (.lkQry f) s = .next frame) ∧
    exec (.lkRall f) s = .next (held (.lockRel none)) ∧
    (n.extractLsb' 37 27 = 0 → exec (.lkmLd f) s = .next (held (.lockMatrix n))) ∧
    (n.extractLsb' 37 27 ≠ 0 → exec (.lkmLd f) s = .next frame) ∧
    exec (.lkeSet f) s = .next (held (.lockEsc (f.off.extractLsb' 0 6).toNat))

/-- LNCH reads its command through the pass's own stores and asks for a ring entry, a word 0 that is no LAUNCH raises DESC;
TRIG is held until commit (R301–R303). -/
def Sys2Proof.Cert.LaunchWords : Prop :=
  ∀ (f : FmtM) (s : State) (e sl : Nat) (a : Active), InPass s e sl a →
    let p := a.pass
    let ad := wordAddr s a f
    let l := f.lsid.toNat
    exec (.trig f) s = .next (s.setPass e sl a ((p.useLsid l).hold
      { lsid := l, ord := 2, scope := f.scope.toNat, eff := .trig })) ∧
    (∀ hs t, s.resolve (madeBy e a .load) [0xA] ad 64 true = (.ok hs, t) → t.eccHomes hs = false →
      let bytes := hs.map fun h => p.loadByte l h (t.rdByte h)
      let cmd := (List.range 8).map fun i => BitVec.ofNat 64 (leNat ((bytes.drop (8 * i)).take 8))
      let a0 := f.size.getLsbD 0
      let launch := ((cmd.getD 0 0).extractLsb' 0 8 = 1) ∧ (a0 = true → (cmd.getD 1 0).extractLsb' 32 2 ≠ 0)
      let held : Held :=
        { lsid := l, ord := 2, scope := f.scope.toNat, eff := .lnch (if a0 then cmd.set 5 (p.rd s.tick f.dv) else cmd) }
      (launch → ∃ v, exec (.lnch f) s = .next v ∧
        (∃ q : Pass, q.b.held = p.b.held ++ [held] ∧ q.b.lnches = p.b.lnches + 1 ∧ q.r = p.r ∧
          v.eng = (t.setPass e sl a q).eng) ∧
        v.cp.resv = t.cp.resv ++ [{ ctx := a.fr.ctx, eng := e, uid := a.fr.uid }] ∧ v.mem = t.mem ∧ v.pend = t.pend) ∧
      (¬ launch → exec (.lnch f) s = .next (t.passFault e sl ⟨cDesc, 0, 0⟩))) ∧
    (∀ g t, s.resolve (madeBy e a .load) [0xA] ad 64 true = (.error g, t) →
      exec (.lnch f) s = .next (t.passFault e sl ⟨cBadpath, ad, 0⟩))


/-- Lock words, LNCH and TRIG. -/
def Obligations.LockAndLaunchWords : Prop := LockWords ∧ LaunchWords

/-! ## The control core (R257–R267, R276–R278) -/

/-- The core after a word that goes on to the next one. -/
def Sys2Proof.Cert.pastWord (c : CoreState) : CoreState := { c with pc := c.npc }

/-- BR.cc, JAL and JALR (R265): both new values are formed from the old registers; a JALR to an address that is no multiple
of 8 raises BADPATH and writes nothing. -/
def Obligations.ControlFlowWords : Prop :=
  (∀ f : FmtCB, CoreGives (.br f) (fun _ _ => True) fun s d =>
    let c := s.core d
    if condOf f.cc (c.rd f.ga) (c.rd f.gb) then { c with pc := c.pc + 8 * f.off.signExtend 64 } else pastWord c) ∧
  (∀ f : FmtCJ,
    let target := fun (c : CoreState) => c.rd f.ga + f.off.signExtend 64
    CoreGives (.jal f) (fun _ _ => True) (fun s d =>
      let c := s.core d
      { c.wr f.gd (c.pc + 8) with pc := c.pc + 8 * f.off.signExtend 64 }) ∧
    CoreGives (.jalr f) (fun s d => (target (s.core d)).toNat % 8 = 0) (fun s d =>
      let c := s.core d
      { c.wr f.gd (c.pc + 8) with pc := target c }) ∧
    (∀ s d, s.cur = .core d → (target (s.core d)).toNat % 8 ≠ 0 →
      exec (.jalr f) s = .next (s.coreFault d cBadpath (target (s.core d)))) ∧
    ((Instr.jal f).wellFormed → f.ga = 0))

/-- The CSRs of R260 with the value that each reads and whether user mode may read it. -/
def Sys2Proof.Cert.csrValues (s : State) (d : Nat) : List (Nat × Word × Bool) :=
  let c := (s.core d).csr
  [(0x000, BitVec.ofNat 64 (c.ie.toNat + 2 * c.mode.toNat + 4 * c.ebusy.toNat + 8 * c.xbusy.toNat), true),
   (0x001, c.epc, false), (0x002, c.est, false), (0x003, c.xpc, false), (0x004, c.xst, false), (0x005, c.xcause, false),
   (0x006, c.xval, false), (0x010, c.stvec, false), (0x011, c.sxvec, false), (0x012, c.htmo, false),
   (0x013, c.asel, false), (0x028, BitVec.ofNat 64 (s.die d).trapq.length, true),
   (0x029, BitVec.ofNat 64 c.cctx, true), (0x030, s.tick, true), (0x031, BitVec.ofNat 64 c.pend.toNat, false)] ++
  (List.range 8).map fun i => (0x020 + i, tget 0 c.trec i, true)

/-- CSRR, CSRW, CSRS and CSRC write the old value of the CSR to GD; the last three then write it, in supervisor mode only; a
number that is no CSR raises ILLEGAL, and what R260 does not grant user mode raises PRIV; a read-only CSR keeps its value. -/
def Sys2Proof.Cert.CsrWords : Prop :=
  ∀ (f : FmtCS) (s : State) (d : Nat), s.cur = .core d →
    let c := s.core d
    let n := f.csr.toNat
    let writers : List (Instr × (Word → Word)) :=
      [(.csrw f, fun _ => c.rd f.ga), (.csrs f, fun o => o ||| c.rd f.ga), (.csrc f, fun o => o &&& ~~~ c.rd f.ga)]
    (∀ old user, (n, old, user) ∈ csrValues s d →
      ((c.csr.mode = true ∨ user = true) → exec (.csrr f) s = .next (s.setCore d (pastWord (c.wr f.gd old)))) ∧
      (c.csr.mode = false → user = false → exec (.csrr f) s = .next (s.coreFault d cPriv (wordOf (.csrr f)))) ∧
      (∀ i new, (i, new) ∈ writers →
        (c.csr.mode = false → exec i s = .next (s.coreFault d cPriv (wordOf i))) ∧
        (c.csr.mode = true → (n = 0 → (new old).extractLsb' 4 60 = 0) →
          exec i s = .next (s.setCore d { pastWord (c.wr f.gd old) with csr := c.csr.write n (new old) })) ∧
        (c.csr.mode = true → n = 0 → (new old).extractLsb' 4 60 ≠ 0 →
          exec i s = .next (s.coreFault d cIllegal (wordOf i))))) ∧
    ((∀ x ∈ csrValues s d, x.1 ≠ n) → ∀ i, i = .csrr f ∨ i ∈ writers.map (·.1) →
      exec i s = .next (s.coreFault d cIllegal (wordOf i))) ∧
    (∀ v : Word,
      c.csr.write 0x000 v = { c.csr with ie := v.getLsbD 0 } ∧ c.csr.write 0x001 v = { c.csr with epc := v } ∧
      c.csr.write 0x002 v = { c.csr with est := v } ∧ c.csr.write 0x003 v = { c.csr with xpc := v } ∧
      c.csr.write 0x004 v = { c.csr with xst := v } ∧ c.csr.write 0x010 v = { c.csr with stvec := v } ∧
      c.csr.write 0x011 v = { c.csr with sxvec := v } ∧ c.csr.write 0x012 v = { c.csr with htmo := v } ∧
      (v.toNat ≤ 64 → c.csr.write 0x013 v = { c.csr with asel := v }) ∧ (64 < v.toNat → c.csr.write 0x013 v = c.csr) ∧
      c.csr.write 0x031 v = { c.csr with pend := c.csr.pend && !v.getLsbD 0 } ∧
      (∀ k, (k ∈ [0x005, 0x006, 0x030] ∨ 0x020 ≤ k ∧ k ≤ 0x029) → c.csr.write k v = c.csr))

/-- A store that a core sends: behind what coreDeps says it must follow, and noted for the observers within its scope (R222, R264); what
the core has read ahead of its bytes is void (R224). -/
def Sys2Proof.Cert.coreStores (t : State) (d : Nat) (hs : List Nat) (bs : List Byte) (release : Bool) (scope : Nat) : State :=
  let deps := t.coreDeps d hs release scope
  ((t.postDep deps.1 (.accessAtHome ⟨hs, .store bs, 0, t.coreOrigin d, none⟩)).noteSoft t.nextId (byteKeys hs) (t.coreOrigin d) scope
    deps.2).coreForget d hs

/-- LD and ST of a control core in memory and in control space, with the exceptions of R263 and R258: a load sees the core's own stores
that are on their way, a store goes on its way, as one access where it is aligned and byte by byte elsewhere, and one with ORD = 3
waits for every earlier access of the core and has acted when the core goes on; so does an INV, a write of ROOT (R391), and a RELALL (R376). WFE goes on at once where an event waits and idles the
core at the next word elsewhere. -/
def Sys2Proof.Cert.CoreAccessWords : Prop :=
  (∀ (f : FmtCM) (s : State) (d : Nat), s.cur = .core d →
    let c := s.core d
    let ad := c.rd f.ga + f.off.signExtend 64
    let n := 2 ^ (f.size.toNat % 4)
    let paths := [0x0, 0x1, 0x2, 0x8, 0x9]
    let scope := if addrPath ad = 2 ∨ addrPath ad = 3 then 4 else f.scope.toNat
    let acq := acqCode f.ord.toNat scope
    let loads := fun (t : State) (hs : List Nat) (v : Word) =>
      let k := t.core d
      (t.setCore d { pastWord (k.wr f.gd v) with pre := forget k.pre hs }).coreAcquired d acq (byteKeys hs)
    let stores := fun (t : State) => (t.setCore d (pastWord (t.core d))).coreAcquired d acq []
    let off := (ad.extractLsb' 0 60).toNat
    let invalidates := addrPath ad = 0xF ∧
      ((∃ k, (ctlReg off = some (.walker k 0) ∨ ctlReg off = some (.lock k 2)) ∧ ((c.rd f.gd).extractLsb' 8 4).toNat = 1) ∨
        ∃ k, ctlReg off = some (.ctx k 1))
    (f.ord = 3 → s.corePend d ≠ [] → ∀ i, i = .ld f ∨ i = .st f → exec i s = .next (s.coreAgain d i)) ∧
    (invalidates → s.corePend d ≠ [] → exec (.st f) s = .next (s.coreAgain d (.st f))) ∧
    ((f.ord = 3 → s.corePend d = []) → addrPath ad ≠ 0xF →
      (∀ hs t, s.resolve (s.coreVia d .load) paths ad n false = (.ok hs, t) → t.eccHomes hs = false →
        let live := if acq = 0 then earlyBytes (t.core d).pre (decide (ad.toNat % n = 0)) hs (t.rdHomes hs) else t.rdHomes hs
        let bytes := if addrPath ad = 1 then t.rdConst (288 + d) (t.core d).acq hs else t.coreView d hs live
        let v : Word := if f.size.toNat < 4 then BitVec.ofNat 64 (leNat bytes)
          else (BitVec.ofNat (8 * n) (leNat bytes)).signExtend 64
        exec (.ld f) s = .next (loads t hs v)) ∧
      (∀ hs t, s.resolve (s.coreVia d .load) paths ad n false = (.ok hs, t) → t.eccHomes hs = true →
        exec (.ld f) s = .next (t.coreFault d cEcc ad)) ∧
      (∀ g t, s.resolve (s.coreVia d .load) paths ad n false = (.error g, t) →
        exec (.ld f) s = .next (t.coreFault d g.cause g.addr)) ∧
      (∀ hs t, s.resolve (s.coreVia d .store) paths ad n false = (.ok hs, t) →
        let bs := leBytes n (c.rd f.gd).toNat
        let release := f.ord.toNat / 2 == 1
        (f.ord = 3 → exec (.st f) s = .next (stores (t.storeHomes hs bs))) ∧
        (f.ord ≠ 3 → ad.toNat % n = 0 → exec (.st f) s = .next (stores (coreStores t d hs bs release scope))) ∧
        (f.ord ≠ 3 → ad.toNat % n ≠ 0 → exec (.st f) s =
          .next (stores ((hs.zip bs).foldl (fun u x => coreStores u d [x.1] [x.2] release scope) t)))) ∧
      (∀ g t, s.resolve (s.coreVia d .store) paths ad n false = (.error g, t) →
        exec (.st f) s = .next (s.coreFault d g.cause g.addr))) ∧
    ((f.ord = 3 ∨ invalidates → s.corePend d = []) → addrPath ad = 0xF →
      (c.csr.mode = false → ∀ i, i = .ld f ∨ i = .st f → exec i s = .next (s.coreFault d cPriv ad)) ∧
      (c.csr.mode = true → (f.size.toNat ≠ 3 ∨ ad.toNat % 8 ≠ 0) → ∀ i, i = .ld f ∨ i = .st f →
        exec i s = .next (s.coreFault d cBadpath ad)) ∧
      (c.csr.mode = true → f.size.toNat = 3 → ad.toNat % 8 = 0 →
        exec (.ld f) s = .next (loads s [] (s.ctlRead off)) ∧
        (ctlReserved off (c.rd f.gd) = false → exec (.st f) s = .next (stores (s.ctlWrite off (c.rd f.gd)))) ∧
        (ctlReserved off (c.rd f.gd) = true → exec (.st f) s = .next (s.coreFault d cIllegal ad))))) ∧
  (∀ f : FmtCG, CoreGives (.wfe f) (fun s d => (s.core d).csr.mode = true) fun s d =>
    let c := s.core d
    { pastWord c with wfe := decide (c.csr.pend = false ∧ ((s.die d).trapq = [] ∨ c.csr.ie = false)) })

/-- How the accesses of a core are ordered (R264): what a store must follow are its own accesses to the same bytes and, for a release at
SYSTEM scope, every earlier one; a release at another scope goes ahead of the others, which an observer within the scope sees first. A
load sees the core's latest store to each byte, and memory where none is on its way. -/
def Sys2Proof.Cert.CoreOrder : Prop :=
  ∀ (s : State) (d : Nat) (hs : List Nat),
    (∀ release scope id,
      let hard := fun (bytes : List Nat) => (∃ h ∈ bytes, h ∈ hs) ∨ release = true ∧ scope = 4
      (id ∈ (s.coreDeps d hs release scope).1 ↔ ∃ bytes, (id, bytes) ∈ s.corePend d ∧ hard bytes) ∧
      (id ∈ (s.coreDeps d hs release scope).2 ↔ release = true ∧ ∃ bytes, (id, bytes) ∈ s.corePend d ∧ ¬ hard bytes)) ∧
    (let mine := fun (m : Msg) (a : Access) (bs : List Byte) =>
       m.ev = .accessAtHome a ∧ a.op = .store bs ∧ a.who.unit = 240 ∧ a.who.die = d
     (∀ live, live.length = hs.length → (∀ m ∈ s.pend, ∀ a bs, mine m a bs → ∀ h ∈ hs, h ∉ a.homes) → s.coreView d hs live = live) ∧
     (∀ rest m a bs h b x, s.pend = rest ++ [m] → mine m a bs → (a.homes.zip bs).find? (fun y => y.1 == h) = some (h, b) →
       s.coreView d [h] [x] = [b]))

/-- CSR words, LD, ST and WFE. -/
def Obligations.CsrAndAccessWords : Prop := CsrWords ∧ CoreAccessWords ∧ CoreOrder

/-- The status word of R276: IE, MODE and CCTX. -/
def Sys2Proof.Cert.statusOf (c : CoreCsr) : Word := BitVec.ofNat 64 (c.ie.toNat + 2 * c.mode.toNat + 256 * c.cctx)

/-- The status fields as `restore` of R278 takes them from a word. -/
def Sys2Proof.Cert.restoredFrom (c : CoreCsr) (w : Word) : CoreCsr :=
  { c with ie := w.getLsbD 0, mode := w.getLsbD 1, cctx := (w.extractLsb' 8 7).toNat }

/-- A synchronous exception saves PC, the status, the cause and its value, enters supervisor mode at SXVEC with IE clear, and
does nothing else; a second one before the return halts the core, and so does SXVEC = 0, with what was saved kept (R277).
TRAPC and the fault of a word are such exceptions. -/
def Sys2Proof.Cert.ExceptionEntry : Prop :=
  ∀ (s : State) (d : Nat) (pc cause val : Word),
    let c := s.core d
    let csr := { c.csr with xpc := pc, xst := statusOf c.csr, xcause := cause, xval := val, xbusy := true, ie := false,
                            mode := true }
    let saved := { c with csr := csr, wfe := false, step := none, rodw := none, busy := none, held := none, img := none }
    let halted := fun (k : CoreState) (t : State) => t.core d = { k with halted := true } ∧
      t.root.halt = s.root.halt ||| BitVec.ofNat 4 (2 ^ d) ∧ t.mem = s.mem ∧ t.eng = s.eng ∧
      (∀ d', d' ≠ d → t.die d' = s.die d') ∧ (t.die d).trapq = (s.die d).trapq
    (c.csr.cctx < 128 → c.csr.xbusy = false → c.csr.sxvec ≠ 0 →
      s.exception d pc cause val = s.setCore d { saved with pc := c.csr.sxvec &&& ~~~ 7 }) ∧
    (c.csr.cctx < 128 → c.csr.xbusy = false → c.csr.sxvec = 0 → halted saved (s.exception d pc cause val)) ∧
    (c.csr.xbusy = true → halted c (s.exception d pc cause val)) ∧
    (∀ n v, s.coreFault d n v = s.exception d c.pc (BitVec.ofNat 64 n) v) ∧
    (∀ f : FmtCG, s.cur = .core d → exec (.trapc f) s =
      .next (s.exception d c.npc (BitVec.ofNat 64 (65536 * (f.imm.extractLsb' 0 8).toNat + 256)) 0))

/-- ERET returns from an exception before it returns from a record, which it removes from the queue; where neither is
handled, and in user mode without a record, it raises ILLEGAL (R278). -/
def Sys2Proof.Cert.ReturnWords : Prop :=
  ∀ (f : FmtCG) (s : State) (d : Nat), s.cur = .core d →
    let x := s.die d
    let c := x.core
    let handled := fun (pc : Word) (csr : CoreCsr) => { c with pc := pc &&& ~~~ 7, csr := csr }
    ((c.csr.mode = true ∨ c.csr.ebusy = true) → c.csr.xbusy = true → exec (.eret f) s =
      .next (s.setCore d (handled c.csr.xpc { restoredFrom c.csr c.csr.xst with xbusy := false }))) ∧
    (c.csr.xbusy = false → c.csr.ebusy = true → exec (.eret f) s =
      .next (s.setDie d { x with
        trapq := x.trapq.drop 1,
        core := { handled c.csr.epc { restoredFrom c.csr c.csr.est with ebusy := false } with htEnd := none } })) ∧
    (c.csr.ebusy = false → (c.csr.mode = false ∨ c.csr.xbusy = false) →
      exec (.eret f) s = .next (s.coreFault d cIllegal (wordOf (.eret f))))

/-- Taking an exception, and the return from one or from a record (R277, R278). -/
def Obligations.ExceptionsAndReturn : Prop := ExceptionEntry ∧ ReturnWords

/-- A record enters the trap queue of its die while there is room, and takes the next serial number of the die where it has a
fault identifier (R271, R275). The oldest record is delivered when R276 says so: to the handler of its context in user mode,
else to STVEC in supervisor mode, where STVEC = 0 halts the core, and not while a word of R268 waits for its end. The limit that HTMO
gives a handler at its entry raises its exception, in whatever mode the core is by then, and a word that does not decode raises its
cause (R100, R277). -/
def Obligations.RecordEvents : Prop :=
  ∀ (s : State) (d : Nat),
    let x := s.die d
    let c := x.core
    (∀ r : Record, x.trapq.length < 256 →
      (r.key = none → exec (.trapRecordEnqueue d r) s = .next (s.setDie d { x with trapq := x.trapq ++ [r] })) ∧
      (∀ key, r.key = some key →
        let fid : BitVec 32 := BitVec.ofNat 32 (d * 2 ^ 30 + x.fidNext)
        let next := if x.fidNext = 2 ^ 30 - 1 then 1 else x.fidNext + 1
        exec (.trapRecordEnqueue d r) s = .next (s.setDie d { x with
          trapq := x.trapq ++ [{ r with fid := fid }], fidNext := next,
          fids := x.fids.map fun g => if g.key = key then { g with fid := fid } else g }))) ∧
    (∀ r : Record, 256 ≤ x.trapq.length → exec (.trapRecordEnqueue d r) s = .next (s.post (.trapRecordEnqueue d r))) ∧
    (let ready := c.csr.ie = true ∧ c.csr.ebusy = false ∧ c.csr.xbusy = false ∧ c.halted = false ∧ c.busy = none
     (∀ r l, ready → x.trapq = r :: l → c.csr.cctx < 128 →
       let user := ∃ n, r.ctx = some n ∧ userCause r.cause.toNat = true ∧ (s.ctx n).hv = true ∧
         (s.ctx n).st ≠ .tearing
       let csr := { c.csr with epc := c.pc, est := statusOf c.csr, ebusy := true, ie := false,
                               trec := tsets 0 c.csr.trec 0 r.words }
       (∀ n, user → r.ctx = some n → exec (.trapDelivery d) s = .next (s.setCore d { c with
         pc := (s.ctx n).r.hentry &&& ~~~ 7, wfe := false, rodw := none,
         htEnd := if c.csr.htmo = (0 : Word) then none else some (s.tick.toNat + c.csr.htmo.toNat),
         csr := { csr with mode := false, cctx := n } })) ∧
       (¬ user → c.csr.stvec ≠ 0 → exec (.trapDelivery d) s = .next (s.setCore d { c with
         pc := c.csr.stvec &&& ~~~ 7, wfe := false, rodw := none, csr := { csr with mode := true, cctx := r.ctx.getD 64 } })) ∧
       (¬ user → c.csr.stvec = 0 → exec (.trapDelivery d) s = .next (s.haltCore d))) ∧
     (¬ (ready ∧ x.trapq ≠ []) → exec (.trapDelivery d) s = .next s)) ∧
    (∀ n, c.run = true → c.halted = false → c.busy = none → c.htEnd = some n → n ≤ s.tick.toNat →
      ∃ t, exec (.handlerTimeout d) s = .next t ∧
        t.core d = { (s.exception d c.pc 0x20A 0).core d with htEnd := none } ∧ t.mem = s.mem ∧ t.eng = s.eng) ∧
    (∀ cause val, exec (.wordDecodeFault (.core d) cause val) s = .next (s.coreFault d cause val) ∧
      (∀ e sl, exec (.wordDecodeFault (.pass e sl) cause val) s = .next (s.passFault e sl ⟨cause, 0, 0⟩)) ∧
      (∀ k, exec (.wordDecodeFault (.seq d k) cause val) s = .next (s.collAbort d k 3 0)))

/-! ## Privileged words (R258, R268–R272, R316) -/

/-- In user mode every privileged word of the core raises PRIV and has no other effect; INJ, PURGE and RETRYF do so for a
context that is not the handler's own. -/
def Sys2Proof.Cert.PrivilegedInUserMode : Prop :=
  ∀ (f : FmtCG) (m : FmtM) (s : State) (d : Nat), s.cur = .core d → (s.core d).csr.mode = false →
    (∀ i ∈ [Instr.wfe f, .gload f, .garm f, .gdisarm f, .snap f, .rstor f, .qdrn f, .msrd f, .mswr f, .rodInit m, .rodInitFree m],
      exec i s = .next (s.coreFault d cPriv (wordOf i))) ∧
    (let c := s.core d
     (((c.rd f.ga).extractLsb' 2 6).toNat ≠ c.csr.cctx → exec (.inj f) s = .next (s.coreFault d cPriv (wordOf (.inj f)))) ∧
     (((c.rd f.ga).extractLsb' 8 6).toNat ≠ c.csr.cctx →
       exec (.purge f) s = .next (s.coreFault d cPriv (wordOf (.purge f)))) ∧
     (∀ x, s.fidNamed d (c.rd f.ga) = some x → x.ctx ≠ c.csr.cctx →
       exec (.retryf f) s = .next (s.coreFault d cPriv (wordOf (.retryf f))) ∧
       exec (.retryfFail f) s = .next (s.coreFault d cPriv (wordOf (.retryfFail f)))))

/-- GLOAD, GARM, GDISARM, PURGE, INJ, RETRYF, SNAP, RSTOR, QDRN, MSRD and MSWR on operands that their rules accept. GLOAD and GARM stay
at their word, GLOAD with what it has read, while an engine that they write or start is being cleared (R289), PURGE while tokens of the instance that were in transit
when it first executed are (R324); a PURGE in another state of the instance is ignored (R310). -/
def Sys2Proof.Cert.PrivilegedWords : Prop :=
  ∀ (f : FmtCG) (s : State) (d : Nat), s.cur = .core d → (s.core d).csr.mode = true →
    let c := s.core d
    let A := c.rd f.ga
    let B := c.rd f.gb
    let ends := fun (t : State) (v : Word) => t.setCore d (pastWord ((t.core d).wr f.gd v))
    let ended := fun (t : State) (v : Word) =>
      t.setCore d { pastWord ((t.core d).wr f.gd v) with busy := none, held := none, img := none }
    let inst := (B.extractLsb' 0 8).toNat
    (∀ img mh mb t slot u, (c.rd f.gc).toNat < 64 → s.readImage d A B = (.ok (img, mh, mb), t) →
      t.loadBytes d (c.rd f.gc).toNat img mh mb = .ok (slot, u) →
      (u.slotClearing d slot = false →
        exec (.gload f) s = .next (ended u (BitVec.ofNat 64 (2 ^ 63) ||| BitVec.ofNat 64 slot))) ∧
      (u.slotClearing d slot = true → exec (.gload f) s = .next ((t.keepImage d (img, mh, mb)).stayBusy d (.gload f)))) ∧
    (∀ k, B.extractLsb' 14 50 = 0 → s.handleKernel d A = some k → (B.extractLsb' 8 6).toNat = (s.kernel k).ctx →
      ((s.kernel k).st = .armed → s.instUsed (s.kernel k).ctx inst = false →
        ((∃ x ∈ (s.kernel k).place.map, s.clearing x.2 = true) → exec (.garm f) s = .next (s.stayBusy d (.garm f))) ∧
        ((∀ x ∈ (s.kernel k).place.map, s.clearing x.2 = false) →
          ((s.kernel k).place.ops.any fun (e, op) => !s.launchDualOk e op 0) = false →
          exec (.garm f) s = .next (ended (s.startInst k inst {} none) 0))) ∧
      ((s.kernel k).st = .faulted → (s.kernel k).inst = inst → (s.kernel k).fids = 0 →
        exec (.garm f) s = .next (ended (s.setKernel k { s.kernel k with
          st := if (s.kernel k).exits = (s.kernel k).nexit then .draining else .running }) 0)) ∧
      ((s.kernel k).st = .placed ∨ (s.kernel k).st = .armed → inst = 0 →
        ∃ t, exec (.gdisarm f) s = .next (ends t 0) ∧ (t.kernel k).used = false ∧ (t.kernel k).st = .image ∧ t.mem = s.mem)) ∧
    (A.extractLsb' 14 50 = 0 → B.extractLsb' 24 39 = 0 →
      let x := (A.extractLsb' 8 6).toNat
      let n := (A.extractLsb' 0 8).toNat
      let since := c.busy.getD (s.nextId, s.tick.toNat)
      (s.instKernel x n = none → exec (.purge f) s = .next (ended s 0)) ∧
      (∀ k, s.instKernel x n = some k → B.getLsbD 63 = false →
        (c.busy.isSome = true ∨ (s.kernel k).st ∈ [.running, .faulted, .draining]) →
        let p := s.setKernel k { s.kernel k with st := .purging }
        (p.stillInTransit x n since.1 since.2 = true → exec (.purge f) s = .next (p.stayBusy d (.purge f))) ∧
        (p.stillInTransit x n since.1 since.2 = false → exec (.purge f) s = .next
          (ended (p.purgeNow k true fun _ => true).2 (BitVec.ofNat 64 (p.purgeNow k true fun _ => true).1)))) ∧
      (∀ k, s.instKernel x n = some k → B.getLsbD 63 = true →
        (c.busy.isSome = true ∨ (s.kernel k).st ∈ [.running, .faulted]) →
        (s.stillInTransit x n since.1 since.2 = true → exec (.purge f) s = .next (s.stayBusy d (.purge f))) ∧
        (s.stillInTransit x n since.1 since.2 = false →
          let r := s.purgeNow k false fun col =>
            decide ((col + 4096 - (B.extractLsb' 12 12).toNat) % 4096 ≤
              ((B.extractLsb' 0 12).toNat + 4096 - (B.extractLsb' 12 12).toNat) % 4096)
          exec (.purge f) s = .next (ended r.2 (BitVec.ofNat 64 r.1)))) ∧
      (∀ k, s.instKernel x n = some k → c.busy = none → (s.kernel k).st ∉ [.running, .faulted] →
        (B.getLsbD 63 = true ∨ (s.kernel k).st ≠ .draining) → exec (.purge f) s = .next (ended s 0))) ∧
    (let tok : Token := A ++ B
     (tokUnit tok ≤ 71 ∨ tokUnit tok = 248 → exec (.inj f) s =
       .next ((s.setCore d (pastWord c)).post (.tokenArrival (tokDie tok) (tokUnit tok) tok ⟨true, 256 * d + 240⟩))) ∧
     (unitOk (tokUnit tok) = false →
       exec (.inj f) s = .next ((s.setCore d (pastWord c)).frameReport d (256 * d + 240) tok))) ∧
    (∀ g : OpenFid, s.fidNamed d A = some g →
      exec (.retryf f) s = .next (ends (s.retryFault d g) 1) ∧
      exec (.retryfFail f) s = .next (ends (s.failFault d g) 1)) ∧
    (s.fidNamed d A = none → ∀ i, i = .retryf f ∨ i = .retryfFail f → exec i s = .next (ends s 0)) ∧
    (A.toNat < 64 → (s.ctx A.toNat).st = .stopped → ∀ t, s.coreStore d B (s.saveArea d A.toNat) = .ok t →
      let x := t.ctx A.toNat
      exec (.snap f) s = .next (ends (t.setCtx A.toNat { x with snapd := x.snapd ||| BitVec.ofNat 4 (2 ^ d) })
        (BitVec.ofNat 64 (s.saveArea d A.toNat).length))) ∧
    (A.toNat < 64 → (s.ctx A.toNat).st = .stopped → ∀ h t b u, s.coreLoad d B 64 = (.ok h, t) → leAt h 0 4 = 0x56534756 →
      t.coreLoad d (B + 64) (leAt h 32 8 - 64) = (.ok b, u) →
      u.areaOk d A.toNat h (parseSects (leAt h 24 4) b) = true →
      let es := (u.ctxEngines A.toNat).filter fun e => e / 72 == d
      let ids := es.flatMap fun e => ((u.engine e).streams.filter fun y => y.who.ctx == A.toNat && decide (y.n < 256)).map (·.id)
      let v := ((parseSects (leAt h 24 4) b).foldl (fun w x => w.restoreSect d A.toNat x.1 x.2.1 x.2.2)
        (u.each es fun e w => w.unseatStreams e A.toNat)).each es fun e w => w.seatStreams e A.toNat ids
      let x := v.ctx A.toNat
      exec (.rstor f) s = .next (ends (v.setCtx A.toNat { x with rstd := x.rstd ||| BitVec.ofNat 4 (2 ^ d) })
        (BitVec.ofNat 64 (leAt h 32 8)))) ∧
    (A.toNat < 72 → (s.engine (72 * d + A.toNat)).frozen = true → ∀ t,
      s.coreStore d B ((s.engine (72 * d + A.toNat)).accBytes (f.imm.extractLsb' 0 3).toNat) = .ok t →
      exec (.qdrn f) s = .next (ends t 16384)) ∧
    (∀ l n, s.slotFor d A = .ok (l, n) →
      let x := s.slot l n
      exec (.msrd f) s = .next (s.setCore d (pastWord (((c.wr f.gd (BitVec.ofNat 64 x.p.toNat)).wr f.gb
        (x.tok.extractLsb' 64 64)).wr f.gc (x.tok.extractLsb' 0 64)))) ∧
      exec (.mswr f) s = .next ((s.restoreSlot l n (f.imm.getLsbD 0) (B ++ c.rd f.gc)).setCore d
        (pastWord (c.wr f.gd (BitVec.ofNat 64 x.p.toNat)))))


/-- The privileged words in supervisor and in user mode. -/
def Obligations.PrivilegedWordsInBothModes : Prop := PrivilegedWords ∧ PrivilegedInUserMode

/-! ## Tokens, firings and instances -/

/-- What happens when a token reaches the matching store of an engine or of a pool (R26, R30, R47, R58): a live colour fills its empty
slot and no other, a colour that is not live is spilled; a full slot raises DOUBLE; a breach of R30 raises FRAME; a STICKY port takes the
new token for its old one (R40); a credit return clears its busy bit, at the pool that of the first group of its context that has it set;
a token of a context that is not resident is spilled, one of a context torn down is dropped, and one at a unit that has no store is
dropped with FRAME in a record that names the sender. -/
def Sys2Proof.Cert.TokenArrivals : Prop :=
  ∀ (s : State) (die unit : Nat) (tok : Token) (init : Bool) (src : Nat),
    let run := exec (.tokenArrival die unit tok ⟨init, src⟩) s
    let l := if unit = 248 then Loc.pool die else .eng (72 * die + unit)
    let x := s.ctx (tokCtx tok)
    let torn := x.st = .tearing ∨ (x.st = .free ∧ x.torn = true)
    let away := x.st = .ready ∧ x.svalid = true
    let f := s.frame l (tokFrame tok)
    let o := s.opAt l (tokOp tok) (tokFrame tok)
    let k := tokPort tok
    let mode := (o.ports.getD k {}).mode
    let n := f.base + (tokCol tok % f.w) * f.spc + o.slotoff + k
    let one := tokWithRun tok (tokCol tok) 0
    let matched := mode ≠ .rod ∧ ¬ (o.h.kind = .loop ∧ k = 3)
    let plain := tokRun tok = 0 ∧ matched ∧ mode ≠ .sticky
    let good := s.frameChecks l tok = true ∧ ¬ (init = true ∧ s.initialRefused l tok = true)
    let b := fld (tokPay tok) 0 6
    let i := fld (tokPay tok) 8 3
    let cleared := fun (t : State) (op : Nat) =>
      (t.busyMap l op i).getLsbD b = false ∧ (∀ j < 64, j ≠ b → (t.busyMap l op i).getLsbD j = (s.busyMap l op i).getLsbD j) ∧
        t.mem = s.mem ∧ t.pend = s.pend
    (unit ≤ 71 ∨ unit = 248 → ¬ torn → ¬ away →
      (tokCredit tok = true → unit ≤ 71 → ∃ t, run = .next t ∧ cleared t (tokOp tok)) ∧
      (∀ g y, tokCredit tok = true → unit = 248 →
        (((s.units die).groups.filter fun z => z.2.holds && z.2.ctx == tokCtx tok).find?
          fun z => (s.busyMap l (256 * z.1 + tokOp tok) i).getLsbD b) = some (g, y) →
        ∃ t, run = .next t ∧ cleared t (256 * g + tokOp tok)) ∧
      (tokCredit tok = false → good → plain → f.live (tokCol tok) = true → (s.slot l n).p = false →
        ∃ t, run = .next t ∧ t.slot l n = { p := true, tok := one } ∧ (∀ m, m ≠ n → t.slot l m = s.slot l m) ∧
          t.mem = s.mem ∧ t.pend = s.pend ∧ (∀ e, l ≠ .eng e → t.engine e = s.engine e)) ∧
      (tokCredit tok = false → good → plain → f.live (tokCol tok) = true → (s.slot l n).p = true →
        run = .next (s.report l.die cDouble (s.tokOrigin l one) 0 0 (some one))) ∧
      (tokCredit tok = false → good → plain → f.live (tokCol tok) = false → run = .next (s.spill l one false)) ∧
      (tokCredit tok = false → good → matched → mode = .sticky →
        ∃ t, run = .next t ∧ t.slot l (f.base + o.slotoff + k) = { p := true, tok := tok } ∧
          (∀ m, m ≠ f.base + o.slotoff + k → t.slot l m = s.slot l m) ∧ t.mem = s.mem) ∧
      (tokCredit tok = false → ¬ good → run = .next (s.dropTok l cFrame tok 0))) ∧
    (unit ≤ 71 ∨ unit = 248 → ¬ torn → away → run = .next (s.spill l tok true)) ∧
    (unit ≤ 71 ∨ unit = 248 → torn → run = .next s) ∧
    (71 < unit → unit ≠ 248 → run = .next (s.frameReport die src tok))

/-- A LOOP operator arms (R39): with fewer than four armings open, the pair of start value and trip count of the live colour nearest to
WBASE leaves its slots and opens an arming; n = 0 sends the completion token at once, and n > 4,096 raises FRAME. -/
def Sys2Proof.Cert.LoopArms : Prop :=
  ∀ (s : State) (e op c : Nat),
    let run := exec (.loopArm e op) s
    let x := s.engine e
    let o := x.op op
    let l := Loc.eng e
    let f := tget {} x.t.ft o.frame
    let cnt := (s.portTok l f o c 1).getD 0
    let n := (tokPay cnt).toNat
    let taken := (s.setSlot l (slotNum f o c 0) {}).setSlot l (slotNum f o c 1) {}
    o.h.kind = .loop → f.v = true → (x.run op).arms.length < 4 → (s.ctx f.ctx).st = .running →
    (f.window.find? fun c => (s.portTok l f o c 0).isSome && (s.portTok l f o c 1).isSome) = some c →
    (1 ≤ n → n ≤ 4096 →
      ∃ t, run = .next t ∧ ((t.engine e).run op).arms = (x.run op).arms ++
          [{ n := n, outer := c, start := tokPay ((s.portTok l f o c 0).getD 0) }] ∧
        (t.slot l (slotNum f o c 0)).p = false ∧ (t.slot l (slotNum f o c 1)).p = false ∧
        (∀ m, m ≠ slotNum f o c 0 → m ≠ slotNum f o c 1 → t.slot l m = s.slot l m) ∧ t.mem = s.mem ∧ t.pend = s.pend) ∧
    (n = 0 → run = .next (taken.loopSend e op (o.h.olcnt - 1) c 0 0)) ∧
    (4096 < n → run = .next (taken.dropTok l cFrame cnt 0))

/-- A LOOP operator hands out colours (R39): the live colours from NEXT, at most as many as the oldest unfinished arming has left, go
out as one run token on each output reference but the last, and NEXT advances past them. -/
def Sys2Proof.Cert.LoopHandsOut : Prop :=
  ∀ (s : State) (e op : Nat) (a : Arming),
    let x := s.engine e
    let o := x.op op
    let f := tget {} x.t.ft o.inner
    let n := Nat.min (Nat.min (a.n - a.handed) (f.w - (f.next + 4096 - f.wbase) % 4096)) 32
    let first := if a.handed = 0 then f.next else a.first
    o.h.kind = .loop → f.v = true → (s.ctx f.ctx).st = .running →
    ((x.run op).arms.find? fun b => decide (b.handed < b.n)) = some a → 1 ≤ n →
    ∃ t, exec (.loopHandOut e op) s = .next t ∧ (tget {} (t.engine e).t.ft o.inner).next = (f.next + n) % 4096 ∧
      { a with first := first, handed := a.handed + n } ∈ ((t.engine e).run op).arms ∧ t.mem = s.mem ∧
      (∀ k, k + 1 < o.h.olcnt →
        let ref := x.ref o k
        refUnit ref ≤ 71 → refCt ref ≤ 1 →
        ∃ m ∈ t.pend, ∃ tok src, m.ev = .tokenArrival (refDie ref) (refUnit ref) tok ⟨false, src⟩ ∧
          tokCol tok = colourTo (refCt ref) (refCimm ref) f.next % 4096 ∧ tokRun tok + 1 = n ∧
          tokPay tok = BitVec.ofNat 64 (a.start.toNat * 4096 + first))

/-- A spilled token whose first colour has become live comes back (R28): of those of the frame the first by distance from WBASE, port
and spill order leaves the overflow region and travels to its store again, behind the reinjections of the frame that are under way. -/
def Sys2Proof.Cert.SpilledReturns : Prop :=
  ∀ (s : State) (die eng frame i : Nat) (b : List Byte), die < 4 →
    let l := if eng = 255 then Loc.pool die else .eng (72 * die + eng)
    let f := s.frame l frame
    f.v = true → (s.ctx f.ctx).st = .running ∨ (s.ctx f.ctx).st = .draining →
    pickMin (fun x y => ovBefore f x.2 y.2) ((s.ovUsed die f.ctx).filter fun x =>
      ovLoc die x.2 == l && tokFrame (ovToken x.2) == frame && f.live (tokCol (ovToken x.2)) &&
        ovFlags x.2 / 2 % 2 == 0) = some (i, b) →
    (∀ hs u, s.ovHomes die f.ctx i .store = (.ok hs, u) →
      ∃ t id, exec (.overflowReinject die eng frame) s = .next t ∧ t.rdByte (hs.getD 21 0) = 0 ∧
        (∀ h, h ≠ hs.getD 21 0 → t.rdByte h = u.rdByte h) ∧
        (∀ m ∈ u.pend, m ∈ t.pend) ∧
        ⟨id, u.reinjecting l frame, .tokenArrival l.die l.unit (ovToken b) ⟨false, 256 * die + 255⟩⟩ ∈ t.pend) ∧
    (∀ g u, s.ovHomes die f.ctx i .store = (.error g, u) →
      exec (.overflowReinject die eng frame) s =
        .next (u.ovSpill die f.ctx (u.tokOrigin (ovLoc die b) (ovToken b)).inst g))

/-- A PUSH copy lands (R46, R210): its rows are written into the consumer's input sub-slot of its colour and its shadow planes after
them, the descriptor names that sub-slot, and then its token arrives: at a good live colour with an empty slot it becomes present. -/
def Sys2Proof.Cert.PushLands : Prop :=
  ∀ (s : State) (die unit : Nat) (tok : Token) (rows : List (List Byte)) (tans : List (List (List Byte))), die < 4 → unit < 72 →
    let run := exec (.pushLanding die unit tok rows tans) s
    let e := 72 * die + unit
    let l := Loc.eng e
    let o := (s.engine e).op (tokOp tok)
    let d := dWithBase (tokPay tok) (o.inLine (tokPort tok) (tokCol tok % o.rcnt))
    let kc := s.consumerK tok (tget {} (s.engine e).t.ft (tokFrame tok)).inst
    let landed := (s.landRows e d rows).landTans e (s.shadowStride e (tokOp tok)) kc d tans
    let named := tokWithPay tok d
    o.h.kind ≠ .none → (s.ctx (tokCtx tok)).isTorn = false →
    run = .next (landed.arriveCtx l named false) ∧
    (kc = 0 → landed = s.landRows e d rows ∧
      (let places := (List.range rows.length).flatMap fun r => (List.range (rows.getD r []).length).map fun i => scratchHome e (tileByte d r i)
       places.Nodup → ∀ r i v, ((rows.getD r [])[i]? = some v) → landed.rdByte (scratchHome e (tileByte d r i)) = v)) ∧
    (let f := landed.frame l (tokFrame named)
     let p := landed.opAt l (tokOp named) (tokFrame named)
     let n := slotNum f p (tokCol named) (tokPort named)
     let mode := (p.ports.getD (tokPort named) {}).mode
     let x := landed.ctx (tokCtx named)
     x.isTorn = false → ¬ (x.st = .ready ∧ x.svalid = true) → tokCredit named = false → landed.frameChecks l named = true →
     tokRun named = 0 → mode ≠ .rod → mode ≠ .sticky → ¬ (p.h.kind = .loop ∧ tokPort named = 3) →
     f.live (tokCol named) = true → (landed.slot l n).p = false →
     ∃ t, run = .next t ∧ t.slot l n = { p := true, tok := tokWithRun named (tokCol named) 0 } ∧ t.mem = landed.mem ∧
       t.pend = landed.pend)

/-- An exit token counts its run, and the one that completes the count leaves a RUNNING instance DRAINING; a token past the count makes
its instance FAULTED, and one that names no instance that can exit is dropped with FRAME (R314). -/
def Sys2Proof.Cert.ExitsCount : Prop :=
  ∀ (s : State) (tok : Token) (who : Origin),
    let run := exec (.exitToken tok who) s
    let c := tokCtx tok
    let inst := ((tokPay tok).extractLsb' 0 8).toNat
    let dropped := fun (i : Option Nat) => s.report 0 cFrame ⟨c, i, 0, 252, tokOp tok, tokCol tok⟩ 0 0 (some tok)
    (s.ctx c).isTorn = false →
    (∀ k, s.instKernel c inst = some k →
      let x := s.kernel k
      let n := x.exits.toNat + tokRun tok + 1
      let exits := ((tokPay tok).extractLsb' 8 6).toNat = c ∧ (x.st = .running ∨ x.st = .draining ∨ x.st = .faulted)
      (exits → n ≤ x.nexit.toNat → ∃ t, run = .next t ∧ (t.kernel k).exits.toNat = n ∧
        (t.kernel k).st = (if n = x.nexit.toNat ∧ x.st = .running then .draining else x.st) ∧
        t = s.setKernel k { x with exits := (t.kernel k).exits, st := (t.kernel k).st }) ∧
      (exits → x.nexit.toNat < n → run = .next (dropped (some inst))) ∧
      (¬ exits → run = .next (dropped none))) ∧
    (s.instKernel c inst = none → run = .next (dropped none))

/-- Token arrivals, LOOP operators, pushes and exits. -/
def Obligations.TokenAndLoopEvents : Prop := TokenArrivals ∧ LoopArms ∧ LoopHandsOut ∧ SpilledReturns ∧ PushLands ∧ ExitsCount

/-- Where TOKEN_ARRIVAL, LOOP_ARM, LOOP_HAND_OUT, OVERFLOW_REINJECT, PUSH_LANDING and EXIT_TOKEN complete: each answers a next state
with its own effect, for every state and operands that meet the rule's conditions (R58, R39, R28, R46, R314). -/
def Obligations.TokenEventsComplete : Prop :=
  -- a token with one live colour at an empty slot of a TOKEN, ORDER, DEMAND or ANY port becomes present there
  (∀ (s : State) (die unit : Nat) (tok : Token) (init : Bool) (src : Nat), unit ≤ 71 ∨ unit = 248 →
    let l := if unit = 248 then Loc.pool die else .eng (72 * die + unit)
    let f := s.frame l (tokFrame tok)
    let o := s.opAt l (tokOp tok) (tokFrame tok)
    let mode := (o.ports.getD (tokPort tok) {}).mode
    let n := f.base + (tokCol tok % f.w) * f.spc + o.slotoff + tokPort tok
    (s.ctx (tokCtx tok)).st = .running → tokCredit tok = false → s.frameChecks l tok = true → s.initialRefused l tok = false →
    tokRun tok = 0 → mode ≠ .rod → mode ≠ .sticky → ¬ (o.h.kind = .loop ∧ tokPort tok = 3) → f.live (tokCol tok) = true →
    (s.slot l n).p = false →
    ∃ t, exec (.tokenArrival die unit tok ⟨init, src⟩) s = .next t ∧ (t.slot l n).p = true ∧
      tokPay (t.slot l n).tok = tokPay tok ∧ tokCol (t.slot l n).tok = tokCol tok) ∧
  -- a pair of start value and trip count opens an arming
  (∀ (s : State) (e op c : Nat),
    let x := s.engine e
    let o := x.op op
    let f := tget {} x.t.ft o.frame
    let n := (tokPay ((s.portTok (.eng e) f o c 1).getD 0)).toNat
    o.h.kind = .loop → f.v = true → (x.run op).arms.length < 4 → (s.ctx f.ctx).st = .running →
    (f.window.find? fun c => (s.portTok (.eng e) f o c 0).isSome && (s.portTok (.eng e) f o c 1).isSome) = some c →
    1 ≤ n → n ≤ 4096 →
    ∃ t, exec (.loopArm e op) s = .next t ∧ ((t.engine e).run op).arms.length = (x.run op).arms.length + 1 ∧
      ∃ a ∈ ((t.engine e).run op).arms, a.n = n ∧ a.handed = 0 ∧ a.outer = c) ∧
  -- an arming with colours left hands out those that are live
  (∀ (s : State) (e op : Nat) (a : Arming),
    let x := s.engine e
    let o := x.op op
    let f := tget {} x.t.ft o.inner
    o.h.kind = .loop → f.v = true → (s.ctx f.ctx).st = .running →
    ((x.run op).arms.find? fun b => decide (b.handed < b.n)) = some a → (f.next + 4096 - f.wbase) % 4096 < f.w →
    ∃ t n, exec (.loopHandOut e op) s = .next t ∧ 1 ≤ n ∧ (tget {} (t.engine e).t.ft o.inner).next = (f.next + n) % 4096 ∧
      ∃ b ∈ ((t.engine e).run op).arms, b.handed = a.handed + n ∧ b.n = a.n ∧ b.outer = a.outer) ∧
  -- the first spilled token of a frame that has become live is on its way to its store
  (∀ (s u : State) (die eng frame i : Nat) (b : List Byte) (hs : List Nat), die < 4 →
    let l := if eng = 255 then Loc.pool die else .eng (72 * die + eng)
    let f := s.frame l frame
    f.v = true → (s.ctx f.ctx).st = .running →
    pickMin (fun x y => ovBefore f x.2 y.2) ((s.ovUsed die f.ctx).filter fun x =>
      ovLoc die x.2 == l && tokFrame (ovToken x.2) == frame && f.live (tokCol (ovToken x.2)) &&
        ovFlags x.2 / 2 % 2 == 0) = some (i, b) →
    s.ovHomes die f.ctx i .store = (.ok hs, u) →
    ∃ t, exec (.overflowReinject die eng frame) s = .next t ∧ t.rdByte (hs.getD 21 0) = 0 ∧
      ∃ m ∈ t.pend, m.ev = .tokenArrival l.die l.unit (ovToken b) ⟨false, 256 * die + 255⟩) ∧
  -- a pushed tile of an engine's operator lands, and its token becomes present with the descriptor of the sub-slot
  (∀ (s : State) (die unit : Nat) (tok : Token) (rows : List (List Byte)) (tans : List (List (List Byte))), die < 4 → unit < 72 →
    let e := 72 * die + unit
    let l := Loc.eng e
    let o := (s.engine e).op (tokOp tok)
    let d := dWithBase (tokPay tok) (o.inLine (tokPort tok) (tokCol tok % o.rcnt))
    let named := tokWithPay tok d
    -- the state with the tile and its shadow planes written into scratch
    let u := (s.landRows e d rows).landTans e (s.shadowStride e (tokOp tok))
      (s.consumerK tok (tget {} (s.engine e).t.ft (tokFrame tok)).inst) d tans
    let f := u.frame l (tokFrame tok)
    let p := u.opAt l (tokOp tok) (tokFrame tok)
    let mode := (p.ports.getD (tokPort tok) {}).mode
    let n := slotNum f p (tokCol tok) (tokPort tok)
    o.h.kind ≠ .none → (s.ctx (tokCtx tok)).isTorn = false → (u.ctx (tokCtx tok)).st = .running → tokCredit named = false →
    u.frameChecks l named = true → tokRun tok = 0 → mode ≠ .rod → mode ≠ .sticky → ¬ (p.h.kind = .loop ∧ tokPort tok = 3) →
    f.live (tokCol tok) = true → (u.slot l n).p = false →
    ∃ t, exec (.pushLanding die unit tok rows tans) s = .next t ∧ t.mem = u.mem ∧ (t.slot l n).p = true ∧
      tokPay (t.slot l n).tok = d) ∧
  -- an exit token within the count of its instance is counted
  (∀ (s : State) (tok : Token) (who : Origin) (k : Nat),
    let x := s.kernel k
    let n := x.exits.toNat + tokRun tok + 1
    (s.ctx (tokCtx tok)).st = .running → s.instKernel (tokCtx tok) ((tokPay tok).extractLsb' 0 8).toNat = some k →
    ((tokPay tok).extractLsb' 8 6).toNat = tokCtx tok → x.st = .running ∨ x.st = .draining ∨ x.st = .faulted →
    n ≤ x.nexit.toNat →
    ∃ t, exec (.exitToken tok who) s = .next t ∧ (t.kernel k).exits.toNat = n ∧
      (n = x.nexit.toNat → x.st = .running → (t.kernel k).st = .draining))

/-- Issue, commit and abort of firings (R49–R55, R94, R349): a chosen colour opens its pass in an empty slot; a pass that has
settled commits, and its scalar registers outlive it; one that does not settle aborts with COMMIT; an aborted pass is queued
again; a satisfied pass takes its slot again. -/
def Obligations.FiringEvents : Prop :=
  (∀ (s : State) (e sl : Nat) (ch : Choice) (ins : List PortIn), e < 288 → sl < 2 →
    let x := s.engine e
    (x.slot sl).act = none → (x.slot sl).issued = false → x.frozen = false →
    (∀ a ∈ x.ready, (x.op a.fr.op).h.cls ≠ sl) →
    pickMin (fun a b => keyLt a.key b.key) (s.choices_ e sl) = some ch → ch.fir = none →
    s.eligible e ch.op ch.col = some ins → (x.op ch.op).fate ins = .run → (x.op ch.op).scaleOk ins = true →
    ∃ t a, exec (.firingIssue e sl) s = .next t ∧ t.active e sl = some a ∧ a.fr.op = ch.op ∧ a.pass.col = ch.col ∧
      a.pass.ins = ins ∧ a.pass.idx = 0 ∧ a.pass.b = {} ∧ a.pass.r.s = (x.run ch.op).s ∧ a.pass.r.w = [] ∧ t.mem = s.mem) ∧
  (∀ (s : State) (e sl : Nat) (a : Active), s.active e sl = some a → a.pass.wait = .none →
    (a.pass.done = true ∨ ((s.engine e).op a.fr.op).h.blen < a.pass.next) →
    (a.pass.settle (s.engine e) ((s.engine e).op a.fr.op) = none →
      exec (.passCommit e sl) s = .next (s.passFault e sl ⟨cCommit, 0, 0⟩)) ∧
    (∀ p, a.pass.settle (s.engine e) ((s.engine e).op a.fr.op) = some p →
      p.b.lnches ≤ (s.cp.resv.filter fun r => r.eng == e && r.uid == a.fr.uid && r.granted).length →
      ((s.engine e).streams.filter fun y => decide (y.n < 96)).length + (p.b.held.filter (·.eff.isStream)).length ≤ 96 →
      s.root.cmode = 0 → ∃ t, exec (.passCommit e sl) s = .next t ∧ t = s.commitPass e sl { a with pass := p } ∧
        ((t.engine e).run a.fr.op).s = p.r.s ∧ ((t.engine e).run a.fr.op).ssh = p.r.ssh)) ∧
  (∀ (s : State) (e sl : Nat) (a : Active), sl < 2 → s.active e sl = some a →
    ∃ t, exec (.passAbort e a.fr.uid) s = .next t ∧ t.active e sl = none ∧
      { a.fr with requeued := true, hold := .free } ∈ (t.engine e).requeue ∧ t.mem = s.mem) ∧
  (∀ (s : State) (e fid : Nat) (a : Active),
    let x := s.engine e
    let sl := (x.op a.fr.op).h.cls
    (x.ready.find? fun b => b.fr.uid == fid) = some a → (x.slot sl).act = none →
    exec (.suspendedPassResume e fid) s = .next ((s.setEngine e { x with ready := x.ready.erase a }).setActive e sl (some a)))

/-- The pool, the clearing of a group, quiescence and the deadlock detector (R315, R320, R330, R337, R338). -/
def Obligations.PoolAndInstanceEvents : Prop :=
  (∀ (s t : State) (d g : Nat) (before after : List Nat), d < 4 → (s.pool d).did = false →
    ((List.range 72).map fun n => ((s.pool d).lastG + n + 1) % 72) = before ++ g :: after →
    (∀ k ∈ before, ∀ p < 8, s.poolAt d k p = []) → (s.poolAim d g).dispatchFrom d g = some t →
    exec (.poolDispatch d) s = .next (t.setPool d { t.pool d with did := true })) ∧
  (∀ (s : State) (d n : Nat) (r : PoolReady),
    let p := s.pool d
    p.ready[n]? = some r → p.agelim ≠ 0 → r.prio < 7 → p.agelim.toNat ≤ r.wait →
    exec (.poolPriorityPromote d n) s = .next (s.setPool d { p with
      ready := p.ready.set n { r with prio := r.prio + 1, wait := 0 } })) ∧
  (∀ (s : State) (d g t : Nat), (s.group d g).clear = some t → t ≤ s.clock.cyc →
    exec (.groupClearComplete d g) s = .next (s.setGroup d g { s.group d g with
      clear := none, st := if (s.ctx (s.group d g).ctx).st = .running then .active else (s.group d g).st })) ∧
  (∀ (s : State) (k : Nat),
    let x := s.kernel k
    let quiet := x.st = .draining ∧ s.quiescent x.ctx x.inst = true
    (quiet → exec (.instanceQuiesce k) s = .next (s.setKernel k { x with st := .quiesced })) ∧
    (x.st = .quiesced → ∃ t, exec (.instanceQuiesce k) s = .next t ∧ (t.kernel k).st = .armed ∧ (t.kernel k).last = 1) ∧
    (¬ quiet → x.st ≠ .quiesced → exec (.instanceQuiesce k) s = .next s)) ∧
  (∀ (s : State) (d c : Nat), d < 4 → c < 64 →
    let u := s.units d
    u.det.en = true → 2 ^ u.det.log2 ≤ tget 0 u.det.cnt c → c ∉ u.det.rep →
    -- the overflow entries have been looked through (R317)
    let v := s.ovLook d c none
    (v.stalled d c = true → ∃ t, exec (.stall d c) s = .next t ∧ c ∈ (t.units d).det.rep ∧
      (∃ n, t.pend = v.pend ++ [⟨n, [], .trapRecordEnqueue d (v.stallRecord d c)⟩])) ∧
    (v.stalled d c = false → ∃ t, exec (.stall d c) s = .next t ∧ tget 0 (t.units d).det.cnt c = 0 ∧ t.pend = v.pend))


/-! ## Memory, streams and locks as they act at their homes -/

/-- An access acts at its home (R234, R249, R250): a store writes its bytes and no other; an atomic or CAS of 4 or 8 bytes
writes the value of its operation and sends the old value where a reply was asked for; a read that meets an uncorrectable
error reports ECC and changes nothing. -/
def Obligations.AccessesAtHome : Prop :=
  ∀ (s : State) (a : Access),
    let n := a.homes.length
    let m := leNat (s.rdHomes a.homes)
    let fmt := if n = 8 then 0 else 1
    let t := s.accessHome a
    let others := ∀ h, h ∉ a.homes → t.rdByte h = s.rdByte h
    (∀ i ∈ [Instr.accessAtHome a, .windowAccessArrival a], exec i s = .next t) ∧
    (a.homes.Nodup →
      (∀ bs, a.op = .store bs → bs.length = n → t.rdHomes a.homes = bs ∧ others ∧ t.pend = s.pend) ∧
      (∀ k v, a.op = .atom k n v → n = 4 ∨ n = 8 → s.eccHomes a.homes = false →
        let b := v.toNat % 2 ^ (8 * n)
        let sg := fun (x : Nat) => (BitVec.ofNat (8 * n) x).toInt
        let f := fun (y : FV) => encFloat fmt 0 0 y % 2 ^ (8 * n)
        let A := fvOf fmt m
        let B := fvOf fmt b
        let pick := fun (mx : Bool) => f (if A.isNan then A else if B.isNan then B else if minMaxSecond mx A B then B else A).quiet
        ∀ x, (k = 0 ∧ x = (m + b) % 2 ^ (8 * n) ∨ k = 1 ∧ x = m &&& b ∨ k = 2 ∧ x = m ||| b ∨ k = 3 ∧ x = m ^^^ b ∨
            k = 4 ∧ x = (if sg b < sg m then b else m) ∨ k = 5 ∧ x = (if sg m < sg b then b else m) ∨
            k = 6 ∧ x = Nat.min m b ∨ k = 7 ∧ x = Nat.max m b ∨ k = 8 ∧ x = b ∨
            k = 9 ∧ x = f (A.add 0 B) ∨ k = 10 ∧ x = pick false ∨ k = 11 ∧ x = pick true) →
          leNat (t.rdHomes a.homes) = x ∧ others) ∧
      (∀ new cmp, a.op = .cas n new cmp → s.eccHomes a.homes = false → m = cmp.toNat % 2 ^ (8 * n) →
        leNat (t.rdHomes a.homes) = new.toNat % 2 ^ (8 * n) ∧ others) ∧
      (∀ new cmp, a.op = .cas n new cmp → s.eccHomes a.homes = false → m ≠ cmp.toNat % 2 ^ (8 * n) → t.mem = s.mem)) ∧
    ((∀ bs, a.op ≠ .store bs) → s.eccHomes a.homes = false →
      (a.reply = none → t.pend = s.pend) ∧
      (∀ r, a.reply = some r → tokUnit r.tok ≤ 71 → ∃ tok, tokPay tok = BitVec.ofNat 64 m ∧ tokCol tok = tokCol r.tok ∧
        t.pend.map (·.ev) = s.pend.map (·.ev) ++
          [.tokenArrival (tokDie r.tok) (tokUnit r.tok) tok ⟨false, 256 * r.who.die + r.who.unit⟩])) ∧
    ((∀ bs, a.op ≠ .store bs) → s.eccHomes a.homes = true →
      t = s.report a.who.die cEcc a.who 0 (Config.eccPlace (a.homes.headD 0)) none)

/-- The buffer of a stream (R223): bytes that it has read stay as they were read, and with a byte that it lacks it reads the tile's bytes
of the whole 64-byte scratch chunk. What an LDT has received is written to scratch one whole chunk at a time, once every byte that the
tile has in the chunk has come. -/
def Sys2Proof.Cert.StreamBuffer : Prop :=
  (∀ (s : State) (e : Nat) (d : Word) (hs : List Nat) (b : Table Byte) (h : Nat),
    let u := s.fillBuf e d hs b
    (bufHas b h = true → tget 0 u h = tget 0 b h) ∧
    (bufHas b h = false → (∃ k ∈ hs, bufHas b k = false) → h ∈ s.chunkMates e d hs → tget 0 u h = s.rdByte h)) ∧
  (∀ (s : State) (x : Stream) (d : Word) (hs : List Nat) (bs : List Byte),
    let got := (hs.zip bs).foldl (fun t y => tput t y.1 y.2) x.buf
    let t := s.landLdt x d hs bs
    let whole := fun (h : Nat) => h ∈ s.chunkMates x.eng d hs ∧ ∀ k ∈ s.chunkMates x.eng d hs, k / 64 = h / 64 → bufHas got k = true
    (∀ h, whole h → t.rdByte h = tget 0 got h) ∧ (∀ h, ¬ whole h → t.rdByte h = s.rdByte h) ∧ t.pend = s.pend)

/-- A stream moves one piece at a time (R223, R225, R245, R386): a primal piece of an LDT brings its bytes to the stream's buffer, one of
an STT takes them from there; a miss asks for a walk for the plane's entry; of the requests for one page the first is walked, once fewer
than eight walks come before it, and its end gives each of them its result (R384): the entry is loaded, or the stream stalls, or it ends
on an uncorrectable error; after the last
piece the completion token and add leave, the token behind the streams that an ORDJ joins to it (R248), the add behind what its pass
did before at SYSTEM scope (R227). -/
def Sys2Proof.Cert.StreamSteps : Prop :=
  ∀ (s : State) (e n : Nat) (x : Stream), e < 288 → n < 256 → s.stream e n = some x →
    let q := x.q
    let gone := fun (t : State) (p : Nat) =>
      t.setStream e n ((t.stream e n).map fun y => { y with todo := y.todo.filter (· != p) })
    (∀ p, x.phase = .running → p ∈ x.todo → s.depsDone x.deps = true →
      (∀ t, s.pieceMove x p = .ok (.ok t) → q.kind ≠ .redt ∨ (gone t p).root.cmode = 0 →
        exec (.streamChunkTransfer e n p) s = .next (gone t p)) ∧
      (∀ pl ad, s.pieceMove x p = .error (pl, ad) → exec (.streamChunkTransfer e n p) s =
        .next (s.setStream e n (some { x with phase := .walking pl ad, miss := some (pl, ad), pre := [], asked := s.clock.cyc }))) ∧
      (∀ f, s.pieceMove x p = .ok (.error f) → exec (.streamChunkTransfer e n p) s =
        .next ((s.report (e / 72) cEcc x.who f.addr f.detail none).setStream e n none)) ∧
      (piecePlane p = 0 →
        let row := q.addr + BitVec.ofNat 64 (pieceRow p * q.pitch)
        let lo := (chunkSpan row (dRowBytes q.desc) (pieceChunk p)).1
        let hi := (chunkSpan row (dRowBytes q.desc) (pieceChunk p)).2
        let sc := s.scratchHomes x.eng q.desc (pieceRow p) lo hi
        let buf := s.fillBuf x.eng q.desc sc x.buf
        ∀ hs, s.streamHomes x 0 (row + BitVec.ofNat 64 lo) (hi - lo) = .ok hs →
          (q.kind = .ldt → s.eccHomes hs = false → s.pieceMove x p = .ok (.ok (s.landLdt x q.desc sc
            (if addrPath (row + BitVec.ofNat 64 lo) = 1 then s.rdConst x.eng q.acq hs else s.rdHomes hs)))) ∧
          (q.kind = .stt → s.eccHomes (sc.filter fun h => !bufHas x.buf h) = false →
            s.pieceMove x p = .ok (.ok ((s.setStream x.eng x.n (some { x with buf := bufDrop buf sc })).storeHomes hs
              (bufBytes buf sc)))))) ∧
    (∀ pl ad, x.phase = .walking pl ad →
      (s.walkServed x = false → exec (.translationWalkComplete e n) s = .next s) ∧
      (∀ r t, s.walkServed x = true → s.translate (x.eng / 72) x.who.ctx (addrVa ad) x.pre = (r, t) →
        exec (.translationWalkComplete e n) s =
          .next (((s.walkers (x.eng / 72)).filter fun y => y.walkPage == x.walkPage).foldl (fun u y => u.walkEnds r y) t)) ∧
      (∀ (u t : State) (r : Except (Nat × Nat) Trans),
        (∀ en, u.walkGives r (x.via (decide (0 < pl))) ad = (.ok en, t) →
          u.walkEnds r x = t.setStream x.eng x.n (some { x with phase := .running, ents := tput x.ents pl en })) ∧
        (∀ g, u.walkGives r (x.via (decide (0 < pl))) ad = (.error g, t) →
          (g.cause ≠ cEcc → u.walkEnds r x = (t.stallKey (x.eng / 72) x.who g).2.setStream x.eng x.n
            (some { x with phase := .stalled (t.stallKey (x.eng / 72) x.who g).1 })) ∧
          (g.cause = cEcc → u.walkEnds r x =
            (t.report (x.eng / 72) cEcc x.who g.addr g.detail none).setStream x.eng x.n none)))) ∧
    (x.todo = [] → x.eng = e → (∀ i ∈ x.acks, ∀ r ∈ s.net.remotes, r.id ≠ i) →
      let t := s.completeStream x
      exec (.streamCompletion e n) s = .next t ∧ t.stream e n = none ∧ t.mem = s.mem ∧
      (∀ r, q.comp = none → q.rod = some r → x.dropAdd = false →
        ∃ id, t.pend = s.pend ++ [⟨id, if q.scope = 4 then x.rel else [], .rodAddArrival ⟨r, q.rodHome, q.cadd, x.who, 0⟩⟩] ∧
          (q.scope ≠ 4 → x.rel ≠ [] → ⟨id, rodKeys r q.rodHome, q.scope, x.who, x.rel⟩ ∈ t.soft)) ∧
      (∀ tok, q.comp = some tok → q.rod = none → x.dropTok = false → q.push = false → tokUnit tok ≤ 71 →
        ∃ id, t.pend = s.pend ++ [⟨id, t.joinDeps x.who tok,
          .tokenArrival (tokDie tok) (tokUnit tok) tok ⟨false, 256 * x.who.die + x.who.unit⟩⟩])) ∧
    (x.todo ≠ [] → exec (.streamCompletion e n) s = .next s)

/-- How streams move their bytes, translate and end. -/
def Obligations.StreamEvents : Prop := StreamBuffer ∧ StreamSteps

/-- Lock requests, wounds and releases (R358, R364–R367): a request on a tensor that nothing stands in the way of is granted
in its mode; one that a holder stands in the way of is queued; the request of a pass that is gone does nothing; a wound
aborts its pass; a release takes the records that its kind names; a setting of LKM.LD or LKE.SET that has followed earlier effects is
made as it arrives (R248, R375). -/
def Sys2Proof.Cert.LockEvents : Prop :=
  (∀ (s : State) (r : LockReq),
    let h := lockHome r.name
    let k := s.reckoner h
    let open_ := (s.engine r.eng).waiting fun a => a.fr.uid == r.fid
    let alone := lkLevel r.name = 0 ∧ r.mode ≠ 0 ∧ k.held r.ctx r.age r.name = 0
    (open_ = [] → exec (.lockRequestDecide r) s = .next s) ∧
    (open_ ≠ [] → alone → k.queue = [] → k.needed r ≤ k.free → s.root.cmode = 0 →
      k.grantable (s.ctx r.ctx).lk.matrix r.ctx r.age r.name r.mode = true →
      ∃ t, exec (.lockRequestDecide r) s = .next t ∧ (t.reckoner h).held r.ctx r.age r.name = r.mode ∧ t.mem = s.mem) ∧
    (open_ ≠ [] → alone → k.queue = [] → k.needed r ≤ k.free →
      k.grantable (s.ctx r.ctx).lk.matrix r.ctx r.age r.name r.mode = false →
      ∃ t, exec (.lockRequestDecide r) s = .next t ∧ (t.reckoner h).held r.ctx r.age r.name = 0 ∧
        (∃ w ∈ (t.reckoner h).queue, w.req = r ∧ w.name = r.name) ∧ t.mem = s.mem)) ∧
  (∀ (m : BitVec 36) (r c : Nat), lkCompat m 0 c = true ∧ lkCompat m r 0 = true ∧
    (∀ x y, x < 6 → y < 6 → lkCompat m (x + 1) (y + 1) = m.getLsbD (6 * x + y))) ∧
  (∀ (s : State) (e sl : Nat) (a : Active) (name : Word), sl < 2 → s.active e sl = some a →
    ∃ t, exec (.woundArrival e a.fr.uid name) s = .next t ∧ t.active e sl = none ∧
      { a.fr with requeued := true, hold := .free } ∈ (t.engine e).requeue ∧ t.mem = s.mem) ∧
  (∀ (s : State) (r : LockRel), (s.reckoner r.die).queue = [] →
    let k := s.reckoner r.die
    let left := fun (p : LockRec → Bool) => s.setReckoner r.die { k with recs := k.recs.filter fun x => !p x }
    (r.kind = .all → exec (.lockReleaseArrival r) s = .next (left fun x => x.ctx == r.ctx && x.age == r.age)) ∧
    (∀ n, r.kind = .below n →
      exec (.lockReleaseArrival r) s = .next (left fun x => x.ctx == r.ctx && x.age == r.age && lkUnder n x.name)) ∧
    (∀ (f : Nat) (ok : Bool), r.kind = (if ok then .passEnd f else .revert f) →
      -- the part of a record that the pass took goes; where it commits, its HOLD modes stand, an escalated mode in their place
      let ended := fun (x : LockRec) =>
        let mine := if ok then (x.takes.filter fun t => t.uid == f && t.hold).map (·.mode) else []
        let stands := match x.whole with
          | some (u, c) => if u = f ∧ mine ≠ [] then c else mine.foldl lkLub x.base
          | none => mine.foldl lkLub x.base
        let left := x.takes.filter fun t => t.uid != f
        let y : LockRec := { x with base := stands, takes := left, whole := x.whole.filter fun o => o.1 != f }
        if stands = 0 ∧ left = [] then none else some { y with hit := x.hit && y.raising != [] }
      exec (.lockReleaseArrival r) s = .next (s.setReckoner r.die { k with recs := k.recs.filterMap fun x =>
        if x.ctx = r.ctx ∧ (x.takes.any fun t => t.uid == f) = true then ended x else some x })) ∧
    (∀ v, r.kind = .matrix v → exec (.lockReleaseArrival r) s = .next (s.lkConfig r.ctx fun g => { g with matrix := v })) ∧
    (∀ v, r.kind = .esc v → exec (.lockReleaseArrival r) s = .next (s.lkConfig r.ctx fun g => { g with esc := v })))


/-! ## Contexts and groups (R282–R290, R329, R330, R391) -/

/-- The commands of a context's block: ALLOC, SOFT, HARD, RELEASE, RUN and TEAR move the context between its states, and a write
of ROOT, taken only while the context is FREE or READY, discards every translation of the context. Every write of word 0 also
sets HV and PRIO. ALLOC starts the lock matrix and the escalation threshold anew (R358, R375); SOFT aborts the passes that wait
(R349). A write that sets a reserved bit does none of this (R6); that it is counted as a failed request of cause ILLEGAL is the
model's choice (log entry 125). -/
def Sys2Proof.Cert.ContextCommands : Prop :=
  (∀ (s : State) (c : Nat) (v : Word), c < 64 →
    (ctlReserved (ctxOff c 0) v = true → ∀ i ∈ [Instr.contextAlloc c v, .contextSoft c v, .contextHard c v, .contextRelease c v,
      .contextRun c v, .contextTear c v], exec i s = .next (s.hostCount cIllegal (ctxOff c 0))) ∧
    (ctlReserved (ctxOff c 1) v = true → exec (.contextRootWrite c v) s = .next (s.hostCount cIllegal (ctxOff c 1)))) ∧
  (∀ (s : State) (c : Nat) (v : Word), c < 64 → ctlReserved (ctxOff c 1) v = false →
    let x := s.ctx c
    (x.st = .free ∨ x.st = .ready → ∃ t, exec (.contextRootWrite c v) s = .next t ∧
      (t.ctx c).r.root = v.extractLsb' 16 32 ∧ (∀ d, ∀ p ∈ (t.units d).walk.stc, p.1 ≠ c) ∧
      (∀ d, ∀ k ∈ (t.units d).walk.cbuf, k.ctx ≠ c) ∧ t.mem = s.mem ∧ (∀ k, k ≠ c → t.ctx k = s.ctx k)) ∧
    (x.st ≠ .free → x.st ≠ .ready → exec (.contextRootWrite c v) s = .next s)) ∧
  ∀ (s : State) (c : Nat) (v : Word), c < 64 → ctlReserved (ctxOff c 0) v = false →
    let x := s.ctx c
    let y := { x with hv := v.getLsbD 7, prio := (v.extractLsb' 4 3).toNat }
    let now := s.tick.toNat
    let kept := fun (t : State) => (t.ctx c).hv = y.hv ∧ (t.ctx c).prio = y.prio
    (x.st = .free → exec (.contextAlloc c v) s = .next (s.setCtx c { y with
      st := .ready, svalid := false, since := now, torn := false, lk := { x.lk with matrix := 0x100450CF, esc := 32 } })) ∧
    (x.st ≠ .free → exec (.contextAlloc c v) s = .next (s.setCtx c y)) ∧
    (x.st = .running → ∃ t, exec (.contextSoft c v) s = .next t ∧
      t.ctx c = { y with st := .draining, hStart := some now, hardReq := false, pausedAt := now } ∧
      (∀ e sl a, sl < 2 → t.active e sl = some a → a.fr.ctx = c → a.pass.wait = .none) ∧
      (∀ e, ∀ a ∈ (t.engine e).susp, a.fr.ctx = c → a.pass.wait = .none) ∧ t.mem = s.mem) ∧
    (x.st ≠ .running → exec (.contextSoft c v) s = .next (s.setCtx c y)) ∧
    (x.st = .running ∨ x.st = .draining → ∃ t, exec (.contextHard c v) s = .next t ∧ (t.ctx c).st = .draining ∧
      (t.ctx c).hardReq = true ∧ (∀ e sl a, sl < 2 → t.active e sl = some a → a.fr.ctx ≠ c) ∧ t.mem = s.mem ∧ kept t) ∧
    (x.st = .stopped → s.covers c x.snapd = true → x.next = none → ∃ t, exec (.contextRelease c v) s = .next t ∧
      (t.ctx c).st = .ready ∧ (t.ctx c).svalid = true ∧ t.mem = s.mem ∧ kept t) ∧
    (x.st = .ready → x.svalid = false → ∃ t, exec (.contextRun c v) s = .next t ∧ (t.ctx c).st = .running ∧
      (t.ctx c).qStart = now ∧ kept t) ∧
    (x.st = .stopped → (x.svalid = false ∨ s.covers c x.rstd = true) → ∃ t, exec (.contextRun c v) s = .next t ∧
      (t.ctx c).st = .running ∧ (t.ctx c).svalid = false ∧ kept t) ∧
    (x.st ≠ .free → x.st ≠ .tearing → ∃ t, exec (.contextTear c v) s = .next t ∧ (t.ctx c).st = .tearing ∧
      (∀ e sl a, sl < 2 → t.active e sl = some a → a.fr.ctx ≠ c) ∧ kept t)

/-- The command processor's own steps for a context (R282–R285, R290): a waiting RUN is granted, into RUNNING or, where a snapshot
is to be restored, into STOPPED with SNAPD and RSTD at 0; a quantum that expires stops the context in favour of the READY one of
highest PRIO that has waited longest; a deadline expires; a drained context stops; a torn-down one becomes FREE. -/
def Sys2Proof.Cert.ContextSteps : Prop :=
  ∀ (s : State) (c : Nat),
    let x := s.ctx c
    let now := s.tick.toNat
    (x.st = .ready → x.runReq = true → x.svalid = false → ∃ t, exec (.contextRunGrant c) s = .next t ∧
      (t.ctx c).st = .running ∧ (t.ctx c).runReq = false) ∧
    (x.st = .ready → x.runReq = true → x.svalid = true → (s.ctxGroups c fun t => t == .parked) = [] →
      (∀ p ∈ s.ctxGroups c fun t => t == .reserved, (s.group p.1 p.2).clear = none) →
      ∃ t, exec (.contextRunGrant c) s = .next t ∧
        t.ctx c = { x with st := .stopped, runReq := false, rstd := 0, snapd := 0 } ∧ t.mem = s.mem ∧ t.eng = s.eng) ∧
    (x.st ≠ .ready ∨ x.runReq = false → exec (.contextRunGrant c) s = .next s) ∧
    (let late := x.st = .running ∧ x.r.quantum ≠ 0 ∧ x.qStart + x.r.quantum.toNat ≤ now
     let rivals := (List.range 64).filter fun n =>
       (s.ctx n).st == .ready && s.hasWork n && decide (x.prio ≤ (s.ctx n).prio)
     (late → rivals = [] → exec (.quantumExpiry c) s = .next (s.setCtx c { x with qStart := now })) ∧
     (late → rivals ≠ [] → ∃ n ∈ rivals, (∀ m ∈ rivals, (s.ctx m).prio < (s.ctx n).prio ∨
         (s.ctx m).prio = (s.ctx n).prio ∧ (s.ctx n).since ≤ (s.ctx m).since) ∧
       ∃ t, exec (.quantumExpiry c) s = .next t ∧ t.mem = s.mem ∧ t.ctx c = { x with
         next := some n, st := .draining, hStart := some now, hardReq := false, pausedAt := now }) ∧
     (¬ late → exec (.quantumExpiry c) s = .next s)) ∧
    (∀ t0, x.st = .draining → x.hardReq = false → x.r.hdead ≠ 0 → x.hStart = some t0 → t0 + x.r.hdead.toNat ≤ now →
      ∃ t, exec (.hardDeadlineExpiry c) s = .next t ∧ (t.ctx c).hardReq = true ∧ (t.ctx c).st = .draining) ∧
    (x.st = .draining → s.drained c = true →
      (x.hardReq = false → ∃ t, exec (.contextDrainComplete c) s = .next t ∧
        t.ctx c = { x with st := .stopped, hards := false, snapd := 0, hStart := none } ∧ t.mem = s.mem ∧ t.eng = s.eng) ∧
      (x.hardReq = true → exec (.hardPreemptComplete c) s = .next (s.setCtx c { x with
        st := .stopped, hards := true, snapd := 0, hStart := none, hardReq := false }))) ∧
    (s.drained c = false → exec (.contextDrainComplete c) s = .next s ∧ exec (.hardPreemptComplete c) s = .next s ∧
      exec (.teardownComplete c) s = .next s) ∧
    (x.st = .tearing → s.drained c = true → ∃ t, exec (.teardownComplete c) s = .next t ∧ (t.ctx c).st = .free ∧
      (t.ctx c).torn = true)

/-- The commands on a context and the steps that follow from them. -/
def Obligations.ContextLifeCycle : Prop := ContextCommands ∧ ContextSteps

/-- RESERVE and FREE of a group (R329, R330): a group that passes its checks becomes RESERVED with its members' matching
stores and scratch cleared; a refusal leaves its state and writes RCODE; a group that no kernel uses becomes FREE; an accepted
command leaves RCODE 0. A write that sets a reserved bit does none of this (R6); that it is counted as a failed request is the
model's choice (log entry 125). -/
def Obligations.GroupCommands : Prop :=
  ∀ (s : State) (d g : Nat) (v : Word), d < 4 → g < 72 →
    (ctlReserved (groupOff d g 0) v = true → exec (.groupReserve d g v) s = .next (s.hostCount cIllegal (groupOff d g 0)) ∧
      exec (.groupFree d g v) s = .next (s.hostCount cIllegal (groupOff d g 0))) ∧
    (ctlReserved (groupOff d g 0) v = false →
    let x := s.group d g
    let y := { x with ctx := (v.extractLsb' 8 6).toNat }
    let s1 := s.setGroup d g y
    (x.st = .free → s1.reserveFault d g y = none → ∃ t, exec (.groupReserve d g v) s = .next t ∧
      (t.group d g).st = .reserved ∧ (t.group d g).nmem = (groupMembers d y).length ∧
      (t.group d g).clear = some (s.clock.cyc + 64) ∧ (t.group d g).rcode = 0 ∧
      (∀ e ∈ groupMembers d y, (t.engine e).t.ms = [] ∧ ∀ o < 2 ^ 20, t.rdByte (scratchHome e o) = 0) ∧
      (∀ h < 2 ^ 50, t.rdByte h = s.rdByte h)) ∧
    (∀ n, x.st = .free → s1.reserveFault d g y = some n →
      exec (.groupReserve d g v) s = .next (s.setGroup d g { y with rcode := n })) ∧
    (x.st ≠ .free → exec (.groupReserve d g v) s = .next (s.setGroup d g { x with rcode := cFrame })) ∧
    (x.st = .reserved ∨ x.st = .parked → s.groupInUse d x = false → ∃ t, exec (.groupFree d g v) s = .next t ∧
      (t.group d g).st = .free ∧ (t.group d g).nmem = 0 ∧ (t.group d g).rcode = 0) ∧
    (x.st = .active ∨ x.st ≠ .free ∧ s.groupInUse d x = true →
      exec (.groupFree d g v) s = .next (s.setGroup d g { x with rcode := cFrame })) ∧
    (x.st = .free → exec (.groupFree d g v) s = .next (s.setGroup d g { y with rcode := cFrame })))


/-! ## Queues of the command processor (R292–R302) -/

/-- The queue whose head the command processor starts now: cp_pick has chosen it, and its head can start (R294, R299). -/
def Sys2Proof.Cert.startsNow (s : State) (q opc : Nat) (w : List Word) : Prop :=
  q < 256 ∧ (s.queue q).st = .ready ∧ (s.ctx (s.queue q).ctx).st = .running ∧ s.headSt (s.queue q) = (w, .go) ∧
    cmdOpc w = opc ∧ w ≠ [] ∧ s.cpFree = true ∧ s.cpPick = some q

/-- The seven commands: a chosen head starts with the effect of R296 and HEAD advances; a head that has to wait makes its queue
WAITING, one that is refused halts it with a record, and one that can start again makes it READY (R294, R298). -/
def Sys2Proof.Cert.QueueCommands : Prop :=
  (∀ (s : State) (q : Nat) (w : List Word),
    let x := s.queue q
    let c := x.ctx
    let t := s.advanceHead q
    (startsNow s q 1 w → ∀ k i, s.kidKernel c (launchKid w) = some k → s.freeInst c = some i →
      ∃ u, exec (.cmdLaunch q) s = .next u ∧ (u.kernel k).st = .running ∧ (u.kernel k).inst = i ∧
        (u.kernel k).exits = 0 ∧ (u.kernel k).launch.seq = (s.ctx c).r.age ∧ (u.ctx c).r.age = (s.ctx c).r.age + 1 ∧
        (u.queue q).head = x.head + 1 ∧ x.head.toNat ∈ (u.queue q).unfin) ∧
    (t.queue q = { x with head := x.head + 1, st := if x.head + 1 = x.tail then .idle else .ready, rodw := none }) ∧
    (startsNow s q 2 w → ∀ h u, t.checkRod ⟨.cp, some c⟩ .add (cw w 1) = (.ok h, u) →
      exec (.cmdRodAdd q) s = .next (u.addRod ⟨cw w 1, h, ((cw w 2).extractLsb' 0 32).toNat, ⟨c, none, 0, 252, 0, 0⟩,
        ((cw w 0).extractLsb' 32 32).toNat⟩)) ∧
    (startsNow s q 3 w → exec (.cmdRodWait q) s = .next (t.acquireAt c (((cw w 0).extractLsb' 8 3).toNat + 1)).2) ∧
    (startsNow s q 4 w → ∃ u y, exec (.cmdCopy q) s = .next u ∧ u.cp.copies = s.cp.copies ++ [y] ∧ y.ctx = c ∧
      y.src = cw w 1 ∧ y.dst = cw w 2 ∧ y.tag = ((cw w 0).extractLsb' 32 32).toNat ∧ y.phase = .running ∧ y.queue = (q, x.head.toNat) ∧ y.id = s.nextId ∧
      x.head.toNat ∈ (u.queue q).unfin ∧ (u.queue q).head = x.head + 1 ∧ u.mem = s.mem) ∧
    (startsNow s q 5 w →
      let n := ((cw w 2).extractLsb' 0 3).toNat
      -- a generation that a peer has aborted before it starts here is retired at once (R423)
      let dead := s.cp.aborts.any fun a => a.ctx == c && a.tbl == n && a.gen == (s.pgt c n).gen.toNat && a.early
      ∃ u, exec (.cmdColl q) s = .next u ∧ (u.pgt c n).gen = (s.pgt c n).gen + 1 ∧ x.head.toNat ∈ (u.queue q).unfin ∧
        (u.queue q).head = x.head + 1 ∧ (dead = true → u.cp.colls = s.cp.colls) ∧
        (dead = false → ∃ y, u.cp.colls = s.cp.colls ++ [y] ∧ y.ctx = c ∧ y.tbl = n ∧ y.gen = (s.pgt c n).gen.toNat)) ∧
    (startsNow s q 6 w → exec (.cmdFence q) s = .next t) ∧
    (startsNow s q 7 w → ∀ hs u, t.resolve { by_ := .cp, ctx := some c, kind := .store, strm := 0xFE } [0x0, 0x2] (cw w 1) 16 true = (.ok hs, u) →
      -- each byte goes by itself, behind what the command processor has on its way for the context (R223)
      let v := u.postPieces (u.effectIds fun o => o.unit == 252 && o.ctx == c) 1 hs (leBytes 8 s.tick.toNat ++
        leBytes 8 ((cw w 0).extractLsb' 32 32).toNat) ⟨c, none, 0, 252, 0, 0⟩
      exec (.cmdMark q) s = .next (v.commandDone q x.head.toNat (v.idsSince u))) ∧
    (q < 256 → x.st = .ready ∨ x.st = .waiting → (s.ctx c).st = .running → w ≠ [] → ∀ i,
      (i = .cmdLaunch q ∧ cmdOpc w = 1 ∨ i = .cmdRodAdd q ∧ cmdOpc w = 2 ∨ i = .cmdRodWait q ∧ cmdOpc w = 3 ∨
        i = .cmdCopy q ∧ cmdOpc w = 4 ∨ i = .cmdColl q ∧ cmdOpc w = 5 ∨ i = .cmdFence q ∧ cmdOpc w = 6 ∨
        i = .cmdMark q ∧ cmdOpc w = 7) →
      (s.headSt x = (w, .wait) → exec i s = .next (s.setQueue q { x with st := .waiting, rodw := s.newWait x w })) ∧
      (∀ f, s.headSt x = (w, .refuse f) → exec i s = .next (s.haltQueue q f)) ∧
      (s.headSt x = (w, .go) → x.st = .waiting → exec i s = .next (s.setQueue q { x with st := .ready })))) ∧
  (∀ (s : State) (q : Nat) (f : Failure),
    let t := s.haltQueue q f
    (t.queue q).st = .halted ∧ (t.queue q).ecode = f.cause ∧ (t.queue q).eidx = (s.queue q).head ∧
      (t.queue q).head = (s.queue q).head ∧ t.mem = s.mem)

/-- The commands of a queue's block, after which a device queue that is disabled has the reservations that wait for it refused, a write
of TAIL, the reservation of a ring entry for an LNCH, and the post that fills it
(R293, R294, R302). A write of word 0 with DEVQ = 1 for a context that has another device queue leaves CTX and DEVQ (R293); that
its PRIO and its command act all the same, and that a write which sets a reserved bit is counted as a failed request, are the
model's choices (log entries 124 and 125). -/
def Sys2Proof.Cert.QueueRegisters : Prop :=
  (∀ (s : State) (q : Nat) (v : Word), q < 256 →
    (ctlReserved (queueOff q 0) v = true → ∀ i ∈ [Instr.queueEnable q v, .queueDisable q v, .queueFlush q v],
      exec i s = .next (s.hostCount cIllegal (queueOff q 0))) ∧
    (ctlReserved (queueOff q 4) v = true → exec (.queueTailWrite q v) s = .next (s.hostCount cIllegal (queueOff q 4)))) ∧
  (∀ (s : State) (q : Nat) (v : Word), q < 256 → ctlReserved (queueOff q 0) v = false →
    let x := s.queue q
    let y := { x with prio := (v.extractLsb' 4 3).toNat }
    let c := (v.extractLsb' 8 7).toNat
    (x.st = .disabled → c < 64 → (v.getLsbD 15 = true → ∀ p ∈ s.cp.queues, p.1 ≠ q → p.2.devq = true → p.2.ctx ≠ c) →
      let z := { y with ctx := c, devq := v.getLsbD 15 }
      exec (.queueEnable q v) s = .next (s.setQueue q { z with st := if x.tail = x.head then .idle else .ready }) ∧
      exec (.queueDisable q v) s = .next ((s.setQueue q { z with rodw := none }).refuseResv q) ∧
      exec (.queueFlush q v) s = .next ((s.setQueue q z).refuseResv q)) ∧
    (x.st = .disabled → c < 64 → v.getLsbD 15 = true → (∃ p ∈ s.cp.queues, p.1 ≠ q ∧ p.2.devq = true ∧ p.2.ctx = c) →
      exec (.queueEnable q v) s = .next (s.setQueue q { y with st := if x.tail = x.head then .idle else .ready }) ∧
      exec (.queueDisable q v) s = .next ((s.setQueue q { y with rodw := none }).refuseResv q) ∧
      exec (.queueFlush q v) s = .next ((s.setQueue q y).refuseResv q)) ∧
    (x.st = .halted → exec (.queueEnable q v) s = .next (s.setQueue q { y with st := .ready })) ∧
    (x.st ≠ .disabled → x.st ≠ .halted → exec (.queueEnable q v) s = .next (s.setQueue q y)) ∧
    (x.st ≠ .disabled →
      exec (.queueDisable q v) s = .next ((s.setQueue q { y with st := .disabled, rodw := none }).refuseResv q) ∧
      exec (.queueFlush q v) s = .next (s.setQueue q { y with head := x.tail, st := .idle, rodw := none }))) ∧
  (∀ (s : State) (q : Nat) (v : Word), q < 256 → ctlReserved (queueOff q 4) v = false →
    let x := s.queue q
    (let tail := v.extractLsb' 0 32
     ((tail - x.head).toNat ≤ 2 ^ x.log2n → exec (.queueTailWrite q v) s = .next (s.setQueue q { x with
       tail := tail, st := if x.st = .idle ∧ tail ≠ x.head then .ready else x.st })) ∧
     (2 ^ x.log2n < (tail - x.head).toNat → x.st = .idle ∨ x.st = .ready ∨ x.st = .waiting →
       exec (.queueTailWrite q v) s = .next (s.haltQueue q ⟨cBadpath, 0, 0⟩)) ∧
     (2 ^ x.log2n < (tail - x.head).toNat → x.st = .disabled ∨ x.st = .halted →
       exec (.queueTailWrite q v) s = .next s))) ∧
  (∀ (s : State) (e fid : Nat) (r : Reservation),
    (s.cp.resv.find? fun r => r.eng == e && r.uid == fid && !r.granted) = some r →
    (∀ p, s.deviceQueue r.ctx = some p → p.2.st ≠ .disabled → p.2.st ≠ .halted → 0 < s.ringFree r.ctx p.2 →
      ∃ t, exec (.lnchReservation e fid) s = .next t ∧ { r with granted := true } ∈ t.cp.resv ∧
        t.cp.resv.length = s.cp.resv.length ∧ t.mem = s.mem ∧ t.eng = s.eng) ∧
    (∀ p, s.deviceQueue r.ctx = some p → p.2.st ≠ .disabled → p.2.st ≠ .halted → s.ringFree r.ctx p.2 = 0 →
      exec (.lnchReservation e fid) s = .next s) ∧
    (s.deviceQueue r.ctx = none ∨ (∃ p, s.deviceQueue r.ctx = some p ∧ (p.2.st = .disabled ∨ p.2.st = .halted)) →
      exec (.lnchReservation e fid) s = .next (s.faultPasses e (fun a => a.fr.uid == fid) ⟨cFrame, 0, 0⟩))) ∧
  (∀ (s : State) (c inst eng : Nat) (cmd : List Word),
    let held := s.cp.resv.find? fun r => r.ctx == c && r.eng == eng && r.granted && r.uid == 0
    let s1 := { s with cp := { s.cp with resv := (held.map s.cp.resv.erase).getD s.cp.resv } }
    ((s.ctx c).st = .tearing ∨ (s.ctx c).st = .free → exec (.deviceQueuePost c inst ⟨eng, cmd⟩) s = .next s1) ∧
    ((s.ctx c).st ≠ .tearing → (s.ctx c).st ≠ .free → ∀ q x, s1.deviceQueue c = some (q, x) →
      ∀ hs t, s1.resolve { by_ := .cp, ctx := some c, kind := .store, strm := 0xFE } [0x0, 0x2]
          (x.base + BitVec.ofNat 64 (64 * (x.tail.toNat % 2 ^ x.log2n))) 64 true = (.ok hs, t) →
        exec (.deviceQueuePost c inst ⟨eng, cmd⟩) s = .next ((t.storeHomes hs (cmd.flatMap fun w => leBytes 8 w.toNat)).setQueue q
          { x with tail := x.tail + 1, st := if x.st = .idle then .ready else x.st })))

/-- The command queues: their commands and their registers. -/
def Obligations.QueueProcessing : Prop := QueueCommands ∧ QueueRegisters

/-! ## Collective programs (R405–R425) -/

/-- The program that slot `k` of die `d` runs, where a step can issue: fewer than eight are outstanding, and the completion rod
of the word, where it has one, may be added to (R408). -/
def Sys2Proof.Cert.mayIssue (s : State) (d k : Nat) (p : CProg) (x : Option Word) : Prop :=
  s.cur = .seq d k ∧ s.prog d k = some p ∧ p.outs.length < 8 ∧
    ∀ w, x = some w → ∃ h, (s.checkRod ⟨.seq d, some p.ctx⟩ .add w).1 = .ok h

/-- A length and an address that a step may have (R408). -/
def Sys2Proof.Cert.stepLegal (len : Nat) (a : Word) : Prop :=
  len % 64 = 0 ∧ 64 ≤ len ∧ len ≤ 2 ^ 30 ∧ (addrPath a = 0x0 ∨ addrPath a = 0x9) ∧ a.toNat % 64 = 0

/-- The program of slot `k` goes on with its next word, and `y` is one more outstanding step. -/
def Sys2Proof.Cert.issued (s : State) (d k : Nat) (p : CProg) (y : CStep) : State :=
  { s with nextId := s.nextId + 1 }.setProg d k (some { p with pc := p.npc, outs := p.outs ++ [y] })

/-- The steps of a program (R408, R412–R415): a legal CS.SEND sends CREQ to the node of its peer; CS.RECV, CS.RRS and CS.COPY
become outstanding, and the requests that wait at the die are tried; with no peer a step completes at once; a rank that does not
exist, a length or an address that is not legal ends the collective with reason 6; a ninth step waits. -/
def Obligations.CollectiveStepWords : Prop :=
  (∀ (s : State) (d k : Nat) (p : CProg) (f : FmtA) (x : Option Word), mayIssue s d k p x →
    let g := s.pgt p.ctx p.tbl
    let sa := s.progRd d p f.sa
    let len := (s.progRd d p f.sc).toNat
    let y : CStep := { id := s.nextId, word := p.pc, len := len, tag := f.imm.toNat, rod := x, addr := s.progRd d p f.sb,
                       start := s.tick.toNat, kind := .send }
    let request := fun (i : Instr) (z : CStep) (pk : Packet) (xd : BitVec 192) =>
      ∃ u, exec i s = .next u ∧ u.prog d k = (issued s d k p z).prog d k ∧ u.mem = s.mem ∧
        u.pend.map (·.ev) = s.pend.map (·.ev) ++ [.packetForward d 16 pk] ∧ pk.kind = 0x20 ∧ pk.dnode = s.rankNode g z.peer ∧
        pk.gkey = g.gkey ∧ pk.srank = BitVec.ofNat 16 g.own ∧ pk.drank = BitVec.ofNat 16 z.peer ∧
        pk.gen = BitVec.ofNat 16 p.gen ∧ pk.tag = BitVec.ofNat 16 z.tag ∧ pk.len = BitVec.ofNat 32 z.len ∧
        pk.xdata &&& (BitVec.ofNat 192 (2 ^ 128 - 1)) = xd
    let ends := fun (i : Instr) => ∃ u, exec i s = .next u ∧ u.mem = s.mem ∧
      (u.prog d k).map (fun q => (q.pc, q.outs)) = some (p.npc, p.outs.filter fun z => z.id != s.nextId)
    let refused := fun (i : Instr) (v : Word) => exec i s = .next (s.stepFault d k ⟨cBadpath, v, 0⟩)
    -- a length, or an address, that breaks R408: PRIV for an address on path 0xF (R216)
    let illegal := fun (i : Instr) => refused i (BitVec.ofNat 64 len) ∨
      ∃ a : Word, exec i s = .next (s.stepFault d k ⟨if addrPath a = 0xF then cPriv else cBadpath, a, 0⟩)
    (sa.toNat < g.n → sa ≠ BitVec.allOnes 64 → stepLegal len y.addr →
      (∃ pk, request (.csSend f x) { y with peer := sa.toNat } pk 0) ∧
      (x = none → ∀ w,
        let col := (s.progRd d p f.dst).toNat % 4096
        ∃ pk, request (.csSendG f w) { y with peer := sa.toNat, graph := some w, col := col } pk
          (BitVec.ofNat 192 (w.toNat + col * 2 ^ 64 + 2 ^ 76))) ∧
      exec (.csRecv f x) s = .next ((issued s d k p { y with kind := .recv, peer := sa.toNat }).reqSweep d)) ∧
    (sa = BitVec.allOnes 64 → x = none → ends (.csSend f x) ∧ ends (.csRecv f x) ∧ ∀ w, ends (.csSendG f w)) ∧
    (sa ≠ BitVec.allOnes 64 → g.n ≤ sa.toNat → refused (.csSend f x) sa ∧ refused (.csRecv f x) sa ∧
      ∀ w, refused (.csSendG f w) sa) ∧
    (sa.toNat < g.n → sa ≠ BitVec.allOnes 64 → ¬ stepLegal len y.addr →
      illegal (.csSend f x) ∧ illegal (.csRecv f x) ∧ ∀ w, illegal (.csSendG f w)) ∧
    (let dst := s.progRd d p f.dst
     let fwd := if f.dst = 56 ∨ dst = BitVec.allOnes 64 then none else some dst.toNat
     let z := { y with fmt := f.f1.toNat, op := f.f2.toNat }
     let ranks := f.dst = 56 ∨ dst = BitVec.allOnes 64 ∨ dst.toNat < g.n
     (ranks → ¬ stepLegal len y.addr → f.red = 0 ∧ sa.toNat < g.n ∧ sa ≠ BitVec.allOnes 64 ∨ f.red ≠ 0 ∧ sa.toNat ≤ 4095 →
       illegal (.csRrs f x)) ∧
     (ranks → stepLegal len y.addr → (f.red = 2 → len % 192 = 0) →
      (f.red = 0 → sa.toNat < g.n → sa ≠ BitVec.allOnes 64 → exec (.csRrs f x) s = .next
        ((issued s d k p { z with kind := .rrs false 1 fwd, peer := sa.toNat }).reqSweep d)) ∧
      (f.red ≠ 0 → sa ≠ 0 → sa.toNat ≤ 4095 → exec (.csRrs f x) s = .next
        ((issued s d k p { z with kind := .rrs true sa.toNat fwd }).reqSweep d)) ∧
      (∀ r, fwd = some r → f.red ≠ 0 → sa = 0 →
        ∃ pk, request (.csRrs f x) { z with peer := r } pk 0))) ∧
    (f.red = 0 → sa = BitVec.allOnes 64 → x = none → ends (.csRrs f x)) ∧
    (let z := { y with kind := .copy, tag := 0, addr := sa, addr2 := y.addr, todo := (List.range (len / 64)).map (64 * ·) }
     stepLegal len sa → stepLegal len y.addr → exec (.csCopy f x) s = .next (issued s d k p z)) ∧
    (¬ (stepLegal len sa ∧ stepLegal len y.addr) → illegal (.csCopy f x))) ∧
  (∀ (s : State) (d k : Nat) (p : CProg) (f : FmtA) (x : Option Word) (w : Word), s.cur = .seq d k → s.prog d k = some p →
    8 ≤ p.outs.length →
    ∀ i ∈ [Instr.csSend f x, .csSendG f w, .csRecv f x, .csRrs f x, .csCopy f x], exec i s = .next s) ∧
  (∀ (s : State) (d k : Nat) (p : CProg) (f : Failure), s.prog d k = some p →
    (f.cause = cBadpath ∨ f.cause = cPriv →
      s.stepFault d k f = (s.report d f.cause ⟨p.ctx, none, d, 255, 0, 0⟩ f.addr f.detail none).collAbort d k 6 f.addr))

/-- CS.WAIT, CS.LOOP, CS.PEER and CS.END (R416–R419). CS.WAIT is an acquire at SYSTEM scope; CS.WAIT.ROD goes on once the count is at
its target, or was at a notification since the word began to wait (R346), and what it has to see first has acted (R226). -/
def Obligations.CollectiveControlWords : Prop :=
  ∀ (s : State) (d k : Nat) (p : CProg) (f : FmtA), s.cur = .seq d k → s.prog d k = some p →
    let rd := fun sp => s.progRd d p sp
    let goes := fun (q : CProg) => s.setProg d k (some { q with pc := p.npc })
    (f.imm = 0 → exec (.csWait f) s = .next
      (if p.outs = [] then (acquiredState s p.ctx 5).setProg d k (some { p with pc := p.npc }) else s)) ∧
    (f.imm ≠ 0 → ∀ h t q, s.checkRod ⟨.seq d, some p.ctx⟩ .wait (rd f.sa) = (.ok h, t) → t.prog d k = some q →
      let w : RodWaiter := ⟨rodKey (rd f.sa) h, (rd f.sb).toNat, p.ctx, true⟩
      let met := (rd f.sb).toNat ≤ (t.rodCount (rd f.sa) h).toNat ∨ q.rodw = some w
      let seen := t.seen (.seq d) 5 (rodKeys (rd f.sa) h)
      (met → seen = [] → exec (.csWait f) s = .next
        ((acquiredState t p.ctx 5).setProg d k (some { q with rodw := none, pc := q.npc }))) ∧
      (met → seen ≠ [] → exec (.csWait f) s = .next (t.setProg d k (some { q with rodw := some w }))) ∧
      (¬ met → exec (.csWait f) s = .next (t.setProg d k (some { q with rodw := some { w with met := false } })))) ∧
    (f.imm ≠ 0 → ∀ g t, s.checkRod ⟨.seq d, some p.ctx⟩ .wait (rd f.sa) = (.error g, t) →
      exec (.csWait f) s = .next (t.stepFault d k g)) ∧
    (let target := (p.pc : Int) + f.imm.toInt
     (0 ≤ target → f.imm ≠ 0 → target.toNat ∈ wordStarts p.words →
       exec (.csLoop f) s = .next (s.setProg d k (some
         { p.wr f.dst (rd f.dst - 1) with pc := if rd f.dst = 1 then p.npc else target.toNat }))) ∧
     (target < 0 ∨ f.imm = 0 ∨ target.toNat ∉ wordStarts p.words → exec (.csLoop f) s = .next (s.collAbort d k 3 0))) ∧
    (let n := (s.pgt p.ctx p.tbl).n
     let a := rd f.sa
     let b := rd f.sb + f.imm.signExtend 64
     let none_ : Word := BitVec.allOnes 64
     ∀ r, (f.f1 = 0 ∧ r = a + b ∨ f.f1 = 1 ∧ r = a - b ∨ f.f1 = 2 ∧ r = a ^^^ b ∨ f.f1 = 3 ∧ r = a &&& b ∨
        f.f1 = 4 ∧ r = a >>> (b.toNat % 64) ∨ f.f1 = 5 ∧ r = a <<< (b.toNat % 64) ∨ f.f1 = 6 ∧ r = a * b ∨
        f.f1 = 7 ∧ r = (if b = 0 then none_ else BitVec.ofNat 64 (a.toNat / b.toNat)) ∨
        f.f1 = 8 ∧ r = BitVec.ofNat 64 ((a.toNat + b.toNat) % n) ∨ f.f1 = 9 ∧ r = BitVec.ofNat 64 n) →
      (f.f2.getLsbD 0 = false → exec (.csPeer f) s = .next (goes (p.wr f.dst r))) ∧
      (f.f2.getLsbD 0 = true → exec (.csPeer f) s = .next (goes (p.wr f.dst
        (if n ≤ a.toNat ∨ b = none_ ∨ n ≤ r.toNat then none_ else r))))) ∧
    (p.outs ≠ [] → exec (.csEnd f) s = .next s) ∧
    (p.outs = [] → ∃ t, exec (.csEnd f) s = .next t ∧ t.prog d k = none ∧
      ∀ y, s.cp.colls.find? (fun y => y.ctx == p.ctx && y.tbl == p.tbl && y.gen == p.gen) = some y →
        (let e := y.ended ||| BitVec.ofNat 4 (2 ^ d)
         (y.mask &&& ~~~ e ≠ 0 → { y with ended := e } ∈ t.cp.colls) ∧
         (y.mask &&& ~~~ e = 0 → t = (s.setProg d k none).completeColl y)))

/-- The registers of a program: W0 to W15, the rank and the die; a write elsewhere is lost (R407). -/
def Sys2Proof.Cert.ProgramRegisters : Prop :=
  ∀ (s : State) (d : Nat) (p : CProg) (a b : Spec) (v : Word),
    let q := p.wr a v
    s.progRd d q b =
      if a = b ∧ a.toNat < 16 then v else s.progRd d p b

/-- The register files of a pass, of a control core and of a collective program (R93, R98, R407). -/
def Obligations.RegisterFiles : Prop := PassRegisterFile ∧ CoreRegisterFile ∧ ProgramRegisters

/-- A packet of a collective is handled now: its context runs or drains, and its lifetime is not over (R287, R290, R399). -/
def Sys2Proof.Cert.handlesPacket (s : State) (c : Nat) (p : Packet) : Prop :=
  ((s.ctx c).st = .running ∨ (s.ctx c).st = .draining ∨ ((s.ctx c).st = .ready ∧ (s.ctx c).svalid = false)) ∧ p.age.toNat < 1024

/-- The state answers with one packet of a kind to the node that sent `p`. -/
def Sys2Proof.Cert.answers (s u : State) (p : Packet) (kind : BitVec 8) : Prop :=
  ∃ k : Packet, u.pend.map (·.ev) = s.pend.map (·.ev) ++ [.packetForward p.die.toNat 16 k] ∧ k.kind = kind ∧ k.dnode = p.snode ∧
    k.snode = s.net.nodeid ∧ k.gkey = p.gkey ∧ k.gen = p.gen ∧ k.tag = p.tag ∧ k.srank = p.drank ∧ k.drank = p.srank

/-- Messages of collectives (R409, R410, R413): a request that its CS.RECV awaits is cleared, one of another length ends the
collective with reason 4, one that nothing takes waits in the request table or, where that is full, is answered CBUSY; the data
chunks of a message are written where the step says, the last with CDONE; CDONE completes the sending step; CBUSY repeats the
request 1 µs later; a step that has waited TMO µs ends the collective with reason 1. A packet of a context that is stopped is
kept, one of a context that is torn down is dropped. -/
def Obligations.CollectiveMessages : Prop :=
  (∀ (s : State) (c t : Nat) (p : Packet), handlesPacket s c p → p.die.toNat < 4 →
    let d := p.die.toNat
    (s.accept d c t p = none → (s.die d).reqs.length < 256 →
      let y := s.die d
      exec (.creq c t p) s = .next (s.setDie d { y with reqs := y.reqs ++ [⟨c, t, p⟩] })) ∧
    (s.accept d c t p = none → 256 ≤ (s.die d).reqs.length →
      ∃ u, exec (.creq c t p) s = .next u ∧ answers s u p 0x24 ∧ (u.die d).reqs = (s.die d).reqs) ∧
    (∀ k q x, p.graph = false → s.progOf d c t p.gen.toNat = some (k, q) → q.outs = [x] → s.prog d k = some q →
      x.kind = .recv → x.cleared = none → x.tag = p.tag.toNat → x.peer = p.srank.toNat →
      (x.len = p.len.toNat → ∃ u, exec (.creq c t p) s = .next u ∧ answers s u p 0x21 ∧
        (u.prog d k).map (fun r => r.outs.map fun z => (z.id, z.cleared, z.todo)) =
          some [(x.id, some p.srank.toNat, (List.range (x.len / 64)).map (64 * ·))]) ∧
      (x.len ≠ p.len.toNat → exec (.creq c t p) s = .next (s.collAbort d k 4 0))) ∧
    (∀ k q x, s.sender c t p = some (k, q, x) →
      (x.cleared ≠ none → ∀ o, x.todo = [o] →
        exec (.cclr c t p) s = .next (s.drawFree.2.sendChunk d k q x p o) ∧
        ∀ bs v, s.drawFree.2.readChunk d q.ctx (x.addr + BitVec.ofNat 64 o) = (.ok bs, v) → x.len = 64 → o = 0 →
          bs.length = 64 → ∃ pk : Packet, (s.drawFree.2.sendChunk d k q x p o).pend.map (·.ev) =
            v.pend.map (·.ev) ++ [.packetForward d 16 pk] ∧ pk.kind = 0x22 ∧ pk.payload = bs ∧ pk.addr = 0) ∧
      exec (.cdone c t p) s = .next (s.finishStep d k x) ∧
      exec (.cbusy c t p) s = .next (s.setStep d k { x with resend := some (s.tick.toNat + 850) })) ∧
    (∀ k q x, p.graph = false → s.progOf d c t p.gen.toNat = some (k, q) → x.kind = .recv → p.payload ≠ [] →
      p.payload.length ≤ 64 → p.addr.toNat ∈ x.todo →
      (q.outs.find? fun x => x.kind != .send && x.cleared == some p.srank.toNat && x.mark == p.mark) = some x →
      let o := p.addr.toNat
      let rest := x.todo.filter (· != o)
      ∀ hs u, s.chunkHomes d q.ctx .swrite (x.addr + BitVec.ofNat 64 o) = (.ok hs, u) →
        let v := (u.storeHomes hs p.payload).setStep d k { x with todo := rest }
        (rest ≠ [] → exec (.cdata c t p) s = .next v) ∧
        (rest = [] → exec (.cdata c t p) s = .next ((v.replyTo p 0x23).finishStep d k { x with todo := [] })))) ∧
  (∀ (s : State) (c t : Nat) (p : Packet), ∀ i ∈ [Instr.creq c t p, .cclr c t p, .cdata c t p, .cdone c t p, .cbusy c t p, .cack c t p],
    ((s.ctx c).st = .tearing ∨ (s.ctx c).st = .free → exec i s = .next s) ∧
    ((s.ctx c).st = .stopped → exec i s = .next { s with held := s.held ++ [(c, s.tick.toNat, i)] })) ∧
  (∀ (s : State) (d k n : Nat) (p : CProg) (x : CStep), s.prog d k = some p → p.step? n = some x →
    (∀ at_, x.resend = some at_ → at_ ≤ s.tick.toNat →
      let y := { x with resend := none }
      exec (.creqResend d k n) s = .next ((s.setStep d k y).sendCreq d p y)) ∧
    (∀ at_, x.resend = some at_ → s.tick.toNat < at_ → exec (.creqResend d k n) s = .next s) ∧
    (let tmo := (s.pgt p.ctx p.tbl).tmo.toNat
     x.kind ≠ .copy → p.stop = false → (s.ctx p.ctx).st = .running → tmo ≠ 0 →
      (x.start + tmo * 850 ≤ s.tick.toNat → exec (.collStepTimeout d k n) s = .next (s.collAbort d k 1 0)) ∧
      (s.tick.toNat < x.start + tmo * 850 → exec (.collStepTimeout d k n) s = .next s)))

/-- Aborts (R422–R424), RECV timers (R405) and the check of a table (R401): the first CABT goes on to the tree neighbours but
its sender and drops the generation; each neighbour's CACK is taken off; with the last, or after TMO µs, the abort is over; a port
whose time is up receives an E token; V becomes 1 exactly where the node list names this package once and the key is new. -/
def Obligations.AbortsAndTables : Prop :=
  (∀ (s : State) (c t : Nat) (p : Packet), handlesPacket s c p →
    let gen := p.gen.toNat
    let g := s.pgt c t
    (s.abortOf c t gen = none → (p.srank ≠ p.drank ∨ p.snode ≠ s.net.nodeid) →
      ∃ u, exec (.cabt c t p) s = .next u ∧ u.genProgs c t gen = [] ∧ (u.abortOf c t gen).isSome = true ∧
        ∃ sent : List Packet,
          (u.pend.map (·.ev)).take (s.pend.length + sent.length) = s.pend.map (·.ev) ++ sent.map (.packetForward 0 16 ·) ∧
          sent.map (·.drank.toNat) = ((treeNeighbours g.own g.n).filter (· != p.srank.toNat)).map (· % 65536) ∧
          ∀ k ∈ sent, k.kind = 0x28 ∧ k.gen = p.gen ∧ k.addr = p.addr) ∧
    (∀ w, s.abortOf c t gen = some w →
      (p.srank ≠ p.drank → exec (.cabt c t p) s = .next (s.sendPacket [] 0 (s.collPkt 0x29 0 c t gen p.srank.toNat 0 0 0))) ∧
      (w.done = false → w.await.filter (· != p.srank.toNat) = [] →
        exec (.cack c t p) s = .next (s.finishAbort { w with await := [] } true)) ∧
      (w.done = false → w.await.filter (· != p.srank.toNat) ≠ [] → ∃ u, exec (.cack c t p) s = .next u ∧
        { w with await := w.await.filter (· != p.srank.toNat) } ∈ u.cp.aborts ∧ u.pend = s.pend) ∧
      (w.done = true → exec (.cack c t p) s = .next s))) ∧
  (∀ (s : State) (c t gen : Nat) (w : AbortWait), s.abortOf c t gen = some w → w.done = false → (s.ctx c).st = .running →
    let tmo := (s.pgt c t).tmo.toNat
    let limit := if tmo = 0 then 2048 else tmo
    (w.start + limit * 850 ≤ s.tick.toNat → exec (.abortAckTimeout c t gen) s = .next (s.finishAbort w false)) ∧
    (s.tick.toNat < w.start + limit * 850 → exec (.abortAckTimeout c t gen) s = .next s)) ∧
  (∀ i n j : Nat, j ∈ treeNeighbours i n ↔ i ≠ 0 ∧ j = (i - 1) / 2 ∨ j < n ∧ (j = 2 * i + 1 ∨ j = 2 * i + 2)) ∧
  (∀ (s : State) (e op k c : Nat) (m : RecvTimer),
    let x := s.engine e
    let o := x.op op
    (x.timers.find? fun t => t.op == op && t.port == k && t.col == c) = some m → s.recvWaits e op k c = true →
    (m.start + upTmo (o.upRef k) * 64 * 850 ≤ s.tick.toNat →
      ∃ tok, tokUnit tok = e % 72 ∧ (tokFields tok).e = true ∧ (tokFields tok).op = op % 256 ∧ (tokFields tok).port = k % 4 ∧
        exec (.recvPortTimeout e op k c) s =
          .next ((s.setEngine e { x with timers := x.timers.filter (· != m) }).arriveCtx (.eng e) tok false)) ∧
    (s.tick.toNat < m.start + upTmo (o.upRef k) * 64 * 850 → exec (.recvPortTimeout e op k c) s = .next s)) ∧
  (∀ (s : State) (c t : Nat), (s.pgt c t).v = false →
    let g := s.pgt c t
    let nodes := (List.range g.n).map (s.rankNode g)
    (∀ i, i < g.n → g.n ≤ 4096 → (∀ j, j < g.n → (nodes[j]? = some s.net.nodeid ↔ j = i)) → s.keyTaken c t g.gkey = false →
      exec (.pgtValidate c t) s = .next (s.setPgt c t { g with v := true, own := i })) ∧
    (s.net.nodeid ∉ nodes ∨ s.keyTaken c t g.gkey = true ∨ 4096 < g.n ∨
        (∃ i j, i < j ∧ j < g.n ∧ nodes[i]? = some s.net.nodeid ∧ nodes[j]? = some s.net.nodeid) → exec (.pgtValidate c t) s = .next s)) ∧
  (∀ (s : State) (c t : Nat), (s.pgt c t).v = true → exec (.pgtValidate c t) s = .next s)

/-! ## Abnal Links (R392–R404) -/

/-- A port trains, goes down, takes flits and replays (R393–R396): CMD 1 and 2; an attempt that succeeds or fails; a header flit with a
good CRC and the expected SEQ is taken and the next one expected, another is discarded, counted and answered by a flit of kind 3;
without an acknowledgement for 16 µs the replay buffer goes on the wire again, and a flit replayed 8 times makes the port train. -/
def Obligations.LinkPorts : Prop :=
  ∀ (s : State) (d i : Nat), d < 4 → i < 4 →
    let x := s.port d i
    (x.st = .down → exec (.linkTrain d i) s = .next (s.setPort d i { x with st := .training, tries := 0 })) ∧
    (x.st ≠ .down → exec (.linkTrain d i) s = .next s ∧ ∃ t, exec (.linkDown d i) s = .next t ∧
      (t.port d i).st = .down ∧ (t.port d i).tx = [] ∧ (t.port d i).queue = [] ∧ t.mem = s.mem) ∧
    (x.st = .down → exec (.linkDown d i) s = .next s) ∧
    (x.st = .training →
      (∃ t, exec (.linkTrainAttemptDone d i true) s = .next t ∧ (t.port d i).st = .up ∧
        ∃ more, (t.port d i).wire = x.wire ++ x.tx.map (fun f => mkFlit f.body f.seq f.fk x.ackOut) ++ more) ∧
      (x.tries < 2 → exec (.linkTrainAttemptDone d i false) s = .next (s.setPort d i { x with tries := x.tries + 1 })) ∧
      (2 ≤ x.tries → exec (.linkTrainAttemptDone d i false) s = .next (s.portDown d i))) ∧
    (x.st ≠ .training → ∀ b, exec (.linkTrainAttemptDone d i b) s = .next s) ∧
    (x.st = .up → ∀ f : BitVec 512,
      (crc32c (leBytes 60 f.toNat) ≠ f.extractLsb' 480 32 ∨ (f.extractLsb' 448 12).toNat ≠ x.expSeq →
        exec (.flitReceive d i f) s = .next (s.setPort d i { x with
          crcerr := sat32 x.crcerr 1, wire := x.wire ++ [mkFlit 0 x.nextSeq 3 x.ackOut] })) ∧
      (crc32c (leBytes 60 f.toNat) = f.extractLsb' 480 32 → (f.extractLsb' 448 12).toNat = x.expSeq →
        f.extractLsb' 460 4 = 1 → x.queue = [] → f.getLsbD 479 = false → rxPacket [f.extractLsb' 0 448] = none →
        let y := { x with rx := [f.extractLsb' 0 448], rxTick := s.tick.toNat, expSeq := (x.expSeq + 1) % 4096 }
        exec (.flitReceive d i f) s = .next (s.setPort d i { y with wire := x.wire ++ [mkFlit 0 x.nextSeq 0 y.ackOut] })) ∧
      (∀ p, crc32c (leBytes 60 f.toNat) = f.extractLsb' 480 32 → (f.extractLsb' 448 12).toNat = x.expSeq →
        f.extractLsb' 460 4 = 1 → rxPacket [f.extractLsb' 0 448] = some p → s.root.cmode = 0 → kindOk p.kind = true →
        p.age.toNat < 1000 → p.dnode ≠ s.net.nodeid →
        ∃ t q, exec (.flitReceive d i f) s = .next t ∧ (t.port d i).expSeq = (x.expSeq + 1) % 4096 ∧
          t.pend.map (·.ev) = s.pend.map (·.ev) ++ [.packetForward d i q] ∧ q.age.toNat = p.age.toNat + 1 ∧
          { q with age := p.age } = p) ∧
      (let again := s.setPort d i { x.resend with ackTick := s.tick.toNat }
       let train := s.setPort d i { x with st := .training, tries := 0, tx := x.tx.map fun t => { t with tries := 0 } }
       x.tx ≠ [] →
        ((∀ t ∈ x.tx, t.tries < 8) → exec (.replayRequest d i) s = .next again) ∧
        ((∃ t ∈ x.tx, 8 ≤ t.tries) → exec (.replayRequest d i) s = .next train) ∧
        (x.ackTick + 16 * 850 ≤ s.tick.toNat → exec (.replayTimeout d i) s = exec (.replayRequest d i) s) ∧
        (s.tick.toNat < x.ackTick + 16 * 850 → exec (.replayTimeout d i) s = .next s)))

/-- A packet is routed by its destination node (R399): to the port of its route, where it queues, a token packet becoming a flit at once
where nothing stands before it; where the port is DOWN it is lost; a token packet whose route is not valid or that is too old is dropped
and counted; for this package, a token, a fetch-and-add and an acknowledgement is its own event, and what no table takes is dropped. -/
def Obligations.PacketRouting : Prop :=
  ∀ (s : State) (d i : Nat) (p : Packet),
    let r := tget 0 s.net.routes p.dnode.toNat
    let n := (r.extractLsb' 0 4).toNat
    let x := s.port (n / 4) (n % 4)
    let who := if p.snode ≠ s.net.nodeid ∧ i < 4 then some ⟨64, none, d, 224 + i, 0, 0⟩ else (s.remoteOf p).map (·.who)
    (p.dnode ≠ s.net.nodeid → r.getLsbD 7 = true → p.age.toNat < 1024 →
      (x.st = .training → exec (.packetForward d i p) s =
        .next (s.setPort (n / 4) (n % 4) { x with queue := x.queue ++ [(p, s.tick.toNat, who)] })) ∧
      (x.st = .up → x.queue = [] → x.tx = [] → p.kind = 0x01 →
        ∃ t, exec (.packetForward d i p) s = .next t ∧ t.mem = s.mem ∧
          (t.port (n / 4) (n % 4)).wire = x.wire ++ [mkFlit p.header x.nextSeq 1 x.ackOut] ∧
          (t.port (n / 4) (n % 4)).nextSeq = (x.nextSeq + 1) % 4096) ∧
      (x.st = .down → exec (.packetForward d i p) s = .next (s.losePacket (n / 4) (n % 4) p who))) ∧
    (p.dnode ≠ s.net.nodeid → r.getLsbD 7 = false ∨ 1024 ≤ p.age.toNat → p.kind = 0x01 →
      exec (.packetForward d i p) s = .next (s.countDrop d i)) ∧
    (p.dnode = s.net.nodeid →
      (s.keyTable p.gkey = none → exec (.packetForward d i p) s = .next (s.countDrop d i)) ∧
      (∀ c t, s.keyTable p.gkey = some (c, t) → (s.pgt c t).own = p.drank.toNat →
        (p.kind = 0x01 → exec (.packetForward d i p) s = .next ((s.touch d c).post (.tokenPacket d i c p))) ∧
        (p.kind = 0x12 → exec (.packetForward d i p) s = .next (s.post (.remoteOpArrival d i c p))) ∧
        (p.kind = 0x18 → exec (.packetForward d i p) s = .next (s.post (.rack c p)))))

/-- Tokens and remote operations between packages (R253–R255, R403, R404): a token leaves for the node of its rank, addressed to
the engine or pool of its link word; it arrives in the receiving context with colour and flags kept, unless its unit is a reserved
one; a remote fetch-and-add and a store act at the word's home and are acknowledged, a scalar store that is not aligned byte by byte
(R223), and on a failure are logged here and answered RFAIL; the acknowledgement ends the operation at its maker, a failure with a
record there. The token of a torn-down context goes nowhere (R290). That the record of a token with a reserved unit names the port as
its sender is the model's choice (log entry 11). -/
def Obligations.RemoteTraffic : Prop :=
  (∀ (s : State) (die unit : Nat) (tok : Token) (ref : Word) (who : Origin) (t : Nat),
    ((s.ctx who.ctx).isTorn = true → exec (.tokenAtLinkPort die unit tok (some ref) who) s = .next s) ∧
    ((s.ctx who.ctx).isTorn = false → s.launchTable who.ctx (who.inst.getD 256) = some t →
    let g := s.pgt who.ctx t
    let f := refRmt ref
    let rank := if f / 2 % 2 = 1 then (g.own + refCimm ref) % g.n else refCimm ref
    (rank < g.n → ∃ p : Packet,
      exec (.tokenAtLinkPort die unit tok (some ref) who) s = .next (s.relayed ((s.touch die who.ctx).forward die 16 p (some who))) ∧
      p.kind = 0x01 ∧ p.die = BitVec.ofNat 8 (f / 512) ∧ p.dnode = s.rankNode g rank ∧ p.gkey = g.gkey ∧
      p.srank = BitVec.ofNat 16 g.own ∧ p.drank = BitVec.ofNat 16 rank ∧ p.age = 0 ∧
      let k : Token := p.xdata.setWidth 128
      tokDie k = f / 512 % 4 ∧ tokUnit k = (if f / 4 % 128 = 127 then 248 else f / 4 % 128) ∧ tokPay k = tokPay tok ∧
        tokCol k = tokCol tok ∧ tokOp k = tokOp tok ∧ tokPort k = tokPort tok ∧ tokFrame k = tokFrame tok) ∧
    (g.n ≤ rank → exec (.tokenAtLinkPort die unit tok (some ref) who) s = .next (s.report die cBadpath who 0 0 (some tok))))) ∧
  (∀ (s : State) (d i c : Nat) (p : Packet), ∃ k : Token,
    let t : Token := p.xdata.setWidth 128
    (tokUnit k ≤ 71 ∨ tokUnit k = 248 → exec (.tokenPacket d i c p) s =
      .next (s.relayed (s.post (.tokenArrival (tokDie k) (tokUnit k) k ⟨false, 256 * d + (224 + i % 4)⟩)))) ∧
    (unitOk (tokUnit k) = false → exec (.tokenPacket d i c p) s =
      .next (s.relayed (s.frameReport d (256 * d + (224 + i % 4)) k))) ∧
    tokCtx k = c % 64 ∧ tokDie k = tokDie t ∧ tokUnit k = tokUnit t ∧ tokOp k = tokOp t ∧ tokPort k = tokPort t ∧
      tokCol k = tokCol t ∧ tokRun k = tokRun t ∧ tokFrame k = tokFrame t ∧ tokPay k = tokPay t ∧ tokE k = tokE t ∧
      tokN k = tokN t) ∧
  (∀ (s : State) (d i c : Nat) (p : Packet),
    let va : Word := p.addr &&& 0x0000FFFFFFFFFFFF#64
    let via := fun (k : AccKind) => ({ by_ := .link d, ctx := some c, kind := k } : Via)
    let reply := fun (u t : State) (kind : BitVec 8) (x : BitVec 192) =>
      ∃ k : Packet, u.pend.map (·.ev) = t.pend.map (·.ev) ++ [.packetForward d 16 k] ∧ k.kind = kind ∧ k.dnode = p.snode ∧
        k.tag = p.tag ∧ k.addr = va ∧ k.xdata = x
    (p.kind = 0x12 → ∀ hs t, s.resolve (via .atomic) [0x0] va 8 true = (.ok hs, t) → t.eccHomes hs = false → hs.Nodup →
      hs.length = 8 →
      let m := leNat (t.rdHomes hs)
      ∃ u, exec (.remoteOpArrival d i c p) s = .next u ∧ reply u t 0x18 (BitVec.ofNat 192 m) ∧
        leNat (u.rdHomes hs) = (m + leNat (p.payload.take 8)) % 2 ^ 64 ∧ ∀ h, h ∉ hs → u.rdByte h = t.rdByte h) ∧
    (p.payload ≠ [] → p.kind = 0x11 ∧ va.toNat % 64 + p.payload.length ≤ 64 ∨ p.kind = 0x10 ∧ va.toNat % p.payload.length = 0 →
      ∀ hs t, s.resolve (via .store) [0x0] va p.payload.length false = (.ok hs, t) → hs.Nodup →
      hs.length = p.payload.length →
      ∃ u, exec (.remoteOpArrival d i c p) s = .next u ∧ reply u t 0x18 0 ∧ u.rdHomes hs = p.payload ∧
        ∀ h, h ∉ hs → u.rdByte h = t.rdByte h) ∧
    (p.kind = 0x10 → p.payload ≠ [] → va.toNat % p.payload.length ≠ 0 → ∀ hs t,
      s.resolve (via .store) [0x0] va p.payload.length false = (.ok hs, t) → hs.Nodup → hs.length = p.payload.length →
      let who : Origin := ⟨c, none, d, 224 + i % 4, 0, 0⟩
      ∃ u l m, exec (.remoteOpArrival d i c p) s = .next u ∧ u.mem = t.mem ∧ u.pend = t.pend ++ l ++ [m] ∧
        l.map (·.ev) = (hs.zip p.payload).map (fun x => .accessAtHome ⟨[x.1], .store [x.2], 0, who, none⟩) ∧
        m.ev = .remoteOpArrival d i c { p with payload := [] } ∧ m.deps = l.map (·.id)) ∧
    -- a run that lies in several chunks acts chunk by chunk, and the packet comes up again, empty, behind them
    (p.kind = 0x11 → p.payload ≠ [] → 64 < va.toNat % 64 + p.payload.length → ∀ hs t,
      s.resolve (via .store) [0x0] va p.payload.length false = (.ok hs, t) →
      let v := t.postPieces [] 64 hs p.payload ⟨c, none, d, 224 + i % 4, 0, 0⟩
      exec (.remoteOpArrival d i c p) s =
        .next (v.postDep (v.idsSince t) (.remoteOpArrival d i c { p with payload := [] }))) ∧
    (p.kind = 0x10 ∨ p.kind = 0x11 → p.payload = [] → p.len ≠ 0 → ∃ u, exec (.remoteOpArrival d i c p) s = .next u ∧ u.mem = s.mem ∧
      reply u s 0x18 0) ∧
    (p.kind = 0x12 → ∀ f t, s.resolve (via .atomic) [0x0] va 8 true = (.error f, t) →
      ∃ u, exec (.remoteOpArrival d i c p) s = .next u ∧ u.mem = t.mem ∧
        reply u (t.report d f.cause ⟨64, none, d, 224 + i % 4, 0, 0⟩ f.addr
          (if f.cause = cXlate ∨ f.cause = cPerm then remoteDetail f.detail else f.detail) none) 0x19
          (BitVec.ofNat 192 (f.cause + f.detail.toNat % 65536 * 256)))) ∧
  (∀ (s : State) (c : Nat) (p : Packet) (r : RemoteOp),
    (s.net.remotes.find? fun r => r.tag == p.tag.toNat && r.node == p.snode.toNat) = some r →
    let gone := s.net.remotes.filter fun x => x.id != r.id
    (∃ t, exec (.rack c p) s = .next t ∧ t.net.remotes = gone ∧ t.mem = s.mem ∧ (r.reply = none → t.pend = s.pend) ∧
      (∀ q, r.reply = some q → tokUnit q.tok ≤ 71 → ∃ tok, tokPay tok = p.xdata.setWidth 64 ∧
        t.pend.map (·.ev) = s.pend.map (·.ev) ++
          [.tokenArrival (tokDie q.tok) (tokUnit q.tok) tok ⟨false, 256 * q.who.die + q.who.unit⟩])) ∧
    (∃ t w, exec (.rfail c p) s = .next t ∧ t.net.remotes = gone ∧ t.mem = s.mem ∧
      t = (s.failRemote r).report r.who.die (p.xdata.extractLsb' 0 8).toNat r.who w (if
        (p.xdata.extractLsb' 0 8).toNat = cXlate ∨ (p.xdata.extractLsb' 0 8).toNat = cPerm then
          (put 0 8 (p.xdata.extractLsb' 8 8).toNat ||| put 12 4 6 ||| put 16 1 r.plane.toNat ||| put 48 8 (s.remoteStrm r) |||
            put 40 8 r.who.unit) else 0) none ∧
      (w.extractLsb' 0 48) = p.addr.extractLsb' 0 48 ∧ (w.extractLsb' 48 12).toNat = p.srank.toNat % 4096)) ∧
  (∀ (s : State) (c : Nat) (p : Packet),
    (s.net.remotes.find? fun r => r.tag == p.tag.toNat && r.node == p.snode.toNat) = none →
    exec (.rack c p) s = .next s ∧ exec (.rfail c p) s = .next s)

/-! ## The Root Core, the host and the units' commands -/

/-- The state with BSTATE changed, and vector 2 fired where it differs (R448, R452). -/
def Sys2Proof.Cert.bootState (s : State) (b : BootSt) : State :=
  if s.root.bstate = b then s else { s with root := { s.root with bstate := b } }.fireMsix 2

/-- Boot, freeze and reset (R449, R451, R452, R455): the ROM tests, then the image is awaited; BOOT begins the check, whose
first failing test is BERR; a good image releases the four cores at ENTRY in supervisor mode; FREEZE stops the package, to which a
word can then be fed; package reset keeps the host's memory and nothing of the package's. -/
def Sys2Proof.Cert.BootAndFreeze : Prop :=
  ∀ (s : State),
    let st := s.root.bstate
    (st = .rom → exec .resetRelease s = .next (s.post .romTestsDone) ∧ exec .romTestsDone s = .next (bootState s .waitimg)) ∧
    (st ≠ .rom → exec .resetRelease s = .next s ∧ exec .romTestsDone s = .next s) ∧
    (st = .waitimg ∨ st = .failed → exec .boot s = .next ((bootState s .verify).post .imageVerifyDone)) ∧
    (st ≠ .waitimg → st ≠ .failed → exec .boot s = .next s) ∧
    (st ≠ .verify → exec .imageVerifyDone s = .next s) ∧
    (let a := s.root.imgaddr.toNat
     let len := s.root.imglen.toNat
     let bytes := fun i n => s.rdBytes (hbmHome (a + i)) n
     let entry := BitVec.ofNat 64 (leNat (bytes 8 8))
     let fails := fun (e : Nat) => exec .imageVerifyDone s = .next (bootState { s with root := { s.root with berr := e } } .failed)
     st = .verify →
      (2 ^ 39 < a + len ∨ s.eccAt (hbmHome a) len = true → fails 3) ∧
      (a + len ≤ 2 ^ 39 → s.eccAt (hbmHome a) len = false →
        (len < 178 ∨ leNat (bytes 0 4) ≠ 0x57464756 ∨ leNat (bytes 4 2) ≠ 1 ∨ addrPath entry ≠ 0 ∨ entry.toNat % 8 ≠ 0 ∨
            len < 178 + leNat (bytes 16 4) → fails 1) ∧
        (s.imgHeaderOk = true →
          let h := Config.shake256 (bytes 0 (len - 114)) 64
          (Config.firmwareSigOk h (bytes (len - 114) 114) = false → fails 2) ∧
          (Config.firmwareSigOk h (bytes (len - 114) 114) = true →
            ∃ t, exec .imageVerifyDone s = .next t ∧ t.root.bstate = .running ∧ t.root.digest = h ∧ t.mem = s.mem ∧
              ∀ d, d < 4 → (t.core d).pc = entry ∧ (t.core d).run = true ∧ (t.core d).csr.mode = true ∧
                (t.core d).csr.asel = 64)))) ∧
    exec .freeze s = .next (bootState s .frozen) ∧
    (∀ d w x, d < 4 → st = .frozen → exec (.debugStepWord d w x) s = .next (s.setCore d { s.core d with step := some (w, x) })) ∧
    (∀ d w x, st ≠ .frozen → exec (.debugStepWord d w x) s = .next s) ∧
    (∃ t, exec .packageReset s = .next t ∧ t.dies = State.reset.dies ∧ t.eng = State.reset.eng ∧ t.ctxs = State.reset.ctxs ∧
      t.cp = State.reset.cp ∧ t.net = State.reset.net ∧ t.root = State.reset.root ∧ t.pend = State.reset.pend ∧ t.clock = State.reset.clock ∧
      t.mem = s.mem.filter fun c => decide (2 ^ 48 ≤ c.1) && decide (c.1 < 2 ^ 49))

/-- Capture, replay and power (R456–R458): the modes of CAPMODE; a replay begins only before any context has been allocated; a recorded decision of a die that cannot be made for 2^24 ticks ends a
replay with DIV; after a window of 1 ms MULT goes down by one, not below 16, where the package took more than PCAP or a die is hot, and
up by one, not above 32, where it took less than 95 % of it; OVER tells that even MULT 16 was too much. -/
def Sys2Proof.Cert.CaptureAndPower : Prop :=
  ∀ (s : State),
    let r := s.root
    exec .capture s = .next { s with root := { r with cmode := 1 } } ∧
    exec .capstop s = .next { s with root := { r with cmode := 0 } } ∧
    (r.bstate = .running → (∀ p ∈ s.ctxs, p.2.st = .free ∧ p.2.torn = false) → ∃ t, exec .replay s = .next t ∧ t.root.cmode = 2 ∧
      t.root.cappos = 0 ∧ t.root.div = false ∧ t.mem = s.mem ∧ t.eng = s.eng) ∧
    (r.bstate ≠ .running ∨ (∃ p ∈ s.ctxs, p.2.st ≠ .free ∨ p.2.torn = true) → exec .replay s = .next s) ∧
    -- the next recorded decision of a die waits since the moment at which the one before it was made
    (let stuck := fun (d : Nat) => (s.nextEntry d).isSome = true ∧ tget 0 r.divAt d + 2 ^ 24 ≤ s.tick.toNat
     (r.cmode = 2 → (∃ d, d < 4 ∧ stuck d) → ∃ t, exec .replayDivergence s = .next t ∧ t.root.div = true ∧ t.root.cmode = 0 ∧ t.mem = s.mem) ∧
     (r.cmode ≠ 2 ∨ (∀ d, d < 4 → ¬ stuck d) → exec .replayDivergence s = .next s)) ∧
    (∀ w hot, s.tick.toNat < r.winStart + 850000 → exec (.powerWindow w hot) s = .next s) ∧
    (∀ w hot, r.winStart + 850000 ≤ s.tick.toNat → ∃ t, exec (.powerWindow w hot) s = .next t ∧
      t.root.overCap = (decide (r.mult = 16) && decide (r.pcap.toNat < w)) ∧ t.root.winStart = r.winStart + 850000 ∧
      (r.pcap.toNat < w ∨ hot = true → t.root.mult = max 16 (r.mult - 1)) ∧
      (w ≤ r.pcap.toNat → hot = false → w * 100 < 95 * r.pcap.toNat → t.root.mult = min 32 (r.mult + 1)) ∧
      (w ≤ r.pcap.toNat → hot = false → 95 * r.pcap.toNat ≤ w * 100 → t.root.mult = r.mult))

/-- The Root Core: boot, freeze, reset, capture, replay and power. -/
def Obligations.BootPowerAndCapture : Prop := BootAndFreeze ∧ CaptureAndPower

/-- What the host does (R445–R448, R455): a read through the aperture answers the bytes at APBASE plus the offset, a write changes
those and no others, at once where it is one aligned scalar access, else byte by byte, as such a read may have read its bytes
at different moments (R223); an access outside it, and an AtomicOp of another size or without APMODE, is refused, counted in CACNT and logged;
FetchAdd, Swap and CAS answer the old value; a write of a register of function 0 is one of control space, dropped where it sets a
reserved bit (and counted as a failed request, which is the model's choice: log entry 125); of a virtual function's registers only
TAIL of a bound queue is written. Offsets of 2^40 and above of an access are the registers of
function 0: the form that the model gives a read of BAR0. -/
def Sys2Proof.Cert.HostPort : Prop :=
  ∀ (s : State), s.isFrozen = false → s.root.cmode = 0 →
    let h := s.host
    let ad := fun (off : Nat) => BitVec.ofNat 64 ((h.apbase.toNat + off) % 2 ^ 48)
    let via := fun (k : AccKind) => ({ by_ := .link 0, kind := k, ctx := if h.apmode then some h.apctx else none } : Via)
    let failed := fun (u : State) => u.mem = s.mem ∧ u.host.cacnt = (if h.cacnt = BitVec.allOnes 32 then h.cacnt else h.cacnt + 1) ∧
      u.root.log.length = min 256 (s.root.log.length + 1)
    -- what the host has read ahead is spent by its access
    let spent := fun (u : State) => { u with host := { u.host with pre := [] } }
    let scalar := fun (off n : Nat) => (n = 1 ∨ n = 2 ∨ n = 4 ∨ n = 8) ∧ (ad off).toNat % n = 0
    (∀ off n hs t, off + n ≤ 2 ^ h.aplog2 → off < 2 ^ 40 → s.resolve (via .load) [0x0] (ad off) n false = (.ok hs, t) →
      t.eccHomes hs = false →
      (scalar off n → exec (.hostApertureAccess off n none) s = .next (spent (t.respond (t.rdHomes hs)))) ∧
      (¬ scalar off n → exec (.hostApertureAccess off n none) s =
        .next (spent (t.respond (earlyBytes t.host.pre false hs (t.rdHomes hs)))))) ∧
    (∀ off bs hs t, off + bs.length ≤ 2 ^ h.aplog2 → off < 2 ^ 40 →
      s.resolve (via .store) [0x0] (ad off) bs.length false = (.ok hs, t) → hs.Nodup → hs.length = bs.length →
      ∃ u, exec (.hostApertureAccess off 0 (some bs)) s = .next u ∧
        (scalar off bs.length → u.rdHomes hs = bs ∧ ∀ k, k ∉ hs → u.rdByte k = t.rdByte k) ∧
        (¬ scalar off bs.length → u.mem = t.mem ∧ u.pend.map (·.ev) = t.pend.map (·.ev) ++
          (hs.zip bs).map fun x => .accessAtHome ⟨[x.1], .store [x.2], 0, t.hostWho, none⟩)) ∧
    (∀ off n data, off < 2 ^ 40 → 2 ^ h.aplog2 < off + (data.map List.length).getD n → s.root.log.length ≤ 256 →
      ∃ u, exec (.hostApertureAccess off n data) s = .next u ∧ failed u) ∧
    (∀ off n k hs t v, (k = 0 ∨ k = 8) → (n = 4 ∨ n = 8) → h.apmode = true → off + n ≤ 2 ^ h.aplog2 →
      s.resolve (via .atomic) [0x0] (ad off) n true = (.ok hs, t) → hs.Nodup → hs.length = n →
      t.hostAtomicPage h.apctx (ad off) = true → t.eccHomes hs = false →
      let m := leNat (t.rdHomes hs)
      ∃ u, exec (.hostAtomicop off (.atom k n v)) s = .next u ∧ u.host.out = leBytes n m :: t.host.out ∧
        leNat (u.rdHomes hs) = (if k = 0 then (m + v.toNat) % 2 ^ (8 * n) else v.toNat % 2 ^ (8 * n)) ∧
        ∀ a, a ∉ hs → u.rdByte a = t.rdByte a) ∧
    (∀ off n hs t new cmp, (n = 4 ∨ n = 8) → h.apmode = true → off + n ≤ 2 ^ h.aplog2 →
      s.resolve (via .atomic) [0x0] (ad off) n true = (.ok hs, t) → hs.Nodup → hs.length = n →
      t.hostAtomicPage h.apctx (ad off) = true → t.eccHomes hs = false →
      let m := leNat (t.rdHomes hs)
      ∃ u, exec (.hostAtomicop off (.cas n new cmp)) s = .next u ∧ u.host.out = leBytes n m :: t.host.out ∧
        leNat (u.rdHomes hs) = (if m = cmp.toNat % 2 ^ (8 * n) then new.toNat % 2 ^ (8 * n) else m) ∧
        ∀ a, a ∉ hs → u.rdByte a = t.rdByte a) ∧
    (∀ off op, h.apmode = false ∨ hostAtomicSize op = none → s.root.log.length ≤ 256 →
      ∃ u, exec (.hostAtomicop off op) s = .next u ∧ failed u) ∧
    (∀ o v, o < 2 ^ 24 → o % 8 = 0 →
      exec (.registerWrite o v) s = .next (spent (if ctlReserved o v then s.hostCount cIllegal o else s.ctlWrite o v)) ∧
      exec (.hostApertureAccess (2 ^ 40 + o) 8 none) s = .next (spent (s.respond (leBytes 8 (s.ctlRead o).toNat)))) ∧
    (∀ fn q v, 1 ≤ fn → fn ≤ 16 → q < 256 → (tget {} h.vf fn).en = true → (s.queue q).ctx = (tget {} h.vf fn).ctx →
      exec (.registerWrite (fn * 2 ^ 24 + 64 * q + 32) v) s =
        .next (spent (if ctlReserved (queueOff q 4) v then s.hostCount cIllegal (queueOff q 4) else s.queueTail q v))) ∧
    (∀ fn q v, 1 ≤ fn → fn ≤ 16 → q < 256 → (tget {} h.vf fn).en = false ∨ (s.queue q).ctx ≠ (tget {} h.vf fn).ctx →
      exec (.registerWrite (fn * 2 ^ 24 + 64 * q + 32) v) s = .next (spent s))

/-- Management (R449–R451, R453): each request is answered, and changes nothing else: the ten words of the Root Core block, the
error log with 32 bytes an entry, the sensors, and the attestation report of 448 bytes, which begins 'VGAR' with the nonce from byte
8 on. -/
def Sys2Proof.Cert.ManagementAnswers : Prop :=
  ∀ (s : State),
    let gives := fun (i : Instr) (bs : List Byte) => exec i s = .next { s with host := { s.host with out := bs :: s.host.out } }
    (∀ m, gives (.mctpControlMessage m) (Config.mctpReply m)) ∧ gives .mctpReadSensors (Config.sensors s.tick) ∧
    (∃ bs, gives .mctpReadRootBlock bs ∧ bs.length = 80) ∧
    (∃ bs, gives .mctpReadErrorLog bs ∧ bs.length = 32 * s.root.log.length ∧
      ∀ n e, s.root.log[n]? = some e → leNat ((bs.drop (32 * n)).take 8) = e.word0.toNat ∧
        leNat ((bs.drop (32 * n + 8)).take 8) = e.tick.toNat) ∧
    (∀ nonce : List Byte, nonce.length = 64 → ∃ bs, gives (.attestationReportRequest nonce) bs ∧ bs.length = 448 ∧
      bs.take 8 = [0x56, 0x47, 0x41, 0x52] ++ leBytes 2 1 ++ leBytes 2 s.net.nodeid.toNat ∧
      (bs.drop 8).take 64 = nonce ∧ leNat ((bs.drop 200).take 8) = s.tick.toNat)

/-- The host port and the management port. -/
def Obligations.HostAndManagement : Prop := HostPort ∧ ManagementAnswers

/-- The commands of the walker and of the lock unit (R376, R390, R391): INV removes what it names from the caches of its die, or of
every die under BCAST, and BUSY holds until the accesses made through it are done; RELALL releases every record of (CTX, OWNER) of its
die and LAST counts them. A write that sets a reserved bit does none of this (R6); that it is counted as a failed request is the model's
choice (log entry 125). -/
def Sys2Proof.Cert.WalkerAndLockCommands : Prop :=
  (∀ (s : State) (d : Nat) (v : Word), d < 4 →
    (ctlReserved (walkerOff d 0) v = true → exec (.walkerInv d v) s = .next (s.hostCount cIllegal (walkerOff d 0))) ∧
    (ctlReserved (lockOff d 2) v = true → exec (.reckonerRelall d v) s = .next (s.hostCount cIllegal (lockOff d 2)))) ∧
  (∀ (s : State) (d : Nat) (v : Word), d < 4 → ctlReserved (walkerOff d 0) v = false →
    let w := (s.units d).walk
    let w' := { w with bcast := v.getLsbD 7, kind := (v.extractLsb' 0 2).toNat }
    (w.busy = true → exec (.walkerInv d v) s = .next s) ∧
    (w.busy = false → w'.kind ≤ 2 → (w'.kind = 0 → w.npg ≠ 0) →
      ∃ t, exec (.walkerInv d v) s = .next t ∧ (t.units d).walk.busy = true ∧ t.mem = s.mem ∧
        (∀ e, e < 4 → e = d ∨ v.getLsbD 7 = true →
          (t.units e).walk.stc = (s.units e).walk.stc.filter (fun p => !w'.hits p.1 p.2) ∧
          ∀ k ∈ (t.units e).walk.cbuf, w'.hits k.ctx { base := k.va * 64, log := 6 } = false) ∧
        (∀ e, e ≠ d → v.getLsbD 7 = false → t.units e = s.units e)) ∧
    -- no pass that held an access made through what was removed is still open
    let shut := ∀ p ∈ s.holding fun _ => true, p ∉ w.opens
    (w.busy = true → s.depsDone w.await = true → shut → ∃ t, exec (.walkerInvComplete d) s = .next t ∧
      (t.units d).walk.busy = false ∧ t.mem = s.mem) ∧
    (w.busy = true → s.depsDone w.await = false ∨ ¬ shut → exec (.walkerInvComplete d) s = .next s)) ∧
  (∀ (w : Walker) (c : Nat) (t : Trans), w.kind = 2 → w.hits c t = true) ∧
  (∀ (s : State) (d : Nat) (v : Word), d < 4 → ctlReserved (lockOff d 2) v = false → (s.reckoner d).queue = [] →
    let k := s.reckoner d
    let c := (v.extractLsb' 0 6).toNat
    let mine := fun (x : LockRec) => x.ctx == c && x.age == k.owner
    exec (.reckonerRelall d v) s = .next (s.setReckoner d { k with
      ctx := c, last := BitVec.ofNat 32 (k.recs.filter mine).length, recs := k.recs.filter fun x => !mine x }))

/-- Lock requests and releases at their homes, and the commands of lock units and walkers. -/
def Obligations.LocksAndWalkers : Prop := LockEvents ∧ WalkerAndLockCommands

/-! ## The whole machine -/

/-- Every row of the table runs to a next state in every state: none is refused, and none ends in a fault. -/
def Sys2Proof.Cert.EveryRowCompletes : Prop := ∀ (i : Instr) (s : State), ∃ t, exec i s = .next t

/-- A step goes on unless its move names an engine, a slot, a core, a sequencer or a buffer that the package does not have; then it is
the fault that says so. -/
def Sys2Proof.Cert.StepFaultsOnlyWithoutAgent : Prop :=
  ∀ (s : State),
    let m := s.nextMove.1
    let absent := match m with
      | .engine e sl => 288 ≤ e ∨ 2 ≤ sl
      | .core d => 4 ≤ d
      | .seq d k => 4 ≤ d ∨ 8 ≤ k
      | .evict d _ => 4 ≤ d
      | .constFill n _ => 292 ≤ n
      | .constPick d _ => 4 ≤ d
      | .early n _ _ _ => 297 ≤ n
      | _ => False
    (absent → step s = .fault .noSuchAgent) ∧ (¬ absent → StepSafe s)

/-- Every row completes, and a step faults only for an agent that does not exist. -/
def Obligations.RowsAndStepsComplete : Prop := EveryRowCompletes ∧ StepFaultsOnlyWithoutAgent

/-- What a move of a control core runs, but for the accesses to control space, the rod words and the privileged words of R268 to
R272: the scalar words, branches, CSR words, LD, ST, TRAPC, ERET, WFE, the delivery of a record, the handler limit and a word that
does not decode. -/
def Sys2Proof.Cert.coreOwn (c : CoreState) : Instr → Bool
  | .add _ | .sub _ | .mul _ | .mulh _ | .mulhu _ | .divu _ | .remu _ | .and _ | .or _ | .xor _ | .andn _ | .shl _
  | .shr _ | .sra _ | .min _ | .max _ | .minu _ | .maxu _ | .cmp _ | .sel _ | .mov _ | .clz _ | .popc _ | .bfx _
  | .bfi _ | .li _ _ | .br _ | .jal _ | .jalr _ | .csrr _ | .csrw _ | .csrs _ | .csrc _ | .trapc _ | .eret _ | .wfe _
  | .trapDelivery _ | .handlerTimeout _ | .wordDecodeFault .. | .ld _ => true
  | .st f => addrPath (c.rd f.ga + f.off.signExtend 64) != 0xF
  | _ => false

/-- What stays so while the cores run: memory has its canonical form; on every core PC and the saved next address are multiples
of 8 (R257), ASEL names a context or the physical space (R260), and HALT of the Root Core block shows which cores have halted
(R277, R450). -/
def Sys2Proof.Cert.coreInv (s : State) : Prop :=
  Memory.wf s.mem = true ∧ ∀ d, d < 4 →
    (s.core d).pc.toNat % 8 = 0 ∧ (s.core d).npc.toNat % 8 = 0 ∧ (s.core d).csr.asel.toNat ≤ 64 ∧
      s.root.halt.getLsbD d = (s.core d).halted

/-- The invariant is kept by the steps of a control core that run a scalar word, a branch, a CSR word, LD, an ST to memory, TRAPC, ERET
or WFE, a delivery, the handler limit or a word that does not decode, and by those that have nothing to run. Left out are the moves that
run a rod word, a privileged word of R268 to R272, or an ST to path 0xF. -/
def Obligations.CoreStepsKeepInvariant : Prop :=
  ∀ (s u t : State) (d : Nat), s.nextMove = (.core d, u) → coreInv s → step s = .next t →
    (∀ v, s.select = .stay v → coreInv t) ∧ (∀ i v, s.select = .run i v → coreOwn (v.core d) i = true → coreInv t)

/-- The invariant holds after reset. -/
def Obligations.ResetHasInvariant : Prop := coreInv State.reset
end

