-- ==== Sys2Proof/Laws/Encoding.lean ====
section
/-!
SUPPORT. Bit fields of a packed word: what the decoder reads back from a word that the encoder wrote.
-/
namespace Sys2Proof

/-- A field that lies in the low part of an append. -/
theorem extract_append_low {w v : Nat} (a : BitVec w) (b : BitVec v) (lo n : Nat) (h : lo + n ≤ v) :
    (a ++ b).extractLsb' lo n = b.extractLsb' lo n := by
  apply BitVec.eq_of_getLsbD_eq
  intro i hi
  simp only [BitVec.getLsbD_extractLsb', BitVec.getLsbD_append, hi, decide_true, Bool.true_and]
  rw [if_pos (by omega)]

/-- A field that lies in the high part of an append. -/
theorem extract_append_high {w v : Nat} (a : BitVec w) (b : BitVec v) (lo n : Nat) (h : v ≤ lo) :
    (a ++ b).extractLsb' lo n = a.extractLsb' (lo - v) n := by
  apply BitVec.eq_of_getLsbD_eq
  intro i hi
  simp only [BitVec.getLsbD_extractLsb', BitVec.getLsbD_append, hi, decide_true, Bool.true_and]
  rw [if_neg (by omega)]; congr 1; omega

/-- Bits [50:0] of a packed word are its body. -/
theorem body_packWord (maj mn : Nat) (xt : Bool) (b : BitVec 51) (lo n : Nat) (h : lo + n ≤ 51) :
    (packWord maj mn xt b).extractLsb' lo n = b.extractLsb' lo n := by
  rw [packWord, BitVec.setWidth_eq, extract_append_low _ _ _ _ h]

@[simp] theorem wordXt_packWord (maj mn : Nat) (xt : Bool) (b : BitVec 51) : wordXt (packWord maj mn xt b) = xt := by
  simp only [wordXt, packWord, BitVec.setWidth_eq, BitVec.getLsbD_append]
  cases xt <;> simp

theorem wordMaj_packWord (maj mn : Nat) (xt : Bool) (b : BitVec 51) (h : maj < 64) :
    wordMaj (packWord maj mn xt b) = maj := by
  rw [wordMaj, packWord, BitVec.setWidth_eq, extract_append_high _ _ _ _ (by omega),
    extract_append_high _ _ _ _ (by omega), extract_append_high _ _ _ _ (by omega), BitVec.extractLsb'_eq_self,
    BitVec.toNat_ofNat]
  omega

theorem wordMin_packWord (maj mn : Nat) (xt : Bool) (b : BitVec 51) (h : mn < 64) :
    wordMin (packWord maj mn xt b) = mn := by
  rw [wordMin, packWord, BitVec.setWidth_eq, extract_append_high _ _ _ _ (by omega),
    extract_append_high _ _ _ _ (by omega), extract_append_low _ _ _ _ (by omega), BitVec.extractLsb'_eq_self,
    BitVec.toNat_ofNat]
  omega

@[simp] theorem unpackA_packWord (maj mn : Nat) (xt : Bool) (f : FmtA) :
    unpackA (packWord maj mn xt (packA f)) = f := by
  simp (disch := omega) only [unpackA, body_packWord, packA, BitVec.setWidth_eq, extract_append_low,
    extract_append_high, Nat.sub_self, Nat.reduceSub, BitVec.extractLsb'_eq_self]

@[simp] theorem unpackB_packWord (maj mn : Nat) (xt : Bool) (f : FmtB) :
    unpackB (packWord maj mn xt (packB f)) = f := by
  simp (disch := omega) only [unpackB, body_packWord, packB, BitVec.setWidth_eq, extract_append_low,
    extract_append_high, Nat.sub_self, Nat.reduceSub, BitVec.extractLsb'_eq_self]

@[simp] theorem unpackM_packWord (maj mn : Nat) (xt : Bool) (f : FmtM) :
    unpackM (packWord maj mn xt (packM f)) = f := by
  simp (disch := omega) only [unpackM, body_packWord, packM, BitVec.setWidth_eq, extract_append_low,
    extract_append_high, Nat.sub_self, Nat.reduceSub, BitVec.extractLsb'_eq_self]

@[simp] theorem unpackE_packWord (maj mn : Nat) (xt : Bool) (f : FmtE) :
    unpackE (packWord maj mn xt (packE f)) = f := by
  simp (disch := omega) only [unpackE, body_packWord, packE, BitVec.setWidth_eq, extract_append_low,
    extract_append_high, Nat.sub_self, Nat.reduceSub, BitVec.extractLsb'_eq_self]

@[simp] theorem unpackCM_packWord (maj mn : Nat) (xt : Bool) (f : FmtCM) :
    unpackCM (packWord maj mn xt (packCM f)) = f := by
  simp (disch := omega) only [unpackCM, body_packWord, packCM, BitVec.setWidth_eq, extract_append_low,
    extract_append_high, Nat.sub_self, Nat.reduceSub, BitVec.extractLsb'_eq_self]

@[simp] theorem unpackCB_packWord (maj mn : Nat) (xt : Bool) (f : FmtCB) :
    unpackCB (packWord maj mn xt (packCB f)) = f := by
  simp (disch := omega) only [unpackCB, body_packWord, packCB, BitVec.setWidth_eq, extract_append_low,
    extract_append_high, Nat.sub_self, Nat.reduceSub, BitVec.extractLsb'_eq_self]

@[simp] theorem unpackCJ_packWord (maj mn : Nat) (xt : Bool) (f : FmtCJ) :
    unpackCJ (packWord maj mn xt (packCJ f)) = f := by
  simp (disch := omega) only [unpackCJ, body_packWord, packCJ, BitVec.setWidth_eq, extract_append_low,
    extract_append_high, Nat.sub_self, Nat.reduceSub, BitVec.extractLsb'_eq_self]

@[simp] theorem unpackCS_packWord (maj mn : Nat) (xt : Bool) (f : FmtCS) :
    unpackCS (packWord maj mn xt (packCS f)) = f := by
  simp (disch := omega) only [unpackCS, body_packWord, packCS, BitVec.setWidth_eq, extract_append_low,
    extract_append_high, Nat.sub_self, Nat.reduceSub, BitVec.extractLsb'_eq_self]

@[simp] theorem unpackCG_packWord (maj mn : Nat) (xt : Bool) (f : FmtCG) :
    unpackCG (packWord maj mn xt (packCG f)) = f := by
  simp (disch := omega) only [unpackCG, body_packWord, packCG, BitVec.setWidth_eq, extract_append_low,
    extract_append_high, Nat.sub_self, Nat.reduceSub, BitVec.extractLsb'_eq_self]

end Sys2Proof
end

