-- ==== Sys2Proof/Laws/Links.lean ====
section
/-!
SUPPORT. A flit that a port makes reads back as it was made (R393).
-/
namespace Sys2Proof.Machine

/-- The number that a flit carries below its CRC. -/
def flitLow (body : BitVec 448) (seq fk : Nat) (ack : Option Nat) : Nat :=
  body.toNat + (seq % 4096 + fk % 16 * 4096) * 2 ^ 448 + ((ack.getD 0) % 4096 + b2n ack.isSome * 32768) * 2 ^ 464

theorem flitLow_lt (body : BitVec 448) (seq fk : Nat) (ack : Option Nat) : flitLow body seq fk ack < 2 ^ 480 := by
  have hb := body.isLt
  have h : b2n ack.isSome ≤ 1 := by unfold b2n; split <;> omega
  unfold flitLow
  omega

/-- The low bytes of a number do not see what stands above them. -/
theorem leBytes_add_mul (n v c : Nat) : leBytes n (v + c * 256 ^ n) = leBytes n v := by
  unfold leBytes
  refine List.map_congr_left fun i hi => ?_
  have hi : i < n := List.mem_range.mp hi
  obtain ⟨k, rfl⟩ : ∃ k, n = i + (k + 1) := ⟨n - i - 1, by omega⟩
  have e : v + c * 256 ^ (i + (k + 1)) = v + 256 ^ i * (c * 256 ^ k * 256) := by ring
  rw [e, Nat.add_mul_div_left _ _ (by positivity)]
  apply BitVec.eq_of_toNat_eq
  simp [BitVec.toNat_ofNat, Nat.add_mul_mod_self_right]

/-- The value of a flit: its content with the CRC above. -/
theorem mkFlit_toNat (body : BitVec 448) (seq fk : Nat) (ack : Option Nat) :
    (mkFlit body seq fk ack).toNat =
      flitLow body seq fk ack + (crc32c (leBytes 60 (flitLow body seq fk ack))).toNat * 2 ^ 480 := by
  have h := flitLow_lt body seq fk ack
  have hc := (crc32c (leBytes 60 (flitLow body seq fk ack))).isLt
  show (BitVec.ofNat 512 _).toNat = _
  rw [BitVec.toNat_ofNat]
  exact Nat.mod_eq_of_lt (by unfold flitLow at *; omega)

/-- The CRC of a flit that a port makes holds (R393). -/
theorem mkFlit_crc (body : BitVec 448) (seq fk : Nat) (ack : Option Nat) :
    crc32c (leBytes 60 (mkFlit body seq fk ack).toNat) = (mkFlit body seq fk ack).extractLsb' 480 32 := by
  have h := flitLow_lt body seq fk ack
  have hc := (crc32c (leBytes 60 (flitLow body seq fk ack))).isLt
  have e : leBytes 60 (mkFlit body seq fk ack).toNat = leBytes 60 (flitLow body seq fk ack) := by
    have p : (2 : Nat) ^ 480 = 256 ^ 60 := Nat.pow_mul 2 8 60
    rw [mkFlit_toNat, p, leBytes_add_mul]
  rw [e]
  apply BitVec.eq_of_toNat_eq
  rw [BitVec.extractLsb'_toNat, mkFlit_toNat, Nat.shiftRight_eq_div_pow, Nat.add_mul_div_right _ _ (by positivity),
    Nat.div_eq_of_lt h, Nat.zero_add, Nat.mod_eq_of_lt hc]

/-- What lies below the CRC of a flit is what the port put there. -/
theorem mkFlit_low (body : BitVec 448) (seq fk : Nat) (ack : Option Nat) :
    (mkFlit body seq fk ack).extractLsb' 0 480 = BitVec.ofNat 480 (flitLow body seq fk ack) := by
  apply BitVec.eq_of_toNat_eq
  rw [BitVec.extractLsb'_toNat, mkFlit_toNat, Nat.shiftRight_zero, BitVec.toNat_ofNat]
  omega

/-- SEQ of a flit that a port makes (R393). -/
theorem mkFlit_seq (body : BitVec 448) (seq fk : Nat) (ack : Option Nat) :
    ((mkFlit body seq fk ack).extractLsb' 448 12).toNat = seq % 4096 := by
  have hb := body.isLt
  rw [BitVec.extractLsb'_toNat, mkFlit_toNat, Nat.shiftRight_eq_div_pow]
  unfold flitLow
  omega

/-- FK of a flit that a port makes (R393). -/
theorem mkFlit_kind (body : BitVec 448) (seq fk : Nat) (ack : Option Nat) :
    ((mkFlit body seq fk ack).extractLsb' 460 4).toNat = fk % 16 := by
  have hb := body.isLt
  rw [BitVec.extractLsb'_toNat, mkFlit_toNat, Nat.shiftRight_eq_div_pow]
  unfold flitLow
  omega

/-- The content of a flit that a port makes (R393). -/
theorem mkFlit_body (body : BitVec 448) (seq fk : Nat) (ack : Option Nat) :
    (mkFlit body seq fk ack).extractLsb' 0 448 = body := by
  have hb := body.isLt
  apply BitVec.eq_of_toNat_eq
  rw [BitVec.extractLsb'_toNat, mkFlit_toNat, Nat.shiftRight_zero]
  unfold flitLow
  omega

/-- A flit that a port makes with no acknowledgement says so (R393). -/
theorem mkFlit_noAck (body : BitVec 448) (seq fk : Nat) : (mkFlit body seq fk none).getLsbD 479 = false := by
  have hb := body.isLt
  rw [BitVec.getLsbD, mkFlit_toNat, Nat.testBit_eq_decide_div_mod_eq]
  unfold flitLow b2n
  simp only [Option.isSome_none, Option.getD_none, decide_eq_false_iff_not]
  simp only [Bool.false_eq_true, if_false]
  omega

end Sys2Proof.Machine
end

