-- ==== Sys2Proof/Laws/Table.lean ====
section
/-!
SUPPORT. Sparse tables: reading after writing, and the canonical form.
-/
namespace Sys2Proof.Machine

variable {α : Type}

@[simp] theorem tget_nil (d : α) (k : Nat) : tget d [] k = d := rfl

theorem tget_tput_same (d : α) (t : Table α) (k : Nat) (v : α) : tget d (tput t k v) k = v := by
  induction t with
  | nil => simp [tput, tget]
  | cons a r ih =>
    obtain ⟨j, u⟩ := a
    simp only [tput]
    split
    · simp only [tget]; rw [if_neg (by omega)]; exact ih
    · split <;> simp [tget]

theorem tget_tput_ne (d : α) (t : Table α) (k k' : Nat) (v : α) (h : k ≠ k') : tget d (tput t k v) k' = tget d t k' := by
  induction t with
  | nil => simp [tput, tget, h]
  | cons a r ih =>
    obtain ⟨j, u⟩ := a
    simp only [tput]
    split
    · simp only [tget, ih]
    · split
      · next e => subst e; simp [tget, h]
      · simp [tget, h]

theorem tget_tdel_same (d : α) (t : Table α) (k : Nat) : tget d (tdel t k) k = d := by
  induction t with
  | nil => rfl
  | cons a r ih =>
    obtain ⟨j, u⟩ := a
    simp only [tdel]
    split
    · exact ih
    · next h => simp only [tget, if_neg h]; exact ih

theorem tget_tdel_ne (d : α) (t : Table α) (k k' : Nat) (h : k ≠ k') : tget d (tdel t k) k' = tget d t k' := by
  induction t with
  | nil => rfl
  | cons a r ih =>
    obtain ⟨j, u⟩ := a
    simp only [tdel]
    split
    · next e => subst e; simp only [tget, if_neg h]; exact ih
    · simp only [tget, ih]

theorem tget_tset_same [DecidableEq α] (d : α) (t : Table α) (k : Nat) (v : α) : tget d (tset d t k v) k = v := by
  unfold tset
  split
  · next h => rw [tget_tdel_same, h]
  · exact tget_tput_same d t k v

theorem tget_tset_ne [DecidableEq α] (d : α) (t : Table α) (k k' : Nat) (v : α) (h : k ≠ k') :
    tget d (tset d t k v) k' = tget d t k' := by
  unfold tset
  split
  · exact tget_tdel_ne d t k k' h
  · exact tget_tput_ne d t k k' v h

/-- Reading one byte after a list of values has been written. -/
theorem tget_tsets [DecidableEq α] (d : α) (t : Table α) (k a : Nat) (l : List α) :
    tget d (tsets d t k l) a = if k ≤ a ∧ a < k + l.length then l.getD (a - k) d else tget d t a := by
  induction l generalizing t k with
  | nil => rw [if_neg (by simp)]; rfl
  | cons v r ih =>
    simp only [tsets, ih, List.length_cons]
    by_cases h1 : k + 1 ≤ a ∧ a < k + 1 + r.length
    · rw [if_pos h1, if_pos (by omega)]
      obtain ⟨m, hm⟩ : ∃ m, a - k = m + 1 := ⟨a - k - 1, by omega⟩
      rw [hm, List.getD_cons_succ]; congr 1; omega
    · rw [if_neg h1]
      by_cases h2 : k = a
      · subst h2; rw [if_pos (by omega), tget_tset_same]; simp
      · rw [if_neg (by omega), tget_tset_ne _ _ _ _ _ h2]

theorem length_tgets (d : α) (t : Table α) (k n : Nat) : (tgets d t k n).length = n := by
  induction n generalizing k with
  | zero => rfl
  | succ n ih => simp [tgets, ih]

theorem getD_tgets (d : α) (t : Table α) (k n i : Nat) (h : i < n) : (tgets d t k n).getD i d = tget d t (k + i) := by
  induction n generalizing k i with
  | zero => omega
  | succ n ih =>
    cases i with
    | zero => simp [tgets]
    | succ i => simp only [tgets, List.getD_cons_succ]; rw [ih (k + 1) i (by omega)]; congr 1; omega

/-- Reading a list of values back where it was written. -/
theorem tgets_tsets [DecidableEq α] (d : α) (t : Table α) (k : Nat) (l : List α) : tgets d (tsets d t k l) k l.length = l := by
  apply List.ext_getElem
  · exact length_tgets ..
  · intro i h1 h2
    have h := getD_tgets d (tsets d t k l) k l.length i h2
    rw [List.getD_eq_getElem _ _ h1] at h
    rw [h, tget_tsets, if_pos (by omega), Nat.add_sub_cancel_left, List.getD_eq_getElem _ _ h2]

theorem tgets_congr (d : α) (t u : Table α) (k n : Nat) (h : ∀ a, k ≤ a → a < k + n → tget d t a = tget d u a) :
    tgets d t k n = tgets d u k n := by
  induction n generalizing k with
  | zero => rfl
  | succ n ih =>
    simp only [tgets]
    rw [h k (by omega) (by omega), ih (k + 1) fun a h1 h2 => h a (by omega) (by omega)]

/-! ## The canonical form -/

variable [DecidableEq α]

theorem twfFrom_mono (d : α) (a b : Nat) (t : Table α) (h : twfFrom d a t = true) (hb : b ≤ a) : twfFrom d b t = true := by
  cases t with
  | nil => rfl
  | cons x r =>
    obtain ⟨j, v⟩ := x
    simp only [twfFrom, Bool.and_eq_true, decide_eq_true_eq] at h ⊢
    exact ⟨⟨by omega, h.1.2⟩, h.2⟩

theorem twfFrom_tput (d : α) (a : Nat) (t : Table α) (k : Nat) (v : α) (h : twfFrom d a t = true) (hk : a ≤ k) (hv : v ≠ d) :
    twfFrom d a (tput t k v) = true := by
  induction t generalizing a with
  | nil => simp [tput, twfFrom, hk, hv]
  | cons x r ih =>
    obtain ⟨j, u⟩ := x
    simp only [twfFrom, Bool.and_eq_true, decide_eq_true_eq] at h
    simp only [tput]
    split
    · simp only [twfFrom, Bool.and_eq_true, decide_eq_true_eq]
      exact ⟨h.1, ih (j + 1) h.2 (by omega)⟩
    · split
      · next e => subst e; simp only [twfFrom, Bool.and_eq_true, decide_eq_true_eq]; exact ⟨⟨hk, hv⟩, h.2⟩
      · simp only [twfFrom, Bool.and_eq_true, decide_eq_true_eq]
        exact ⟨⟨hk, hv⟩, ⟨by omega, h.1.2⟩, h.2⟩

theorem twfFrom_tdel (d : α) (a : Nat) (t : Table α) (k : Nat) (h : twfFrom d a t = true) : twfFrom d a (tdel t k) = true := by
  induction t generalizing a with
  | nil => rfl
  | cons x r ih =>
    obtain ⟨j, u⟩ := x
    simp only [twfFrom, Bool.and_eq_true, decide_eq_true_eq] at h
    simp only [tdel]
    split
    · exact twfFrom_mono d (j + 1) a _ (ih (j + 1) h.2) (by omega)
    · simp only [twfFrom, Bool.and_eq_true, decide_eq_true_eq]
      exact ⟨h.1, ih (j + 1) h.2⟩

/-- A write keeps the canonical form. -/
theorem twf_tset (d : α) (t : Table α) (k : Nat) (v : α) (h : twf d t = true) : twf d (tset d t k v) = true := by
  unfold tset
  split
  · exact twfFrom_tdel d 0 t k h
  · next hv => exact twfFrom_tput d 0 t k v h (Nat.zero_le _) hv

theorem twf_tsets (d : α) (t : Table α) (k : Nat) (l : List α) (h : twf d t = true) : twf d (tsets d t k l) = true := by
  induction l generalizing t k with
  | nil => exact h
  | cons v r ih => exact ih _ _ (twf_tset d t k v h)

theorem twfFrom_filter (d : α) (a : Nat) (t : Table α) (p : Nat × α → Bool) (h : twfFrom d a t = true) :
    twfFrom d a (t.filter p) = true := by
  induction t generalizing a with
  | nil => rfl
  | cons x r ih =>
    obtain ⟨j, u⟩ := x
    simp only [twfFrom, Bool.and_eq_true, decide_eq_true_eq] at h
    rw [List.filter_cons]
    split
    · simp only [twfFrom, Bool.and_eq_true, decide_eq_true_eq]; exact ⟨h.1, ih (j + 1) h.2⟩
    · exact twfFrom_mono d (j + 1) a _ (ih (j + 1) h.2) (by omega)

/-- Forgetting entries keeps the canonical form. -/
theorem twf_filter (d : α) (t : Table α) (p : Nat × α → Bool) (h : twf d t = true) : twf d (t.filter p) = true :=
  twfFrom_filter d 0 t p h

theorem tget_lt (d : α) (a : Nat) (t : Table α) (k : Nat) (h : twfFrom d a t = true) (hk : k < a) : tget d t k = d := by
  induction t generalizing a with
  | nil => rfl
  | cons x r ih =>
    obtain ⟨j, u⟩ := x
    simp only [twfFrom, Bool.and_eq_true, decide_eq_true_eq] at h
    simp only [tget]
    rw [if_neg (by omega)]
    exact ih (j + 1) h.2 (by omega)

/-- Two tables in canonical form that read alike everywhere are equal. -/
theorem twfFrom_ext (d : α) (a : Nat) (t u : Table α) (ht : twfFrom d a t = true) (hu : twfFrom d a u = true)
    (h : ∀ k, a ≤ k → tget d t k = tget d u k) : t = u := by
  induction t generalizing a u with
  | nil =>
    cases u with
    | nil => rfl
    | cons y s =>
      obtain ⟨j, w⟩ := y
      simp only [twfFrom, Bool.and_eq_true, decide_eq_true_eq] at hu
      have := h j hu.1.1
      simp [tget] at this
      exact absurd this.symm hu.1.2
  | cons x r ih =>
    obtain ⟨i, v⟩ := x
    simp only [twfFrom, Bool.and_eq_true, decide_eq_true_eq] at ht
    cases u with
    | nil =>
      have := h i ht.1.1
      simp [tget] at this
      exact absurd this ht.1.2
    | cons y s =>
      obtain ⟨j, w⟩ := y
      simp only [twfFrom, Bool.and_eq_true, decide_eq_true_eq] at hu
      have hij : i = j := by
        rcases Nat.lt_trichotomy i j with hl | he | hl
        · have := h i ht.1.1
          simp only [tget, if_true] at this
          rw [if_neg (by omega), tget_lt d (j + 1) s i hu.2 (by omega)] at this
          exact absurd this ht.1.2
        · exact he
        · have := h j hu.1.1
          simp only [tget, if_true] at this
          rw [if_neg (by omega), tget_lt d (i + 1) r j ht.2 (by omega)] at this
          exact absurd this.symm hu.1.2
      subst hij
      have hv : v = w := by have := h i ht.1.1; simpa [tget] using this
      subst hv
      rw [ih (i + 1) s ht.2 hu.2]
      intro k hk
      have := h k (by omega)
      simpa [tget, show ¬ i = k by omega] using this

theorem twf_ext (d : α) (t u : Table α) (ht : twf d t = true) (hu : twf d u = true) (h : ∀ k, tget d t k = tget d u k) : t = u :=
  twfFrom_ext d 0 t u ht hu fun k _ => h k

end Sys2Proof.Machine
end

