-- ==== Sys2Proof/Laws/State.lean ====
section
/-!
SUPPORT. What each update of the state leaves alone, one lemma per field and per reading, and what it puts in place.
-/
namespace Sys2Proof.Machine

/-! ### setEngine -/

@[simp] theorem State.setEngine_mem (s : State) (e : Nat) (x : Engine) : (s.setEngine e x).mem = s.mem := rfl
@[simp] theorem State.setEngine_ecc (s : State) (e : Nat) (x : Engine) : (s.setEngine e x).ecc = s.ecc := rfl
@[simp] theorem State.setEngine_clock (s : State) (e : Nat) (x : Engine) : (s.setEngine e x).clock = s.clock := rfl
@[simp] theorem State.setEngine_dies (s : State) (e : Nat) (x : Engine) : (s.setEngine e x).dies = s.dies := rfl
@[simp] theorem State.setEngine_ctxs (s : State) (e : Nat) (x : Engine) : (s.setEngine e x).ctxs = s.ctxs := rfl
@[simp] theorem State.setEngine_cp (s : State) (e : Nat) (x : Engine) : (s.setEngine e x).cp = s.cp := rfl
@[simp] theorem State.setEngine_net (s : State) (e : Nat) (x : Engine) : (s.setEngine e x).net = s.net := rfl
@[simp] theorem State.setEngine_host (s : State) (e : Nat) (x : Engine) : (s.setEngine e x).host = s.host := rfl
@[simp] theorem State.setEngine_root (s : State) (e : Nat) (x : Engine) : (s.setEngine e x).root = s.root := rfl
@[simp] theorem State.setEngine_pend (s : State) (e : Nat) (x : Engine) : (s.setEngine e x).pend = s.pend := rfl
@[simp] theorem State.setEngine_held (s : State) (e : Nat) (x : Engine) : (s.setEngine e x).held = s.held := rfl
@[simp] theorem State.setEngine_soft (s : State) (e : Nat) (x : Engine) : (s.setEngine e x).soft = s.soft := rfl
@[simp] theorem State.setEngine_cur (s : State) (e : Nat) (x : Engine) : (s.setEngine e x).cur = s.cur := rfl
@[simp] theorem State.setEngine_sched (s : State) (e : Nat) (x : Engine) : (s.setEngine e x).sched = s.sched := rfl
@[simp] theorem State.setEngine_choices (s : State) (e : Nat) (x : Engine) : (s.setEngine e x).choices = s.choices := rfl
@[simp] theorem State.setEngine_free (s : State) (e : Nat) (x : Engine) : (s.setEngine e x).free = s.free := rfl
@[simp] theorem State.setEngine_nextId (s : State) (e : Nat) (x : Engine) : (s.setEngine e x).nextId = s.nextId := rfl
@[simp] theorem State.setEngine_arr (s : State) (e : Nat) (x : Engine) : (s.setEngine e x).arr = s.arr := rfl
@[simp] theorem State.setEngine_relay (s : State) (e : Nat) (x : Engine) : (s.setEngine e x).relay = s.relay := rfl
@[simp] theorem State.setEngine_die (s : State) (e : Nat) (x : Engine) (a : Nat) : (s.setEngine e x).die a = s.die a := rfl
@[simp] theorem State.setEngine_ctx (s : State) (e : Nat) (x : Engine) (a : Nat) : (s.setEngine e x).ctx a = s.ctx a := rfl
@[simp] theorem State.setEngine_core (s : State) (e : Nat) (x : Engine) (a : Nat) : (s.setEngine e x).core a = s.core a := rfl
@[simp] theorem State.setEngine_units (s : State) (e : Nat) (x : Engine) (a : Nat) : (s.setEngine e x).units a = s.units a := rfl
@[simp] theorem State.setEngine_kernel (s : State) (e : Nat) (x : Engine) (a : Nat) : (s.setEngine e x).kernel a = s.kernel a := rfl
@[simp] theorem State.setEngine_queue (s : State) (e : Nat) (x : Engine) (a : Nat) : (s.setEngine e x).queue a = s.queue a := rfl
@[simp] theorem State.setEngine_pgt (s : State) (e : Nat) (x : Engine) (a b : Nat) : (s.setEngine e x).pgt a b = s.pgt a b := rfl
@[simp] theorem State.setEngine_prog (s : State) (e : Nat) (x : Engine) (a b : Nat) : (s.setEngine e x).prog a b = s.prog a b := rfl
@[simp] theorem State.setEngine_tick (s : State) (e : Nat) (x : Engine)  : (s.setEngine e x).tick = s.tick := rfl
@[simp] theorem State.setEngine_rdByte (s : State) (e : Nat) (x : Engine) (a : Nat) : (s.setEngine e x).rdByte a = s.rdByte a := rfl
@[simp] theorem State.setEngine_rdBytes (s : State) (e : Nat) (x : Engine) (a b : Nat) : (s.setEngine e x).rdBytes a b = s.rdBytes a b := rfl

/-! ### setDie -/

@[simp] theorem State.setDie_mem (s : State) (d : Nat) (x : Die) : (s.setDie d x).mem = s.mem := rfl
@[simp] theorem State.setDie_ecc (s : State) (d : Nat) (x : Die) : (s.setDie d x).ecc = s.ecc := rfl
@[simp] theorem State.setDie_clock (s : State) (d : Nat) (x : Die) : (s.setDie d x).clock = s.clock := rfl
@[simp] theorem State.setDie_eng (s : State) (d : Nat) (x : Die) : (s.setDie d x).eng = s.eng := rfl
@[simp] theorem State.setDie_ctxs (s : State) (d : Nat) (x : Die) : (s.setDie d x).ctxs = s.ctxs := rfl
@[simp] theorem State.setDie_cp (s : State) (d : Nat) (x : Die) : (s.setDie d x).cp = s.cp := rfl
@[simp] theorem State.setDie_net (s : State) (d : Nat) (x : Die) : (s.setDie d x).net = s.net := rfl
@[simp] theorem State.setDie_host (s : State) (d : Nat) (x : Die) : (s.setDie d x).host = s.host := rfl
@[simp] theorem State.setDie_root (s : State) (d : Nat) (x : Die) : (s.setDie d x).root = s.root := rfl
@[simp] theorem State.setDie_pend (s : State) (d : Nat) (x : Die) : (s.setDie d x).pend = s.pend := rfl
@[simp] theorem State.setDie_held (s : State) (d : Nat) (x : Die) : (s.setDie d x).held = s.held := rfl
@[simp] theorem State.setDie_soft (s : State) (d : Nat) (x : Die) : (s.setDie d x).soft = s.soft := rfl
@[simp] theorem State.setDie_cur (s : State) (d : Nat) (x : Die) : (s.setDie d x).cur = s.cur := rfl
@[simp] theorem State.setDie_sched (s : State) (d : Nat) (x : Die) : (s.setDie d x).sched = s.sched := rfl
@[simp] theorem State.setDie_choices (s : State) (d : Nat) (x : Die) : (s.setDie d x).choices = s.choices := rfl
@[simp] theorem State.setDie_free (s : State) (d : Nat) (x : Die) : (s.setDie d x).free = s.free := rfl
@[simp] theorem State.setDie_nextId (s : State) (d : Nat) (x : Die) : (s.setDie d x).nextId = s.nextId := rfl
@[simp] theorem State.setDie_arr (s : State) (d : Nat) (x : Die) : (s.setDie d x).arr = s.arr := rfl
@[simp] theorem State.setDie_relay (s : State) (d : Nat) (x : Die) : (s.setDie d x).relay = s.relay := rfl
@[simp] theorem State.setDie_engine (s : State) (d : Nat) (x : Die) (a : Nat) : (s.setDie d x).engine a = s.engine a := rfl
@[simp] theorem State.setDie_ctx (s : State) (d : Nat) (x : Die) (a : Nat) : (s.setDie d x).ctx a = s.ctx a := rfl
@[simp] theorem State.setDie_kernel (s : State) (d : Nat) (x : Die) (a : Nat) : (s.setDie d x).kernel a = s.kernel a := rfl
@[simp] theorem State.setDie_queue (s : State) (d : Nat) (x : Die) (a : Nat) : (s.setDie d x).queue a = s.queue a := rfl
@[simp] theorem State.setDie_pgt (s : State) (d : Nat) (x : Die) (a b : Nat) : (s.setDie d x).pgt a b = s.pgt a b := rfl
@[simp] theorem State.setDie_active (s : State) (d : Nat) (x : Die) (a b : Nat) : (s.setDie d x).active a b = s.active a b := rfl
@[simp] theorem State.setDie_tick (s : State) (d : Nat) (x : Die)  : (s.setDie d x).tick = s.tick := rfl
@[simp] theorem State.setDie_rdByte (s : State) (d : Nat) (x : Die) (a : Nat) : (s.setDie d x).rdByte a = s.rdByte a := rfl
@[simp] theorem State.setDie_rdBytes (s : State) (d : Nat) (x : Die) (a b : Nat) : (s.setDie d x).rdBytes a b = s.rdBytes a b := rfl

/-! ### setCtx -/

@[simp] theorem State.setCtx_mem (s : State) (c : Nat) (x : Ctx) : (s.setCtx c x).mem = s.mem := rfl
@[simp] theorem State.setCtx_ecc (s : State) (c : Nat) (x : Ctx) : (s.setCtx c x).ecc = s.ecc := rfl
@[simp] theorem State.setCtx_clock (s : State) (c : Nat) (x : Ctx) : (s.setCtx c x).clock = s.clock := rfl
@[simp] theorem State.setCtx_dies (s : State) (c : Nat) (x : Ctx) : (s.setCtx c x).dies = s.dies := rfl
@[simp] theorem State.setCtx_eng (s : State) (c : Nat) (x : Ctx) : (s.setCtx c x).eng = s.eng := rfl
@[simp] theorem State.setCtx_cp (s : State) (c : Nat) (x : Ctx) : (s.setCtx c x).cp = s.cp := rfl
@[simp] theorem State.setCtx_net (s : State) (c : Nat) (x : Ctx) : (s.setCtx c x).net = s.net := rfl
@[simp] theorem State.setCtx_host (s : State) (c : Nat) (x : Ctx) : (s.setCtx c x).host = s.host := rfl
@[simp] theorem State.setCtx_root (s : State) (c : Nat) (x : Ctx) : (s.setCtx c x).root = s.root := rfl
@[simp] theorem State.setCtx_pend (s : State) (c : Nat) (x : Ctx) : (s.setCtx c x).pend = s.pend := rfl
@[simp] theorem State.setCtx_held (s : State) (c : Nat) (x : Ctx) : (s.setCtx c x).held = s.held := rfl
@[simp] theorem State.setCtx_soft (s : State) (c : Nat) (x : Ctx) : (s.setCtx c x).soft = s.soft := rfl
@[simp] theorem State.setCtx_cur (s : State) (c : Nat) (x : Ctx) : (s.setCtx c x).cur = s.cur := rfl
@[simp] theorem State.setCtx_sched (s : State) (c : Nat) (x : Ctx) : (s.setCtx c x).sched = s.sched := rfl
@[simp] theorem State.setCtx_choices (s : State) (c : Nat) (x : Ctx) : (s.setCtx c x).choices = s.choices := rfl
@[simp] theorem State.setCtx_free (s : State) (c : Nat) (x : Ctx) : (s.setCtx c x).free = s.free := rfl
@[simp] theorem State.setCtx_nextId (s : State) (c : Nat) (x : Ctx) : (s.setCtx c x).nextId = s.nextId := rfl
@[simp] theorem State.setCtx_arr (s : State) (c : Nat) (x : Ctx) : (s.setCtx c x).arr = s.arr := rfl
@[simp] theorem State.setCtx_relay (s : State) (c : Nat) (x : Ctx) : (s.setCtx c x).relay = s.relay := rfl
@[simp] theorem State.setCtx_engine (s : State) (c : Nat) (x : Ctx) (a : Nat) : (s.setCtx c x).engine a = s.engine a := rfl
@[simp] theorem State.setCtx_die (s : State) (c : Nat) (x : Ctx) (a : Nat) : (s.setCtx c x).die a = s.die a := rfl
@[simp] theorem State.setCtx_core (s : State) (c : Nat) (x : Ctx) (a : Nat) : (s.setCtx c x).core a = s.core a := rfl
@[simp] theorem State.setCtx_units (s : State) (c : Nat) (x : Ctx) (a : Nat) : (s.setCtx c x).units a = s.units a := rfl
@[simp] theorem State.setCtx_kernel (s : State) (c : Nat) (x : Ctx) (a : Nat) : (s.setCtx c x).kernel a = s.kernel a := rfl
@[simp] theorem State.setCtx_queue (s : State) (c : Nat) (x : Ctx) (a : Nat) : (s.setCtx c x).queue a = s.queue a := rfl
@[simp] theorem State.setCtx_prog (s : State) (c : Nat) (x : Ctx) (a b : Nat) : (s.setCtx c x).prog a b = s.prog a b := rfl
@[simp] theorem State.setCtx_active (s : State) (c : Nat) (x : Ctx) (a b : Nat) : (s.setCtx c x).active a b = s.active a b := rfl
@[simp] theorem State.setCtx_tick (s : State) (c : Nat) (x : Ctx)  : (s.setCtx c x).tick = s.tick := rfl
@[simp] theorem State.setCtx_rdByte (s : State) (c : Nat) (x : Ctx) (a : Nat) : (s.setCtx c x).rdByte a = s.rdByte a := rfl
@[simp] theorem State.setCtx_rdBytes (s : State) (c : Nat) (x : Ctx) (a b : Nat) : (s.setCtx c x).rdBytes a b = s.rdBytes a b := rfl

/-! ### setCore -/

@[simp] theorem State.setCore_mem (s : State) (d : Nat) (x : CoreState) : (s.setCore d x).mem = s.mem := rfl
@[simp] theorem State.setCore_ecc (s : State) (d : Nat) (x : CoreState) : (s.setCore d x).ecc = s.ecc := rfl
@[simp] theorem State.setCore_clock (s : State) (d : Nat) (x : CoreState) : (s.setCore d x).clock = s.clock := rfl
@[simp] theorem State.setCore_eng (s : State) (d : Nat) (x : CoreState) : (s.setCore d x).eng = s.eng := rfl
@[simp] theorem State.setCore_ctxs (s : State) (d : Nat) (x : CoreState) : (s.setCore d x).ctxs = s.ctxs := rfl
@[simp] theorem State.setCore_cp (s : State) (d : Nat) (x : CoreState) : (s.setCore d x).cp = s.cp := rfl
@[simp] theorem State.setCore_net (s : State) (d : Nat) (x : CoreState) : (s.setCore d x).net = s.net := rfl
@[simp] theorem State.setCore_host (s : State) (d : Nat) (x : CoreState) : (s.setCore d x).host = s.host := rfl
@[simp] theorem State.setCore_root (s : State) (d : Nat) (x : CoreState) : (s.setCore d x).root = s.root := rfl
@[simp] theorem State.setCore_pend (s : State) (d : Nat) (x : CoreState) : (s.setCore d x).pend = s.pend := rfl
@[simp] theorem State.setCore_held (s : State) (d : Nat) (x : CoreState) : (s.setCore d x).held = s.held := rfl
@[simp] theorem State.setCore_soft (s : State) (d : Nat) (x : CoreState) : (s.setCore d x).soft = s.soft := rfl
@[simp] theorem State.setCore_cur (s : State) (d : Nat) (x : CoreState) : (s.setCore d x).cur = s.cur := rfl
@[simp] theorem State.setCore_sched (s : State) (d : Nat) (x : CoreState) : (s.setCore d x).sched = s.sched := rfl
@[simp] theorem State.setCore_choices (s : State) (d : Nat) (x : CoreState) : (s.setCore d x).choices = s.choices := rfl
@[simp] theorem State.setCore_free (s : State) (d : Nat) (x : CoreState) : (s.setCore d x).free = s.free := rfl
@[simp] theorem State.setCore_nextId (s : State) (d : Nat) (x : CoreState) : (s.setCore d x).nextId = s.nextId := rfl
@[simp] theorem State.setCore_arr (s : State) (d : Nat) (x : CoreState) : (s.setCore d x).arr = s.arr := rfl
@[simp] theorem State.setCore_relay (s : State) (d : Nat) (x : CoreState) : (s.setCore d x).relay = s.relay := rfl
@[simp] theorem State.setCore_engine (s : State) (d : Nat) (x : CoreState) (a : Nat) : (s.setCore d x).engine a = s.engine a := rfl
@[simp] theorem State.setCore_ctx (s : State) (d : Nat) (x : CoreState) (a : Nat) : (s.setCore d x).ctx a = s.ctx a := rfl
@[simp] theorem State.setCore_kernel (s : State) (d : Nat) (x : CoreState) (a : Nat) : (s.setCore d x).kernel a = s.kernel a := rfl
@[simp] theorem State.setCore_queue (s : State) (d : Nat) (x : CoreState) (a : Nat) : (s.setCore d x).queue a = s.queue a := rfl
@[simp] theorem State.setCore_pgt (s : State) (d : Nat) (x : CoreState) (a b : Nat) : (s.setCore d x).pgt a b = s.pgt a b := rfl
@[simp] theorem State.setCore_active (s : State) (d : Nat) (x : CoreState) (a b : Nat) : (s.setCore d x).active a b = s.active a b := rfl
@[simp] theorem State.setCore_tick (s : State) (d : Nat) (x : CoreState)  : (s.setCore d x).tick = s.tick := rfl
@[simp] theorem State.setCore_rdByte (s : State) (d : Nat) (x : CoreState) (a : Nat) : (s.setCore d x).rdByte a = s.rdByte a := rfl
@[simp] theorem State.setCore_rdBytes (s : State) (d : Nat) (x : CoreState) (a b : Nat) : (s.setCore d x).rdBytes a b = s.rdBytes a b := rfl

/-! ### setUnits -/

@[simp] theorem State.setUnits_mem (s : State) (d : Nat) (x : DieUnits) : (s.setUnits d x).mem = s.mem := rfl
@[simp] theorem State.setUnits_ecc (s : State) (d : Nat) (x : DieUnits) : (s.setUnits d x).ecc = s.ecc := rfl
@[simp] theorem State.setUnits_clock (s : State) (d : Nat) (x : DieUnits) : (s.setUnits d x).clock = s.clock := rfl
@[simp] theorem State.setUnits_eng (s : State) (d : Nat) (x : DieUnits) : (s.setUnits d x).eng = s.eng := rfl
@[simp] theorem State.setUnits_ctxs (s : State) (d : Nat) (x : DieUnits) : (s.setUnits d x).ctxs = s.ctxs := rfl
@[simp] theorem State.setUnits_cp (s : State) (d : Nat) (x : DieUnits) : (s.setUnits d x).cp = s.cp := rfl
@[simp] theorem State.setUnits_net (s : State) (d : Nat) (x : DieUnits) : (s.setUnits d x).net = s.net := rfl
@[simp] theorem State.setUnits_host (s : State) (d : Nat) (x : DieUnits) : (s.setUnits d x).host = s.host := rfl
@[simp] theorem State.setUnits_root (s : State) (d : Nat) (x : DieUnits) : (s.setUnits d x).root = s.root := rfl
@[simp] theorem State.setUnits_pend (s : State) (d : Nat) (x : DieUnits) : (s.setUnits d x).pend = s.pend := rfl
@[simp] theorem State.setUnits_held (s : State) (d : Nat) (x : DieUnits) : (s.setUnits d x).held = s.held := rfl
@[simp] theorem State.setUnits_soft (s : State) (d : Nat) (x : DieUnits) : (s.setUnits d x).soft = s.soft := rfl
@[simp] theorem State.setUnits_cur (s : State) (d : Nat) (x : DieUnits) : (s.setUnits d x).cur = s.cur := rfl
@[simp] theorem State.setUnits_sched (s : State) (d : Nat) (x : DieUnits) : (s.setUnits d x).sched = s.sched := rfl
@[simp] theorem State.setUnits_choices (s : State) (d : Nat) (x : DieUnits) : (s.setUnits d x).choices = s.choices := rfl
@[simp] theorem State.setUnits_free (s : State) (d : Nat) (x : DieUnits) : (s.setUnits d x).free = s.free := rfl
@[simp] theorem State.setUnits_nextId (s : State) (d : Nat) (x : DieUnits) : (s.setUnits d x).nextId = s.nextId := rfl
@[simp] theorem State.setUnits_arr (s : State) (d : Nat) (x : DieUnits) : (s.setUnits d x).arr = s.arr := rfl
@[simp] theorem State.setUnits_relay (s : State) (d : Nat) (x : DieUnits) : (s.setUnits d x).relay = s.relay := rfl
@[simp] theorem State.setUnits_engine (s : State) (d : Nat) (x : DieUnits) (a : Nat) : (s.setUnits d x).engine a = s.engine a := rfl
@[simp] theorem State.setUnits_ctx (s : State) (d : Nat) (x : DieUnits) (a : Nat) : (s.setUnits d x).ctx a = s.ctx a := rfl
@[simp] theorem State.setUnits_kernel (s : State) (d : Nat) (x : DieUnits) (a : Nat) : (s.setUnits d x).kernel a = s.kernel a := rfl
@[simp] theorem State.setUnits_queue (s : State) (d : Nat) (x : DieUnits) (a : Nat) : (s.setUnits d x).queue a = s.queue a := rfl
@[simp] theorem State.setUnits_pgt (s : State) (d : Nat) (x : DieUnits) (a b : Nat) : (s.setUnits d x).pgt a b = s.pgt a b := rfl
@[simp] theorem State.setUnits_active (s : State) (d : Nat) (x : DieUnits) (a b : Nat) : (s.setUnits d x).active a b = s.active a b := rfl
@[simp] theorem State.setUnits_tick (s : State) (d : Nat) (x : DieUnits)  : (s.setUnits d x).tick = s.tick := rfl
@[simp] theorem State.setUnits_rdByte (s : State) (d : Nat) (x : DieUnits) (a : Nat) : (s.setUnits d x).rdByte a = s.rdByte a := rfl
@[simp] theorem State.setUnits_rdBytes (s : State) (d : Nat) (x : DieUnits) (a b : Nat) : (s.setUnits d x).rdBytes a b = s.rdBytes a b := rfl

/-! ### setKernel -/

@[simp] theorem State.setKernel_mem (s : State) (k : Nat) (x : Kernel) : (s.setKernel k x).mem = s.mem := rfl
@[simp] theorem State.setKernel_ecc (s : State) (k : Nat) (x : Kernel) : (s.setKernel k x).ecc = s.ecc := rfl
@[simp] theorem State.setKernel_clock (s : State) (k : Nat) (x : Kernel) : (s.setKernel k x).clock = s.clock := rfl
@[simp] theorem State.setKernel_dies (s : State) (k : Nat) (x : Kernel) : (s.setKernel k x).dies = s.dies := rfl
@[simp] theorem State.setKernel_eng (s : State) (k : Nat) (x : Kernel) : (s.setKernel k x).eng = s.eng := rfl
@[simp] theorem State.setKernel_ctxs (s : State) (k : Nat) (x : Kernel) : (s.setKernel k x).ctxs = s.ctxs := rfl
@[simp] theorem State.setKernel_net (s : State) (k : Nat) (x : Kernel) : (s.setKernel k x).net = s.net := rfl
@[simp] theorem State.setKernel_host (s : State) (k : Nat) (x : Kernel) : (s.setKernel k x).host = s.host := rfl
@[simp] theorem State.setKernel_root (s : State) (k : Nat) (x : Kernel) : (s.setKernel k x).root = s.root := rfl
@[simp] theorem State.setKernel_pend (s : State) (k : Nat) (x : Kernel) : (s.setKernel k x).pend = s.pend := rfl
@[simp] theorem State.setKernel_held (s : State) (k : Nat) (x : Kernel) : (s.setKernel k x).held = s.held := rfl
@[simp] theorem State.setKernel_soft (s : State) (k : Nat) (x : Kernel) : (s.setKernel k x).soft = s.soft := rfl
@[simp] theorem State.setKernel_cur (s : State) (k : Nat) (x : Kernel) : (s.setKernel k x).cur = s.cur := rfl
@[simp] theorem State.setKernel_sched (s : State) (k : Nat) (x : Kernel) : (s.setKernel k x).sched = s.sched := rfl
@[simp] theorem State.setKernel_choices (s : State) (k : Nat) (x : Kernel) : (s.setKernel k x).choices = s.choices := rfl
@[simp] theorem State.setKernel_free (s : State) (k : Nat) (x : Kernel) : (s.setKernel k x).free = s.free := rfl
@[simp] theorem State.setKernel_nextId (s : State) (k : Nat) (x : Kernel) : (s.setKernel k x).nextId = s.nextId := rfl
@[simp] theorem State.setKernel_arr (s : State) (k : Nat) (x : Kernel) : (s.setKernel k x).arr = s.arr := rfl
@[simp] theorem State.setKernel_relay (s : State) (k : Nat) (x : Kernel) : (s.setKernel k x).relay = s.relay := rfl
@[simp] theorem State.setKernel_engine (s : State) (k : Nat) (x : Kernel) (a : Nat) : (s.setKernel k x).engine a = s.engine a := rfl
@[simp] theorem State.setKernel_die (s : State) (k : Nat) (x : Kernel) (a : Nat) : (s.setKernel k x).die a = s.die a := rfl
@[simp] theorem State.setKernel_ctx (s : State) (k : Nat) (x : Kernel) (a : Nat) : (s.setKernel k x).ctx a = s.ctx a := rfl
@[simp] theorem State.setKernel_core (s : State) (k : Nat) (x : Kernel) (a : Nat) : (s.setKernel k x).core a = s.core a := rfl
@[simp] theorem State.setKernel_units (s : State) (k : Nat) (x : Kernel) (a : Nat) : (s.setKernel k x).units a = s.units a := rfl
@[simp] theorem State.setKernel_pgt (s : State) (k : Nat) (x : Kernel) (a b : Nat) : (s.setKernel k x).pgt a b = s.pgt a b := rfl
@[simp] theorem State.setKernel_prog (s : State) (k : Nat) (x : Kernel) (a b : Nat) : (s.setKernel k x).prog a b = s.prog a b := rfl
@[simp] theorem State.setKernel_active (s : State) (k : Nat) (x : Kernel) (a b : Nat) : (s.setKernel k x).active a b = s.active a b := rfl
@[simp] theorem State.setKernel_tick (s : State) (k : Nat) (x : Kernel)  : (s.setKernel k x).tick = s.tick := rfl
@[simp] theorem State.setKernel_rdByte (s : State) (k : Nat) (x : Kernel) (a : Nat) : (s.setKernel k x).rdByte a = s.rdByte a := rfl
@[simp] theorem State.setKernel_rdBytes (s : State) (k : Nat) (x : Kernel) (a b : Nat) : (s.setKernel k x).rdBytes a b = s.rdBytes a b := rfl

/-! ### setQueue -/

@[simp] theorem State.setQueue_mem (s : State) (q : Nat) (x : Queue) : (s.setQueue q x).mem = s.mem := rfl
@[simp] theorem State.setQueue_ecc (s : State) (q : Nat) (x : Queue) : (s.setQueue q x).ecc = s.ecc := rfl
@[simp] theorem State.setQueue_clock (s : State) (q : Nat) (x : Queue) : (s.setQueue q x).clock = s.clock := rfl
@[simp] theorem State.setQueue_dies (s : State) (q : Nat) (x : Queue) : (s.setQueue q x).dies = s.dies := rfl
@[simp] theorem State.setQueue_eng (s : State) (q : Nat) (x : Queue) : (s.setQueue q x).eng = s.eng := rfl
@[simp] theorem State.setQueue_ctxs (s : State) (q : Nat) (x : Queue) : (s.setQueue q x).ctxs = s.ctxs := rfl
@[simp] theorem State.setQueue_net (s : State) (q : Nat) (x : Queue) : (s.setQueue q x).net = s.net := rfl
@[simp] theorem State.setQueue_host (s : State) (q : Nat) (x : Queue) : (s.setQueue q x).host = s.host := rfl
@[simp] theorem State.setQueue_root (s : State) (q : Nat) (x : Queue) : (s.setQueue q x).root = s.root := rfl
@[simp] theorem State.setQueue_pend (s : State) (q : Nat) (x : Queue) : (s.setQueue q x).pend = s.pend := rfl
@[simp] theorem State.setQueue_held (s : State) (q : Nat) (x : Queue) : (s.setQueue q x).held = s.held := rfl
@[simp] theorem State.setQueue_soft (s : State) (q : Nat) (x : Queue) : (s.setQueue q x).soft = s.soft := rfl
@[simp] theorem State.setQueue_cur (s : State) (q : Nat) (x : Queue) : (s.setQueue q x).cur = s.cur := rfl
@[simp] theorem State.setQueue_sched (s : State) (q : Nat) (x : Queue) : (s.setQueue q x).sched = s.sched := rfl
@[simp] theorem State.setQueue_choices (s : State) (q : Nat) (x : Queue) : (s.setQueue q x).choices = s.choices := rfl
@[simp] theorem State.setQueue_free (s : State) (q : Nat) (x : Queue) : (s.setQueue q x).free = s.free := rfl
@[simp] theorem State.setQueue_nextId (s : State) (q : Nat) (x : Queue) : (s.setQueue q x).nextId = s.nextId := rfl
@[simp] theorem State.setQueue_arr (s : State) (q : Nat) (x : Queue) : (s.setQueue q x).arr = s.arr := rfl
@[simp] theorem State.setQueue_relay (s : State) (q : Nat) (x : Queue) : (s.setQueue q x).relay = s.relay := rfl
@[simp] theorem State.setQueue_engine (s : State) (q : Nat) (x : Queue) (a : Nat) : (s.setQueue q x).engine a = s.engine a := rfl
@[simp] theorem State.setQueue_die (s : State) (q : Nat) (x : Queue) (a : Nat) : (s.setQueue q x).die a = s.die a := rfl
@[simp] theorem State.setQueue_ctx (s : State) (q : Nat) (x : Queue) (a : Nat) : (s.setQueue q x).ctx a = s.ctx a := rfl
@[simp] theorem State.setQueue_core (s : State) (q : Nat) (x : Queue) (a : Nat) : (s.setQueue q x).core a = s.core a := rfl
@[simp] theorem State.setQueue_units (s : State) (q : Nat) (x : Queue) (a : Nat) : (s.setQueue q x).units a = s.units a := rfl
@[simp] theorem State.setQueue_pgt (s : State) (q : Nat) (x : Queue) (a b : Nat) : (s.setQueue q x).pgt a b = s.pgt a b := rfl
@[simp] theorem State.setQueue_prog (s : State) (q : Nat) (x : Queue) (a b : Nat) : (s.setQueue q x).prog a b = s.prog a b := rfl
@[simp] theorem State.setQueue_active (s : State) (q : Nat) (x : Queue) (a b : Nat) : (s.setQueue q x).active a b = s.active a b := rfl
@[simp] theorem State.setQueue_tick (s : State) (q : Nat) (x : Queue)  : (s.setQueue q x).tick = s.tick := rfl
@[simp] theorem State.setQueue_rdByte (s : State) (q : Nat) (x : Queue) (a : Nat) : (s.setQueue q x).rdByte a = s.rdByte a := rfl
@[simp] theorem State.setQueue_rdBytes (s : State) (q : Nat) (x : Queue) (a b : Nat) : (s.setQueue q x).rdBytes a b = s.rdBytes a b := rfl

/-! ### setPgt -/

@[simp] theorem State.setPgt_mem (s : State) (c t : Nat) (x : Pgt) : (s.setPgt c t x).mem = s.mem := rfl
@[simp] theorem State.setPgt_ecc (s : State) (c t : Nat) (x : Pgt) : (s.setPgt c t x).ecc = s.ecc := rfl
@[simp] theorem State.setPgt_clock (s : State) (c t : Nat) (x : Pgt) : (s.setPgt c t x).clock = s.clock := rfl
@[simp] theorem State.setPgt_dies (s : State) (c t : Nat) (x : Pgt) : (s.setPgt c t x).dies = s.dies := rfl
@[simp] theorem State.setPgt_eng (s : State) (c t : Nat) (x : Pgt) : (s.setPgt c t x).eng = s.eng := rfl
@[simp] theorem State.setPgt_cp (s : State) (c t : Nat) (x : Pgt) : (s.setPgt c t x).cp = s.cp := rfl
@[simp] theorem State.setPgt_net (s : State) (c t : Nat) (x : Pgt) : (s.setPgt c t x).net = s.net := rfl
@[simp] theorem State.setPgt_host (s : State) (c t : Nat) (x : Pgt) : (s.setPgt c t x).host = s.host := rfl
@[simp] theorem State.setPgt_root (s : State) (c t : Nat) (x : Pgt) : (s.setPgt c t x).root = s.root := rfl
@[simp] theorem State.setPgt_pend (s : State) (c t : Nat) (x : Pgt) : (s.setPgt c t x).pend = s.pend := rfl
@[simp] theorem State.setPgt_held (s : State) (c t : Nat) (x : Pgt) : (s.setPgt c t x).held = s.held := rfl
@[simp] theorem State.setPgt_soft (s : State) (c t : Nat) (x : Pgt) : (s.setPgt c t x).soft = s.soft := rfl
@[simp] theorem State.setPgt_cur (s : State) (c t : Nat) (x : Pgt) : (s.setPgt c t x).cur = s.cur := rfl
@[simp] theorem State.setPgt_sched (s : State) (c t : Nat) (x : Pgt) : (s.setPgt c t x).sched = s.sched := rfl
@[simp] theorem State.setPgt_choices (s : State) (c t : Nat) (x : Pgt) : (s.setPgt c t x).choices = s.choices := rfl
@[simp] theorem State.setPgt_free (s : State) (c t : Nat) (x : Pgt) : (s.setPgt c t x).free = s.free := rfl
@[simp] theorem State.setPgt_nextId (s : State) (c t : Nat) (x : Pgt) : (s.setPgt c t x).nextId = s.nextId := rfl
@[simp] theorem State.setPgt_arr (s : State) (c t : Nat) (x : Pgt) : (s.setPgt c t x).arr = s.arr := rfl
@[simp] theorem State.setPgt_relay (s : State) (c t : Nat) (x : Pgt) : (s.setPgt c t x).relay = s.relay := rfl
@[simp] theorem State.setPgt_engine (s : State) (c t : Nat) (x : Pgt) (a : Nat) : (s.setPgt c t x).engine a = s.engine a := rfl
@[simp] theorem State.setPgt_die (s : State) (c t : Nat) (x : Pgt) (a : Nat) : (s.setPgt c t x).die a = s.die a := rfl
@[simp] theorem State.setPgt_core (s : State) (c t : Nat) (x : Pgt) (a : Nat) : (s.setPgt c t x).core a = s.core a := rfl
@[simp] theorem State.setPgt_units (s : State) (c t : Nat) (x : Pgt) (a : Nat) : (s.setPgt c t x).units a = s.units a := rfl
@[simp] theorem State.setPgt_kernel (s : State) (c t : Nat) (x : Pgt) (a : Nat) : (s.setPgt c t x).kernel a = s.kernel a := rfl
@[simp] theorem State.setPgt_queue (s : State) (c t : Nat) (x : Pgt) (a : Nat) : (s.setPgt c t x).queue a = s.queue a := rfl
@[simp] theorem State.setPgt_prog (s : State) (c t : Nat) (x : Pgt) (a b : Nat) : (s.setPgt c t x).prog a b = s.prog a b := rfl
@[simp] theorem State.setPgt_active (s : State) (c t : Nat) (x : Pgt) (a b : Nat) : (s.setPgt c t x).active a b = s.active a b := rfl
@[simp] theorem State.setPgt_tick (s : State) (c t : Nat) (x : Pgt)  : (s.setPgt c t x).tick = s.tick := rfl
@[simp] theorem State.setPgt_rdByte (s : State) (c t : Nat) (x : Pgt) (a : Nat) : (s.setPgt c t x).rdByte a = s.rdByte a := rfl
@[simp] theorem State.setPgt_rdBytes (s : State) (c t : Nat) (x : Pgt) (a b : Nat) : (s.setPgt c t x).rdBytes a b = s.rdBytes a b := rfl

/-! ### setGroup -/

@[simp] theorem State.setGroup_mem (s : State) (d g : Nat) (x : Group) : (s.setGroup d g x).mem = s.mem := rfl
@[simp] theorem State.setGroup_ecc (s : State) (d g : Nat) (x : Group) : (s.setGroup d g x).ecc = s.ecc := rfl
@[simp] theorem State.setGroup_clock (s : State) (d g : Nat) (x : Group) : (s.setGroup d g x).clock = s.clock := rfl
@[simp] theorem State.setGroup_eng (s : State) (d g : Nat) (x : Group) : (s.setGroup d g x).eng = s.eng := rfl
@[simp] theorem State.setGroup_ctxs (s : State) (d g : Nat) (x : Group) : (s.setGroup d g x).ctxs = s.ctxs := rfl
@[simp] theorem State.setGroup_cp (s : State) (d g : Nat) (x : Group) : (s.setGroup d g x).cp = s.cp := rfl
@[simp] theorem State.setGroup_net (s : State) (d g : Nat) (x : Group) : (s.setGroup d g x).net = s.net := rfl
@[simp] theorem State.setGroup_host (s : State) (d g : Nat) (x : Group) : (s.setGroup d g x).host = s.host := rfl
@[simp] theorem State.setGroup_root (s : State) (d g : Nat) (x : Group) : (s.setGroup d g x).root = s.root := rfl
@[simp] theorem State.setGroup_pend (s : State) (d g : Nat) (x : Group) : (s.setGroup d g x).pend = s.pend := rfl
@[simp] theorem State.setGroup_held (s : State) (d g : Nat) (x : Group) : (s.setGroup d g x).held = s.held := rfl
@[simp] theorem State.setGroup_soft (s : State) (d g : Nat) (x : Group) : (s.setGroup d g x).soft = s.soft := rfl
@[simp] theorem State.setGroup_cur (s : State) (d g : Nat) (x : Group) : (s.setGroup d g x).cur = s.cur := rfl
@[simp] theorem State.setGroup_sched (s : State) (d g : Nat) (x : Group) : (s.setGroup d g x).sched = s.sched := rfl
@[simp] theorem State.setGroup_choices (s : State) (d g : Nat) (x : Group) : (s.setGroup d g x).choices = s.choices := rfl
@[simp] theorem State.setGroup_free (s : State) (d g : Nat) (x : Group) : (s.setGroup d g x).free = s.free := rfl
@[simp] theorem State.setGroup_nextId (s : State) (d g : Nat) (x : Group) : (s.setGroup d g x).nextId = s.nextId := rfl
@[simp] theorem State.setGroup_arr (s : State) (d g : Nat) (x : Group) : (s.setGroup d g x).arr = s.arr := rfl
@[simp] theorem State.setGroup_relay (s : State) (d g : Nat) (x : Group) : (s.setGroup d g x).relay = s.relay := rfl
@[simp] theorem State.setGroup_engine (s : State) (d g : Nat) (x : Group) (a : Nat) : (s.setGroup d g x).engine a = s.engine a := rfl
@[simp] theorem State.setGroup_ctx (s : State) (d g : Nat) (x : Group) (a : Nat) : (s.setGroup d g x).ctx a = s.ctx a := rfl
@[simp] theorem State.setGroup_kernel (s : State) (d g : Nat) (x : Group) (a : Nat) : (s.setGroup d g x).kernel a = s.kernel a := rfl
@[simp] theorem State.setGroup_queue (s : State) (d g : Nat) (x : Group) (a : Nat) : (s.setGroup d g x).queue a = s.queue a := rfl
@[simp] theorem State.setGroup_pgt (s : State) (d g : Nat) (x : Group) (a b : Nat) : (s.setGroup d g x).pgt a b = s.pgt a b := rfl
@[simp] theorem State.setGroup_active (s : State) (d g : Nat) (x : Group) (a b : Nat) : (s.setGroup d g x).active a b = s.active a b := rfl
@[simp] theorem State.setGroup_tick (s : State) (d g : Nat) (x : Group)  : (s.setGroup d g x).tick = s.tick := rfl
@[simp] theorem State.setGroup_rdByte (s : State) (d g : Nat) (x : Group) (a : Nat) : (s.setGroup d g x).rdByte a = s.rdByte a := rfl
@[simp] theorem State.setGroup_rdBytes (s : State) (d g : Nat) (x : Group) (a b : Nat) : (s.setGroup d g x).rdBytes a b = s.rdBytes a b := rfl

/-! ### setPool -/

@[simp] theorem State.setPool_mem (s : State) (d : Nat) (x : Pool) : (s.setPool d x).mem = s.mem := rfl
@[simp] theorem State.setPool_ecc (s : State) (d : Nat) (x : Pool) : (s.setPool d x).ecc = s.ecc := rfl
@[simp] theorem State.setPool_clock (s : State) (d : Nat) (x : Pool) : (s.setPool d x).clock = s.clock := rfl
@[simp] theorem State.setPool_eng (s : State) (d : Nat) (x : Pool) : (s.setPool d x).eng = s.eng := rfl
@[simp] theorem State.setPool_ctxs (s : State) (d : Nat) (x : Pool) : (s.setPool d x).ctxs = s.ctxs := rfl
@[simp] theorem State.setPool_cp (s : State) (d : Nat) (x : Pool) : (s.setPool d x).cp = s.cp := rfl
@[simp] theorem State.setPool_net (s : State) (d : Nat) (x : Pool) : (s.setPool d x).net = s.net := rfl
@[simp] theorem State.setPool_host (s : State) (d : Nat) (x : Pool) : (s.setPool d x).host = s.host := rfl
@[simp] theorem State.setPool_root (s : State) (d : Nat) (x : Pool) : (s.setPool d x).root = s.root := rfl
@[simp] theorem State.setPool_pend (s : State) (d : Nat) (x : Pool) : (s.setPool d x).pend = s.pend := rfl
@[simp] theorem State.setPool_held (s : State) (d : Nat) (x : Pool) : (s.setPool d x).held = s.held := rfl
@[simp] theorem State.setPool_soft (s : State) (d : Nat) (x : Pool) : (s.setPool d x).soft = s.soft := rfl
@[simp] theorem State.setPool_cur (s : State) (d : Nat) (x : Pool) : (s.setPool d x).cur = s.cur := rfl
@[simp] theorem State.setPool_sched (s : State) (d : Nat) (x : Pool) : (s.setPool d x).sched = s.sched := rfl
@[simp] theorem State.setPool_choices (s : State) (d : Nat) (x : Pool) : (s.setPool d x).choices = s.choices := rfl
@[simp] theorem State.setPool_free (s : State) (d : Nat) (x : Pool) : (s.setPool d x).free = s.free := rfl
@[simp] theorem State.setPool_nextId (s : State) (d : Nat) (x : Pool) : (s.setPool d x).nextId = s.nextId := rfl
@[simp] theorem State.setPool_arr (s : State) (d : Nat) (x : Pool) : (s.setPool d x).arr = s.arr := rfl
@[simp] theorem State.setPool_relay (s : State) (d : Nat) (x : Pool) : (s.setPool d x).relay = s.relay := rfl
@[simp] theorem State.setPool_engine (s : State) (d : Nat) (x : Pool) (a : Nat) : (s.setPool d x).engine a = s.engine a := rfl
@[simp] theorem State.setPool_ctx (s : State) (d : Nat) (x : Pool) (a : Nat) : (s.setPool d x).ctx a = s.ctx a := rfl
@[simp] theorem State.setPool_kernel (s : State) (d : Nat) (x : Pool) (a : Nat) : (s.setPool d x).kernel a = s.kernel a := rfl
@[simp] theorem State.setPool_queue (s : State) (d : Nat) (x : Pool) (a : Nat) : (s.setPool d x).queue a = s.queue a := rfl
@[simp] theorem State.setPool_pgt (s : State) (d : Nat) (x : Pool) (a b : Nat) : (s.setPool d x).pgt a b = s.pgt a b := rfl
@[simp] theorem State.setPool_active (s : State) (d : Nat) (x : Pool) (a b : Nat) : (s.setPool d x).active a b = s.active a b := rfl
@[simp] theorem State.setPool_tick (s : State) (d : Nat) (x : Pool)  : (s.setPool d x).tick = s.tick := rfl
@[simp] theorem State.setPool_rdByte (s : State) (d : Nat) (x : Pool) (a : Nat) : (s.setPool d x).rdByte a = s.rdByte a := rfl
@[simp] theorem State.setPool_rdBytes (s : State) (d : Nat) (x : Pool) (a b : Nat) : (s.setPool d x).rdBytes a b = s.rdBytes a b := rfl

/-! ### setReckoner -/

@[simp] theorem State.setReckoner_mem (s : State) (d : Nat) (x : Reckoner) : (s.setReckoner d x).mem = s.mem := rfl
@[simp] theorem State.setReckoner_ecc (s : State) (d : Nat) (x : Reckoner) : (s.setReckoner d x).ecc = s.ecc := rfl
@[simp] theorem State.setReckoner_clock (s : State) (d : Nat) (x : Reckoner) : (s.setReckoner d x).clock = s.clock := rfl
@[simp] theorem State.setReckoner_eng (s : State) (d : Nat) (x : Reckoner) : (s.setReckoner d x).eng = s.eng := rfl
@[simp] theorem State.setReckoner_ctxs (s : State) (d : Nat) (x : Reckoner) : (s.setReckoner d x).ctxs = s.ctxs := rfl
@[simp] theorem State.setReckoner_cp (s : State) (d : Nat) (x : Reckoner) : (s.setReckoner d x).cp = s.cp := rfl
@[simp] theorem State.setReckoner_net (s : State) (d : Nat) (x : Reckoner) : (s.setReckoner d x).net = s.net := rfl
@[simp] theorem State.setReckoner_host (s : State) (d : Nat) (x : Reckoner) : (s.setReckoner d x).host = s.host := rfl
@[simp] theorem State.setReckoner_root (s : State) (d : Nat) (x : Reckoner) : (s.setReckoner d x).root = s.root := rfl
@[simp] theorem State.setReckoner_pend (s : State) (d : Nat) (x : Reckoner) : (s.setReckoner d x).pend = s.pend := rfl
@[simp] theorem State.setReckoner_held (s : State) (d : Nat) (x : Reckoner) : (s.setReckoner d x).held = s.held := rfl
@[simp] theorem State.setReckoner_soft (s : State) (d : Nat) (x : Reckoner) : (s.setReckoner d x).soft = s.soft := rfl
@[simp] theorem State.setReckoner_cur (s : State) (d : Nat) (x : Reckoner) : (s.setReckoner d x).cur = s.cur := rfl
@[simp] theorem State.setReckoner_sched (s : State) (d : Nat) (x : Reckoner) : (s.setReckoner d x).sched = s.sched := rfl
@[simp] theorem State.setReckoner_choices (s : State) (d : Nat) (x : Reckoner) : (s.setReckoner d x).choices = s.choices := rfl
@[simp] theorem State.setReckoner_free (s : State) (d : Nat) (x : Reckoner) : (s.setReckoner d x).free = s.free := rfl
@[simp] theorem State.setReckoner_nextId (s : State) (d : Nat) (x : Reckoner) : (s.setReckoner d x).nextId = s.nextId := rfl
@[simp] theorem State.setReckoner_arr (s : State) (d : Nat) (x : Reckoner) : (s.setReckoner d x).arr = s.arr := rfl
@[simp] theorem State.setReckoner_relay (s : State) (d : Nat) (x : Reckoner) : (s.setReckoner d x).relay = s.relay := rfl
@[simp] theorem State.setReckoner_engine (s : State) (d : Nat) (x : Reckoner) (a : Nat) : (s.setReckoner d x).engine a = s.engine a := rfl
@[simp] theorem State.setReckoner_ctx (s : State) (d : Nat) (x : Reckoner) (a : Nat) : (s.setReckoner d x).ctx a = s.ctx a := rfl
@[simp] theorem State.setReckoner_kernel (s : State) (d : Nat) (x : Reckoner) (a : Nat) : (s.setReckoner d x).kernel a = s.kernel a := rfl
@[simp] theorem State.setReckoner_queue (s : State) (d : Nat) (x : Reckoner) (a : Nat) : (s.setReckoner d x).queue a = s.queue a := rfl
@[simp] theorem State.setReckoner_pgt (s : State) (d : Nat) (x : Reckoner) (a b : Nat) : (s.setReckoner d x).pgt a b = s.pgt a b := rfl
@[simp] theorem State.setReckoner_active (s : State) (d : Nat) (x : Reckoner) (a b : Nat) : (s.setReckoner d x).active a b = s.active a b := rfl
@[simp] theorem State.setReckoner_tick (s : State) (d : Nat) (x : Reckoner)  : (s.setReckoner d x).tick = s.tick := rfl
@[simp] theorem State.setReckoner_rdByte (s : State) (d : Nat) (x : Reckoner) (a : Nat) : (s.setReckoner d x).rdByte a = s.rdByte a := rfl
@[simp] theorem State.setReckoner_rdBytes (s : State) (d : Nat) (x : Reckoner) (a b : Nat) : (s.setReckoner d x).rdBytes a b = s.rdBytes a b := rfl

/-! ### setProg -/

@[simp] theorem State.setProg_mem (s : State) (d k : Nat) (x : Option CProg) : (s.setProg d k x).mem = s.mem := rfl
@[simp] theorem State.setProg_ecc (s : State) (d k : Nat) (x : Option CProg) : (s.setProg d k x).ecc = s.ecc := rfl
@[simp] theorem State.setProg_clock (s : State) (d k : Nat) (x : Option CProg) : (s.setProg d k x).clock = s.clock := rfl
@[simp] theorem State.setProg_eng (s : State) (d k : Nat) (x : Option CProg) : (s.setProg d k x).eng = s.eng := rfl
@[simp] theorem State.setProg_ctxs (s : State) (d k : Nat) (x : Option CProg) : (s.setProg d k x).ctxs = s.ctxs := rfl
@[simp] theorem State.setProg_cp (s : State) (d k : Nat) (x : Option CProg) : (s.setProg d k x).cp = s.cp := rfl
@[simp] theorem State.setProg_net (s : State) (d k : Nat) (x : Option CProg) : (s.setProg d k x).net = s.net := rfl
@[simp] theorem State.setProg_host (s : State) (d k : Nat) (x : Option CProg) : (s.setProg d k x).host = s.host := rfl
@[simp] theorem State.setProg_root (s : State) (d k : Nat) (x : Option CProg) : (s.setProg d k x).root = s.root := rfl
@[simp] theorem State.setProg_pend (s : State) (d k : Nat) (x : Option CProg) : (s.setProg d k x).pend = s.pend := rfl
@[simp] theorem State.setProg_held (s : State) (d k : Nat) (x : Option CProg) : (s.setProg d k x).held = s.held := rfl
@[simp] theorem State.setProg_soft (s : State) (d k : Nat) (x : Option CProg) : (s.setProg d k x).soft = s.soft := rfl
@[simp] theorem State.setProg_cur (s : State) (d k : Nat) (x : Option CProg) : (s.setProg d k x).cur = s.cur := rfl
@[simp] theorem State.setProg_sched (s : State) (d k : Nat) (x : Option CProg) : (s.setProg d k x).sched = s.sched := rfl
@[simp] theorem State.setProg_choices (s : State) (d k : Nat) (x : Option CProg) : (s.setProg d k x).choices = s.choices := rfl
@[simp] theorem State.setProg_free (s : State) (d k : Nat) (x : Option CProg) : (s.setProg d k x).free = s.free := rfl
@[simp] theorem State.setProg_nextId (s : State) (d k : Nat) (x : Option CProg) : (s.setProg d k x).nextId = s.nextId := rfl
@[simp] theorem State.setProg_arr (s : State) (d k : Nat) (x : Option CProg) : (s.setProg d k x).arr = s.arr := rfl
@[simp] theorem State.setProg_relay (s : State) (d k : Nat) (x : Option CProg) : (s.setProg d k x).relay = s.relay := rfl
@[simp] theorem State.setProg_engine (s : State) (d k : Nat) (x : Option CProg) (a : Nat) : (s.setProg d k x).engine a = s.engine a := rfl
@[simp] theorem State.setProg_ctx (s : State) (d k : Nat) (x : Option CProg) (a : Nat) : (s.setProg d k x).ctx a = s.ctx a := rfl
@[simp] theorem State.setProg_kernel (s : State) (d k : Nat) (x : Option CProg) (a : Nat) : (s.setProg d k x).kernel a = s.kernel a := rfl
@[simp] theorem State.setProg_queue (s : State) (d k : Nat) (x : Option CProg) (a : Nat) : (s.setProg d k x).queue a = s.queue a := rfl
@[simp] theorem State.setProg_pgt (s : State) (d k : Nat) (x : Option CProg) (a b : Nat) : (s.setProg d k x).pgt a b = s.pgt a b := rfl
@[simp] theorem State.setProg_active (s : State) (d k : Nat) (x : Option CProg) (a b : Nat) : (s.setProg d k x).active a b = s.active a b := rfl
@[simp] theorem State.setProg_tick (s : State) (d k : Nat) (x : Option CProg)  : (s.setProg d k x).tick = s.tick := rfl
@[simp] theorem State.setProg_rdByte (s : State) (d k : Nat) (x : Option CProg) (a : Nat) : (s.setProg d k x).rdByte a = s.rdByte a := rfl
@[simp] theorem State.setProg_rdBytes (s : State) (d k : Nat) (x : Option CProg) (a b : Nat) : (s.setProg d k x).rdBytes a b = s.rdBytes a b := rfl

/-! ### setPort -/

@[simp] theorem State.setPort_mem (s : State) (d j : Nat) (x : LinkPort) : (s.setPort d j x).mem = s.mem := rfl
@[simp] theorem State.setPort_ecc (s : State) (d j : Nat) (x : LinkPort) : (s.setPort d j x).ecc = s.ecc := rfl
@[simp] theorem State.setPort_clock (s : State) (d j : Nat) (x : LinkPort) : (s.setPort d j x).clock = s.clock := rfl
@[simp] theorem State.setPort_eng (s : State) (d j : Nat) (x : LinkPort) : (s.setPort d j x).eng = s.eng := rfl
@[simp] theorem State.setPort_ctxs (s : State) (d j : Nat) (x : LinkPort) : (s.setPort d j x).ctxs = s.ctxs := rfl
@[simp] theorem State.setPort_cp (s : State) (d j : Nat) (x : LinkPort) : (s.setPort d j x).cp = s.cp := rfl
@[simp] theorem State.setPort_net (s : State) (d j : Nat) (x : LinkPort) : (s.setPort d j x).net = s.net := rfl
@[simp] theorem State.setPort_host (s : State) (d j : Nat) (x : LinkPort) : (s.setPort d j x).host = s.host := rfl
@[simp] theorem State.setPort_root (s : State) (d j : Nat) (x : LinkPort) : (s.setPort d j x).root = s.root := rfl
@[simp] theorem State.setPort_pend (s : State) (d j : Nat) (x : LinkPort) : (s.setPort d j x).pend = s.pend := rfl
@[simp] theorem State.setPort_held (s : State) (d j : Nat) (x : LinkPort) : (s.setPort d j x).held = s.held := rfl
@[simp] theorem State.setPort_soft (s : State) (d j : Nat) (x : LinkPort) : (s.setPort d j x).soft = s.soft := rfl
@[simp] theorem State.setPort_cur (s : State) (d j : Nat) (x : LinkPort) : (s.setPort d j x).cur = s.cur := rfl
@[simp] theorem State.setPort_sched (s : State) (d j : Nat) (x : LinkPort) : (s.setPort d j x).sched = s.sched := rfl
@[simp] theorem State.setPort_choices (s : State) (d j : Nat) (x : LinkPort) : (s.setPort d j x).choices = s.choices := rfl
@[simp] theorem State.setPort_free (s : State) (d j : Nat) (x : LinkPort) : (s.setPort d j x).free = s.free := rfl
@[simp] theorem State.setPort_nextId (s : State) (d j : Nat) (x : LinkPort) : (s.setPort d j x).nextId = s.nextId := rfl
@[simp] theorem State.setPort_arr (s : State) (d j : Nat) (x : LinkPort) : (s.setPort d j x).arr = s.arr := rfl
@[simp] theorem State.setPort_relay (s : State) (d j : Nat) (x : LinkPort) : (s.setPort d j x).relay = s.relay := rfl
@[simp] theorem State.setPort_engine (s : State) (d j : Nat) (x : LinkPort) (a : Nat) : (s.setPort d j x).engine a = s.engine a := rfl
@[simp] theorem State.setPort_ctx (s : State) (d j : Nat) (x : LinkPort) (a : Nat) : (s.setPort d j x).ctx a = s.ctx a := rfl
@[simp] theorem State.setPort_kernel (s : State) (d j : Nat) (x : LinkPort) (a : Nat) : (s.setPort d j x).kernel a = s.kernel a := rfl
@[simp] theorem State.setPort_queue (s : State) (d j : Nat) (x : LinkPort) (a : Nat) : (s.setPort d j x).queue a = s.queue a := rfl
@[simp] theorem State.setPort_pgt (s : State) (d j : Nat) (x : LinkPort) (a b : Nat) : (s.setPort d j x).pgt a b = s.pgt a b := rfl
@[simp] theorem State.setPort_active (s : State) (d j : Nat) (x : LinkPort) (a b : Nat) : (s.setPort d j x).active a b = s.active a b := rfl
@[simp] theorem State.setPort_tick (s : State) (d j : Nat) (x : LinkPort)  : (s.setPort d j x).tick = s.tick := rfl
@[simp] theorem State.setPort_rdByte (s : State) (d j : Nat) (x : LinkPort) (a : Nat) : (s.setPort d j x).rdByte a = s.rdByte a := rfl
@[simp] theorem State.setPort_rdBytes (s : State) (d j : Nat) (x : LinkPort) (a b : Nat) : (s.setPort d j x).rdBytes a b = s.rdBytes a b := rfl

/-! ### setActive -/

@[simp] theorem State.setActive_mem (s : State) (e sl : Nat) (x : Option Active) : (s.setActive e sl x).mem = s.mem := rfl
@[simp] theorem State.setActive_ecc (s : State) (e sl : Nat) (x : Option Active) : (s.setActive e sl x).ecc = s.ecc := rfl
@[simp] theorem State.setActive_clock (s : State) (e sl : Nat) (x : Option Active) : (s.setActive e sl x).clock = s.clock := rfl
@[simp] theorem State.setActive_dies (s : State) (e sl : Nat) (x : Option Active) : (s.setActive e sl x).dies = s.dies := rfl
@[simp] theorem State.setActive_ctxs (s : State) (e sl : Nat) (x : Option Active) : (s.setActive e sl x).ctxs = s.ctxs := rfl
@[simp] theorem State.setActive_cp (s : State) (e sl : Nat) (x : Option Active) : (s.setActive e sl x).cp = s.cp := rfl
@[simp] theorem State.setActive_net (s : State) (e sl : Nat) (x : Option Active) : (s.setActive e sl x).net = s.net := rfl
@[simp] theorem State.setActive_host (s : State) (e sl : Nat) (x : Option Active) : (s.setActive e sl x).host = s.host := rfl
@[simp] theorem State.setActive_root (s : State) (e sl : Nat) (x : Option Active) : (s.setActive e sl x).root = s.root := rfl
@[simp] theorem State.setActive_pend (s : State) (e sl : Nat) (x : Option Active) : (s.setActive e sl x).pend = s.pend := rfl
@[simp] theorem State.setActive_held (s : State) (e sl : Nat) (x : Option Active) : (s.setActive e sl x).held = s.held := rfl
@[simp] theorem State.setActive_soft (s : State) (e sl : Nat) (x : Option Active) : (s.setActive e sl x).soft = s.soft := rfl
@[simp] theorem State.setActive_cur (s : State) (e sl : Nat) (x : Option Active) : (s.setActive e sl x).cur = s.cur := rfl
@[simp] theorem State.setActive_sched (s : State) (e sl : Nat) (x : Option Active) : (s.setActive e sl x).sched = s.sched := rfl
@[simp] theorem State.setActive_choices (s : State) (e sl : Nat) (x : Option Active) : (s.setActive e sl x).choices = s.choices := rfl
@[simp] theorem State.setActive_free (s : State) (e sl : Nat) (x : Option Active) : (s.setActive e sl x).free = s.free := rfl
@[simp] theorem State.setActive_nextId (s : State) (e sl : Nat) (x : Option Active) : (s.setActive e sl x).nextId = s.nextId := rfl
@[simp] theorem State.setActive_arr (s : State) (e sl : Nat) (x : Option Active) : (s.setActive e sl x).arr = s.arr := rfl
@[simp] theorem State.setActive_relay (s : State) (e sl : Nat) (x : Option Active) : (s.setActive e sl x).relay = s.relay := rfl
@[simp] theorem State.setActive_die (s : State) (e sl : Nat) (x : Option Active) (a : Nat) : (s.setActive e sl x).die a = s.die a := rfl
@[simp] theorem State.setActive_ctx (s : State) (e sl : Nat) (x : Option Active) (a : Nat) : (s.setActive e sl x).ctx a = s.ctx a := rfl
@[simp] theorem State.setActive_core (s : State) (e sl : Nat) (x : Option Active) (a : Nat) : (s.setActive e sl x).core a = s.core a := rfl
@[simp] theorem State.setActive_units (s : State) (e sl : Nat) (x : Option Active) (a : Nat) : (s.setActive e sl x).units a = s.units a := rfl
@[simp] theorem State.setActive_kernel (s : State) (e sl : Nat) (x : Option Active) (a : Nat) : (s.setActive e sl x).kernel a = s.kernel a := rfl
@[simp] theorem State.setActive_queue (s : State) (e sl : Nat) (x : Option Active) (a : Nat) : (s.setActive e sl x).queue a = s.queue a := rfl
@[simp] theorem State.setActive_pgt (s : State) (e sl : Nat) (x : Option Active) (a b : Nat) : (s.setActive e sl x).pgt a b = s.pgt a b := rfl
@[simp] theorem State.setActive_prog (s : State) (e sl : Nat) (x : Option Active) (a b : Nat) : (s.setActive e sl x).prog a b = s.prog a b := rfl
@[simp] theorem State.setActive_tick (s : State) (e sl : Nat) (x : Option Active)  : (s.setActive e sl x).tick = s.tick := rfl
@[simp] theorem State.setActive_rdByte (s : State) (e sl : Nat) (x : Option Active) (a : Nat) : (s.setActive e sl x).rdByte a = s.rdByte a := rfl
@[simp] theorem State.setActive_rdBytes (s : State) (e sl : Nat) (x : Option Active) (a b : Nat) : (s.setActive e sl x).rdBytes a b = s.rdBytes a b := rfl

/-! ### setPass -/

@[simp] theorem State.setPass_mem (s : State) (e sl : Nat) (x : Active) (p : Pass) : (s.setPass e sl x p).mem = s.mem := rfl
@[simp] theorem State.setPass_ecc (s : State) (e sl : Nat) (x : Active) (p : Pass) : (s.setPass e sl x p).ecc = s.ecc := rfl
@[simp] theorem State.setPass_clock (s : State) (e sl : Nat) (x : Active) (p : Pass) : (s.setPass e sl x p).clock = s.clock := rfl
@[simp] theorem State.setPass_dies (s : State) (e sl : Nat) (x : Active) (p : Pass) : (s.setPass e sl x p).dies = s.dies := rfl
@[simp] theorem State.setPass_ctxs (s : State) (e sl : Nat) (x : Active) (p : Pass) : (s.setPass e sl x p).ctxs = s.ctxs := rfl
@[simp] theorem State.setPass_cp (s : State) (e sl : Nat) (x : Active) (p : Pass) : (s.setPass e sl x p).cp = s.cp := rfl
@[simp] theorem State.setPass_net (s : State) (e sl : Nat) (x : Active) (p : Pass) : (s.setPass e sl x p).net = s.net := rfl
@[simp] theorem State.setPass_host (s : State) (e sl : Nat) (x : Active) (p : Pass) : (s.setPass e sl x p).host = s.host := rfl
@[simp] theorem State.setPass_root (s : State) (e sl : Nat) (x : Active) (p : Pass) : (s.setPass e sl x p).root = s.root := rfl
@[simp] theorem State.setPass_pend (s : State) (e sl : Nat) (x : Active) (p : Pass) : (s.setPass e sl x p).pend = s.pend := rfl
@[simp] theorem State.setPass_held (s : State) (e sl : Nat) (x : Active) (p : Pass) : (s.setPass e sl x p).held = s.held := rfl
@[simp] theorem State.setPass_soft (s : State) (e sl : Nat) (x : Active) (p : Pass) : (s.setPass e sl x p).soft = s.soft := rfl
@[simp] theorem State.setPass_cur (s : State) (e sl : Nat) (x : Active) (p : Pass) : (s.setPass e sl x p).cur = s.cur := rfl
@[simp] theorem State.setPass_sched (s : State) (e sl : Nat) (x : Active) (p : Pass) : (s.setPass e sl x p).sched = s.sched := rfl
@[simp] theorem State.setPass_choices (s : State) (e sl : Nat) (x : Active) (p : Pass) : (s.setPass e sl x p).choices = s.choices := rfl
@[simp] theorem State.setPass_free (s : State) (e sl : Nat) (x : Active) (p : Pass) : (s.setPass e sl x p).free = s.free := rfl
@[simp] theorem State.setPass_nextId (s : State) (e sl : Nat) (x : Active) (p : Pass) : (s.setPass e sl x p).nextId = s.nextId := rfl
@[simp] theorem State.setPass_arr (s : State) (e sl : Nat) (x : Active) (p : Pass) : (s.setPass e sl x p).arr = s.arr := rfl
@[simp] theorem State.setPass_relay (s : State) (e sl : Nat) (x : Active) (p : Pass) : (s.setPass e sl x p).relay = s.relay := rfl
@[simp] theorem State.setPass_die (s : State) (e sl : Nat) (x : Active) (p : Pass) (a : Nat) : (s.setPass e sl x p).die a = s.die a := rfl
@[simp] theorem State.setPass_ctx (s : State) (e sl : Nat) (x : Active) (p : Pass) (a : Nat) : (s.setPass e sl x p).ctx a = s.ctx a := rfl
@[simp] theorem State.setPass_core (s : State) (e sl : Nat) (x : Active) (p : Pass) (a : Nat) : (s.setPass e sl x p).core a = s.core a := rfl
@[simp] theorem State.setPass_units (s : State) (e sl : Nat) (x : Active) (p : Pass) (a : Nat) : (s.setPass e sl x p).units a = s.units a := rfl
@[simp] theorem State.setPass_kernel (s : State) (e sl : Nat) (x : Active) (p : Pass) (a : Nat) : (s.setPass e sl x p).kernel a = s.kernel a := rfl
@[simp] theorem State.setPass_queue (s : State) (e sl : Nat) (x : Active) (p : Pass) (a : Nat) : (s.setPass e sl x p).queue a = s.queue a := rfl
@[simp] theorem State.setPass_pgt (s : State) (e sl : Nat) (x : Active) (p : Pass) (a b : Nat) : (s.setPass e sl x p).pgt a b = s.pgt a b := rfl
@[simp] theorem State.setPass_prog (s : State) (e sl : Nat) (x : Active) (p : Pass) (a b : Nat) : (s.setPass e sl x p).prog a b = s.prog a b := rfl
@[simp] theorem State.setPass_tick (s : State) (e sl : Nat) (x : Active) (p : Pass)  : (s.setPass e sl x p).tick = s.tick := rfl
@[simp] theorem State.setPass_rdByte (s : State) (e sl : Nat) (x : Active) (p : Pass) (a : Nat) : (s.setPass e sl x p).rdByte a = s.rdByte a := rfl
@[simp] theorem State.setPass_rdBytes (s : State) (e sl : Nat) (x : Active) (p : Pass) (a b : Nat) : (s.setPass e sl x p).rdBytes a b = s.rdBytes a b := rfl

/-! ### postDep -/

@[simp] theorem State.postDep_mem (s : State) (l : List Nat) (i : Instr) : (s.postDep l i).mem = s.mem := rfl
@[simp] theorem State.postDep_ecc (s : State) (l : List Nat) (i : Instr) : (s.postDep l i).ecc = s.ecc := rfl
@[simp] theorem State.postDep_clock (s : State) (l : List Nat) (i : Instr) : (s.postDep l i).clock = s.clock := rfl
@[simp] theorem State.postDep_dies (s : State) (l : List Nat) (i : Instr) : (s.postDep l i).dies = s.dies := rfl
@[simp] theorem State.postDep_eng (s : State) (l : List Nat) (i : Instr) : (s.postDep l i).eng = s.eng := rfl
@[simp] theorem State.postDep_ctxs (s : State) (l : List Nat) (i : Instr) : (s.postDep l i).ctxs = s.ctxs := rfl
@[simp] theorem State.postDep_cp (s : State) (l : List Nat) (i : Instr) : (s.postDep l i).cp = s.cp := rfl
@[simp] theorem State.postDep_net (s : State) (l : List Nat) (i : Instr) : (s.postDep l i).net = s.net := rfl
@[simp] theorem State.postDep_host (s : State) (l : List Nat) (i : Instr) : (s.postDep l i).host = s.host := rfl
@[simp] theorem State.postDep_root (s : State) (l : List Nat) (i : Instr) : (s.postDep l i).root = s.root := rfl
@[simp] theorem State.postDep_held (s : State) (l : List Nat) (i : Instr) : (s.postDep l i).held = s.held := rfl
@[simp] theorem State.postDep_soft (s : State) (l : List Nat) (i : Instr) : (s.postDep l i).soft = s.soft := rfl
@[simp] theorem State.postDep_cur (s : State) (l : List Nat) (i : Instr) : (s.postDep l i).cur = s.cur := rfl
@[simp] theorem State.postDep_sched (s : State) (l : List Nat) (i : Instr) : (s.postDep l i).sched = s.sched := rfl
@[simp] theorem State.postDep_choices (s : State) (l : List Nat) (i : Instr) : (s.postDep l i).choices = s.choices := rfl
@[simp] theorem State.postDep_free (s : State) (l : List Nat) (i : Instr) : (s.postDep l i).free = s.free := rfl
@[simp] theorem State.postDep_arr (s : State) (l : List Nat) (i : Instr) : (s.postDep l i).arr = s.arr := rfl
@[simp] theorem State.postDep_relay (s : State) (l : List Nat) (i : Instr) : (s.postDep l i).relay = s.relay := rfl
@[simp] theorem State.postDep_engine (s : State) (l : List Nat) (i : Instr) (a : Nat) : (s.postDep l i).engine a = s.engine a := rfl
@[simp] theorem State.postDep_die (s : State) (l : List Nat) (i : Instr) (a : Nat) : (s.postDep l i).die a = s.die a := rfl
@[simp] theorem State.postDep_ctx (s : State) (l : List Nat) (i : Instr) (a : Nat) : (s.postDep l i).ctx a = s.ctx a := rfl
@[simp] theorem State.postDep_core (s : State) (l : List Nat) (i : Instr) (a : Nat) : (s.postDep l i).core a = s.core a := rfl
@[simp] theorem State.postDep_units (s : State) (l : List Nat) (i : Instr) (a : Nat) : (s.postDep l i).units a = s.units a := rfl
@[simp] theorem State.postDep_kernel (s : State) (l : List Nat) (i : Instr) (a : Nat) : (s.postDep l i).kernel a = s.kernel a := rfl
@[simp] theorem State.postDep_queue (s : State) (l : List Nat) (i : Instr) (a : Nat) : (s.postDep l i).queue a = s.queue a := rfl
@[simp] theorem State.postDep_pgt (s : State) (l : List Nat) (i : Instr) (a b : Nat) : (s.postDep l i).pgt a b = s.pgt a b := rfl
@[simp] theorem State.postDep_prog (s : State) (l : List Nat) (i : Instr) (a b : Nat) : (s.postDep l i).prog a b = s.prog a b := rfl
@[simp] theorem State.postDep_active (s : State) (l : List Nat) (i : Instr) (a b : Nat) : (s.postDep l i).active a b = s.active a b := rfl
@[simp] theorem State.postDep_tick (s : State) (l : List Nat) (i : Instr)  : (s.postDep l i).tick = s.tick := rfl
@[simp] theorem State.postDep_rdByte (s : State) (l : List Nat) (i : Instr) (a : Nat) : (s.postDep l i).rdByte a = s.rdByte a := rfl
@[simp] theorem State.postDep_rdBytes (s : State) (l : List Nat) (i : Instr) (a b : Nat) : (s.postDep l i).rdBytes a b = s.rdBytes a b := rfl

/-! ### post -/

@[simp] theorem State.post_mem (s : State) (i : Instr) : (s.post i).mem = s.mem := rfl
@[simp] theorem State.post_ecc (s : State) (i : Instr) : (s.post i).ecc = s.ecc := rfl
@[simp] theorem State.post_clock (s : State) (i : Instr) : (s.post i).clock = s.clock := rfl
@[simp] theorem State.post_dies (s : State) (i : Instr) : (s.post i).dies = s.dies := rfl
@[simp] theorem State.post_eng (s : State) (i : Instr) : (s.post i).eng = s.eng := rfl
@[simp] theorem State.post_ctxs (s : State) (i : Instr) : (s.post i).ctxs = s.ctxs := rfl
@[simp] theorem State.post_cp (s : State) (i : Instr) : (s.post i).cp = s.cp := rfl
@[simp] theorem State.post_net (s : State) (i : Instr) : (s.post i).net = s.net := rfl
@[simp] theorem State.post_host (s : State) (i : Instr) : (s.post i).host = s.host := rfl
@[simp] theorem State.post_root (s : State) (i : Instr) : (s.post i).root = s.root := rfl
@[simp] theorem State.post_held (s : State) (i : Instr) : (s.post i).held = s.held := rfl
@[simp] theorem State.post_soft (s : State) (i : Instr) : (s.post i).soft = s.soft := rfl
@[simp] theorem State.post_cur (s : State) (i : Instr) : (s.post i).cur = s.cur := rfl
@[simp] theorem State.post_sched (s : State) (i : Instr) : (s.post i).sched = s.sched := rfl
@[simp] theorem State.post_choices (s : State) (i : Instr) : (s.post i).choices = s.choices := rfl
@[simp] theorem State.post_free (s : State) (i : Instr) : (s.post i).free = s.free := rfl
@[simp] theorem State.post_arr (s : State) (i : Instr) : (s.post i).arr = s.arr := rfl
@[simp] theorem State.post_relay (s : State) (i : Instr) : (s.post i).relay = s.relay := rfl
@[simp] theorem State.post_engine (s : State) (i : Instr) (a : Nat) : (s.post i).engine a = s.engine a := rfl
@[simp] theorem State.post_die (s : State) (i : Instr) (a : Nat) : (s.post i).die a = s.die a := rfl
@[simp] theorem State.post_ctx (s : State) (i : Instr) (a : Nat) : (s.post i).ctx a = s.ctx a := rfl
@[simp] theorem State.post_core (s : State) (i : Instr) (a : Nat) : (s.post i).core a = s.core a := rfl
@[simp] theorem State.post_units (s : State) (i : Instr) (a : Nat) : (s.post i).units a = s.units a := rfl
@[simp] theorem State.post_kernel (s : State) (i : Instr) (a : Nat) : (s.post i).kernel a = s.kernel a := rfl
@[simp] theorem State.post_queue (s : State) (i : Instr) (a : Nat) : (s.post i).queue a = s.queue a := rfl
@[simp] theorem State.post_pgt (s : State) (i : Instr) (a b : Nat) : (s.post i).pgt a b = s.pgt a b := rfl
@[simp] theorem State.post_prog (s : State) (i : Instr) (a b : Nat) : (s.post i).prog a b = s.prog a b := rfl
@[simp] theorem State.post_active (s : State) (i : Instr) (a b : Nat) : (s.post i).active a b = s.active a b := rfl
@[simp] theorem State.post_tick (s : State) (i : Instr)  : (s.post i).tick = s.tick := rfl
@[simp] theorem State.post_rdByte (s : State) (i : Instr) (a : Nat) : (s.post i).rdByte a = s.rdByte a := rfl
@[simp] theorem State.post_rdBytes (s : State) (i : Instr) (a b : Nat) : (s.post i).rdBytes a b = s.rdBytes a b := rfl

/-! ### wrBytes -/

@[simp] theorem State.wrBytes_clock (s : State) (h : Nat) (l : List Byte) : (s.wrBytes h l).clock = s.clock := rfl
@[simp] theorem State.wrBytes_dies (s : State) (h : Nat) (l : List Byte) : (s.wrBytes h l).dies = s.dies := rfl
@[simp] theorem State.wrBytes_eng (s : State) (h : Nat) (l : List Byte) : (s.wrBytes h l).eng = s.eng := rfl
@[simp] theorem State.wrBytes_ctxs (s : State) (h : Nat) (l : List Byte) : (s.wrBytes h l).ctxs = s.ctxs := rfl
@[simp] theorem State.wrBytes_cp (s : State) (h : Nat) (l : List Byte) : (s.wrBytes h l).cp = s.cp := rfl
@[simp] theorem State.wrBytes_net (s : State) (h : Nat) (l : List Byte) : (s.wrBytes h l).net = s.net := rfl
@[simp] theorem State.wrBytes_host (s : State) (h : Nat) (l : List Byte) : (s.wrBytes h l).host = s.host := rfl
@[simp] theorem State.wrBytes_root (s : State) (h : Nat) (l : List Byte) : (s.wrBytes h l).root = s.root := rfl
@[simp] theorem State.wrBytes_pend (s : State) (h : Nat) (l : List Byte) : (s.wrBytes h l).pend = s.pend := rfl
@[simp] theorem State.wrBytes_held (s : State) (h : Nat) (l : List Byte) : (s.wrBytes h l).held = s.held := rfl
@[simp] theorem State.wrBytes_soft (s : State) (h : Nat) (l : List Byte) : (s.wrBytes h l).soft = s.soft := rfl
@[simp] theorem State.wrBytes_cur (s : State) (h : Nat) (l : List Byte) : (s.wrBytes h l).cur = s.cur := rfl
@[simp] theorem State.wrBytes_sched (s : State) (h : Nat) (l : List Byte) : (s.wrBytes h l).sched = s.sched := rfl
@[simp] theorem State.wrBytes_choices (s : State) (h : Nat) (l : List Byte) : (s.wrBytes h l).choices = s.choices := rfl
@[simp] theorem State.wrBytes_free (s : State) (h : Nat) (l : List Byte) : (s.wrBytes h l).free = s.free := rfl
@[simp] theorem State.wrBytes_nextId (s : State) (h : Nat) (l : List Byte) : (s.wrBytes h l).nextId = s.nextId := rfl
@[simp] theorem State.wrBytes_arr (s : State) (h : Nat) (l : List Byte) : (s.wrBytes h l).arr = s.arr := rfl
@[simp] theorem State.wrBytes_relay (s : State) (h : Nat) (l : List Byte) : (s.wrBytes h l).relay = s.relay := rfl
@[simp] theorem State.wrBytes_engine (s : State) (h : Nat) (l : List Byte) (a : Nat) : (s.wrBytes h l).engine a = s.engine a := rfl
@[simp] theorem State.wrBytes_die (s : State) (h : Nat) (l : List Byte) (a : Nat) : (s.wrBytes h l).die a = s.die a := rfl
@[simp] theorem State.wrBytes_ctx (s : State) (h : Nat) (l : List Byte) (a : Nat) : (s.wrBytes h l).ctx a = s.ctx a := rfl
@[simp] theorem State.wrBytes_core (s : State) (h : Nat) (l : List Byte) (a : Nat) : (s.wrBytes h l).core a = s.core a := rfl
@[simp] theorem State.wrBytes_units (s : State) (h : Nat) (l : List Byte) (a : Nat) : (s.wrBytes h l).units a = s.units a := rfl
@[simp] theorem State.wrBytes_kernel (s : State) (h : Nat) (l : List Byte) (a : Nat) : (s.wrBytes h l).kernel a = s.kernel a := rfl
@[simp] theorem State.wrBytes_queue (s : State) (h : Nat) (l : List Byte) (a : Nat) : (s.wrBytes h l).queue a = s.queue a := rfl
@[simp] theorem State.wrBytes_pgt (s : State) (h : Nat) (l : List Byte) (a b : Nat) : (s.wrBytes h l).pgt a b = s.pgt a b := rfl
@[simp] theorem State.wrBytes_prog (s : State) (h : Nat) (l : List Byte) (a b : Nat) : (s.wrBytes h l).prog a b = s.prog a b := rfl
@[simp] theorem State.wrBytes_active (s : State) (h : Nat) (l : List Byte) (a b : Nat) : (s.wrBytes h l).active a b = s.active a b := rfl
@[simp] theorem State.wrBytes_tick (s : State) (h : Nat) (l : List Byte)  : (s.wrBytes h l).tick = s.tick := rfl

/-! ### wrWord -/

@[simp] theorem State.wrWord_clock (s : State) (h : Nat) (v : Word) : (s.wrWord h v).clock = s.clock := rfl
@[simp] theorem State.wrWord_dies (s : State) (h : Nat) (v : Word) : (s.wrWord h v).dies = s.dies := rfl
@[simp] theorem State.wrWord_eng (s : State) (h : Nat) (v : Word) : (s.wrWord h v).eng = s.eng := rfl
@[simp] theorem State.wrWord_ctxs (s : State) (h : Nat) (v : Word) : (s.wrWord h v).ctxs = s.ctxs := rfl
@[simp] theorem State.wrWord_cp (s : State) (h : Nat) (v : Word) : (s.wrWord h v).cp = s.cp := rfl
@[simp] theorem State.wrWord_net (s : State) (h : Nat) (v : Word) : (s.wrWord h v).net = s.net := rfl
@[simp] theorem State.wrWord_host (s : State) (h : Nat) (v : Word) : (s.wrWord h v).host = s.host := rfl
@[simp] theorem State.wrWord_root (s : State) (h : Nat) (v : Word) : (s.wrWord h v).root = s.root := rfl
@[simp] theorem State.wrWord_pend (s : State) (h : Nat) (v : Word) : (s.wrWord h v).pend = s.pend := rfl
@[simp] theorem State.wrWord_held (s : State) (h : Nat) (v : Word) : (s.wrWord h v).held = s.held := rfl
@[simp] theorem State.wrWord_soft (s : State) (h : Nat) (v : Word) : (s.wrWord h v).soft = s.soft := rfl
@[simp] theorem State.wrWord_cur (s : State) (h : Nat) (v : Word) : (s.wrWord h v).cur = s.cur := rfl
@[simp] theorem State.wrWord_sched (s : State) (h : Nat) (v : Word) : (s.wrWord h v).sched = s.sched := rfl
@[simp] theorem State.wrWord_choices (s : State) (h : Nat) (v : Word) : (s.wrWord h v).choices = s.choices := rfl
@[simp] theorem State.wrWord_free (s : State) (h : Nat) (v : Word) : (s.wrWord h v).free = s.free := rfl
@[simp] theorem State.wrWord_nextId (s : State) (h : Nat) (v : Word) : (s.wrWord h v).nextId = s.nextId := rfl
@[simp] theorem State.wrWord_arr (s : State) (h : Nat) (v : Word) : (s.wrWord h v).arr = s.arr := rfl
@[simp] theorem State.wrWord_relay (s : State) (h : Nat) (v : Word) : (s.wrWord h v).relay = s.relay := rfl
@[simp] theorem State.wrWord_engine (s : State) (h : Nat) (v : Word) (a : Nat) : (s.wrWord h v).engine a = s.engine a := rfl
@[simp] theorem State.wrWord_die (s : State) (h : Nat) (v : Word) (a : Nat) : (s.wrWord h v).die a = s.die a := rfl
@[simp] theorem State.wrWord_ctx (s : State) (h : Nat) (v : Word) (a : Nat) : (s.wrWord h v).ctx a = s.ctx a := rfl
@[simp] theorem State.wrWord_core (s : State) (h : Nat) (v : Word) (a : Nat) : (s.wrWord h v).core a = s.core a := rfl
@[simp] theorem State.wrWord_units (s : State) (h : Nat) (v : Word) (a : Nat) : (s.wrWord h v).units a = s.units a := rfl
@[simp] theorem State.wrWord_kernel (s : State) (h : Nat) (v : Word) (a : Nat) : (s.wrWord h v).kernel a = s.kernel a := rfl
@[simp] theorem State.wrWord_queue (s : State) (h : Nat) (v : Word) (a : Nat) : (s.wrWord h v).queue a = s.queue a := rfl
@[simp] theorem State.wrWord_pgt (s : State) (h : Nat) (v : Word) (a b : Nat) : (s.wrWord h v).pgt a b = s.pgt a b := rfl
@[simp] theorem State.wrWord_prog (s : State) (h : Nat) (v : Word) (a b : Nat) : (s.wrWord h v).prog a b = s.prog a b := rfl
@[simp] theorem State.wrWord_active (s : State) (h : Nat) (v : Word) (a b : Nat) : (s.wrWord h v).active a b = s.active a b := rfl
@[simp] theorem State.wrWord_tick (s : State) (h : Nat) (v : Word)  : (s.wrWord h v).tick = s.tick := rfl

/-! ### ring -/

@[simp] theorem State.ring_mem (s : State) (d : Nat) : (s.ring d).mem = s.mem := rfl
@[simp] theorem State.ring_ecc (s : State) (d : Nat) : (s.ring d).ecc = s.ecc := rfl
@[simp] theorem State.ring_clock (s : State) (d : Nat) : (s.ring d).clock = s.clock := rfl
@[simp] theorem State.ring_eng (s : State) (d : Nat) : (s.ring d).eng = s.eng := rfl
@[simp] theorem State.ring_ctxs (s : State) (d : Nat) : (s.ring d).ctxs = s.ctxs := rfl
@[simp] theorem State.ring_cp (s : State) (d : Nat) : (s.ring d).cp = s.cp := rfl
@[simp] theorem State.ring_net (s : State) (d : Nat) : (s.ring d).net = s.net := rfl
@[simp] theorem State.ring_host (s : State) (d : Nat) : (s.ring d).host = s.host := rfl
@[simp] theorem State.ring_root (s : State) (d : Nat) : (s.ring d).root = s.root := rfl
@[simp] theorem State.ring_pend (s : State) (d : Nat) : (s.ring d).pend = s.pend := rfl
@[simp] theorem State.ring_held (s : State) (d : Nat) : (s.ring d).held = s.held := rfl
@[simp] theorem State.ring_soft (s : State) (d : Nat) : (s.ring d).soft = s.soft := rfl
@[simp] theorem State.ring_cur (s : State) (d : Nat) : (s.ring d).cur = s.cur := rfl
@[simp] theorem State.ring_sched (s : State) (d : Nat) : (s.ring d).sched = s.sched := rfl
@[simp] theorem State.ring_choices (s : State) (d : Nat) : (s.ring d).choices = s.choices := rfl
@[simp] theorem State.ring_free (s : State) (d : Nat) : (s.ring d).free = s.free := rfl
@[simp] theorem State.ring_nextId (s : State) (d : Nat) : (s.ring d).nextId = s.nextId := rfl
@[simp] theorem State.ring_arr (s : State) (d : Nat) : (s.ring d).arr = s.arr := rfl
@[simp] theorem State.ring_relay (s : State) (d : Nat) : (s.ring d).relay = s.relay := rfl
@[simp] theorem State.ring_engine (s : State) (d : Nat) (a : Nat) : (s.ring d).engine a = s.engine a := rfl
@[simp] theorem State.ring_ctx (s : State) (d : Nat) (a : Nat) : (s.ring d).ctx a = s.ctx a := rfl
@[simp] theorem State.ring_kernel (s : State) (d : Nat) (a : Nat) : (s.ring d).kernel a = s.kernel a := rfl
@[simp] theorem State.ring_queue (s : State) (d : Nat) (a : Nat) : (s.ring d).queue a = s.queue a := rfl
@[simp] theorem State.ring_pgt (s : State) (d : Nat) (a b : Nat) : (s.ring d).pgt a b = s.pgt a b := rfl
@[simp] theorem State.ring_active (s : State) (d : Nat) (a b : Nat) : (s.ring d).active a b = s.active a b := rfl
@[simp] theorem State.ring_tick (s : State) (d : Nat)  : (s.ring d).tick = s.tick := rfl
@[simp] theorem State.ring_rdByte (s : State) (d : Nat) (a : Nat) : (s.ring d).rdByte a = s.rdByte a := rfl
@[simp] theorem State.ring_rdBytes (s : State) (d : Nat) (a b : Nat) : (s.ring d).rdBytes a b = s.rdBytes a b := rfl

/-! ### touch -/

@[simp] theorem State.touch_mem (s : State) (d c : Nat) : (s.touch d c).mem = s.mem := rfl
@[simp] theorem State.touch_ecc (s : State) (d c : Nat) : (s.touch d c).ecc = s.ecc := rfl
@[simp] theorem State.touch_clock (s : State) (d c : Nat) : (s.touch d c).clock = s.clock := rfl
@[simp] theorem State.touch_eng (s : State) (d c : Nat) : (s.touch d c).eng = s.eng := rfl
@[simp] theorem State.touch_ctxs (s : State) (d c : Nat) : (s.touch d c).ctxs = s.ctxs := rfl
@[simp] theorem State.touch_cp (s : State) (d c : Nat) : (s.touch d c).cp = s.cp := rfl
@[simp] theorem State.touch_net (s : State) (d c : Nat) : (s.touch d c).net = s.net := rfl
@[simp] theorem State.touch_host (s : State) (d c : Nat) : (s.touch d c).host = s.host := rfl
@[simp] theorem State.touch_root (s : State) (d c : Nat) : (s.touch d c).root = s.root := rfl
@[simp] theorem State.touch_pend (s : State) (d c : Nat) : (s.touch d c).pend = s.pend := rfl
@[simp] theorem State.touch_held (s : State) (d c : Nat) : (s.touch d c).held = s.held := rfl
@[simp] theorem State.touch_soft (s : State) (d c : Nat) : (s.touch d c).soft = s.soft := rfl
@[simp] theorem State.touch_cur (s : State) (d c : Nat) : (s.touch d c).cur = s.cur := rfl
@[simp] theorem State.touch_sched (s : State) (d c : Nat) : (s.touch d c).sched = s.sched := rfl
@[simp] theorem State.touch_choices (s : State) (d c : Nat) : (s.touch d c).choices = s.choices := rfl
@[simp] theorem State.touch_free (s : State) (d c : Nat) : (s.touch d c).free = s.free := rfl
@[simp] theorem State.touch_nextId (s : State) (d c : Nat) : (s.touch d c).nextId = s.nextId := rfl
@[simp] theorem State.touch_arr (s : State) (d c : Nat) : (s.touch d c).arr = s.arr := rfl
@[simp] theorem State.touch_relay (s : State) (d c : Nat) : (s.touch d c).relay = s.relay := rfl
@[simp] theorem State.touch_engine (s : State) (d c : Nat) (a : Nat) : (s.touch d c).engine a = s.engine a := rfl
@[simp] theorem State.touch_ctx (s : State) (d c : Nat) (a : Nat) : (s.touch d c).ctx a = s.ctx a := rfl
@[simp] theorem State.touch_kernel (s : State) (d c : Nat) (a : Nat) : (s.touch d c).kernel a = s.kernel a := rfl
@[simp] theorem State.touch_queue (s : State) (d c : Nat) (a : Nat) : (s.touch d c).queue a = s.queue a := rfl
@[simp] theorem State.touch_pgt (s : State) (d c : Nat) (a b : Nat) : (s.touch d c).pgt a b = s.pgt a b := rfl
@[simp] theorem State.touch_active (s : State) (d c : Nat) (a b : Nat) : (s.touch d c).active a b = s.active a b := rfl
@[simp] theorem State.touch_tick (s : State) (d c : Nat)  : (s.touch d c).tick = s.tick := rfl
@[simp] theorem State.touch_rdByte (s : State) (d c : Nat) (a : Nat) : (s.touch d c).rdByte a = s.rdByte a := rfl
@[simp] theorem State.touch_rdBytes (s : State) (d c : Nat) (a b : Nat) : (s.touch d c).rdBytes a b = s.rdBytes a b := rfl

/-! ### fireMsix -/

@[simp] theorem State.fireMsix_mem (s : State) (v : Nat) : (s.fireMsix v).mem = s.mem := rfl
@[simp] theorem State.fireMsix_ecc (s : State) (v : Nat) : (s.fireMsix v).ecc = s.ecc := rfl
@[simp] theorem State.fireMsix_clock (s : State) (v : Nat) : (s.fireMsix v).clock = s.clock := rfl
@[simp] theorem State.fireMsix_dies (s : State) (v : Nat) : (s.fireMsix v).dies = s.dies := rfl
@[simp] theorem State.fireMsix_eng (s : State) (v : Nat) : (s.fireMsix v).eng = s.eng := rfl
@[simp] theorem State.fireMsix_ctxs (s : State) (v : Nat) : (s.fireMsix v).ctxs = s.ctxs := rfl
@[simp] theorem State.fireMsix_cp (s : State) (v : Nat) : (s.fireMsix v).cp = s.cp := rfl
@[simp] theorem State.fireMsix_net (s : State) (v : Nat) : (s.fireMsix v).net = s.net := rfl
@[simp] theorem State.fireMsix_root (s : State) (v : Nat) : (s.fireMsix v).root = s.root := rfl
@[simp] theorem State.fireMsix_pend (s : State) (v : Nat) : (s.fireMsix v).pend = s.pend := rfl
@[simp] theorem State.fireMsix_held (s : State) (v : Nat) : (s.fireMsix v).held = s.held := rfl
@[simp] theorem State.fireMsix_soft (s : State) (v : Nat) : (s.fireMsix v).soft = s.soft := rfl
@[simp] theorem State.fireMsix_cur (s : State) (v : Nat) : (s.fireMsix v).cur = s.cur := rfl
@[simp] theorem State.fireMsix_sched (s : State) (v : Nat) : (s.fireMsix v).sched = s.sched := rfl
@[simp] theorem State.fireMsix_choices (s : State) (v : Nat) : (s.fireMsix v).choices = s.choices := rfl
@[simp] theorem State.fireMsix_free (s : State) (v : Nat) : (s.fireMsix v).free = s.free := rfl
@[simp] theorem State.fireMsix_nextId (s : State) (v : Nat) : (s.fireMsix v).nextId = s.nextId := rfl
@[simp] theorem State.fireMsix_arr (s : State) (v : Nat) : (s.fireMsix v).arr = s.arr := rfl
@[simp] theorem State.fireMsix_relay (s : State) (v : Nat) : (s.fireMsix v).relay = s.relay := rfl
@[simp] theorem State.fireMsix_engine (s : State) (v : Nat) (a : Nat) : (s.fireMsix v).engine a = s.engine a := rfl
@[simp] theorem State.fireMsix_die (s : State) (v : Nat) (a : Nat) : (s.fireMsix v).die a = s.die a := rfl
@[simp] theorem State.fireMsix_ctx (s : State) (v : Nat) (a : Nat) : (s.fireMsix v).ctx a = s.ctx a := rfl
@[simp] theorem State.fireMsix_core (s : State) (v : Nat) (a : Nat) : (s.fireMsix v).core a = s.core a := rfl
@[simp] theorem State.fireMsix_units (s : State) (v : Nat) (a : Nat) : (s.fireMsix v).units a = s.units a := rfl
@[simp] theorem State.fireMsix_kernel (s : State) (v : Nat) (a : Nat) : (s.fireMsix v).kernel a = s.kernel a := rfl
@[simp] theorem State.fireMsix_queue (s : State) (v : Nat) (a : Nat) : (s.fireMsix v).queue a = s.queue a := rfl
@[simp] theorem State.fireMsix_pgt (s : State) (v : Nat) (a b : Nat) : (s.fireMsix v).pgt a b = s.pgt a b := rfl
@[simp] theorem State.fireMsix_prog (s : State) (v : Nat) (a b : Nat) : (s.fireMsix v).prog a b = s.prog a b := rfl
@[simp] theorem State.fireMsix_active (s : State) (v : Nat) (a b : Nat) : (s.fireMsix v).active a b = s.active a b := rfl
@[simp] theorem State.fireMsix_tick (s : State) (v : Nat)  : (s.fireMsix v).tick = s.tick := rfl
@[simp] theorem State.fireMsix_rdByte (s : State) (v : Nat) (a : Nat) : (s.fireMsix v).rdByte a = s.rdByte a := rfl
@[simp] theorem State.fireMsix_rdBytes (s : State) (v : Nat) (a b : Nat) : (s.fireMsix v).rdBytes a b = s.rdBytes a b := rfl

/-! ### Reading what was put in place -/

@[simp] theorem State.engine_setEngine (s : State) (e : Nat) (x : Engine) : (s.setEngine e x).engine e = x := tget_tput_same ..
theorem State.engine_setEngine_ne (s : State) (e a : Nat) (x : Engine) (h : e ≠ a) : (s.setEngine e x).engine a = s.engine a :=
  tget_tput_ne _ _ _ _ _ h
@[simp] theorem State.die_setDie (s : State) (d : Nat) (x : Die) : (s.setDie d x).die d = x := tget_tput_same ..
theorem State.die_setDie_ne (s : State) (d a : Nat) (x : Die) (h : d ≠ a) : (s.setDie d x).die a = s.die a := tget_tput_ne _ _ _ _ _ h
@[simp] theorem State.ctx_setCtx (s : State) (c : Nat) (x : Ctx) : (s.setCtx c x).ctx c = x := tget_tput_same ..
theorem State.ctx_setCtx_ne (s : State) (c a : Nat) (x : Ctx) (h : c ≠ a) : (s.setCtx c x).ctx a = s.ctx a := tget_tput_ne _ _ _ _ _ h
@[simp] theorem State.core_setCore (s : State) (d : Nat) (x : CoreState) : (s.setCore d x).core d = x := by
  simp [State.core, State.setCore]
theorem State.core_setCore_ne (s : State) (d a : Nat) (x : CoreState) (h : d ≠ a) : (s.setCore d x).core a = s.core a := by
  simp [State.core, State.setCore, State.die_setDie_ne _ _ _ _ h]
@[simp] theorem State.units_setUnits (s : State) (d : Nat) (x : DieUnits) : (s.setUnits d x).units d = x := by
  simp [State.units, State.setUnits]
theorem State.units_setUnits_ne (s : State) (d a : Nat) (x : DieUnits) (h : d ≠ a) : (s.setUnits d x).units a = s.units a := by
  simp [State.units, State.setUnits, State.die_setDie_ne _ _ _ _ h]
theorem State.core_setDie_ne (s : State) (d a : Nat) (x : Die) (h : d ≠ a) : (s.setDie d x).core a = s.core a := by
  simp [State.core, State.die_setDie_ne _ _ _ _ h]
@[simp] theorem State.core_setDie (s : State) (d : Nat) (x : Die) : (s.setDie d x).core d = x.core := by simp [State.core]
@[simp] theorem State.core_setUnits (s : State) (d a : Nat) (x : DieUnits) : (s.setUnits d x).core a = s.core a := by
  by_cases h : d = a
  · subst h; simp [State.core, State.setUnits]
  · simp [State.core, State.setUnits, State.die_setDie_ne _ _ _ _ h]
@[simp] theorem State.units_setCore (s : State) (d a : Nat) (x : CoreState) : (s.setCore d x).units a = s.units a := by
  by_cases h : d = a
  · subst h; simp [State.units, State.setCore]
  · simp [State.units, State.setCore, State.die_setDie_ne _ _ _ _ h]
@[simp] theorem State.trapq_setCore (s : State) (d a : Nat) (x : CoreState) : ((s.setCore d x).die a).trapq = (s.die a).trapq := by
  by_cases h : d = a
  · subst h; simp [State.setCore]
  · simp [State.setCore, State.die_setDie_ne _ _ _ _ h]
@[simp] theorem State.kernel_setKernel (s : State) (k : Nat) (x : Kernel) : (s.setKernel k x).kernel k = x := tget_tput_same ..
theorem State.kernel_setKernel_ne (s : State) (k a : Nat) (x : Kernel) (h : k ≠ a) : (s.setKernel k x).kernel a = s.kernel a :=
  tget_tput_ne _ _ _ _ _ h
@[simp] theorem State.queue_setQueue (s : State) (q : Nat) (x : Queue) : (s.setQueue q x).queue q = x := tget_tput_same ..
theorem State.queue_setQueue_ne (s : State) (q a : Nat) (x : Queue) (h : q ≠ a) : (s.setQueue q x).queue a = s.queue a :=
  tget_tput_ne _ _ _ _ _ h
@[simp] theorem State.pgt_setPgt (s : State) (c t : Nat) (x : Pgt) : (s.setPgt c t x).pgt c t = x := by
  simp [State.pgt, State.setPgt, tget_tput_same]
@[simp] theorem State.group_setGroup (s : State) (d g : Nat) (x : Group) : (s.setGroup d g x).group d g = x := by
  simp [State.group, State.setGroup, tget_tput_same]
@[simp] theorem State.pool_setPool (s : State) (d : Nat) (x : Pool) : (s.setPool d x).pool d = x := by
  simp [State.pool, State.setPool]
@[simp] theorem State.reckoner_setReckoner (s : State) (d : Nat) (x : Reckoner) : (s.setReckoner d x).reckoner d = x := by
  simp [State.reckoner, State.setReckoner]
@[simp] theorem State.prog_setProg (s : State) (d k : Nat) (x : Option CProg) : (s.setProg d k x).prog d k = x := by
  simp [State.prog, State.setProg, tget_tset_same]
@[simp] theorem State.port_setPort (s : State) (d j : Nat) (x : LinkPort) : (s.setPort d j x).port d j = x := by
  simp [State.port, State.setPort, tget_tput_same]

/-- Each issue slot of an engine keeps what the other holds; there are two, 0 and every other number. -/
@[simp] theorem Engine.slot_setSlot (x : Engine) (sl : Nat) (y : IssueSlot) : (x.setSlot sl y).slot sl = y := by
  unfold Engine.slot Engine.setSlot; split <;> simp
@[simp] theorem State.active_setActive (s : State) (e sl : Nat) (a : Option Active) : (s.setActive e sl a).active e sl = a := by
  simp [State.active, State.setActive]
@[simp] theorem State.active_setPass (s : State) (e sl : Nat) (a : Active) (p : Pass) :
    (s.setPass e sl a p).active e sl = some { a with pass := p } := by simp [State.setPass]

/-! ### Registers of a core -/

@[simp] theorem CoreState.rd_zero (c : CoreState) : c.rd 0 = 0 := rfl
@[simp] theorem CoreState.wr_zero (c : CoreState) (v : Word) : c.wr 0 v = c := rfl
theorem CoreState.rd_wr_same (c : CoreState) (r : Spec) (v : Word) (h : r ≠ 0) : (c.wr r v).rd r = v := by
  have h0 : r.toNat ≠ 0 := fun e => h (BitVec.eq_of_toNat_eq (by simpa using e))
  simp [CoreState.rd, CoreState.wr, h0, tget_tset_same]
theorem CoreState.rd_wr_ne (c : CoreState) (r q : Spec) (v : Word) (h : r ≠ q) : (c.wr r v).rd q = c.rd q := by
  have h1 : r.toNat ≠ q.toNat := fun e => h (BitVec.eq_of_toNat_eq e)
  unfold CoreState.rd CoreState.wr
  split
  · rfl
  · split
    · rfl
    · exact tget_tset_ne _ _ _ _ _ h1
@[simp] theorem CoreState.wr_pc (c : CoreState) (r : Spec) (v : Word) : (c.wr r v).pc = c.pc := by unfold CoreState.wr; split <;> rfl
@[simp] theorem CoreState.wr_npc (c : CoreState) (r : Spec) (v : Word) : (c.wr r v).npc = c.npc := by unfold CoreState.wr; split <;> rfl
@[simp] theorem CoreState.wr_csr (c : CoreState) (r : Spec) (v : Word) : (c.wr r v).csr = c.csr := by unfold CoreState.wr; split <;> rfl
@[simp] theorem CoreState.wr_run (c : CoreState) (r : Spec) (v : Word) : (c.wr r v).run = c.run := by unfold CoreState.wr; split <;> rfl
@[simp] theorem CoreState.wr_halted (c : CoreState) (r : Spec) (v : Word) : (c.wr r v).halted = c.halted := by
  unfold CoreState.wr; split <;> rfl
@[simp] theorem CoreState.adv_pc (c : CoreState) : c.adv.pc = c.npc := rfl
@[simp] theorem CoreState.adv_npc (c : CoreState) : c.adv.npc = c.npc := rfl
@[simp] theorem CoreState.adv_csr (c : CoreState) : c.adv.csr = c.csr := rfl
@[simp] theorem CoreState.adv_g (c : CoreState) : c.adv.g = c.g := rfl
@[simp] theorem CoreState.wr_busy (c : CoreState) (r : Spec) (v : Word) : (c.wr r v).busy = c.busy := by unfold CoreState.wr; split <;> rfl
@[simp] theorem CoreState.wr_img (c : CoreState) (r : Spec) (v : Word) : (c.wr r v).img = c.img := by unfold CoreState.wr; split <;> rfl
@[simp] theorem CoreState.wr_held (c : CoreState) (r : Spec) (v : Word) : (c.wr r v).held = c.held := by unfold CoreState.wr; split <;> rfl
@[simp] theorem CoreState.wr_htEnd (c : CoreState) (r : Spec) (v : Word) : (c.wr r v).htEnd = c.htEnd := by unfold CoreState.wr; split <;> rfl
@[simp] theorem CoreState.wr_rodw (c : CoreState) (r : Spec) (v : Word) : (c.wr r v).rodw = c.rodw := by unfold CoreState.wr; split <;> rfl
@[simp] theorem CoreState.wr_after (c : CoreState) (r : Spec) (v : Word) : (c.wr r v).after = c.after := by unfold CoreState.wr; split <;> rfl
@[simp] theorem CoreState.wr_acq (c : CoreState) (r : Spec) (v : Word) : (c.wr r v).acq = c.acq := by unfold CoreState.wr; split <;> rfl
@[simp] theorem CoreState.wr_pre (c : CoreState) (r : Spec) (v : Word) : (c.wr r v).pre = c.pre := by unfold CoreState.wr; split <;> rfl
@[simp] theorem CoreState.adv_busy (c : CoreState) : c.adv.busy = c.busy := rfl
@[simp] theorem CoreState.adv_img (c : CoreState) : c.adv.img = c.img := rfl
@[simp] theorem CoreState.adv_held (c : CoreState) : c.adv.held = c.held := rfl
@[simp] theorem CoreState.adv_htEnd (c : CoreState) : c.adv.htEnd = c.htEnd := rfl
@[simp] theorem CoreState.adv_rodw (c : CoreState) : c.adv.rodw = c.rodw := rfl
@[simp] theorem CoreState.adv_after (c : CoreState) : c.adv.after = c.after := rfl
@[simp] theorem CoreState.adv_acq (c : CoreState) : c.adv.acq = c.acq := rfl
@[simp] theorem CoreState.adv_pre (c : CoreState) : c.adv.pre = c.pre := rfl
@[simp] theorem CoreState.adv_rd (c : CoreState) (r : Spec) : c.adv.rd r = c.rd r := rfl

end Sys2Proof.Machine
end

