-- ==== Sys2Proof/Laws/Operands.lean ====
section
/-!
SUPPORT. The outcome of a word by the agent that runs it.
-/
namespace Sys2Proof.Machine

theorem CoreState.adv_eq (c : CoreState) : c.adv = { c with pc := c.npc } := rfl

/-! ## Agents -/

/-- A word in an open pass does what `k` says. -/
theorem onPass_pass (i : Instr) (s : State) (e sl : Nat) (a : Active) (k : Nat → Nat → Active → State)
    (hc : s.cur = .pass e sl) (ha : s.active e sl = some a) : onPass i s k = .next (k e sl a) := by
  simp [onPass, hc, ha]

/-- A word that answers a pass publishes it, and one that traps aborts the pass. -/
theorem passWord_pass (i : Instr) (s : State) (e sl : Nat) (a : Active) (k : Nat → Active → PassRes)
    (hc : s.cur = .pass e sl) (ha : s.active e sl = some a) :
    passWord i s k = .next (match k e a with
      | .ok p => s.setPass e sl a p
      | .trap f => s.passFault e sl f) := onPass_pass i s e sl a _ hc ha

/-- A word of a core does what `k` says. -/
theorem onCore_core (i : Instr) (s : State) (d : Nat) (k : Nat → CoreState → State) (hc : s.cur = .core d) :
    onCore i s k = .next (k d (s.core d)) := by simp [onCore, hc]

/-- A privileged word in supervisor mode does what `k` says. -/
theorem onSup_core (i : Instr) (s : State) (d : Nat) (k : Nat → CoreState → State) (hc : s.cur = .core d)
    (hm : (s.core d).csr.mode = true) : onSup i s k = .next (k d (s.core d)) := by simp [onSup, onCore, hc, hm]

/-- A privileged word in user mode raises PRIV and does nothing else. -/
theorem onSup_user (i : Instr) (s : State) (d : Nat) (k : Nat → CoreState → State) (hc : s.cur = .core d)
    (hm : (s.core d).csr.mode = false) : onSup i s k = .next (s.coreFault d cPriv (wordOf i)) := by
  simp [onSup, onCore, hc, hm]

/-- A word of a collective program does what `k` says. -/
theorem onSeq_seq (i : Instr) (s : State) (d n : Nat) (p : CProg) (k : Nat → Nat → CProg → State)
    (hc : s.cur = .seq d n) (hp : s.prog d n = some p) : onSeq i s k = .next (k d n p) := by simp [onSeq, hc, hp]

/-- A scalar word on a pass writes DST. -/
theorem scalarWord_pass (i : Instr) (f : FmtA) (s : State) (e sl : Nat) (a : Active) (g : Word → Word → Word → Word)
    (hc : s.cur = .pass e sl) (ha : s.active e sl = some a) :
    scalarWord i f s g = .next (s.setPass e sl a (a.pass.wrP f.dst
      (g (a.pass.rd s.tick f.sa) (immB f (a.pass.rd s.tick f.sb)) (a.pass.rd s.tick f.sc)))) := by
  simp [scalarWord, hc, ha]

/-- A scalar word on a core writes its register, and the PC goes on. -/
theorem scalarWord_core (i : Instr) (f : FmtA) (s : State) (d : Nat) (g : Word → Word → Word → Word)
    (hc : s.cur = .core d) :
    scalarWord i f s g = .next (s.setCore d { (s.core d).wr f.dst
      (g ((s.core d).rd f.sa) (immB f ((s.core d).rd f.sb)) ((s.core d).rd f.sc)) with pc := (s.core d).npc }) := by
  simp [scalarWord, hc, CoreState.adv_eq]

end Sys2Proof.Machine
end

