-- ==== Sys2Proof/Laws/Memory.lean ====
section
/-!
SUPPORT. Every operation that writes memory keeps its canonical form, and reads after writes.
-/
namespace Sys2Proof.Machine

theorem memory_wf_wrBytes (s : State) (h : Nat) (bs : List Byte) (w : Memory.wf s.mem = true) :
    Memory.wf (s.wrBytes h bs).mem = true := twf_tsets _ _ _ _ w

theorem memory_wf_wrWord (s : State) (h : Nat) (v : Word) (w : Memory.wf s.mem = true) :
    Memory.wf (s.wrWord h v).mem = true := memory_wf_wrBytes s h _ w

theorem memory_wf_wrHomes (s : State) (hs : List Nat) (bs : List Byte) (w : Memory.wf s.mem = true) :
    Memory.wf (s.wrHomes hs bs).mem = true := by
  unfold State.wrHomes
  generalize hs.zip bs = l
  induction l generalizing s with
  | nil => exact w
  | cons x r ih => exact ih _ (memory_wf_wrBytes s x.1 [x.2] w)

/-- A fold whose steps keep memory keeps memory. -/
theorem foldl_mem {α : Type} (l : List α) (f : State → α → State) (hf : ∀ t a, (f t a).mem = t.mem) (s : State) :
    (l.foldl f s).mem = s.mem := by
  induction l generalizing s with
  | nil => rfl
  | cons a r ih => rw [List.foldl_cons, ih, hf]

/-- Forgetting part of memory keeps its canonical form. -/
theorem memory_wf_filter (m : List Host.Cell) (p : Host.Cell → Bool) (w : Memory.wf m = true) :
    Memory.wf (m.filter p) = true := twf_filter _ _ _ w

theorem memory_wf_reset : Memory.wf State.reset.mem = true := rfl

/-- Reading one byte after bytes have been written. -/
theorem rdByte_wrBytes (s : State) (h a : Nat) (bs : List Byte) :
    (s.wrBytes h bs).rdByte a = if h ≤ a ∧ a < h + bs.length then bs.getD (a - h) memDefault else s.rdByte a :=
  tget_tsets _ _ _ _ _

/-- Bytes read back where they were written. -/
theorem rdBytes_wrBytes (s : State) (h : Nat) (bs : List Byte) : (s.wrBytes h bs).rdBytes h bs.length = bs :=
  tgets_tsets _ _ _ _

theorem clearEngine_wf (s : State) (e : Nat) (w : Memory.wf s.mem = true) : Memory.wf (s.clearEngine e).mem = true :=
  memory_wf_filter _ _ w

theorem packageReset_wf (s t : State) (w : Memory.wf s.mem = true) (h : execPackageReset s = .next t) :
    Memory.wf t.mem = true := by
  injection h with h; subst h; exact memory_wf_filter _ _ w

theorem each_mem (s : State) (l : List Nat) (f : Nat → State → State) (hf : ∀ n t, (f n t).mem = t.mem) :
    (s.each l f).mem = s.mem := foldl_mem _ _ (fun t n => hf n t) s

theorem acquireAt_mem (s : State) (c q : Nat) : (s.acquireAt c q).2.mem = s.mem := by
  unfold State.acquireAt
  repeat' split
  all_goals rfl

theorem acquireEach_mem (l : List Active) (s : State) : (s.acquireEach l).2.mem = s.mem := by
  induction l generalizing s with
  | nil => rfl
  | cons a r ih => exact (ih _).trans (acquireAt_mem ..)

theorem endWaits_mem (s : State) (e : Nat) (p : Active → Bool) (k : List Nat) : (s.endWaits e p k).mem = s.mem := by
  unfold State.endWaits
  split
  · rfl
  · exact acquireEach_mem _ s

theorem wakeWaiters_mem (s : State) (k : Nat) (v : Word) : (s.wakeWaiters k v).mem = s.mem := by
  unfold State.wakeWaiters
  dsimp only
  refine Eq.trans (each_mem _ _ _ ?_) rfl
  intro _ _
  rfl

theorem wakePasses_mem (s : State) (k : Nat) (l : List Nat) (v : Word) : (s.wakePasses k l v).mem = s.mem := by
  rw [State.wakePasses, wakeWaiters_mem]
  exact each_mem _ _ _ fun e t => endWaits_mem ..

theorem wakePorts_mem (s : State) (p : Word → Bool) (v : Word) : (s.wakePorts p v).mem = s.mem := by
  unfold State.wakePorts
  dsimp only
  refine Eq.trans (each_mem _ _ _ ?_) (each_mem _ _ _ ?_)
  all_goals intro _ _; rfl

theorem notifyUnit_mem (s : State) (d n h : Nat) (w : Watch) : (s.notifyUnit d n h w).mem = s.mem := by
  unfold State.notifyUnit
  dsimp only
  split
  · rw [wakePorts_mem, wakePasses_mem, State.setUnits_mem]
  · rw [State.touch_mem, wakePorts_mem, wakePasses_mem, State.setUnits_mem]

/-- Watch units are told of a write; memory is as it was. -/
theorem notify_mem (s : State) (hs : List Nat) : (s.notify hs).mem = s.mem := by
  unfold State.notify
  refine foldl_mem _ _ (fun t x => ?_) s
  refine foldl_mem _ _ (fun u y => ?_) t
  obtain ⟨n, w⟩ := y
  show (if w.v then _ else u).mem = u.mem
  split
  · split
    · split
      · exact notifyUnit_mem ..
      · rfl
    · rfl
  · rfl

theorem memory_wf_storeHomes (s : State) (hs : List Nat) (bs : List Byte) (w : Memory.wf s.mem = true) :
    Memory.wf (s.storeHomes hs bs).mem = true := by
  rw [State.storeHomes, notify_mem]; exact memory_wf_wrHomes s hs bs w

theorem memory_wf_setDirty (s : State) (d c : Nat) (x : Trans) (w : Memory.wf s.mem = true) :
    Memory.wf (s.setDirty d c x).mem = true := by
  unfold State.setDirty
  split
  · exact w
  · dsimp only
    split <;> exact memory_wf_wrWord _ _ _ w

end Sys2Proof.Machine
end

