-- ==== Sys2Proof/Laws/Order.lean ====
section
/-!
SUPPORT. What noting a release (R222), a request of a cycle (R275, R329, R333) and a step of a word (R184) leave alone, and what a
replaced stream changes.
-/
namespace Sys2Proof.Machine

/-! ### noteSoft: only the list of releases that have gone ahead changes -/

@[simp] theorem State.noteSoft_mem (s : State) (id : Nat) (k : List Nat) (w : Origin) (sc : Nat) (d : List Nat) :
    (s.noteSoft id k w sc d).mem = s.mem := by unfold State.noteSoft; split <;> rfl
@[simp] theorem State.noteSoft_ecc (s : State) (id : Nat) (k : List Nat) (w : Origin) (sc : Nat) (d : List Nat) :
    (s.noteSoft id k w sc d).ecc = s.ecc := by unfold State.noteSoft; split <;> rfl
@[simp] theorem State.noteSoft_clock (s : State) (id : Nat) (k : List Nat) (w : Origin) (sc : Nat) (d : List Nat) :
    (s.noteSoft id k w sc d).clock = s.clock := by unfold State.noteSoft; split <;> rfl
@[simp] theorem State.noteSoft_dies (s : State) (id : Nat) (k : List Nat) (w : Origin) (sc : Nat) (d : List Nat) :
    (s.noteSoft id k w sc d).dies = s.dies := by unfold State.noteSoft; split <;> rfl
@[simp] theorem State.noteSoft_eng (s : State) (id : Nat) (k : List Nat) (w : Origin) (sc : Nat) (d : List Nat) :
    (s.noteSoft id k w sc d).eng = s.eng := by unfold State.noteSoft; split <;> rfl
@[simp] theorem State.noteSoft_ctxs (s : State) (id : Nat) (k : List Nat) (w : Origin) (sc : Nat) (d : List Nat) :
    (s.noteSoft id k w sc d).ctxs = s.ctxs := by unfold State.noteSoft; split <;> rfl
@[simp] theorem State.noteSoft_cp (s : State) (id : Nat) (k : List Nat) (w : Origin) (sc : Nat) (d : List Nat) :
    (s.noteSoft id k w sc d).cp = s.cp := by unfold State.noteSoft; split <;> rfl
@[simp] theorem State.noteSoft_net (s : State) (id : Nat) (k : List Nat) (w : Origin) (sc : Nat) (d : List Nat) :
    (s.noteSoft id k w sc d).net = s.net := by unfold State.noteSoft; split <;> rfl
@[simp] theorem State.noteSoft_host (s : State) (id : Nat) (k : List Nat) (w : Origin) (sc : Nat) (d : List Nat) :
    (s.noteSoft id k w sc d).host = s.host := by unfold State.noteSoft; split <;> rfl
@[simp] theorem State.noteSoft_root (s : State) (id : Nat) (k : List Nat) (w : Origin) (sc : Nat) (d : List Nat) :
    (s.noteSoft id k w sc d).root = s.root := by unfold State.noteSoft; split <;> rfl
@[simp] theorem State.noteSoft_pend (s : State) (id : Nat) (k : List Nat) (w : Origin) (sc : Nat) (d : List Nat) :
    (s.noteSoft id k w sc d).pend = s.pend := by unfold State.noteSoft; split <;> rfl
@[simp] theorem State.noteSoft_held (s : State) (id : Nat) (k : List Nat) (w : Origin) (sc : Nat) (d : List Nat) :
    (s.noteSoft id k w sc d).held = s.held := by unfold State.noteSoft; split <;> rfl
@[simp] theorem State.noteSoft_cur (s : State) (id : Nat) (k : List Nat) (w : Origin) (sc : Nat) (d : List Nat) :
    (s.noteSoft id k w sc d).cur = s.cur := by unfold State.noteSoft; split <;> rfl
@[simp] theorem State.noteSoft_sched (s : State) (id : Nat) (k : List Nat) (w : Origin) (sc : Nat) (d : List Nat) :
    (s.noteSoft id k w sc d).sched = s.sched := by unfold State.noteSoft; split <;> rfl
@[simp] theorem State.noteSoft_choices (s : State) (id : Nat) (k : List Nat) (w : Origin) (sc : Nat) (d : List Nat) :
    (s.noteSoft id k w sc d).choices = s.choices := by unfold State.noteSoft; split <;> rfl
@[simp] theorem State.noteSoft_free (s : State) (id : Nat) (k : List Nat) (w : Origin) (sc : Nat) (d : List Nat) :
    (s.noteSoft id k w sc d).free = s.free := by unfold State.noteSoft; split <;> rfl
@[simp] theorem State.noteSoft_nextId (s : State) (id : Nat) (k : List Nat) (w : Origin) (sc : Nat) (d : List Nat) :
    (s.noteSoft id k w sc d).nextId = s.nextId := by unfold State.noteSoft; split <;> rfl
/-- A release that goes ahead of nothing is not noted. -/
@[simp] theorem State.noteSoft_nil (s : State) (id : Nat) (k : List Nat) (w : Origin) (sc : Nat) : s.noteSoft id k w sc [] = s := by
  simp [State.noteSoft]

/-- An event that orders nothing before later walks leaves what the walkers have read. -/
@[simp] theorem State.afresh_of_not (s : State) (i : Instr) (h : readsAfresh i = false) : s.afresh i = s := by
  simp [State.afresh, h]

/-! ### noted: only the requests taken in this cycle change -/

@[simp] theorem State.noted_mem (s : State) (i : Instr) : (s.noted i).mem = s.mem := by
  unfold State.noted; split <;> [rfl; (split <;> rfl)]
@[simp] theorem State.noted_ecc (s : State) (i : Instr) : (s.noted i).ecc = s.ecc := by
  unfold State.noted; split <;> [rfl; (split <;> rfl)]
@[simp] theorem State.noted_dies (s : State) (i : Instr) : (s.noted i).dies = s.dies := by
  unfold State.noted; split <;> [rfl; (split <;> rfl)]
@[simp] theorem State.noted_eng (s : State) (i : Instr) : (s.noted i).eng = s.eng := by
  unfold State.noted; split <;> [rfl; (split <;> rfl)]
@[simp] theorem State.noted_ctxs (s : State) (i : Instr) : (s.noted i).ctxs = s.ctxs := by
  unfold State.noted; split <;> [rfl; (split <;> rfl)]
@[simp] theorem State.noted_cp (s : State) (i : Instr) : (s.noted i).cp = s.cp := by
  unfold State.noted; split <;> [rfl; (split <;> rfl)]
@[simp] theorem State.noted_net (s : State) (i : Instr) : (s.noted i).net = s.net := by
  unfold State.noted; split <;> [rfl; (split <;> rfl)]
@[simp] theorem State.noted_host (s : State) (i : Instr) : (s.noted i).host = s.host := by
  unfold State.noted; split <;> [rfl; (split <;> rfl)]
@[simp] theorem State.noted_root (s : State) (i : Instr) : (s.noted i).root = s.root := by
  unfold State.noted; split <;> [rfl; (split <;> rfl)]
@[simp] theorem State.noted_pend (s : State) (i : Instr) : (s.noted i).pend = s.pend := by
  unfold State.noted; split <;> [rfl; (split <;> rfl)]
@[simp] theorem State.noted_held (s : State) (i : Instr) : (s.noted i).held = s.held := by
  unfold State.noted; split <;> [rfl; (split <;> rfl)]
@[simp] theorem State.noted_soft (s : State) (i : Instr) : (s.noted i).soft = s.soft := by
  unfold State.noted; split <;> [rfl; (split <;> rfl)]
@[simp] theorem State.noted_cur (s : State) (i : Instr) : (s.noted i).cur = s.cur := by
  unfold State.noted; split <;> [rfl; (split <;> rfl)]
@[simp] theorem State.noted_sched (s : State) (i : Instr) : (s.noted i).sched = s.sched := by
  unfold State.noted; split <;> [rfl; (split <;> rfl)]
@[simp] theorem State.noted_choices (s : State) (i : Instr) : (s.noted i).choices = s.choices := by
  unfold State.noted; split <;> [rfl; (split <;> rfl)]
@[simp] theorem State.noted_free (s : State) (i : Instr) : (s.noted i).free = s.free := by
  unfold State.noted; split <;> [rfl; (split <;> rfl)]
@[simp] theorem State.noted_nextId (s : State) (i : Instr) : (s.noted i).nextId = s.nextId := by
  unfold State.noted; split <;> [rfl; (split <;> rfl)]
@[simp] theorem State.noted_tick (s : State) (i : Instr) : (s.noted i).tick = s.tick := by
  unfold State.noted; split <;> [rfl; (split <;> rfl)]
/-- What an event notes makes none of the same rank or a higher one late. -/
theorem State.outOfTurn_noted (s : State) (i : Instr) (k k' : Nat × Nat × Nat) (hk : s.orderKey i = some k) (h : s.outOfTurn k' = false)
    (hr : k.2.2 ≤ k'.2.2) : (s.noted i).outOfTurn k' = false := by
  simp only [State.noted, hk]
  split
  · exact h
  · simp only [State.outOfTurn] at h ⊢
    simp [h, List.any_cons, Nat.not_lt.mpr hr]

/-! ### A step of a word -/

/-- A word of one step is done at once. -/
@[simp] theorem Pass.stepped_one (p q : Pass) : p.stepped 1 q = { q with step := 0 } := by simp [Pass.stepped]
/-- The step of a word stays below the number of its steps. -/
theorem Pass.stepped_lt (p q : Pass) (n : Nat) (h : 0 < n) : (p.stepped n q).step < n := by
  simp only [Pass.stepped]; split <;> omega

/-! ### setStream: only the engines change -/

@[simp] theorem State.setStream_mem (s : State) (e n : Nat) (y : Option Stream) : (s.setStream e n y).mem = s.mem := by
  cases y <;> rfl
@[simp] theorem State.setStream_ecc (s : State) (e n : Nat) (y : Option Stream) : (s.setStream e n y).ecc = s.ecc := by
  cases y <;> rfl
@[simp] theorem State.setStream_clock (s : State) (e n : Nat) (y : Option Stream) : (s.setStream e n y).clock = s.clock := by
  cases y <;> rfl
@[simp] theorem State.setStream_dies (s : State) (e n : Nat) (y : Option Stream) : (s.setStream e n y).dies = s.dies := by
  cases y <;> rfl
@[simp] theorem State.setStream_ctxs (s : State) (e n : Nat) (y : Option Stream) : (s.setStream e n y).ctxs = s.ctxs := by
  cases y <;> rfl
@[simp] theorem State.setStream_cp (s : State) (e n : Nat) (y : Option Stream) : (s.setStream e n y).cp = s.cp := by
  cases y <;> rfl
@[simp] theorem State.setStream_net (s : State) (e n : Nat) (y : Option Stream) : (s.setStream e n y).net = s.net := by
  cases y <;> rfl
@[simp] theorem State.setStream_host (s : State) (e n : Nat) (y : Option Stream) : (s.setStream e n y).host = s.host := by
  cases y <;> rfl
@[simp] theorem State.setStream_root (s : State) (e n : Nat) (y : Option Stream) : (s.setStream e n y).root = s.root := by
  cases y <;> rfl
@[simp] theorem State.setStream_pend (s : State) (e n : Nat) (y : Option Stream) : (s.setStream e n y).pend = s.pend := by
  cases y <;> rfl
@[simp] theorem State.setStream_held (s : State) (e n : Nat) (y : Option Stream) : (s.setStream e n y).held = s.held := by
  cases y <;> rfl
@[simp] theorem State.setStream_soft (s : State) (e n : Nat) (y : Option Stream) : (s.setStream e n y).soft = s.soft := by
  cases y <;> rfl
@[simp] theorem State.setStream_cur (s : State) (e n : Nat) (y : Option Stream) : (s.setStream e n y).cur = s.cur := by
  cases y <;> rfl
@[simp] theorem State.setStream_sched (s : State) (e n : Nat) (y : Option Stream) : (s.setStream e n y).sched = s.sched := by
  cases y <;> rfl
@[simp] theorem State.setStream_choices (s : State) (e n : Nat) (y : Option Stream) : (s.setStream e n y).choices = s.choices := by
  cases y <;> rfl
@[simp] theorem State.setStream_free (s : State) (e n : Nat) (y : Option Stream) : (s.setStream e n y).free = s.free := by
  cases y <;> rfl
@[simp] theorem State.setStream_nextId (s : State) (e n : Nat) (y : Option Stream) : (s.setStream e n y).nextId = s.nextId := by
  cases y <;> rfl
/-- An ended stream is gone. -/
@[simp] theorem State.stream_setStream_none (s : State) (e n : Nat) : (s.setStream e n none).stream e n = none := by
  simp [State.stream, State.setStream, List.find?_eq_none]

end Sys2Proof.Machine
end

