-- ==== Sys2Proof/Tests/Slice0.lean ====
section
/-!
SUPPORT. Tests of one step each, and for every statement that has hypotheses a state and operands that meet them.
-/
namespace Sys2Proof.Tests
open Sys2Proof Sys2Proof.Machine Sys2Proof.Cert
set_option Elab.async false

/-! ## Decoding: words written out from the encodings of R87, R99 and R261, most of them the spec's own examples -/

/-- A format A word with every field 0. -/
def zA : FmtA := { dst := 0, sa := 0, sb := 0, sc := 0, rm := 0, f1 := 0, f2 := 0, red := 0, ms := 0, me := 0, imm := 0 }
/-- A format M word with every field 0. -/
def zM : FmtM := { dv := 0, sa := 0, sb := 0, lsid := 0, scope := 0, ord := 0, size := 0, aop := 0, nt := 0, off := 0 }
/-- A format E word with every field 0. -/
def zE : FmtE := { sa := 0, out := 0, cto := 0, ct := 0, cimm := 0, ef := 0, ofl := 0, sb := 0, rsv := 0 }
/-- A format CG word with every field 0. -/
def zCG : FmtCG := { gd := 0, ga := 0, gb := 0, gc := 0, imm := 0 }
/-- A format CM word with every field 0. -/
def zCM : FmtCM := { gd := 0, ga := 0, size := 0, ord := 0, scope := 0, off := 0 }
/-- A format CS word with every field 0. -/
def zCS : FmtCS := { gd := 0, ga := 0, csr := 0, rsv := 0 }

/-- ADD w3, s1, #-4 (R123). -/
theorem test_decode_add :
    decodeWord 0x180068F0000007FC none = .ok (.add { zA with dst := 3, sa := 17, sb := 56, imm := 0x7FC }) := by decide
/-- EXIT and NOP (R122). -/
theorem test_decode_exit : decodeWord 0x1410000000000000 none = .ok (.exit zA) ∧
    decodeWord 0x1400000000000000 none = .ok (.nop zA) := by decide
/-- EMIT #0, w1; FMUL w1, p0, c0 (R99). -/
theorem test_decode_emit_fmul : decodeWord 0x0800200000000000 none = .ok (.emit { zE with sa := 1 }) ∧
    decodeWord 0x3820343000100000 none = .ok (.fmul { zA with dst := 1, sa := 40, sb := 24, f1 := 1 }) := by decide
/-- VADD w1, w2, w3 in FP32; VSUMR and VSUMR.ALL. -/
theorem test_decode_vector :
    decodeWord 0x4000210600100000 none = .ok (.vadd { zA with dst := 1, sa := 2, sb := 3, f1 := 1 }) ∧
    decodeWord 0x5400408000100000 none = .ok (.vsumr { zA with dst := 2, sa := 1, f1 := 1 }) ∧
    decodeWord 0x54044C0000100100 none = .ok (.vsumr { zA with dst := 34, sa := 24, f1 := 1, imm := 0x100 }) := by decide
/-- MMA q0 and MMAG q1 with its extension word; ABX.ADD w2 in FP32. -/
theorem test_decode_matrix :
    decodeWord 0x6805808418220000 none =
      .ok (.mma { zA with dst := 44, sa := 1, sb := 2, sc := 3, f1 := 2, f2 := 2 }) ∧
    decodeWord 0x683DA08418220000 (some 4) =
      .ok (.mmag { zA with dst := 45, sa := 1, sb := 2, sc := 3, f1 := 2, f2 := 2 } 4) ∧
    decodeWord 0x7010010000100000 none = .ok (.abxAdd { zA with sa := 2, f1 := 1 }) := by decide
/-- DSEED, ROD.ADD, ROD.WAIT, LDT with its extension word. -/
theorem test_decode_memory :
    decodeWord 0xAC00210000100001 none = .ok (.dseed { zA with dst := 1, sa := 2, f1 := 1, imm := 1 }) ∧
    decodeWord 0xA007010015000001 none =
      .ok (.rodAdd { zM with dv := 56, sa := 2, lsid := 1, scope := 2, ord := 2, off := 1 }) ∧
    decodeWord 0xA010010604800000 none = .ok (.rodWait { zM with sa := 2, sb := 3, scope := 2, ord := 1 }) ∧
    decodeWord 0x800B20A406000000 (some 0x0000108800000008) =
      .ok (.ldt { zM with dv := 25, sa := 1, sb := 18, scope := 3 } 0x0000108800000008) := by decide
/-- LK.ACQ.SIX, LK.RALL, LNCH, TRIG. -/
theorem test_decode_locks :
    decodeWord 0xA400020006050000 none = .ok (.lkAcq { zM with sa := 4, scope := 3, aop := 5 }) ∧
    decodeWord 0xA430000016000000 none = .ok (.lkRall { zM with lsid := 1, scope := 3 }) ∧
    decodeWord 0xA800408036100000 none = .ok (.lnch { zM with dv := 2, sa := 1, lsid := 3, scope := 3, size := 1 }) ∧
    decodeWord 0xA810000046000000 none = .ok (.trig { zM with lsid := 4, scope := 3 }) := by decide
/-- CS.PEER.XOR.RK w4, rank, #1; CS.COPY; CS.WAIT; CS.SEND; CS.RRS; CS.END. -/
theorem test_decode_collective :
    decodeWord 0xB8109DF000210001 none =
      .ok (.csPeer { zA with dst := 4, sa := 59, sb := 56, f1 := 2, f2 := 1, imm := 1 }) ∧
    decodeWord 0xB400018210000000 none = .ok (.csCopy { zA with sa := 3, sb := 1, sc := 2 } none) ∧
    decodeWord 0xB410000000000000 none = .ok (.csWait zA) ∧
    decodeWord 0xB000020610000007 none = .ok (.csSend { zA with sa := 4, sb := 3, sc := 2, imm := 7 } none) ∧
    decodeWord 0xB027020210100007 none =
      .ok (.csRrs { zA with dst := 56, sa := 4, sb := 1, sc := 2, f1 := 1, imm := 7 } none) ∧
    decodeWord 0xB820000000000000 none = .ok (.csEnd zA) := by decide
/-- CSRR g1, #0x022; ST.B8.REL.PKG [g5], g6; RETRYF g3, g2; ERET (R278). -/
theorem test_decode_core :
    decodeWord 0xC800200110000000 none = .ok (.csrr { zCS with gd := 1, csr := 0x022 }) ∧
    decodeWord 0xC010C2B980000000 none = .ok (.st { zCM with gd := 6, ga := 5, size := 3, ord := 2, scope := 3 }) ∧
    decodeWord 0xD420610000000000 none = .ok (.retryf { zCG with gd := 3, ga := 2 }) ∧
    decodeWord 0xCC10000000000000 none = .ok (.eret zCG) := by decide
/-- PURGE g4, g3, g5; GARM g1, g2, g3; INJ g6, g7. -/
theorem test_decode_graph :
    decodeWord 0xD410818A00000000 none = .ok (.purge { zCG with gd := 4, ga := 3, gb := 5 }) ∧
    decodeWord 0xD010210600000000 none = .ok (.garm { zCG with gd := 1, ga := 2, gb := 3 }) ∧
    decodeWord 0xD400030E00000000 none = .ok (.inj { zCG with ga := 6, gb := 7 }) := by decide
/-- A reserved major, a reserved minor and a block header are no instruction. -/
theorem test_decode_reserved : decodeWord 0 none = .error .badOpcode ∧ decodeWord 0x0030000000000000 none = .error .badOpcode ∧
    decodeWord 0x0400000000000020 none = .error .structural := by decide

/-! ## Ill-formed words: one for each check, which the check refuses -/

/-- The fields that R88 wants 0, of each format. -/
theorem test_ill_fields : ([.add { zA with sc := 1 }, .nop { zA with dst := 1 }, .exit { zA with imm := 1 }, .mov { zA with sb := 1 },
    .clz { zA with imm := 1 }, .add { zA with rm := 1 }, .add { zA with f1 := 1 }, .add { zA with f2 := 1 },
    .add { zA with red := 1 }, .add { zA with ms := 1 }, .add { zA with me := 1 }, .ordj { zM with dv := 1 },
    .ordj { zM with sa := 1 }, .ordj { zM with sb := 1 }, .ordj { zM with scope := 5 }, .ordj { zM with ord := 1 },
    .ordj { zM with size := 1 }, .ordj { zM with aop := 1 }, .ordj { zM with nt := 1 }, .ordj { zM with off := 1 },
    .lkeSet { zM with scope := 1 }, .emit { zE with rsv := 1 }, .emit { zE with sb := 1 }, .emit { zE with ct := 1 },
    .emit { zE with cto := 1, ct := 5 }, .emit { zE with ef := 1, sa := 1 }, .null { zE with sa := 1 }, .null { zE with ef := 1 },
    .eret { zCG with gd := 1 }, .trapc { zCG with imm := 0x100 }, .li { dst := 0, qual := 1, imm := 0 } none,
    .jal { gd := 0, ga := 1, rsv := 0, off := 0 }, .jalr { gd := 0, ga := 0, rsv := 1, off := 0 },
    .csrr { zCS with ga := 1 }, .csrw { zCS with rsv := 1 }] : List Instr).all (fun i => !i.wellFormed) = true := by decide

/-- Reserved codes of formats, rounding modes, conditions and immediates. -/
theorem test_ill_codes : ([.fadd { zA with rm := 5 }, .fadd { zA with f1 := 4 }, .fcmp { zA with f2 := 8 }, .fcvt { zA with f1 := 14 },
    .fcvt { zA with f2 := 14 }, .cmp { zA with f1 := 10 }, .steer { zA with f1 := 10 } none, .steer { zA with imm := 0x100 } none,
    .steer zA (some 0x100000000), .tdget { zA with imm := 10 }, .lgen { zA with imm := 8 }, .rels { zA with imm := 4 },
    .br { ga := 0, gb := 0, cc := 10, off := 0 }, .vadd { zA with f1 := 4 }, .vadd { zA with f1 := 13 },
    .vadd { zA with f1 := 1, imm := 4 }, .vadd { zA with f1 := 8, rm := 1 }, .vadd { zA with f1 := 1, imm := 2 },
    .vand { zA with f1 := 1 }, .vand { zA with f1 := 13 }, .vcmp { zA with f1 := 1, f2 := 8 }, .vcmp { zA with f1 := 8, f2 := 10 },
    .vsel { zA with f1 := 13 }, .vmsk { zA with imm := 0x400 }, .vcvt { zA with rm := 5 }, .vrcp { zA with f1 := 4 },
    .vexp2 zA, .vnrs { zA with imm := 2 }, .vsumr { zA with f1 := 4 }, .vsumr { zA with f1 := 1, rm := 4 },
    .vsumr { zA with f1 := 1, red := 3 }, .vsumr { zA with red := 2 }, .vsumr { zA with f1 := 8, red := 1 },
    .vsumr { zA with f1 := 1, imm := 0x100, me := 1 }, .vbcst { zA with imm := 0x300 }, .vtrn { zA with imm := 1 },
    .vqnt { zA with f1 := 0, f2 := 4 }, .vqnt { zA with f1 := 1, f2 := 3 }, .vqnt { zA with f1 := 1, f2 := 4, imm := 4 },
    .vdqnt { zA with f1 := 3, f2 := 1 }, .vaddc { zA with f1 := 9 }, .vaddc { zA with f1 := 8, me := 1 },
    .vmulw { zA with f1 := 8, imm := 7 }, .vtopk { zA with f1 := 6 }, .mma { zA with f1 := 1, f2 := 2 },
    .mma { zA with imm := 4 }, .mmaq { zA with f1 := 1, f2 := 10 }, .mmaq { zA with f1 := 2, f2 := 9 }, .mmax { zA with f1 := 3, f2 := 4 },
    .mmag { zA with imm := 1 } 0, .mmag zA 0x40, .mldq { zA with f2 := 2 }, .mstq { zA with f1 := 2 }, .abxClr { zA with imm := 0x400 },
    .abxClr { zA with imm := 0x001 ||| 0x380 }, .abxAdd zA, .abxAdd { zA with f1 := 1, imm := 0x400 },
    .abxAdd { zA with f1 := 1, imm := 0x180 }, .abxRnd { zA with f1 := 2 }, .dseed { zA with imm := 0 }, .dseed { zA with imm := 5 },
    .dseed { zA with imm := 1, f1 := 8 }, .dtget { zA with imm := 1 + 8 }, .dtset { zA with imm := 1 + 16 },
    .dtzro { zA with imm := 32 }] : List Instr).all (fun i => !i.wellFormed) = true := by decide

/-- Codes of memory, rod, lock, launch, collective and core words. -/
theorem test_ill_memory : ([.ldg { zM with ord := 2 }, .ldg { zM with size := 7 }, .stg { zM with ord := 1 }, .stg { zM with size := 4 },
    .ldt { zM with ord := 1 } 0, .ldt zM 1, .ldt { zM with sb := 1 } 0, .clrm zM 0x10000000000, .atom { zM with size := 1 } none,
    .atom { zM with size := 2, aop := 12 } none, .atom { zM with size := 2 } (some 0), .cas { zM with size := 2 } (some 0x8000000001),
    .redt { zM with size := 2 } 0, .redt { zM with aop := 1 } 0, .rmtFaa { zM with size := 2 } none, .rmtSt { zM with size := 4 },
    .rmtFlag { zM with size := 2 }, .rmtFlag { zM with size := 3, aop := 2 }, .rodAdd { zM with ord := 1 }, .rodWait { zM with ord := 2 },
    .rodInit { zM with lsid := 1 }, .rodInitFree zM, .lkAcq zM, .lkAcq { zM with aop := 7 }, .lkAcq { zM with aop := 1, size := 2 },
    .lkQry { zM with ord := 2 }, .lkeSet { zM with off := 64 }, .lnch zM, .lnch { zM with scope := 3, size := 2 }, .trig { zM with scope := 2 },
    .csSend { zA with f2 := 1 } none, .csSendG { zA with f2 := 1 } 1, .csRrs { zA with f1 := 4 } none, .csRrs { zA with red := 2, f1 := 1 } none,
    .csWait { zA with imm := 2 }, .csWait { zA with sa := 1 }, .csLoop zA, .csPeer { zA with f1 := 10 }, .csPeer { zA with f1 := 9 },
    .ld { zCM with size := 7 }, .ld { zCM with ord := 2 }, .st { zCM with size := 4 }, .st { zCM with scope := 5 }, .st { zCM with ord := 1 },
    .retryfFail zCG, .qdrn { zCG with imm := 8 }] : List Instr).all (fun i => !i.wellFormed) = true := by decide

/-- The same words with those fields put right are well formed. -/
theorem test_well_formed : ([.add { zA with dst := 3, sa := 17, sb := 56, imm := 0x7FC }, .emit { zE with cto := 1, ct := 4 }, .fadd zA,
    .vadd { zA with f1 := 8, imm := 4 }, .vsumr { zA with f1 := 1, imm := 0x100 }, .mma { zA with f1 := 4, f2 := 7 },
    .abxClr { zA with imm := 0x380 }, .ldt { zM with sb := 1 } 0x800000000, .atom { zM with size := 2 } (some 0x8000000000),
    .csPeer { zA with f1 := 9, sa := 56 }, .trapc { zCG with imm := 0xFF }] : List Instr).all (fun i => i.wellFormed) = true := by
  decide

/-! ## Helpers -/

/-- A pass of operator 0 with the registers `w` and the tangent count `k`, in the middle of its body. -/
def actK (k : Nat) (w : Table Word) : Active :=
  { fr := { uid := 1, len := 1, passes := [(0, [])] }, pass := { run := 256, next := 1, kfire := k, kp := k, r := { w := w } } }
/-- The same without tangents. -/
def act (w : Table Word) : Active := actK 0 w
/-- Engine 0 with the pass open in its vector slot, running. -/
def pSK (k : Nat) (w : Table Word) : State :=
  let s := State.reset.withFetchWord 64 0x180068F0000007FC
  { s.setEngine 0 { s.engine 0 with vec := { act := some (actK k w) } } with cur := .pass 0 1 }
/-- The same without tangents. -/
def pS (w : Table Word) : State := pSK 0 w
/-- Core 0 running, with registers. -/
def cS (g : Table Word) : State := { State.reset.setCore 0 { State.reset.core 0 with g := g } with cur := .core 0 }
/-- Core 0 in user mode. -/
def uS (g : Table Word) : State :=
  let s := cS g
  s.setCore 0 { s.core 0 with csr := { (s.core 0).csr with mode := false, cctx := 0 } }
/-- Four FP32 elements in one row at the bottom of scratch. -/
def d1 : Word := 0x100000000
/-- The same pass on an engine that is the only member of an ACTIVE group of its context. -/
def gS (w : Table Word) : State := (pS w).setGroup 0 0 { st := .active, nmem := 1 }
/-- Output reference 0 of the operator whose pass is open, to engine 1 of die 0. -/
def oS (w : Table Word) (ref : Word) : State :=
  let s := pS w
  let e := s.engine 0
  s.setEngine 0 { e with t := { e.t with ol := [(0, ref)], olx := [] } }
/-- The registers w1 to w3 with the tiles `d` one, two and three lines further. -/
def r3 (d : Word) : Table Word := [(1, d + 1), (2, d + 2), (3, d + 3)]
/-- DST w1, SA w2, SB w3, SC w2, in a format. -/
def fV (m : BitVec 4) : FmtA := { zA with dst := 1, sa := 2, sb := 3, sc := 2, f1 := m }
/-- A linear tile of one row of 16 bytes in a format. -/
def dF (m : Nat) : Word := BitVec.ofNat 64 (m * 2 ^ 32)
/-- The state with words of memory written. -/
def mS (l : List (Nat × Word)) (s : State) : State := l.foldl (fun t p => t.wrWord p.1 p.2) s
/-- An access of the pass. -/
def viaP (k : AccKind) : Via := madeBy 0 (act []) k
/-- A context with vault 0 of die 0 in its window. -/
def vS (w : Table Word) : State :=
  let s := pS w
  s.setCtx 0 { s.ctx 0 with r := { win := [(0, { cnt := 1 })] } }
/-- A running instance 0 of context 0 that names process group 0 of two ranks. -/
def kS (s : State) : State :=
  let t := s.setCtx 0 { s.ctx 0 with pgts := [(0, { v := true, n := 2 })] }
  { t with cp := { t.cp with kernels := [(0, { used := true, st := .running, launch := { pgtm := 1 } })] } }
/-- Core 0 with its CSRs changed. -/
def csS (f : CoreCsr → CoreCsr) : State :=
  let s := cS []
  s.setCore 0 { s.core 0 with csr := f (s.core 0).csr }
/-- Core 0 with a kernel of context 0 in slot 0. -/
def kerS (st : KernelSt) : State :=
  let s := (cS [(1, 2 ^ 63)]).setUnits 0 { (cS []).units 0 with kslots := [(0, some 0)] }
  { s with cp := { s.cp with kernels := [(0, { used := true, st := st })] } }

/-- Format B with every field 0. -/
def zB : FmtB := { dst := 0, qual := 0, imm := 0 }
/-- Format CB with every field 0. -/
def zCB : FmtCB := { ga := 0, gb := 0, cc := 0, off := 0 }
/-- Format CJ with every field 0. -/
def zCJ : FmtCJ := { gd := 0, ga := 0, rsv := 0, off := 0 }
/-- Major and minor of block and scalar words (R99), with fields of 0 where the word has no others. -/
theorem test_table_passControl : ∀ p ∈ ([
      (0x0800000000000000, none, .emit zE), (0x0810000000000000, none, .null zE), (0x0C00000000000000, none, .steer zA none),
      (0x1000000000000000, none, .lgen zA), (0x1010000000000000, none, .dmnd zA), (0x1020000000000000, none, .rels zA),
      (0x1030000000000000, none, .keep zA), (0x1040000000000000, none, .colr zA), (0x1400000000000000, none, .nop zA),
      (0x1410000000000000, none, .exit zA), (0x1800000000000000, none, .add zA), (0x1810000000000000, none, .sub zA),
      (0x1820000000000000, none, .mul zA), (0x1830000000000000, none, .mulh zA), (0x1840000000000000, none, .mulhu zA),
      (0x1850000000000000, none, .divu zA), (0x1860000000000000, none, .remu zA), (0x1C00000000000000, none, .and zA),
      (0x1C10000000000000, none, .or zA), (0x1C20000000000000, none, .xor zA), (0x1C30000000000000, none, .andn zA),
      (0x1C40000000000000, none, .shl zA), (0x1C50000000000000, none, .shr zA), (0x1C60000000000000, none, .sra zA),
      (0x2000000000000000, none, .min zA), (0x2010000000000000, none, .max zA), (0x2020000000000000, none, .minu zA),
      (0x2030000000000000, none, .maxu zA), (0x2040000000000000, none, .cmp zA), (0x2050000000000000, none, .sel zA),
      (0x2400000000000000, none, .mov zA), (0x2410000000000000, none, .clz zA), (0x2420000000000000, none, .popc zA),
      (0x2430000000000000, none, .bfx zA), (0x2440000000000000, none, .bfi zA), (0x2800000000000000, none, .li zB none),
      (0x2C00000000000000, none, .tdmk zA), (0x2C10000000000000, none, .tdget zA), (0x2C20000000000000, none, .tdset zA),
      (0x2C30000000000000, none, .tdadv zA), (0x2C40000000000000, none, .tdsub zA), (0x3800000000000000, none, .fadd zA),
      (0x3810000000000000, none, .fsub zA), (0x3820000000000000, none, .fmul zA), (0x3830000000000000, none, .ffma zA),
      (0x3840000000000000, none, .fmin zA), (0x3850000000000000, none, .fmax zA), (0x3C00000000000000, none, .fcmp zA),
      (0x3C10000000000000, none, .fcvt zA), (0x3C20000000000000, none, .frcp zA), (0x3C30000000000000, none, .frsq zA)] :
      List (Word × Option Word × Instr)),
    decodeWord p.1 p.2.1 = .ok p.2.2 := by decide +kernel
/-- Major and minor of the vector words (R99), with fields of 0 where the word has no others. -/
theorem test_table_vector : ∀ p ∈ ([
      (0x4000000000000000, none, .vadd zA), (0x4010000000000000, none, .vsub zA), (0x4020000000000000, none, .vmul zA),
      (0x4030000000000000, none, .vfma zA), (0x4040000000000000, none, .vmin zA), (0x4050000000000000, none, .vmax zA),
      (0x4060000000000000, none, .vabs zA), (0x4070000000000000, none, .vneg zA),
      (0x4400000000800000, none, .vand { zA with f1 := 8 }), (0x4410000000800000, none, .vor { zA with f1 := 8 }),
      (0x4420000000800000, none, .vxor { zA with f1 := 8 }), (0x4430000000800000, none, .vshl { zA with f1 := 8 }),
      (0x4440000000800000, none, .vshr { zA with f1 := 8 }), (0x4450000000800000, none, .vsra { zA with f1 := 8 }),
      (0x4800000000000000, none, .vcmp zA), (0x4810000000000000, none, .vsel zA), (0x4820000000000000, none, .vmsk zA),
      (0x4C00000000000000, none, .vcvt zA), (0x5000000000000000, none, .vrcp zA), (0x5010000000000000, none, .vrsq zA),
      (0x5020000000000000, none, .vnrs zA), (0x5030000000100000, none, .vexp2 { zA with f1 := 1 }),
      (0x5040000000100000, none, .vlog2 { zA with f1 := 1 }), (0x5050000000100000, none, .vtanh { zA with f1 := 1 }),
      (0x5400000000000000, none, .vsumr zA), (0x5410000000000000, none, .vmaxr zA), (0x5420000000000000, none, .vscan zA),
      (0x5800000000000000, none, .vbcst zA), (0x5810000000000000, none, .vlsh zA), (0x5820000000000000, none, .vperm zA),
      (0x5830000000000000, none, .vtrn zA), (0x5C00000000140000, none, .vqnt { zA with f1 := 1, f2 := 4 }),
      (0x5C10000000410000, none, .vdqnt { zA with f1 := 4, f2 := 1 }), (0x6000000000800000, none, .vaddc { zA with f1 := 8 }),
      (0x6010000000800000, none, .vmulw { zA with f1 := 8 }), (0x6400000000100000, none, .vtopk { zA with f1 := 1 })] :
      List (Word × Option Word × Instr)),
    decodeWord p.1 p.2.1 = .ok p.2.2 := by decide +kernel
/-- Major and minor of the matrix, Abacus, memory, rod, lock, launch and tangent words (R99), with fields of 0 where the word has no others. -/
theorem test_table_matrixMemory : ∀ p ∈ ([
      (0x6800000000000000, none, .mma zA), (0x68100000002A0000, none, .mmaq { zA with f1 := 2, f2 := 10 }),
      (0x6820000000440000, none, .mmax { zA with f1 := 4, f2 := 4 }), (0x6838000000000000, some 0, .mmag zA 0),
      (0x6C00000000000000, none, .mzro zA), (0x6C10000000000000, none, .mldq zA), (0x6C20000000000000, none, .mstq zA),
      (0x7000000000000000, none, .abxClr zA), (0x7010000000100000, none, .abxAdd { zA with f1 := 1 }),
      (0x7020000000110000, none, .abxDot { zA with f1 := 1, f2 := 1 }), (0x7030000000000000, none, .abxMrg zA),
      (0x7040000000100000, none, .abxRnd { zA with f1 := 1 }), (0x7050000000000000, none, .abxOut zA),
      (0x8008000000000000, some 0, .ldt zM 0), (0x8018000000000000, some 0, .stt zM 0), (0x8400000000000000, none, .ldg zM),
      (0x8410000000000000, none, .stg zM), (0x8800000000000000, none, .lds zM), (0x8810000000000000, none, .sts zM),
      (0x8C08000000000000, some 0, .clrm zM 0), (0x9000000000000000, none, .ordj zM), (0x9010000000000000, none, .fence zM),
      (0x9800000000200000, none, .atom { zM with size := 2 } none), (0x9810000000200000, none, .cas { zM with size := 2 } none),
      (0x9828000000000000, some 0, .redt zM 0), (0x9C00000000300000, none, .rmtFaa { zM with size := 3 } none),
      (0x9C10000000000000, none, .rmtSt zM), (0x9C28000000000000, some 0, .rmtStt zM 0),
      (0x9C30000000300000, none, .rmtFlag { zM with size := 3 }), (0xA000000000000000, none, .rodAdd zM),
      (0xA010000000000000, none, .rodWait zM), (0xA020000000000000, none, .rodRd zM), (0xA030000000000000, none, .rodInit zM),
      (0xA400000000010000, none, .lkAcq { zM with aop := 1 }), (0xA410000000010000, none, .lkUpg { zM with aop := 1 }),
      (0xA420000000000000, none, .lkRel zM), (0xA430000000000000, none, .lkRall zM), (0xA440000000000000, none, .lkQry zM),
      (0xA450000000000000, none, .lkmLd zM), (0xA460000000000000, none, .lkeSet zM),
      (0xA800000006000000, none, .lnch { zM with scope := 3 }), (0xA810000006000000, none, .trig { zM with scope := 3 }),
      (0xAC00000000000001, none, .dseed { zA with imm := 1 }), (0xAC10000000000001, none, .dtget { zA with imm := 1 }),
      (0xAC20000000000001, none, .dtset { zA with imm := 1 }), (0xAC30000000000000, none, .dtzro zA)] :
      List (Word × Option Word × Instr)),
    decodeWord p.1 p.2.1 = .ok p.2.2 := by decide +kernel
/-- Major and minor of the words of programs and of control cores (R99), with fields of 0 where the word has no others. -/
theorem test_table_programCore : ∀ p ∈ ([
      (0xB000000000000000, none, .csSend zA none), (0xB010000000000000, none, .csRecv zA none),
      (0xB020000000000000, none, .csRrs zA none), (0xB400000000000000, none, .csCopy zA none),
      (0xB410000000000000, none, .csWait zA), (0xB800000000000001, none, .csLoop { zA with imm := 1 }),
      (0xB810000000000000, none, .csPeer zA), (0xB820000000000000, none, .csEnd zA), (0xC000000000000000, none, .ld zCM),
      (0xC010000000000000, none, .st zCM), (0xC400000000000000, none, .br zCB), (0xC410000000000000, none, .jal zCJ),
      (0xC420000000000000, none, .jalr zCJ), (0xC800000000000000, none, .csrr zCS), (0xC810000000000000, none, .csrw zCS),
      (0xC820000000000000, none, .csrs zCS), (0xC830000000000000, none, .csrc zCS), (0xCC00000000000000, none, .trapc zCG),
      (0xCC10000000000000, none, .eret zCG), (0xCC20000000000000, none, .wfe zCG), (0xD000000000000000, none, .gload zCG),
      (0xD010000000000000, none, .garm zCG), (0xD020000000000000, none, .gdisarm zCG), (0xD400000000000000, none, .inj zCG),
      (0xD410000000000000, none, .purge zCG), (0xD420000000000000, none, .retryf zCG), (0xD800000000000000, none, .snap zCG),
      (0xD810000000000000, none, .rstor zCG), (0xD820000000000000, none, .qdrn zCG), (0xD830000000000000, none, .msrd zCG),
      (0xD840000000000000, none, .mswr zCG), (0xB008000000010000, some 0, .csSendG { zA with f2 := 1 } 0),
      (0xA030000000010000, none, .rodInitFree { zM with aop := 1 }),
      (0xD420000000000001, none, .retryfFail { zCG with imm := 1 })] :
      List (Word × Option Word × Instr)),
    decodeWord p.1 p.2.1 = .ok p.2.2 := by decide +kernel

/-! ## One step -/

/-- The value of register `x` of core 0 after a step, if it goes on. -/
def afterCore (s : State) (x : Spec) : Option Word :=
  match step s with
  | .next t => some ((t.core 0).rd x)
  | _ => none
/-- The value of register `x` of the pass in slot 1 of engine 0 after a step, if it goes on with a pass there. -/
def afterPass (s : State) (x : Spec) : Option Word :=
  match step s with
  | .next t => (t.active 0 1).map fun a => a.pass.rd t.tick x
  | _ => none

/-- ADD w3, w17, #-4 in a body: w17 is 0 (R123, R124). -/
theorem test_step_add_pass :
    afterPass (State.reset.withFetchWord 64 0x180068F0000007FC) 3 = some 0xFFFFFFFFFFFFFFFC := by decide +kernel
/-- The same word on a control core. -/
theorem test_step_add_core :
    (match exec (.add { zA with dst := 3, sa := 1, sb := 2, imm := 0x7FC }) (cS [(1, 10), (2, 20)]) with
      | .next t => decide ((t.core 0).rd 3 = 26)
      | _ => false) = true := by decide +kernel
/-- EXIT ends the body. -/
theorem test_step_exit :
    (match step (State.reset.withFetchWord 64 0x1410000000000000) with
      | .next t => (t.active 0 1).map fun a => a.pass.done
      | _ => none) = some true := by decide +kernel
/-- CSRR g1, #0x022 on a core: TREC2 is 0 after reset. -/
theorem test_step_csrr : afterCore (State.reset.withFetchWord 64 0xC800200110000000) 1 = some 0 := by decide +kernel
/-- DIVU by 0 gives all ones, REMU by 0 the dividend (R124). -/
theorem test_divide_by_zero :
    (match exec (.divu { zA with dst := 1, sa := 2, sb := 3 }) (cS [(2, 7)]), exec (.remu { zA with dst := 1, sa := 2, sb := 3 }) (cS [(2, 7)]) with
      | .next t, .next u => decide ((t.core 0).rd 1 = 0xFFFFFFFFFFFFFFFF ∧ (u.core 0).rd 1 = 7)
      | _, _ => false) = true := by decide +kernel
/-- MULHU and MULH of all ones (R124). -/
theorem test_high_products :
    (match exec (.mulhu { zA with dst := 1, sa := 2, sb := 2 }) (cS [(2, 0xFFFFFFFFFFFFFFFF)]),
        exec (.mulh { zA with dst := 1, sa := 2, sb := 2 }) (cS [(2, 0xFFFFFFFFFFFFFFFF)]) with
      | .next t, .next u => decide ((t.core 0).rd 1 = 0xFFFFFFFFFFFFFFFE ∧ (u.core 0).rd 1 = 0)
      | _, _ => false) = true := by decide +kernel

/-! ## Witnesses: states and operands that meet the hypotheses of a statement -/

/-- DecodeOfEncode and EncodeOfDecode: EXIT. -/
theorem wit_DecodeOfEncode : (Instr.exit zA).wellFormed ∧ encodeWord (.exit zA) = some (0x1410000000000000, none) ∧
    decodeWord 0x1410000000000000 none = .ok (.exit zA) ∧ wordXt 0x1410000000000000 = (none : Option Word).isSome := by decide
/-- StepRunsDecodedWord on a pass: a word, and a word after a P word. -/
theorem wit_StepRunsPassWord : ∀ w ∈ [0x180068F0000007FC, 0xF800000000000000],
    let s := State.reset.withFetchWord 64 w
    let m := s.nextMove
    m.1 = .engine 0 1 ∧ m.2.isFrozen = false ∧
      (match m.2.active 0 1 with
        | some a => decide (a.pass.wait = .none) && !a.pass.done && decide (a.pass.next ≤ (m.2.opOf 0 a).h.blen)
        | none => false) = true := by decide +kernel
/-- StepRunsDecodedWord on a core: a word, and a word with an extension word. -/
theorem wit_StepRunsCoreWord : ∀ w ∈ [0xC800200110000000],
    let s := State.reset.withFetchWord 64 w
    let t := s.nextMove.2
    let c := t.core 0
    s.nextMove.1 = .core 0 ∧ t.isFrozen = false ∧ c.run = true ∧ c.halted = false ∧ c.step = none ∧ c.csr.ie = false ∧
      c.csr.mode = true ∧ c.wfe = false ∧ ({ t with cur := .core 0 }.fetchWord 0 c.pc).1.toOption = some (BitVec.ofNat 64 w) ∧
      wordXt (BitVec.ofNat 64 w) = false := by decide +kernel
/-- LI with an extension word, at the PC of core 0. -/
def liCore : State :=
  let s := State.reset.withFetchWord 64 0xC800200110000000
  (s.wrWord (hbmHome 0) 0x2808200000000000).wrWord (hbmHome 8) 0x123456789ABCDEF0
theorem wit_StepRunsCoreExt :
    let t := { liCore.nextMove.2 with cur := .core 0 }
    let u := t.fetchWord 0 0
    (match u.1 with
      | .ok w => wordXt w && ((u.2.setCore 0 { u.2.core 0 with wfe := false }).fetchWord 0 8).1.toOption.isSome
      | .error _ => false) = true := by decide +kernel
/-- StepRunsDecodedWord in a program: CS.WAIT. -/
theorem wit_StepRunsProgramWord :
    let s := State.reset.withFetchWord 64 0xB410000000000000
    let t := s.nextMove.2
    s.nextMove.1 = .seq 0 0 ∧ t.isFrozen = false ∧
      (match t.prog 0 0 with
        | some p => !p.stop && decide ((t.ctx p.ctx).st = .running) && decide (p.words[p.pc]? = some 0xB410000000000000)
        | none => false) = true ∧ wordXt 0xB410000000000000 = false := by decide +kernel
/-- StepRunsEvents: the reset release, and a freeze from outside. -/
theorem wit_StepRunsEvents :
    (let s := { State.reset with sched := [.deliver 0] }
     let t := s.nextMove.2
     s.nextMove.1 = .deliver 0 ∧ t.isFrozen = false ∧ t.pend[0]? = some ⟨0, [], .resetRelease⟩ ∧ t.joining 0 = false ∧
      { t with pend := t.pend.eraseIdx 0, arr := 0 }.depsDone [] = true) ∧
    (let s := { State.reset with sched := [.occur .freeze] }
     s.nextMove.1 = .occur .freeze ∧ s.nextMove.2.isFrozen = false ∧ instrOccurs .freeze = true ∧ outsideWrite .freeze = none ∧
       hostEvent .freeze = false) ∧
    (let s := { State.reset with sched := [.occur .boot] }
     instrOccurs .boot = true ∧ hostEvent .boot = true ∧ s.nextMove.2.hostBusy = false ∧ outsideWrite .boot = some (0xC00018, 1) ∧
       (s.nextMove.2.decision 0 0 255 [0xC00018, 1]).isSome = true) := by decide +kernel
/-- MemoryReadAfterWrite has no hypothesis; its two clauses at the ends of the bytes written. -/
theorem wit_MemoryReadAfterWrite :
    let s := State.reset.wrBytes 64 [1, 2, 3]
    s.rdByte 63 = 0 ∧ s.rdByte 64 = 1 ∧ s.rdByte 66 = 3 ∧ s.rdByte 67 = 0 := by decide +kernel
/-- An open pass that runs, and a core that runs (IntegerWords, CountBits, BitFieldsAndLi, MovesAndSelects, FloatWords). -/
theorem wit_IntegerWords : InPass (pS [(1, 5)]) 0 1 (act [(1, 5)]) ∧ (cS [(1, 5)]).cur = .core 0 := by decide +kernel
/-- CountBits: well-formed CLZ and POPC. -/
theorem wit_CountBits : (Instr.clz zA).wellFormed ∧ (Instr.popc zA).wellFormed := by decide
/-- BitFieldsAndLi: the function that BFI is claimed to write exists. -/
theorem wit_BitFieldsAndLi : ∃ g : Word → Word → Word → Word, ∀ a b c k, k < 64 → (g a b c).getLsbD k =
    if b.toNat % 64 ≤ k ∧ k ≤ b.toNat % 64 + b.toNat / 64 % 64 then c.getLsbD (k - b.toNat % 64) else a.getLsbD k :=
  ⟨fun a b c => BitVec.ofFnLE fun k : Fin 64 => if b.toNat % 64 ≤ k ∧ k ≤ b.toNat % 64 + b.toNat / 64 % 64 then
    c.getLsbD (k - b.toNat % 64) else a.getLsbD k, fun a b c k h => by simp [h]⟩
/-- MovesAndSelects: a condition that is 0 and one that is not, and a mask register. -/
theorem wit_MovesAndSelects :
    (act [(1, 0)]).pass.rd 0 1 = 0 ∧ (act [(1, 7)]).pass.rd 0 1 ≠ 0 ∧ (Instr.mov zA).wellFormed ∧
      ((cS []).core 0).rd 1 = 0 ∧ ((cS [(1, 7)]).core 0).rd 1 ≠ 0 := by decide +kernel

/-- DescriptorWords: operands of TDMK for scratch and for the group window, and on another path. -/
theorem wit_DescriptorWords_tdmk :
    (let a := act [(1, 0xA000000000000000), (2, d1)]
     let A := a.pass.rd 0 1
     InPass (pS [(1, 0xA000000000000000), (2, d1)]) 0 1 a ∧ A.extractLsb' 0 6 = 0 ∧ (A.extractLsb' 0 20).toNat < 786432 ∧
      addrPath A = 0xA ∧ A.extractLsb' 20 40 = 0 ∧ descFault ((pS []).nmemOf 0)
        (0#3 ++ 0#4 ++ 0#2 ++ (a.pass.rd 0 2).extractLsb' 14 41 ++ A.extractLsb' 6 14) = none) ∧
    (let a := act [(1, 0xB000000000000000), (2, d1)]
     let A := a.pass.rd 0 1
     InPass (gS [(1, 0xB000000000000000), (2, d1)]) 0 1 a ∧ addrPath A = 0xB ∧ A.extractLsb' 24 36 = 0 ∧
      descFault ((gS []).nmemOf 0) (0#3 ++ A.extractLsb' 20 4 ++ 1#2 ++ (a.pass.rd 0 2).extractLsb' 14 41 ++ A.extractLsb' 6 14) = none) ∧
    (let A := (act []).pass.rd 0 1
     addrPath A ≠ 0xA ∧ addrPath A ≠ 0xB) := by decide +kernel
/-- DescriptorWords: TDSET of BASE and of MEMBER, with the largest value that fits and the first that does not. -/
theorem wit_DescriptorWords_tdset :
    (let d : Word := d1 ||| 0x2FFF
     descFault 0 d = none ∧ (0x2FFF#64).toNat < 2 ^ 14 ∧ d.extractLsb' 0 14 = (0x2FFF#64).setWidth 14 ∧
      ∀ k < 64, k < 0 ∨ 0 + 14 ≤ k → d.getLsbD k = d1.getLsbD k) ∧
    2 ^ 14 ≤ (0x4000#64).toNat ∧ 2 ^ 4 ≤ (0x10#64).toNat ∧ ((0 : Nat), 0, 14) ∈ [((0 : Nat), 0, 14), (9, 57, 4)] := by decide +kernel
/-- DescriptorWords: TDADV to the last line and past it, and below the first; TDSUB of a row that exists. -/
theorem wit_DescriptorWords_tdadv :
    (let A : Word := d1 ||| 0x2FFE
     (12287#14).toNat ≤ 12287 ∧ ((12287#14).toNat : Int) = ((A.extractLsb' 0 14).toNat : Int) + (opB zA 1).toInt ∧
      descFault 0 (A.extractLsb' 14 50 ++ 12287#14) = none ∧
      (12287 : Int) < ((A.extractLsb' 0 14).toNat : Int) + (opB zA 2).toInt ∧
      ((A.extractLsb' 0 14).toNat : Int) + (opB zA 0xFFFFFFFFFFFF0000).toInt < 0) ∧
    tdSubRows d1 0 1 = some d1 ∧ descFault 0 d1 = none := by decide +kernel
/-- OutputAndRecordWords: an output to an engine, a reserved unit, a tile output with a good descriptor, and LGEN at 0, 32 and 33. -/
theorem wit_OutputWords :
    unitOk (refUnit (outRef (oS [] 0) 0 (act []) 0)) = true ∧ ¬ (224 ≤ refUnit (outRef (oS [] 0) 0 (act []) 0)) ∧
    ((oS [] 0).engine 0 |>.refInfo ((oS [] 0).opOf 0 (act [])) 0).tile = false ∧
    (unitOk 72 = false ∧ unitOk 223 = false) ∧
    ((act [(1, 32)]).pass.rd 0 1).toNat ≤ 32 ∧ (act [(1, 32)]).pass.rd 0 1 ≠ 0 ∧ 32 < ((act [(1, 33)]).pass.rd 0 1).toNat ∧
    (act [(1, 0)]).pass.rd 0 1 = 0 := by decide +kernel
/-- A pass with a token at port 0. -/
def keepA (tok : Token) : Active := { act [] with pass := { (act []).pass with ins := [{ tok := some tok }] } }
/-- OutputAndRecordWords: STEER with a condition that holds and one that does not, after none and after one; KEEP of a token, of
a null, and of a kept one; RELS. -/
theorem wit_PassRecordWords :
    condOf 0 0 0 = true ∧ condOf 1 0 0 = false ∧ (act []).pass.b.steers = 0 ∧
    ((keepA 0).pass.ins.getD 0 {}).tok = some 0 ∧ tokN 0 = false ∧ tokE 0 = false ∧
    (0, 0) ∉ (keepA 0).pass.b.keeps ∧ (∃ t : Token, tokN t = true ∧ ((keepA t).pass.ins.getD 0 {}).tok = some t) ∧
    (let b := { (act []).pass.b with keeps := [(0, 0)], steers := 1 }
     (0, 0) ∈ b.keeps ∧ 0 < b.steers ∧ (0, 1) ∉ b.keeps) :=
  ⟨by decide +kernel, by decide +kernel, by decide +kernel, by decide +kernel, by decide +kernel, by decide +kernel,
   by decide +kernel, ⟨tokWithPay (TokF.mk128 { n := true }) 0, by decide +kernel, rfl⟩, by decide +kernel⟩
/-- TileAccess: a descriptor and a tile of its shape. -/
theorem wit_TileAccess : d1 ≠ 0 ∧ dRot d1 = 0 ∧ descFault ((pS []).nmemOf 0) d1 = none ∧ [[1, 2, 3, 4]].length = dRows d1 ∧
    ∀ row ∈ [[1, 2, 3, 2 ^ 32 - 1]], row.length = dEpr d1 ∧ ∀ x ∈ row, x < 2 ^ fmtBits (dFmt d1) := by decide +kernel

/-- OutputAndRecordWords: EMIT of a tile that lies in the output sub-slot. -/
theorem wit_EmitTile : (oS [(1, d1)] 0).emitTileFault 0 (act [(1, d1)]) ((act [(1, d1)]).pass.rd 0 1) = none := by decide +kernel
/-- VectorFloatAndFunctions, VectorIntegerAndLogic: the checks pass on an element-wise word, with and without tangents. -/
theorem wit_VectorWords : ∀ m ∈ [0, 1, 3, 8, 9, 10, 12], ∀ dual ∈ [false, true],
    let w := r3 (dF m)
    let a := act w
    let A := a.pass.tileIn 0 2 m
    let B := a.pass.maybeScal 0 3 m false
    InPass (pS w) 0 1 a ∧ tilesReady (pS w) 0 a (fV m) (· == m) [A, B] dual ∧ tilesReady (pS w) 0 a (fV m) (· == m) [A] dual ∧
      tilesReady (pS w) 0 a (fV m) (· == m) [A, a.pass.plainIn 0 3 m] dual ∧
      tilesReady (pS w) 0 a (fV m) (· == m) [A, a.pass.maybeScal 0 3 m true, A] dual := by
  unfold tilesReady; decide +kernel
/-- The formats of VectorFloat, VectorInteger and VectorFunctions at their ends. -/
theorem wit_VectorFormats : (fV 3).f1.toNat ≤ 3 ∧ (fV 0).f1.toNat ≤ 3 ∧ 8 ≤ (fV 8).f1.toNat ∧ 8 ≤ (fV 12).f1.toNat := by decide
/-- VectorSelectAndMasks: VCMP of FP32 into FP32 and into UINT8, VSEL under a float and an integer condition, VMSK of a tile and
of the zero descriptor. -/
theorem wit_VectorSelectAndMasks :
    (∀ p ∈ [(1, d1, d1 + 1), (12, 0xC00000000, 0x100300000)],
      let w : Table Word := [(1, p.2.1), (2, p.2.2), (3, p.2.2)]
      let a := act w
      dFmt (a.pass.rd 0 1) = p.1 ∧ p.1 ≤ 12 ∧
        tilesReady (pS w) 0 a (fV 1) (fun x => decide (x ≤ 12)) [a.pass.tileIn 0 2 1, a.pass.maybeScal 0 3 1 false] false) ∧
    (∀ cf ∈ [1, 8],
      let w := [(1, dF 1), (2, dF 1), (3, dF 1), (4, dF cf)]
      let a := act w
      dFmt (a.pass.rd 0 4) = cf ∧ cf ≠ 13 ∧
        tilesReady (pS w) 0 a { fV 1 with sc := 4 } (· == 1)
          [a.pass.tileIn 0 2 1, a.pass.maybeScal 0 3 1 false, a.pass.plainIn 0 4 cf] true) ∧
    (let w := r3 d1
     let a := act w
     (pS w).vecFault 0 a [] [a.pass.rd 0 1] false = none ∧ dFmt (a.pass.rd 0 1) = 1 ∧ dGs (a.pass.rd 0 1) = 0 ∧
       3 < dEpr (a.pass.rd 0 1) ∧ (pS w).tileEcc 0 [a.pass.rd 0 1] = none) ∧
    (let a := act []
     (pS []).vecFault 0 a [] [a.pass.rd 0 1] false = none ∧ a.pass.rd 0 1 = 0) := by
  unfold tilesReady; decide +kernel
/-- RowAndMoveWords: the row words on FP32, the widening of FP16, the broadcasts, VLSH, VPERM with INT16 indices, VTRN. -/
theorem wit_RowAndMoveWords :
    (let w := r3 d1
     let a := act w
     let D := a.pass.rd 0 1
     let X := a.pass.rd 0 2
     let s := pS w
     InPass s 0 1 a ∧ s.vecFault 0 a [D] [X] true = none ∧ accOk 1 (dFmt D) = true ∧ dGs D = 0 ∧ 3 < dEpr D ∧ dFmt X = 1 ∧
       dGs X = 0 ∧ dRows X = dRows D ∧ s.tileEcc 0 [X] = none ∧ srcOk X 1 (dRows D) (dEpr D) = true ∧ dEpr X = dEpr D ∧
       s.vecFault 0 a [D] [] true = none ∧ s.tileEcc 0 [] = none ∧ 0 < dRows X) ∧
    accOk 3 1 = true ∧
    (let w : Table Word := [(1, d1), (2, d1 + 1), (3, 0x900000000)]
     let a := act w
     let s := pS w
     InPass s 0 1 a ∧ s.vecFault 0 a [d1] [d1 + 1, 0] true = none ∧ srcOk (0 : Word) 9 1 4 = true ∧
       s.tileEcc 0 [d1 + 1, 0] = none) ∧
    (let D : Word := 0x10000C000
     let w : Table Word := [(1, D), (2, 0x10000C010)]
     let a := act w
     let X : Word := 0x10000C010
     (pS w).vecFault 0 a [D] [X] true = none ∧ dFmt D = 1 ∧ dGs D = 0 ∧ dFmt X = 1 ∧ dGs X = 0 ∧ dEpr X ≤ 64 ∧
       dRows D = dEpr X ∧ dEpr D = dRows X ∧ (pS w).tileEcc 0 [X] = none) := by decide +kernel

/-- A tile of 16 elements of an OCP format with one scale a row, of UINT8, of INT8 with a scale, of FP32. -/
def dMxT : Word := 0x0000108400000000
def dI8T : Word := 0x0000108A00000000
def d16 : Word := 0x100300001
/-- QuantiseAndCompletion: VQNT to an OCP and to an integer format, with and without a status tile, and VDQNT. -/
theorem wit_QuantiseAndCompletion :
    (let w : Table Word := [(1, dMxT), (2, d16)]
     let a := act w
     let s := pS w
     InPass s 0 1 a ∧ s.vecFault 0 a [dMxT] [d16] true = none ∧ dFmt dMxT = 4 ∧ dGs dMxT = 1 ∧ dMx dMxT = true ∧
       srcOk d16 1 (dRows dMxT) (dEpr dMxT) = true ∧ s.tileEcc 0 [d16] = none) ∧
    (let w : Table Word := [(1, dI8T), (2, d16), (3, 0xC00000003)]
     let a := act w
     let s := pS w
     InPass s 0 1 a ∧ s.vecFault 0 a [dI8T, 0xC00000003] [d16] true = none ∧ s.vecFault 0 a [dI8T] [d16] false = none ∧
       dFmt dI8T = 10 ∧ 1 ≤ dGs dI8T ∧ srcOk d16 1 (dRows dI8T) (dEpr dI8T) = true ∧ dFmt 0xC00000003 = 12 ∧
       dGs 0xC00000003 = 0 ∧ dRows 0xC00000003 = dRows dI8T ∧ (3 : Spec) ≠ 56) ∧
    (let w : Table Word := [(1, d16), (2, dMxT)]
     let a := act w
     let s := pS w
     InPass s 0 1 a ∧ s.vecFault 0 a [d16] [dMxT] true = none ∧ dGs d16 = 0 ∧ dRows dMxT = dRows d16 ∧
       dEpr dMxT = dEpr d16 ∧ s.tileEcc 0 [dMxT] = none) := by decide +kernel
/-- LimbAndRankWords: VADDC with a carry in and out on two 64-bit numbers, VMULW of them, VTOPK of the two largest of four. -/
theorem wit_LimbAndRankWords :
    (let w := r3 (dF 8)
     let a := act w
     let s := pS w
     let D := a.pass.rd 0 1
     let X := a.pass.rd 0 2
     InPass s 0 1 a ∧ s.vecFault 0 a [D] [X, X] false = none ∧ dFmt D = 8 ∧ dGs D = 0 ∧ srcOk X 8 (dRows D) (dEpr D) = true ∧
       dRows D * dEpr D % 2 = 0 ∧ dRows D * dEpr D / 2 ≤ 64 ∧ s.tileEcc 0 [X, X] = none) ∧
    (let w : Table Word := [(1, 0x800100000), (2, dF 8 + 2), (3, dF 8 + 3)]
     let a := act w
     let s := pS w
     s.vecFault 0 a [0x800100000] [dF 8 + 2, dF 8 + 3] false = none ∧ dRows 0x800100000 * dEpr 0x800100000 = 2 * 1 * 4) ∧
    (let w : Table Word := [(1, d1), (2, d1 + 1), (3, dF 9 + 2)]
     let a := act w
     let s := pS w
     s.vecFault 0 a [d1, dF 9 + 2] [d1 + 1] true = none ∧ dGs (dF 9 + 2) = 0 ∧ dFmt (dF 9 + 2) = 9 ∧ dRows (dF 9 + 2) = dRows d1 ∧
       4 ≤ dEpr d1 ∧ 4 ≤ dEpr (dF 9 + 2) ∧ srcOk (d1 + 1) 1 (dRows d1) 4 = true ∧ dLoc (d1 + 1) = 0 ∧
       s.tileEcc 0 [d1 + 1] = none) := by decide +kernel
/-- A tile of four rows of four FP32 elements, 16 bytes a row. -/
def d44 : Word := 0x10000C000
/-- A product word with one slab and the accumulator region at row 0, column 0, and one with B transposed. -/
def pw0 : Word := 0
/-- MatrixProducts: MMA on 4 × 4 tiles and with a zero operand; MMAG of one group of two rows, and with more rows than A has. -/
theorem wit_MatrixProducts :
    (let w : Table Word := [(1, d44), (2, d44)]
     let a := act w
     let s := pS w
     InPass s 0 1 a ∧ pwOk pw0 = true ∧ d44 ≠ 0 ∧ dFmt d44 = 1 ∧ dGs d44 = 0 ∧ dRows d44 = 4 ∧ dEpr d44 = 4 ∧
       (slabsOf (s.nmemOf 0) (s.shadowStride 0 a.fr.op) a.pass.kp d44 (pwAstr pw0) (List.range (pwSlabs pw0))).toOption = some [d44] ∧
       pwBtr pw0 = false ∧ pwRow pw0 + 4 ≤ 64 ∧ pwCol pw0 + dEpr d44 ≤ viewCols 1 ∧ s.tileEcc 0 [d44, d44] = none ∧
       (slabsOf (s.nmemOf 0) (s.shadowStride 0 a.fr.op) a.pass.kp 0 (pwAstr pw0) (List.range (pwSlabs pw0))).toOption.isSome) ∧
    (let w : Table Word := [(1, d44), (2, d44), (4, 4), (5, 5)]
     let a := act w
     let cnt := fun x : Spec => (List.range 8).map fun g => ((a.pass.rd 0 x).extractLsb' (8 * g) 8).toNat
     ((List.range 8).filter fun g => (cnt 4).getD g 0 != 0) = [0] ∧ (cnt 4).sum ≤ dRows d44 ∧ dRows d44 < (cnt 5).sum ∧
       (pw0).extractLsb' 50 4 = 0 ∧
       (slabsOf ((pS w).nmemOf 0) ((pS w).shadowStride 0 a.fr.op) a.pass.kp d44 0 [0]).toOption = some [d44]) ∧
    ((0 : Nat) < 4 ∧ (4 : Nat) ≤ 4) := by decide +kernel
/-- Accumulators: MZRO, MLDQ and MSTQ on q0 with a 4 × 4 tile; the ends of the ranges of an element. -/
theorem wit_Accumulators :
    (let w : Table Word := [(1, d44), (2, d44)]
     let a := act w
     let s := pS w
     InPass s 0 1 a ∧ (44 ≤ (44 : Spec).toNat ∧ (44 : Spec).toNat < 52) ∧ s.vecFault 0 a [] [d44] true = none ∧
       s.vecFault 0 a [d44] [] false = none ∧ (0 : Word).extractLsb' 12 52 = 0 ∧ pwRow 0 + dRows d44 ≤ 64 ∧
       pwCol 0 + dEpr d44 ≤ viewCols 1 ∧ s.tileEcc 0 [d44] = none) ∧
    (7 < 8 ∧ 63 < 64 ∧ 31 < 32 ∧ (7, 63, 63) ≠ ((7, 63, 62) : Nat × Nat × Nat)) := by decide +kernel
/-- A tile of four lane images of 96 bytes. -/
def dImg : Word := 0xC0050C000
/-- AbacusLanes: the adding words, ABX.CLR up to the last lane, ABX.RND, ABX.OUT and ABX.MRG. -/
theorem wit_AbacusLanes :
    (let w : Table Word := [(1, d44), (2, d44)]
     let a := act w
     let s := pS w
     InPass s 0 1 a ∧ s.vecFault 0 a [] [d44, d44] true = none ∧ laneTop zA 4 4 < 128 / (a.pass.kfire + 1) ∧
       127 + 1 ≤ 128 / (a.pass.kfire + 1) ∧ s.tileEcc 0 [d44, d44] = none ∧ s.vecFault 0 a [d44] [] false = none ∧
       4 ≤ dRows d44 * dEpr d44 ∧ s.imageFault 0 a dImg 4 a.pass.fireTans = none ∧ dImg ≠ 0 ∧ dLoc dImg = 0 ∧
       s.imageFault 0 a dImg 4 a.pass.tans = none ∧ s.tileEcc 0 [dImg] = none) ∧
    (let a := actK 1 [(1, d44)]
     InPass (pSK 1 [(1, d44)]) 0 1 a ∧ 63 + 1 ≤ 128 / (a.pass.kfire + 1) ∧ 128 / (a.pass.kfire + 1) < 64 + 1) := by decide +kernel
/-- TangentWords: a tangent that the pass carries and one that it does not; tiles for DSEED, DTGET and DTZRO. -/
theorem wit_TangentWords :
    (let w : Table Word := [(1, d1), (2, d1 + 1)]
     let a := actK 2 w
     let s := pSK 2 w
     InPass s 0 1 a ∧ s.seedFault 0 a d1 [d1 + 1] (a.pass.carried 2) [] = none ∧ dFmt d1 < 8 ∧ dGs d1 = 0 ∧
       srcOk (d1 + 1) 1 (dRows d1) (dEpr d1) = true ∧ (1 ≤ 2 ∧ 2 ≤ a.pass.kfire) ∧ ¬ (1 ≤ 3 ∧ 3 ≤ a.pass.kfire) ∧
       ¬ (1 ≤ 0 ∧ 0 ≤ a.pass.kfire) ∧ s.seedFault 0 a d1 [d1 + 1] (a.pass.carried 3) [] = none ∧ s.tileEcc 0 [d1 + 1] = none ∧
       s.seedFault 0 a d1 [d1 + 1] [1, 2] (a.pass.carried 2) = none ∧ s.seedFault 0 a d1 [] [1, 2] [] = none) := by decide +kernel

/-- AddressResolution: a bad path, a window that is not held, and each kind of home at the ends of its range. -/
theorem wit_AddressResolution :
    (addrPath 0x4000000000000000 ∉ [0x0, 0xA] ∧ fieldsOk 0xA0000000000BFFF8 = true ∧ fieldsOk 0xA0000000000C0000 = false ∧
      (0xA000000000000001 : Word).toNat % 8 ≠ 0) ∧
    (let s := pS []
     let v := viaP .load
     addrPath 0x8000000000000000 ∈ [0x8, 0xB] ∧ pathAccepted v.by_ 0x8 = true ∧ fieldsOk 0x8000000000000000 = true ∧
      s.windowOk v 0x8000000000000000 = false ∧ s.windowOk v 0xB000000000000000 = false ∧ v.by_ = .engine 0 ∧
      s.windowOk v 0xA0000000000BFFF8 = true ∧ fieldsOk (0xA0000000000BFFF8 + 7) = true) ∧
    (let s := (gS []).setCtx 0 { (gS []).ctx 0 with r := { win := [(0, { cnt := 1 })] } }
     let v := viaP .store
     s.windowOk v 0x8000000000000000 = true ∧ s.windowOk v 0x9000000000000000 = true ∧ s.windowOk v 0x8000000000400000 = false ∧
      s.windowOk v 0xB000000000000000 = true ∧ s.groupOf 0 = some (0, 0) ∧ s.member 0 0 0 = some 0) ∧
    (let v := (cS []).coreVia 0 .load
     v.ctx = none ∧ addrPath 0x0000007FFFFFFFF8 = 0 ∧ pathAccepted v.by_ 0 = true ∧ fieldsOk 0x0000007FFFFFFFF8 = true ∧
      ((0x0000007FFFFFFFF8 : Word).extractLsb' 0 48).toNat + 8 ≤ 2 ^ 39) := by decide +kernel
/-- LoadsAndStores: a load and a store of scratch, one that meets an uncorrectable error, one on a bad path, a dual load. -/
theorem wit_LoadsAndStores :
    (let w : Table Word := [(1, 0xA000000000000040)]
     let s := pS w
     let f : FmtM := { zM with sa := 1, size := 3, dv := 2 }
     let ad := wordAddr s (act w) f
     let r := s.resolve (viaP .load) [0xA, 0xB] ad 8 false
     InPass s 0 1 (act w) ∧ r.1.toOption.map (fun hs => (hs, r.2.eccHomes hs)) =
         some ((List.range 8).map (scratchHome 0 64 + ·), false) ∧
       (act w).pass.kp = 0 ∧ ad.toNat % 8 = 0 ∧
       (s.resolve (viaP .store) [0xA, 0xB] ad 8 false).1.toOption.isSome = true ∧
       (s.resolve (viaP .load) [0x0, 0x1, 0x2, 0x8, 0x9] ad 8 false).1.toOption.isSome = false ∧
       ({ s with ecc := [scratchHome 0 64 / 8] }.resolve (viaP .load) [0xA, 0xB] ad 8 false).1.toOption.map
         ({ s with ecc := [scratchHome 0 64 / 8] }.eccHomes ·) = some true) ∧
    (let w : Table Word := [(1, 0xA000000000000040)]
     let s := pSK 1 w
     let a := actK 1 w
     1 ≤ a.pass.kp ∧ (s.readTans 0 a [0xA, 0xB] 0xA000000000000040 8 0 0 a.pass.tans).1.toOption.isSome = true ∧
       (s.storeTans 0 a {} [0xA, 0xB] 0xA000000000000040 8 2 (a.pass.tans.flatMap fun j =>
         (List.range (if 8 = 8 then 1 else 4 / 8)).map fun k => (j, k))).1.toOption.isSome = true) ∧
    (∃ x ∈ [({ lsid := 1, eff := .access ⟨[64], .store [7], 0, default, none⟩ } : Held)], cellAt x.cells 64 = some 7 ∧ x.lsid < 2) := by
  decide +kernel
/-- StreamWords: LDT, STT, REDT and CLRM on a vault, with and without a rod. -/
theorem wit_StreamWords :
    let w : Table Word := [(1, 0x8000000000000000), (2, d1 + 1), (3, 64)]
    let s := vS w
    let a := act w
    let rows := [((0x8000000000000000 : Word), 16)]
    InPass s 0 1 a ∧ d1 + 1 ≠ 0 ∧ descFault (s.nmemOf 0) (d1 + 1) = none ∧
      tanFault (s.nmemOf 0) (s.shadowStride 0 a.fr.op) 0 (d1 + 1) = none ∧ dRows (d1 + 1) = 1 ∧ dRowBytes (d1 + 1) = 16 ∧
      s.streamFault (madeBy 0 a .sread) [0x0, 0x1, 0x2, 0x8, 0x9] 16 rows = none ∧
      s.streamFault (madeBy 0 a .swrite) [0x0, 0x1, 0x2, 0x8, 0x9] 16 rows = none ∧ addrPath 0x8000000000000000 ≠ 1 ∧
      dGs (d1 + 1) = 0 ∧ dFmt (d1 + 1) ≤ 3 ∧ s.streamFault (madeBy 0 a .atomic) [0x0, 0x8, 0x9, 0xA, 0xB] 16 rows = none ∧
      (64 : Word).toNat % 64 = 0 ∧
      s.streamFault (madeBy 0 a .swrite) [0x0, 0x2, 0x8, 0x9, 0xA, 0xB] 64 [(0x8000000000000000, 64)] = none ∧
      (0 : Word).getLsbD 35 = false ∧ (0x800000000 : Word).getLsbD 35 = true ∧
      (s.checkRod ⟨.engine 0, some 0⟩ .add (a.pass.rd 0 4)).1.toOption = some 0 := by decide +kernel
/-- AtomicsAndRemotes, StreamWords (RMT.STT): an aligned atomic, a good remote address of the last rank, and a rank that is none. -/
theorem wit_AtomicsAndRemotes :
    (let s := pS []
     (s.resolve { viaP .atomic with hostAtomic := true } [0x0, 0x1, 0x2, 0x8, 0x9, 0xA, 0xB] 0xA000000000000008 8 true).1.toOption.isSome = true ∧
     (s.resolve (viaP .atomic) [0x0, 0x1, 0x2, 0x8, 0x9, 0xA, 0xB] 0xA000000000000004 8 true).1.toOption.isSome = false) ∧
    (let s := kS (pS [])
     let ad : Word := 0x3001000000000000
     s.launchTable 0 0 = some 0 ∧ addrPath ad = 3 ∧ addrPath (ad + 7) = 3 ∧ ((ad + 7).extractLsb' 48 12) = ad.extractLsb' 48 12 ∧
       (ad.extractLsb' 48 12).toNat < (s.pgt 0 0).n ∧ ad.toNat % 8 = 0 ∧ s.rankFault (act []) ad = none ∧
       ¬ ((0x3002000000000000 : Word).extractLsb' 48 12).toNat < (s.pgt 0 0).n ∧ InPass s 0 1 (act []) ∧
       s.streamFault (madeBy 0 (act []) .swrite) [0x3] 16 [(ad, 16)] = none) ∧
    outHere (oS [] 0) 0 (act []) 0 :=
  ⟨by decide +kernel, by decide +kernel, by decide +kernel, fun h => absurd h (by decide +kernel)⟩
/-- RodWords: the engine's own rod, a wait that is met and one that is not, a bad reference; a die rod of a core that is free and
one that is allocated; adds up to 2^64 − 1 and past it. -/
theorem wit_RodWords :
    (let s := pS []
     let u : RodUser := ⟨.engine 0, some 0⟩
     (s.checkRod u .add 0).1.toOption = some 0 ∧ (s.checkRod u .read 0).1.toOption = some 0 ∧ (s.checkRod u .wait 0).1.toOption = some 0 ∧
       (0 : Word).toNat ≤ (s.rodCount 0 0).toNat ∧ (s.rodCount 0 0).toNat < (1 : Word).toNat ∧ (s.engine 0).susp.length < 4 ∧
       (s.checkRod u .add 48).1.toOption = none ∧
       (let t := s.setEngine 0 { s.engine 0 with susp := [act [], act [], act [], act []] }
        4 ≤ (t.engine 0).susp.length ∧ (t.checkRod u .wait 0).1.toOption = some 0)) ∧
    (let s := cS []
     let r : Word := 0x8000000000000000
     let t := s.setRod r { a := true, count := 0xFFFFFFFFFFFFFFFE }
     rodFieldsOk r = true ∧ rodKind r = 2 ∧ (s.rod r).a = false ∧ (t.rod r).a = true ∧ (s.core 0).csr.mode = true ∧
       (t.checkRod (t.coreUser 0) .add r).1.toOption = some 0 ∧ (t.checkRod (t.coreUser 0) .read r).1.toOption = some 0 ∧
       (t.rodCount r 0).toNat + 1 < 2 ^ 64 ∧ 2 ^ 64 ≤ (t.rodCount r 0).toNat + 2 ∧ (s.checkRod (s.coreUser 0) .add r).1.toOption = none ∧
       (t.checkRod (t.coreUser 0) .wait r).1.toOption = some 0) := by decide +kernel
/-- LockAndLaunchWords: a good name, one that is not, a record to upgrade; a LAUNCH in scratch and a word that is none. -/
theorem wit_LockAndLaunchWords :
    (let s := pS []
     let t := s.setCtx 0 { s.ctx 0 with lk := { tidn := 1 } }
     InPass t 0 1 (act []) ∧ t.lkNameOk 0 0 = true ∧ lkLevel 0 ≠ 2 ∧ t.lkNameOk 0 0x40 = false) ∧
    (let s := pS []
     let t := (s.setCtx 0 { s.ctx 0 with lk := { tidn := 1 } }).setReckoner (lockHome 0)
       { recs := [{ ctx := 0, name := 0, age := (act []).age, takes := [{ uid := 1, mode := 1 }] }] }
     (t.reckoner (lockHome 0)).rec? 0 (act []).age 0 ≠ none) ∧
    (let w : Table Word := [(1, 0xA000000000000000)]
     let s := mS [(scratchHome 0 0, 1)] (pS w)
     let r := s.resolve (madeBy 0 (act w) .load) [0xA] 0xA000000000000000 64 true
     InPass s 0 1 (act w) ∧ r.1.toOption.map (fun hs => (r.2.eccHomes hs, leNat ((hs.map fun h => r.2.rdByte h).take 8))) = some (false, 1) ∧
       ((pS w).resolve (madeBy 0 (act w) .load) [0xA] 0xA000000000000020 64 true).1.toOption = none) := by decide +kernel

/-- ControlFlowWords, CsrAndAccessWords: a target at a multiple of 8 and one that is none; TREC2 and CSTAT, a write that sets a
reserved bit, a number that is no CSR; accesses of memory, on a bad path and of control space, in both modes. -/
theorem wit_ControlAndCsr :
    (cS []).cur = .core 0 ∧ ((cS [(1, 16)]).core 0 |>.rd 1).toNat % 8 = 0 ∧ ((cS [(1, 17)]).core 0 |>.rd 1).toNat % 8 ≠ 0 ∧
    (0x022, 0, true) ∈ csrValues (cS []) 0 ∧ (0, 2, true) ∈ csrValues (cS []) 0 ∧ (0x012, 0, false) ∈ csrValues (cS []) 0 ∧
    (∀ x ∈ csrValues (cS []) 0, x.1 ≠ 0x032) ∧ (1 : Word).extractLsb' 4 60 = 0 ∧ (16 : Word).extractLsb' 4 60 ≠ 0 ∧
    (64 : Word).toNat ≤ 64 ∧ 64 < (65 : Word).toNat ∧
    ((cS []).core 0).csr.mode = true ∧ ((uS []).core 0).csr.mode = false ∧ (uS []).cur = .core 0 ∧
    (let s := cS []
     let r := s.resolve (s.coreVia 0 .load) [0x0, 0x1, 0x2, 0x8, 0x9] 0x40 8 false
     r.1.toOption.map (fun hs => r.2.eccHomes hs) = some false ∧
     ({ s with ecc := [8] }.resolve (s.coreVia 0 .load) [0x0, 0x1, 0x2, 0x8, 0x9] 0x40 8 false).1.toOption.map
       ({ s with ecc := [8] }.eccHomes ·) = some true ∧
     (s.resolve (s.coreVia 0 .store) [0x0, 0x1, 0x2, 0x8, 0x9] 0x40 8 false).1.toOption.isSome = true ∧
     (s.resolve (s.coreVia 0 .store) [0x0, 0x1, 0x2, 0x8, 0x9] 0xA000000000000000 8 false).1.toOption.isSome = false) ∧
    addrPath 0xF000000000000000 = 0xF ∧ (0xF000000000000004 : Word).toNat % 8 ≠ 0 ∧ (0xF000000000000008 : Word).toNat % 8 = 0 ∧
    ctlReserved 0 0 = false := by decide +kernel
/-- ExceptionsAndReturn: with a handler, without one, while one is handled; the three returns. -/
theorem wit_ExceptionsAndReturn :
    (let c := ((csS fun c => { c with sxvec := 8 }).core 0).csr
     c.cctx < 128 ∧ c.xbusy = false ∧ c.sxvec ≠ 0) ∧
    (let c := ((cS []).core 0).csr
     c.cctx < 128 ∧ c.xbusy = false ∧ c.sxvec = 0 ∧ c.ebusy = false ∧ (c.mode = false ∨ c.xbusy = false)) ∧
    (let c := ((csS fun c => { c with xbusy := true }).core 0).csr
     c.xbusy = true ∧ (c.mode = true ∨ c.ebusy = true)) ∧
    (let c := ((csS fun c => { c with ebusy := true, mode := false }).core 0).csr
     c.xbusy = false ∧ c.ebusy = true) := by decide +kernel
/-- A record of context 0 whose cause a handler in user mode may take, and one without a context. -/
def recU : Record := (cS []).record cDesc ⟨0, some 0, 0, 0, 0, 0⟩ 0 0 none
def recS : Record := (cS []).record cEcc ⟨64, none, 0, 240, 0, 0⟩ 0 0 none
/-- RecordEvents: room and no room in the queue, delivery to a handler in user mode, to the supervisor's, without one, the handler
limit. -/
theorem wit_RecordEvents :
    ((cS []).die 0).trapq.length < 256 ∧ recS.key = none ∧ ({ recS with key := some 5 } : Record).key = some 5 ∧
    (let s := csS fun c => { c with ie := true }
     let t := s.setDie 0 { s.die 0 with trapq := List.replicate 256 recU }
     256 ≤ (t.die 0).trapq.length ∧ (t.core 0).csr.ie = true ∧ (t.core 0).csr.ebusy = false ∧ (t.core 0).csr.xbusy = false ∧
       (t.core 0).halted = false ∧ (t.core 0).csr.cctx < 128 ∧ (t.core 0).csr.stvec = 0 ∧ recU.ctx = some 0 ∧
       userCause recU.cause.toNat = true ∧ (t.ctx 0).hv = false) ∧
    (let s := (csS fun c => { c with ie := true, stvec := 8 }).setCtx 0 { st := .running, hv := true }
     let t := s.setDie 0 { s.die 0 with trapq := [recU, recS] }
     (t.ctx 0).hv = true ∧ (t.ctx 0).st ≠ .tearing ∧ (t.ctx 0).st ≠ .free ∧ (t.core 0).csr.stvec ≠ 0 ∧
       userCause recS.cause.toNat = false ∧ recS.ctx = none) ∧
    (let s := csS fun c => { c with ebusy := true, mode := false, htmo := 5 }
     let t := s.setCore 0 { s.core 0 with run := true, htEnd := some 5 }
     let u := { t with clock := { t.clock with tick := 5 } }
     (u.core 0).run = true ∧ (u.core 0).halted = false ∧ (u.core 0).busy = none ∧ (u.core 0).htEnd = some 5 ∧ 5 ≤ u.tick.toNat) := by
  decide +kernel
/-- Core 0 with an image at 0x1000 and a map at 0x2000, and engine 0 in a RESERVED group of context 0. -/
def gldS : State :=
  mS [(0x1000, 0x0000000131494756), (0x1008, 64), (0x2000, 0x000100014D504756), (0x2008, 0x0001000100000001)]
    ((cS [(1, 0x1000), (2, 0x2000)]).setGroup 0 0 { st := .reserved, nmem := 1 })
/-- PrivilegedWordsInBothModes: GLOAD of an image, GARM of an armed and of a faulted kernel, GDISARM, PURGE of an instance and of
none, INJ, RETRYF. -/
theorem wit_PrivilegedWords :
    (match gldS.readImage 0 0x1000 0x2000 with
      | (.ok (img, mh, mb), t) => (t.loadBytes 0 0 img mh mb).toOption.isSome
      | _ => false) = true ∧
    ((kerS .armed).core 0).csr.mode = true ∧ (kerS .armed).handleKernel 0 (2 ^ 63) = some 0 ∧ ((kerS .armed).kernel 0).st = .armed ∧
    ((kerS .armed).instUsed 0 0) = false ∧ (((kerS .armed).kernel 0).place.ops.any fun (e, op) => !(kerS .armed).launchDualOk e op 0) = false ∧
    ((kerS .faulted).kernel 0).st = .faulted ∧ ((kerS .faulted).kernel 0).inst = 0 ∧ ((kerS .faulted).kernel 0).fids = 0 ∧
    ((kerS .placed).kernel 0).st = .placed ∧
    (cS []).instKernel 0 0 = none ∧ (kerS .running).instKernel 0 0 = some 0 ∧ (kerS .running).inTransit 0 0 = false ∧
    (let s := { kerS .running with pend := [⟨9, [], .deviceQueuePost 0 0 ⟨0, []⟩⟩] }
     s.inTransit 0 0 = true) ∧ ((2 : Word) ^ 63).getLsbD 63 = true ∧
    tokUnit (((0 : Word) ++ (0 : Word) : Token)) ≤ 71 ∧
    (let s := (cS []).setDie 0 { (cS []).die 0 with fids := [{ key := 3, fid := 1 }] }
     s.fidNamed 0 1 = some { key := 3, fid := 1 } ∧ s.fidNamed 0 2 = none) := by decide +kernel
/-- Core 0, with context 0 stopped. -/
def snpS : State := (cS [(1, 0), (2, 0x10000)]).setCtx 0 { st := .stopped }
/-- PrivilegedWordsInBothModes: SNAP, RSTOR of what SNAP wrote, QDRN of a frozen array, MSRD and MSWR. -/
theorem wit_PrivilegedSave :
    (match snpS.coreStore 0 0x10000 (snpS.saveArea 0 0) with
      | .ok t => (match t.coreLoad 0 0x10000 64 with
        | (.ok h, u) => (match u.coreLoad 0 (0x10000 + 64) (leAt h 32 8 - 64) with
          | (.ok b, v) => decide (leAt h 0 4 = 0x56534756) && v.areaOk 0 0 h (parseSects (leAt h 24 4) b)
          | _ => false)
        | _ => false)
      | .error _ => false) = true ∧
    (snpS.ctx 0).st = .stopped ∧
    (let s := (cS []).setEngine 0 { (cS []).engine 0 with frozen := true }
     (s.engine (72 * 0 + 0)).frozen = true) ∧
    (let s := snpS.setGroup 0 0 { st := .active, nmem := 1 }
     (s.slotFor 0 0).toOption = some (.eng 0, 0)) := by decide +kernel
/-- PrivilegedWordsInBothModes in user mode: a context that is not the handler's. -/
theorem wit_PrivilegedInUserMode : (uS [(1, 4), (2, 256)]).cur = .core 0 ∧ ((uS []).core 0).csr.mode = false ∧
    (((uS [(1, 4)]).core 0 |>.rd 1).extractLsb' 2 6).toNat ≠ ((uS [(1, 4)]).core 0).csr.cctx ∧
    (((uS [(1, 256)]).core 0 |>.rd 1).extractLsb' 8 6).toNat ≠ ((uS []).core 0).csr.cctx ∧
    (let s := (uS [(1, 1)]).setDie 0 { (uS [(1, 1)]).die 0 with fids := [{ key := 3, fid := 1, ctx := 7 }] }
     (s.fidNamed 0 1).map (·.ctx) = some 7 ∧ 7 ≠ (s.core 0).csr.cctx) := by decide +kernel

/-- Engine 0 with the frame `f` and the operator `o`, in a context that runs. -/
def tkS (f : Frame) (o : OpEntry) (ms : Table Slot := []) : State :=
  let s := State.reset.setCtx 0 { st := .running }
  s.setEngine 0 { s.engine 0 with t := { (s.engine 0).t with ft := [(0, f)], ot := [(0, o)], ms := ms } }
/-- A frame of four colours, and one whose instance 0 has them. -/
def fr4 : Frame := { v := true, w := 4 }
/-- An operator of one TOKEN port. -/
def op1 : OpEntry := { h := { kind := .compute, nin := 1 }, ports := [{}] }
/-- A LOOP operator with a start and a trip count port. -/
def opLoop : OpEntry := { h := { kind := .loop, nin := 2, olcnt := 1 }, ports := [{}, {}], inner := 0 }
/-- A token of colour `c` with a payload. -/
def tk (c : Nat) (v : Word) : Token := ({ col := c, pay := v : TokF }).mk128
/-- The second-level cache of die 0 holds a translation of the bottom of context 0 to the bottom of HBM, or of host memory. -/
def trS (s : State) (host : Bool := false) : State :=
  let u := s.units 0
  s.setUnits 0 { u with walk := { u.walk with stc := [(0, { log := 29, r := true, w := true, a := true, sa := true, d := true, host := host })] } }
/-- Token arrivals: a live colour at an empty and at a full slot, a colour for a frame that is not in use, a credit return, a context
that is torn down. -/
theorem wit_TokenArrivals :
    (let s := tkS fr4 op1
     let l := Loc.eng 0
     (s.ctx (tokCtx (tk 1 5))).st ≠ .tearing ∧ ¬ ((s.ctx (tokCtx (tk 1 5))).st = .ready ∧ (s.ctx (tokCtx (tk 1 5))).svalid = true) ∧
       tokCredit (tk 1 5) = false ∧ s.frameChecks l (tk 1 5) = true ∧ tokRun (tk 1 5) = 0 ∧ (s.frame l 0).live (tokCol (tk 1 5)) = true ∧
       (s.slot l 1).p = false ∧ ((tkS fr4 op1 [(1, { p := true })]).slot l 1).p = true ∧
       (tkS {} op1).frameChecks l (tk 1 5) = false ∧ tokCredit ({ q := true, pay := put 62 2 2 : TokF }).mk128 = true ∧
       (tk 1 5 |> (s.setCtx 0 { st := .tearing }).frameChecks l) = true ∧ 71 < 72 ∧ 72 ≠ 248) := by decide +kernel
/-- LoopAndExitEvents: a pair of start value and trip count, an arming with colours left, a spilled token, a PUSH copy, an exit. -/
theorem wit_LoopAndExitEvents :
    (let s := tkS { fr4 with spc := 2 } opLoop [(0, { p := true, tok := tk 0 7 }), (1, { p := true, tok := tk 0 3 })]
     let x := s.engine 0
     let o := x.op 0
     let f := tget {} x.t.ft 0
     (o.h.kind = .loop ∧ f.v = true ∧ (x.run 0).arms.length < 4 ∧ (s.ctx 0).st = .running) ∧
       (f.window.find? fun c => (s.portTok (.eng 0) f o c 0).isSome && (s.portTok (.eng 0) f o c 1).isSome) = some 0 ∧
       (tokPay ((s.portTok (.eng 0) f o 0 1).getD 0)).toNat = 3) ∧
    (let s := tkS fr4 opLoop
     let x := s.engine 0
     let t := s.setEngine 0 { x with t := { x.t with orun := [(0, { arms := [{ n := 6 }] })] } }
     let f := tget {} (t.engine 0).t.ft 0
     (((t.engine 0).run 0).arms.find? fun b => decide (b.handed < b.n)) = some { n := 6 } ∧
       Nat.min (Nat.min (6 - 0) (f.w - (f.next + 4096 - f.wbase) % 4096)) 32 = 4) ∧
    (let s := trS ((tkS fr4 op1).setCtx 0 { st := .running, r := { ovsize := 1 } })
     let t := s.storeHomes ((List.range 32).map (hbmHome ·)) (ovBytes (tk 1 5) 0 0 false)
     let f := t.frame (.eng 0) 0
     (f.v = true ∧ (t.ctx f.ctx).st = .running) ∧ (t.ovEntry 0 0 0).isSome = true ∧
       ((t.ovEntry 0 0 0).map fun b => (ovLoc 0 b == Loc.eng 0) && f.live (tokCol (ovToken b)) && decide (ovFlags b = 1)) = some true) ∧
    (let s := tkS fr4 op1
     ((s.engine 0).op 0).h.kind ≠ .none ∧ (s.ctx 0).st ≠ .tearing) ∧
    (let s := { State.reset with cp := { State.reset.cp with kernels := [(0, { used := true, st := .running, nexit := 2, exits := 1 })] } }
     s.instKernel 0 0 = some 0 ∧ (s.kernel 0).exits.toNat + 0 + 1 = (s.kernel 0).nexit.toNat) := by decide +kernel
/-- FiringEvents: a colour that is eligible for the vector slot, a pass that has ended with and without its token, a pass to abort and
one whose wait is over. -/
theorem wit_FiringEvents :
    (let s := (tkS fr4 { op1 with h := { op1.h with cls := 1 } } [(1, { p := true, tok := tk 1 5 })])
     let x := s.engine 0
     let t := s.setEngine 0 { x with elig := [(0, 1, 0)] }
     ((t.engine 0).vec.act = none ∧ (t.engine 0).vec.issued = false ∧ (t.engine 0).frozen = false ∧ (t.engine 0).ready = []) ∧
       (pickMin (fun a b => keyLt a.key b.key) (t.choices_ 0 1)).map (fun ch => (ch.op, ch.col, ch.fir.isNone)) = some (0, 1, true) ∧
       (t.eligible 0 0 1).map (fun ins => ((t.engine 0).op 0).fate ins == Fate.run && ((t.engine 0).op 0).scaleOk ins) = some true) ∧
    (let s := pS []
     let a := { act [] with pass := { (act []).pass with done := true } }
     let t := s.setActive 0 1 (some a)
     t.active 0 1 = some a ∧ a.pass.wait = .none ∧ (a.pass.settle (t.engine 0) ((t.engine 0).op 0)).isSome = true ∧ t.root.cmode = 0 ∧
       (a.pass.settle (t.engine 0) { (t.engine 0).op 0 with h := { kind := .compute, olcnt := 1 } }) = none) ∧
    (let s := pS []
     let x := s.engine 0
     let t := s.setEngine 0 { x with ready := [act []], vec := {}, mat := {} }
     ((t.engine 0).ready.find? fun b => b.fr.uid == 1) = some (act []) ∧
       ((t.engine 0).slot ((t.engine 0).op 0).h.cls).act = none) := by decide +kernel

/-- Group 0 of die 0, engine 0 alone, ACTIVE, with a pooled operator that has a colour ready. -/
def poolS : State :=
  let s := tkS fr4 { op1 with h := { op1.h with pool := true, cls := 1 } }
  let t := s.setGroup 0 0 { st := .active, nmem := 1 }
  { t.setPool 0 { t.pool 0 with ft := [(0, fr4)], ms := [(1, { p := true, tok := tk 1 5 })], agelim := 3, ready := [{ op := 0, col := 1, prio := 2, since := 0, wait := 3 }] }
    with clock := { cyc := 9 } }
/-- PoolAndInstanceEvents: a colour to dispatch and to promote, a group that is cleared, an instance that is quiescent and one that
runs, a context that is stalled and one that is not. -/
theorem wit_PoolAndInstanceEvents :
    ((poolS.pool 0).did = false ∧
      ((List.range 72).map fun n => ((poolS.pool 0).lastG + n + 1) % 72) = [] ++ 0 :: (List.range 71).map (· + 1) ∧
      ((poolS.poolAim 0 0).dispatchFrom 0 0).isSome = true) ∧
    (let p := poolS.pool 0
     (p.ready[0]?).map (fun r => decide (r.prio < 7) && decide (p.agelim.toNat ≤ r.wait)) = some true ∧ p.agelim ≠ 0) ∧
    (let s := { (State.reset.setGroup 0 0 { st := .reserved, nmem := 1, clear := some 64 }) with clock := { cyc := 64 } }
     (s.group 0 0).clear = some 64 ∧ 64 ≤ s.clock.cyc) ∧
    (let s := kerS .draining
     (s.kernel 0).st = .draining ∧ s.quiescent (s.kernel 0).ctx (s.kernel 0).inst = true ∧ ((kerS .running).kernel 0).st ≠ .draining) ∧
    (let s := tkS fr4 op1 [(1, { p := true, tok := tk 1 5 })]
     let u := s.units 0
     let t := s.setUnits 0 { u with det := { u.det with log2 := 4, cnt := [(0, 16), (1, 16)] } }
     let d := (t.units 0).det
     d.en = true ∧ 2 ^ d.log2 ≤ tget 0 d.cnt 0 ∧ 0 ∉ d.rep ∧ t.stalled 0 0 = true ∧ 2 ^ d.log2 ≤ tget 0 d.cnt 1 ∧ t.stalled 0 1 = false) := by
  decide +kernel
/-- An origin of context 0 on engine 0. -/
def who0 : Origin := ⟨0, some 0, 0, 0, 0, 0⟩
/-- A reply to operator 0 of engine 0. -/
def rep0 : Reply := ⟨tk 1 0, none, who0⟩
/-- AccessesAtHome: a store, an atomic, a CAS that matches and one that does not, with and without a reply, and an error. -/
theorem wit_AccessesAtHome :
    (let hs := List.range 8
     let s := mS [(0, 5)] State.reset
     hs.Nodup ∧ (leBytes 8 7).length = hs.length ∧ s.eccHomes hs = false ∧ leNat (s.rdHomes hs) = (5 : Word).toNat % 2 ^ (8 * 8) ∧
       leNat (s.rdHomes hs) ≠ (6 : Word).toNat % 2 ^ (8 * 8) ∧ tokUnit rep0.tok ≤ 71 ∧ { s with ecc := [0] }.eccHomes hs = true ∧
       (∀ bs, AccOp.cas 8 1 2 ≠ .store bs)) :=
  ⟨by decide +kernel, by decide +kernel, by decide +kernel, by decide +kernel, by decide +kernel, by decide +kernel, by decide +kernel,
    fun _ h => nomatch h⟩
/-- A stream of engine 0 that moves four bytes between `ad` and scratch line 1. -/
def str0 (k : StreamKind) (ad : Word) : Stream :=
  { id := 1, n := 0, eng := 0, q := { kind := k, addr := ad, desc := d1 + 1, pitch := 64 }, who := who0, todo := [0] }
/-- Engine 0 with one stream, in a context with a translation and vault 0 in its window. -/
def strS (x : Stream) : State :=
  let s := trS (vS [])
  s.setEngine 0 { s.engine 0 with streams := [x] }
/-- StreamEvents: a piece that moves in and out, one that misses, a walk that ends and one that fails, an end with an add, one with a
token. -/
theorem wit_StreamEvents :
    (∀ k ∈ [StreamKind.ldt, .stt],
      let x := str0 k 0x8000000000000000
      let s := strS x
      s.stream 0 0 = some x ∧ x.phase = .running ∧ 0 ∈ x.todo ∧ s.depsDone x.deps = true ∧ piecePlane 0 = 0 ∧
        (match s.pieceMove x 0 with | .ok (.ok _) => true | _ => false) = true ∧
        (s.streamHomes x 0 0x8000000000000000 16).toOption.map (fun hs => s.eccHomes hs) = some false ∧
        s.eccHomes (s.scratchHomes 0 x.q.desc 0 0 16) = false) ∧
    (let x := str0 .ldt 0x40
     let s := strS x
     (match s.pieceMove x 0 with | .error a => a == (0, 0x40) | _ => false) = true) ∧
    (let x := { str0 .ldt 0x40 with phase := .walking 0 0x40 }
     let s := strS x
     let gives := fun (va : Nat) => match s.translate 0 0 va [] with | (r, t) => (t.walkGives r (x.via false) (BitVec.ofNat 64 va)).1
     s.walkServed x = true ∧ (gives 0x40).toOption.isSome = true ∧ (match gives (0x40 + 2 ^ 30) with | .error g => g.cause | _ => 0) = cXlate ∧
       (match ({ s with ecc := [0x10000 / 8] }.walkGives (.error (1, 16 + 0x10000)) (x.via false) 0x40).1 with
         | .error g => g.cause | _ => 0) = cEcc ∧
       -- a request for the page of another that asked first is not the one that walks
       (let z := { x with n := 1, id := 2, asked := 5 }
        let t := s.setEngine 0 { s.engine 0 with streams := [x, z] }
        t.walkServed x = true ∧ t.walkServed z = false)) ∧
    (let x := { str0 .ldt 0x40 with todo := [] }
     let y := { x with q := { x.q with rod := some 0, cadd := 1 } }
     let z := { x with q := { x.q with comp := some (tk 1 0) } }
     (strS y).stream 0 0 = some y ∧ (strS z).stream 0 0 = some z ∧ z.dropTok = false ∧ y.dropAdd = false ∧ y.acks = [] ∧
       tokUnit (tk 1 0) ≤ 71) := by decide +kernel
/-- A request of the pass of uid 1 for name 0 in mode 1, whose pass waits for it. -/
def lkS : State :=
  let s := pS []
  let x := s.engine 0
  s.setEngine 0 { x with vec := { act := some { act [] with pass := { (act []).pass with wait := .lock 0 1 } } } }
/-- The request. -/
def lkR : LockReq := ⟨0, 0, 0, 1, false, 0, 1⟩
/-- LockEvents: a request of a pass that is gone, one on a free tensor, one that a holder stands in the way of, a wound, releases. -/
theorem wit_LockEvents :
    (State.reset.engine 0).waiting (fun a => a.fr.uid == 1) = [] ∧ (lkS.engine 0).waiting (fun a => a.fr.uid == 1) ≠ [] ∧
    (let k := lkS.reckoner (lockHome 0)
     lkLevel lkR.name = 0 ∧ k.held 0 0 0 = 0 ∧ k.needed lkR ≤ k.free ∧ lkS.root.cmode = 0 ∧
       k.grantable (lkS.ctx 0).lk.matrix 0 0 0 1 = true) ∧
    (let s := lkS.setReckoner (lockHome 0) { recs := [{ ctx := 0, name := 0, age := 5, takes := [{ uid := 7, mode := 6 }] }] }
     let k := s.reckoner (lockHome 0)
     k.held 0 0 0 = 0 ∧ k.needed { lkR with mode := 6 } ≤ k.free ∧ k.grantable (s.ctx 0).lk.matrix 0 0 0 6 = false ∧ k.queue = []) ∧
    (lkS.active 0 1).isSome = true := by decide +kernel

/-- Context 0 in a state. -/
def cxS (x : Ctx) : State := (pS []).setCtx 0 x
/-- A group of context 0 that is not cleared any more. -/
def gcS (x : Ctx) (m : GroupSt) : State := (cxS x).setGroup 0 0 { st := m, nmem := 1 }
/-- ContextCommands and ContextSteps: a context in each state, with and without saved state, a rival for its time, deadlines. -/
theorem wit_ContextLifeCycle :
    (State.reset.ctx 0).st = .free ∧ ((cxS { st := .running }).ctx 0).st = .running ∧ ((cxS { st := .draining }).ctx 0).st = .draining ∧
    (let s := gcS { st := .stopped, snapd := 1, rstd := 1 } .active
     (s.ctx 0).st = .stopped ∧ s.covers 0 1 = true ∧ (s.ctx 0).next = none) ∧
    ((cxS { st := .ready }).ctx 0).svalid = false ∧
    (((cxS { st := .ready, runReq := true }).ctx 0).runReq = true) ∧
    (let x : Ctx := { st := .running, r := { quantum := 2 } }
     let s : State := { cxS x with clock := { tick := 9 } }
     (s.ctx 0).qStart + (s.ctx 0).r.quantum.toNat ≤ s.tick.toNat ∧
       ((List.range 64).filter fun n => (s.ctx n).st == .ready && s.hasWork n && decide ((s.ctx 0).prio ≤ (s.ctx n).prio)) = [] ∧
       (let t : State := (s.setCtx 1 { st := .ready }).setQueue 0 { ctx := 1, tail := 1, st := .ready }
        ((List.range 64).filter fun n => (t.ctx n).st == .ready && t.hasWork n && decide ((t.ctx 0).prio ≤ (t.ctx n).prio)) = [1])) ∧
    (let s := { cxS { st := .draining, r := { hdead := 3 }, hStart := some 2 } with clock := { tick := 5 } }
     (s.ctx 0).hStart = some 2 ∧ 2 + (s.ctx 0).r.hdead.toNat ≤ s.tick.toNat ∧ (s.ctx 0).hardReq = false) ∧
    (∀ x ∈ [({ st := .draining } : Ctx), { st := .draining, hardReq := true }, { st := .tearing }],
      (State.reset.setCtx 0 x).drained 0 = true) ∧ (cxS { st := .draining }).drained 0 = false := by decide +kernel
/-- GroupCommands: a group that passes its checks, one that is refused, one that may be freed and one that a kernel uses. -/
theorem wit_GroupCommands :
    (let s := cxS { st := .ready }
     (s.group 0 0).st = .free ∧ s.reserveFault 0 0 (s.group 0 0) = none ∧ State.reset.reserveFault 0 0 {} = some cFrame) ∧
    (let s := gcS { st := .ready } .parked
     s.groupInUse 0 (s.group 0 0) = false ∧
       (let t := { s with cp := { s.cp with kernels := [(0, { used := true, st := .armed, place := { map := [(0, 0)] } })] } }
        t.groupInUse 0 (t.group 0 0) = true ∧ (t.group 0 0).st = .parked)) := by decide +kernel
/-- Queue 0 of context 0 with one command at the bottom of HBM, in a context that runs and maps it; an ARMED kernel of KID 0, table 0
valid, a program at 0x1000. -/
def quS (st : QueueSt) (w : List Word) : State :=
  let s := (trS State.reset).setCtx 0 { st := .running, pgts := [(0, { v := true, n := 2 })] }
  let t := s.setQueue 0 { st := st, tail := 1 }
  mS ((w.zipIdx.map fun (v, i) => (hbmHome (8 * i), v)) ++ [(hbmHome 0x1000, 0x0001000150434756)])
    { t with cp := { t.cp with kernels := [(0, { used := true, st := .armed })] } }
/-- QueueCommands: each of the seven commands where it starts; heads that wait and that are refused. -/
theorem wit_QueueCommands :
    (∀ p ∈ [(1, [(1 : Word)]), (2, [0xA02, 0x8000000000000000, 1]), (3, [0xA03, 0x8000000000000000]), (4, [4, 0x2000, 0x3000, 64]),
        (5, [5, 0x1000, 0, 1]), (6, [6]), (7, [7, 0x2000])],
      let s := (quS .ready p.2).setRod 0x8000000000000000 { a := true }
      let w := p.2 ++ List.replicate (8 - p.2.length) 0
      s.headSt (s.queue 0) = (w, .go) ∧ cmdOpc w = p.1 ∧ s.cpFree = true ∧ s.cpPick = some 0 ∧ (s.ctx (s.queue 0).ctx).st = .running) ∧
    (let s := quS .ready [1]
     s.kidKernel 0 0 = some 0 ∧ s.freeInst 0 = some 0) ∧
    (let s := quS .ready [0xA02, 0x8000000000000000, 1]
     let t := (s.setRod 0x8000000000000000 { a := true }).advanceHead 0
     (t.checkRod ⟨.cp, some 0⟩ .add 0x8000000000000000).1.toOption = some 0 ∧
       (match s.headSt (s.queue 0) with | (_, .refuse _) => true | _ => false) = true) ∧
    (let s := quS .ready [7, 0x2000]
     ((s.advanceHead 0).resolve { by_ := .cp, ctx := some 0, kind := .store, strm := 0xFE } [0x0, 0x2] 0x2000 16 true).1.toOption.isSome = true) ∧
    (let s := (quS .ready [0xA03, 0x8000000000000000, 1]).setRod 0x8000000000000000 { a := true }
     (match s.headSt (s.queue 0) with | (_, .wait) => true | _ => false) = true) ∧
    (let s := quS .waiting [6]
     (s.queue 0).st = .waiting ∧ (s.headSt (s.queue 0)).2 = .go) := by decide +kernel
/-- QueueRegisters: a DISABLED and a HALTED queue, TAIL inside and outside the ring, reservations that are granted, wait and are
refused, a post. -/
theorem wit_QueueRegisters :
    ((State.reset.queue 0).st = .disabled ∧ (∀ p ∈ State.reset.cp.queues, p.1 ≠ 0 → p.2.devq = true → p.2.ctx ≠ 0) ∧
      ((State.reset.setQueue 0 { st := .halted }).queue 0).st = .halted) ∧
    (let x : Queue := { st := .ready, log2n := 4 }
     ((16 : BitVec 32) - x.head).toNat ≤ 2 ^ x.log2n ∧ 2 ^ x.log2n < ((17 : BitVec 32) - x.head).toNat) ∧
    (let s := (trS State.reset).setCtx 0 { st := .running }
     let t := { s with cp := { s.cp with resv := [{ eng := 0, uid := 1 }], queues := [(0, { st := .idle, devq := true, log2n := 4 })] } }
     let r : Reservation := { eng := 0, uid := 1 }
     (t.cp.resv.find? fun r => r.eng == 0 && r.uid == 1 && !r.granted) = some r ∧
       (t.deviceQueue 0).map (fun p => (p.1, p.2.st == .idle, t.ringFree 0 p.2)) = some (0, true, 16) ∧
       (let u := t.setQueue 0 { st := .ready, devq := true, log2n := 4, tail := 16 }
        (u.deviceQueue 0).map (fun p => u.ringFree 0 p.2) = some 0) ∧ (State.reset.deviceQueue 0) = none ∧
       (t.ctx 0).st ≠ .tearing ∧ (t.ctx 0).st ≠ .free ∧
       (t.resolve { by_ := .cp, ctx := some 0, kind := .store, strm := 0xFE } [0x0, 0x2] (0 + BitVec.ofNat 64 (64 * 0)) 64 true).1.toOption.isSome = true) := by
  decide +kernel

/-- Slot 0 of die 0 runs a program of context 0, table 0, with registers and outstanding steps; the table has two ranks, of which this
package is rank 0; the context maps the bottom of HBM. -/
def seqS (w : Table Word) (outs : List CStep) : State :=
  let s := (trS State.reset).setCtx 0 { st := .running, pgts := [(0, { v := true, n := 2, gkey := 7, tmo := 1, base := 0x8000 })] }
  let t := s.setProg 0 0 (some { ctx := 0, tbl := 0, words := [0, 0], w := w, outs := outs, pc := 0, npc := 1 })
  { t with cur := .seq 0 0, net := { t.net with nodeid := 1 } }
/-- CollectiveStepWords: a program that may issue, with each kind of peer and operand, and one with eight steps outstanding. -/
theorem wit_CollectiveStepWords :
    (seqS [] []).cur = .seq 0 0 ∧ ((seqS [] []).prog 0 0).map (·.outs.length) = some 0 ∧
    (let s := (seqS [] []).setRod 0x8000000000000000 { a := true }
     (s.checkRod ⟨.seq 0, some 0⟩ .add 0x8000000000000000).1.toOption = some 0) ∧
    1 < ((seqS [] []).pgt 0 0).n ∧ stepLegal 64 0x40 ∧ ¬ stepLegal 65 0x40 ∧ ¬ stepLegal 64 0x41 ∧ ¬ stepLegal 64 0x8000000000000000 ∧
    stepLegal 192 0x40 ∧ 192 % 192 = 0 ∧ ¬ (2 : Nat) < ((seqS [] []).pgt 0 0).n ∧
    ((seqS [] (List.replicate 8 {})).prog 0 0).map (·.outs.length) = some 8 := by unfold stepLegal; decide +kernel
/-- CollectiveControlWords: waits that are met and not, loops inside and outside the program, a peer of each operation, ends with and
without outstanding steps and with a collective of several dies. -/
theorem wit_CollectiveControlWords :
    (let s := (seqS [(1, 0x8000000000000000), (2, 1)] []).setRod 0x8000000000000000 { a := true }
     (s.checkRod ⟨.seq 0, some 0⟩ .wait 0x8000000000000000).1.toOption = some 0 ∧ ¬ (1 : Word).toNat ≤ (s.rodCount 0x8000000000000000 0).toNat ∧
       (0 : Word).toNat ≤ (s.rodCount 0x8000000000000000 0).toNat ∧ (s.checkRod ⟨.seq 0, some 0⟩ .wait 0x8000000000000001).1.toOption = none) ∧
    (1 : Nat) ∈ wordStarts [0, 0] ∧ (2 : Nat) ∉ wordStarts [0, 0] ∧ (3 : BitVec 4).getLsbD 0 = true ∧ (2 : BitVec 4).getLsbD 0 = false ∧
    (let s := seqS [] []
     let t := { s with cp := { s.cp with colls := [{ mask := 3 }, { mask := 1, gen := 1 }] } }
     (t.cp.colls.find? fun y => y.ctx == 0 && y.tbl == 0 && y.gen == 0).map (fun y => y.mask &&& ~~~ (y.ended ||| 1)) = some 2 ∧
       (t.cp.colls.find? fun y => y.ctx == 0 && y.tbl == 0 && y.gen == 1).map (fun y => y.mask &&& ~~~ (y.ended ||| 1)) = some 0) := by
  decide +kernel
/-- RegisterFiles: specifiers that are written and that are not. -/
theorem wit_RegisterFiles :
    (23 : Spec).toNat < 24 ∧ (52 ≤ (52 : Spec).toNat ∧ (55 : Spec).toNat < 56) ∧ ¬ ((24 : Spec).toNat < 24 ∨ 52 ≤ (24 : Spec).toNat) ∧
    ¬ ((56 : Spec).toNat < 24 ∨ (52 ≤ (56 : Spec).toNat ∧ (56 : Spec).toNat < 56)) ∧ (1 : Spec) ≠ 0 ∧ (2 : Spec) ≠ 1 := by decide +kernel
/-- A packet of the collective from rank 1 to this package. -/
def cpk (kind : BitVec 8) : Packet :=
  { kind := kind, die := 0, dnode := 1, snode := 2, age := 0, gkey := 7, srank := 1, drank := 0, gen := 0, tag := 5, len := 64, addr := 0,
    xdata := 0, payload := [] }
/-- A step that receives 64 bytes of rank 1 under tag 5, and one that sends. -/
def rcv0 : CStep := { id := 9, kind := .recv, peer := 1, len := 64, tag := 5 }
def snd0 : CStep := { id := 0, kind := .send, peer := 1, len := 64, tag := 5 }
/-- CollectiveMessages: a request that is taken, waits or is turned away, of the wrong length; chunks that are sent and received; the
answers; contexts that are torn down or stopped; a request to repeat and one whose time is up. -/
theorem wit_CollectiveMessages :
    (let s := seqS [] [rcv0]
     let p := cpk 0x20
     handlesPacket s 0 p ∧ p.die.toNat < 4 ∧ (s.progOf 0 0 0 0).map (fun x => (x.1, x.2.outs)) = some (0, [rcv0]) ∧ p.graph = false ∧
       (seqS [] []).accept 0 0 0 p = none ∧ ((seqS [] []).die 0).reqs.length < 256 ∧ rcv0.len = p.len.toNat ∧
       { rcv0 with len := 128 }.len ≠ p.len.toNat) ∧
    (let s := seqS [] [{ snd0 with cleared := some 1, todo := [0] }]
     let p := { cpk 0x21 with xdata := 0 }
     (s.sender 0 0 p).map (fun x => x.2.2) = some { snd0 with cleared := some 1, todo := [0] } ∧
       ((s.drawFree.2.readChunk 0 0 0).1.toOption).map List.length = some 64) ∧
    (let x := { rcv0 with cleared := some 1, todo := [0, 64] }
     let s := seqS [] [x]
     let p := { cpk 0x22 with payload := List.replicate 64 1 }
     (s.progOf 0 0 0 0).map (fun y => y.2.outs.find? fun x => x.kind != .send && x.cleared == some 1 && x.mark == p.mark) = some (some x) ∧
       p.addr.toNat ∈ x.todo ∧ (s.chunkHomes 0 0 .swrite 0).1.toOption.isSome = true ∧ (x.todo.filter (· != 64)) = [0] ∧
       (([64] : List Nat).filter (· != 64)) = []) ∧
    ((State.reset.ctx 0).st = .free ∧ (((seqS [] []).setCtx 0 { st := .stopped }).ctx 0).st = .stopped) ∧
    (let s := seqS [] [{ snd0 with resend := some 3 }]
     (s.prog 0 0).map (fun p => (p.step? 0).map (·.resend)) = some (some (some 3)) ∧ s.tick.toNat < 3 ∧
       3 ≤ { s with clock := { tick := 3 } }.tick.toNat) ∧
    (let s := seqS [] [rcv0]
     (s.prog 0 0).map (fun p => ((p.step? 9).map (·.start), p.stop)) = some (some 0, false) ∧ (s.pgt 0 0).tmo.toNat = 1 ∧
       (s.ctx 0).st = .running ∧ s.tick.toNat < 0 + 1 * 850 ∧ 0 + 1 * 850 ≤ { s with clock := { tick := 850 } }.tick.toNat) := by
  unfold handlesPacket; decide +kernel
/-- AbortsAndTables: the first abort of a generation and a later one, answers, time that is up; a RECV port whose timer runs; tables
that name this package once, twice and not at all. -/
theorem wit_AbortsAndTables :
    (let s := seqS [] []
     let p := cpk 0x28
     handlesPacket s 0 p ∧ s.abortOf 0 0 0 = none ∧ p.srank ≠ p.drank) ∧
    (let s := seqS [] []
     let t := fun (w : AbortWait) => { s with cp := { s.cp with aborts := [w] } }
     (∀ w ∈ [({ await := [1] } : AbortWait), { await := [1, 2] }, { done := true }], (t w).abortOf 0 0 0 = some w) ∧
       ([1] : List Nat).filter (· != 1) = [] ∧ ([1, 2] : List Nat).filter (· != 1) ≠ [] ∧ (s.ctx 0).st = .running ∧
       s.tick.toNat < 0 + 1 * 850) ∧
    (let o : OpEntry := { h := { kind := .recv, nin := 2 }, ports := [{ tile := true }, {}], up := [0x401, 0] }
     let s := tkS fr4 o [(1, { p := true, tok := ({ port := 1, col := 0 : TokF }).mk128 })]
     let t := s.setEngine 0 { s.engine 0 with timers := [⟨0, 0, 0, 0⟩] }
     ((t.engine 0).timers.find? fun x => x.op == 0 && x.port == 0 && x.col == 0) = some ⟨0, 0, 0, 0⟩ ∧ t.recvWaits 0 0 0 0 = true ∧
       t.tick.toNat < 0 + upTmo (((t.engine 0).op 0).upRef 0) * 64 * 850) ∧
    (let s := mS [(hbmHome 0x8000, 0x00020001)] (seqS [] [])
     let g := s.pgt 0 0
     let t := s.setPgt 0 0 { g with v := false }
     (t.pgt 0 0).v = false ∧ (s.pgt 0 0).v = true ∧ t.keyTaken 0 0 7 = false ∧
       ((List.range 2).map (t.rankNode (t.pgt 0 0))) = [t.net.nodeid, 2] ∧
       ((List.range 2).map ({ t with net := { t.net with nodeid := 3 } }.rankNode (t.pgt 0 0))) = [1, 2]) := by
  unfold handlesPacket; decide +kernel

/-- Port 0 of die 0 in a state. -/
def poS (x : LinkPort) : State := (seqS [] []).setPort 0 0 x
/-- A token packet from node 2 to node `n`. -/
def tkp (n : BitVec 16) : Packet := { cpk 0x01 with dnode := n, tag := 0, len := 0 }
/-- LinkPorts: ports in each state, a flit that is taken and one out of sequence, replays before and after their limits. -/
theorem wit_LinkPorts :
    (∀ st ∈ [PortSt.down, .training, .up], ((poS { st := st }).port 0 0).st = st) ∧ (seqS [] []).root.cmode = 0 ∧
    (let x : LinkPort := { st := .up, tx := [{ tries := 7 }] }
     x.tx ≠ [] ∧ (∀ t ∈ x.tx, t.tries < 8) ∧ (∃ t ∈ ({ x with tx := [{ tries := 8 }] } : LinkPort).tx, 8 ≤ t.tries) ∧
       (poS x).tick.toNat < x.ackTick + 16 * 850 ∧ x.ackTick + 16 * 850 ≤ { poS x with clock := { tick := 13600 } }.tick.toNat) ∧
    (rxPacket [(tkp 3).header]).map (fun p => kindOk p.kind && decide (p.age.toNat < 1000) && p.dnode != 1) = some true ∧
    rxPacket [{ tkp 3 with kind := 0x11, len := 8 }.header] = none := by
  decide +kernel
/-- The flits of a header: the first of the sequence has a good CRC and is a header. -/
theorem wit_LinkFlits (h : BitVec 448) :
    let f := mkFlit h 0 1 none
    crc32c (leBytes 60 f.toNat) = f.extractLsb' 480 32 ∧ (f.extractLsb' 448 12).toNat = ({} : LinkPort).expSeq ∧
      (f.extractLsb' 460 4).toNat = 1 ∧ f.getLsbD 479 = false ∧ rxPacket [f.extractLsb' 0 448] = rxPacket [h] ∧
      ((mkFlit h 1 1 none).extractLsb' 448 12).toNat ≠ ({} : LinkPort).expSeq :=
  ⟨mkFlit_crc .., mkFlit_seq .., mkFlit_kind .., mkFlit_noAck .., by rw [mkFlit_body], by rw [mkFlit_seq]; decide⟩
/-- The same with a route from node 3 to port 0 of die 0. -/
def roS (x : LinkPort) : State :=
  let s := poS x
  { s with net := { s.net with routes := [(3, 0x80)] } }
/-- PacketRouting: a packet for another node, with and without a route, for this one, with and without a table. -/
theorem wit_PacketRouting :
    (tkp 3).dnode ≠ (roS {}).net.nodeid ∧ (tget 0 (roS {}).net.routes 3).getLsbD 7 = true ∧ (tkp 3).age.toNat < 1024 ∧
    (tget 0 (roS {}).net.routes 4).getLsbD 7 = false ∧ (tkp 1).dnode = (roS {}).net.nodeid ∧
    (roS {}).keyTable (tkp 1).gkey = some (0, 0) ∧ ((roS {}).pgt 0 0).own = (tkp 1).drank.toNat ∧ (roS {}).keyTable 8 = none := by
  decide +kernel
/-- A state in which instance 0 of context 0 names table 0, and one operation awaits its answer from node 2. -/
def rmS (r : Option Reply) : State :=
  let s := seqS [] []
  { s with cp := { s.cp with kernels := [(0, { used := true, st := .running, launch := { pgtm := 1 } })] },
           net := { s.net with remotes := [{ id := 5, tag := 5, node := 2, who := who0, reply := r }] } }
/-- RemoteTraffic: a token for a rank that exists and for one that does not, an add and a store that act and one that fails, answers. -/
theorem wit_RemoteTraffic :
    ((rmS none).launchTable 0 0 = some 0 ∧ (0 : Nat) < ((rmS none).pgt 0 0).n ∧
      (let f := refRmt 0
       (if f / 2 % 2 = 1 then 1 else refCimm 0) < ((rmS none).pgt 0 0).n)) ∧
    (let s := seqS [] []
     let via := fun (k : AccKind) => ({ by_ := .link 0, ctx := some 0, kind := k } : Via)
     (s.resolve (via .atomic) [0x0] 0x40 8 true).1.toOption.map (fun hs => (decide hs.Nodup, hs.length, s.eccHomes hs)) = some (true, 8, false) ∧
       (s.resolve (via .store) [0x0] 0x40 16 false).1.toOption.map List.length = some 16 ∧
       (s.resolve (via .atomic) [0x0] 0x44 8 true).1.toOption = none) ∧
    (∀ r ∈ [none, some rep0],
      (((rmS r).net.remotes.find? fun x => x.tag == (cpk 0x18).tag.toNat && x.node == (cpk 0x18).snode.toNat).map (·.reply)) = some r) ∧
    tokUnit rep0.tok ≤ 71 ∧ ((rmS none).net.remotes.find? fun x => x.tag == 6 && x.node == 2).isNone = true := by decide +kernel
/-- Firmware at the bottom of HBM with an entry at 0x1000. -/
def fwS (st : BootSt) : State :=
  let s := mS [(hbmHome 0, 0x0000000157464756), (hbmHome 8, 0x1000)] State.reset
  { s with root := { s.root with bstate := st, imglen := 178 } }
/-- BootPowerAndCapture: each state of the boot, an image that can be read with a good and with a bad header, whatever its signature, one
that cannot be read; replay that may begin, may not, and diverges; windows of each power. -/
theorem wit_BootPowerAndCapture :
    (∀ st ∈ [BootSt.rom, .waitimg, .verify, .running, .failed, .frozen], (fwS st).root.bstate = st) ∧
    ((fwS .verify).imgHeaderOk = true ∧ (fwS .verify).eccAt (hbmHome 0) 178 = false ∧
      { fwS .verify with ecc := [hbmHome 0 / 8] }.eccAt (hbmHome 0) 178 = true ∧ leNat (State.reset.rdBytes (hbmHome 0) 4) ≠ 0x57464756) ∧
    ((∀ p ∈ (fwS .running).ctxs, p.2.st = .free ∧ p.2.torn = false) ∧
      (∃ p ∈ ((fwS .running).setCtx 0 { torn := true }).ctxs, p.2.st ≠ .free ∨ p.2.torn = true)) ∧
    (let s := { fwS .running with root := { (fwS .running).root with cmode := 2, caplen := 1 }, clock := { tick := 0x1000000 } }
     (s.nextEntry 2).isSome || (s.nextEntry 0).isSome || (s.nextEntry 1).isSome || (s.nextEntry 3).isSome) = true ∧
    ((0x1000000 : Word).toNat ≥ 0 + 2 ^ 24 ∧ 0 + 850000 ≤ (850000 : Word).toNat ∧ (3000 : BitVec 16).toNat < 3001 ∧ 2849 * 100 < 95 * (3000 : BitVec 16).toNat ∧
      95 * (3000 : BitVec 16).toNat ≤ 2850 * 100) := by decide +kernel
/-- The signature of an image is good or it is not: the check is a constant without a value. -/
theorem wit_BootSignature : ∀ h b, Config.firmwareSigOk h b = true ∨ Config.firmwareSigOk h b = false :=
  fun h b => (Bool.eq_false_or_eq_true (Config.firmwareSigOk h b))
/-- HostAndManagement: accesses that resolve, that lie outside the aperture, AtomicOps allowed and not, functions bound and not. -/
theorem wit_HostAndManagement :
    (let s := seqS [] []
     let t : State := { s with host := { s.host with apmode := true, vf := [(1, { en := true, ctx := 0 })] } }
     s.isFrozen = false ∧ s.root.cmode = 0 ∧ 8 + 8 ≤ 2 ^ s.host.aplog2 ∧ 2 ^ s.host.aplog2 < 2 ^ 30 + 8 ∧ s.root.log.length ≤ 256 ∧
       (s.resolve ({ by_ := .link 0, kind := .load, ctx := none } : Via) [0x0] 8 8 false).1.toOption.map (fun hs => (hs.length, s.eccHomes hs)) = some (8, false) ∧
       (s.resolve ({ by_ := .link 0, kind := .store, ctx := none } : Via) [0x0] 8 8 false).1.toOption.map (fun hs => decide hs.Nodup) = some true ∧
       (t.resolve ({ by_ := .link 0, kind := .atomic, ctx := some 0 } : Via) [0x0] 8 8 true).1.toOption.map (fun hs => (hs.length, decide hs.Nodup)) = some (8, true) ∧
       t.hostAtomicPage 0 8 = true ∧ s.host.apmode = false ∧ hostAtomicSize (.atom 1 8 0) = none ∧
       (tget {} t.host.vf 1).en = true ∧ (t.queue 0).ctx = (tget {} t.host.vf 1).ctx ∧ (tget {} t.host.vf 2).en = false) ∧
    (List.replicate 64 (1 : Byte)).length = 64 := by decide +kernel
/-- LocksAndWalkers: a walker at rest and busy, with what it waits for done and not, a Reckoner without waiters. -/
theorem wit_WalkersAndLockUnits :
    (let s := seqS [] []
     ((s.units 0).walk.busy = false ∧ fld (1 : Word) 0 2 ≤ 2) ∧
       (let u := s.units 0
        let t := fun l => s.setUnits 0 { u with walk := { u.walk with busy := true, await := l } }
        ((t []).units 0).walk.busy = true ∧ (t []).depsDone [] = true ∧ { t [7] with pend := [⟨7, [], .resetRelease⟩] }.depsDone [7] = false) ∧
       (s.reckoner 0).queue = []) := by decide +kernel
/-- RowsAndStepsComplete, CoreStepsKeepInvariant: moves that name no agent and moves that do; a core that has nothing to run, one that
runs a word of its own, in states with the invariant. -/
theorem wit_StepsAndInvariant :
    ({ State.reset with sched := [.engine 288 0] }.nextMove.1 = .engine 288 0 ∧ { State.reset with sched := [.core 4] }.nextMove.1 = .core 4 ∧
      { State.reset with sched := [.core 0] }.nextMove.1 = .core 0) ∧
    (let s := { (mS [(hbmHome 0, 0)] State.reset) with sched := [.core 0] }
     Memory.wf s.mem = true ∧ (∀ d, d < 4 → (s.core d).pc.toNat % 8 = 0 ∧ (s.core d).npc.toNat % 8 = 0 ∧ (s.core d).csr.asel.toNat ≤ 64 ∧
       s.root.halt.getLsbD d = (s.core d).halted) ∧ (match step s with | .next _ => true | _ => false) = true ∧
       (match s.select with | .stay _ => true | _ => false) = true) ∧
    (let s := mS [(hbmHome 0, 0xCC20000000000000)] State.reset
     let t := (s.setCore 0 { s.core 0 with run := true })
     let u := { t with sched := [.core 0], root := { t.root with bstate := .running } }
     (match u.select with | .run i v => coreOwn (v.core 0) i | _ => false) = true ∧
       (match step u with | .next _ => true | _ => false) = true) := by decide +kernel

/-! ## Witnesses of the clauses on order, locks' waits and what leaves the package -/

/-- StepRunsDecodedWord and StepRunsEvents: a word of a pass that has more steps, an event in its turn and one that comes late, a word of
a core that waits for a store of it, an atomic that reads freely. -/
theorem wit_StepTurns :
    (let a := { act [] with pass := { (act []).pass with step := 1, after := [] } }
     a.pass.step ≠ 0 ∧ a.pass.wait = .none ∧ a.pass.after = []) ∧
    (let s := { State.reset with clock := { came := [(0, 0, 300)] } }
     s.late (.trapRecordEnqueue 0 { (default : Record) with die := 0, unit := 5 }) = true ∧
       s.late (.trapRecordEnqueue 0 { (default : Record) with die := 2, unit := 5 }) = false) ∧
    (let s := (cS []).post (.accessAtHome ⟨[64], .store [1], 0, (cS []).coreOrigin 0, none⟩)
     waitsForAll 0xCC00000000000000 = true ∧ s.corePend 0 ≠ [] ∧ waitsForAll 0xC000000000000000 = false ∧
       s.readsFree (.accessAtHome ⟨[64], .atom 0 8 1, 0, who0, none⟩) = true) := by decide +kernel
/-- LoadsAndStores: nothing read ahead, one byte of two, both at one moment and at two. -/
theorem wit_LoadsReadAhead :
    ([7, 8] : List Byte).length = [64, 65].length ∧ (∀ h ∈ [64, 65], ∀ x ∈ ([] : List PreByte), x.home ≠ h) ∧
    earlyBytes [⟨64, 1, 9, 0⟩] false [64, 65] [7, 8] = [9, 8] ∧ earlyBytes [⟨64, 1, 9, 0⟩] true [64, 65] [7, 8] = [7, 8] ∧
    earlyBytes [⟨64, 1, 9, 0⟩, ⟨65, 1, 5, 0⟩] true [64, 65] [7, 8] = [9, 5] ∧
    ([⟨64, 1, 9, 0⟩] : List PreByte).find? (fun y => y.home == 64) = some ⟨64, 1, 9, 0⟩ ∧ forget [⟨64, 1, 9, 0⟩] [64] = [] := by decide +kernel
/-- CsrAndAccessWords, RodWords: a core without and with a store of its own on its way, to the same bytes and to others; a release at
GROUP and at SYSTEM scope. -/
theorem wit_CoreOrder :
    (let s := cS [(1, 64)]
     let t := s.post (.accessAtHome ⟨[64], .store [9], 0, s.coreOrigin 0, none⟩)
     s.corePend 0 = [] ∧ t.corePend 0 = [(s.nextId, [64])] ∧ (t.coreDeps 0 [64] false 3).1 = [s.nextId] ∧
       (t.coreDeps 0 [80] false 3).1 = [] ∧ (t.coreDeps 0 [80] true 4).1 = [s.nextId] ∧ (t.coreDeps 0 [80] true 1).2 = [s.nextId] ∧
       t.coreView 0 [64] [1] = [9] ∧ t.coreView 0 [80] [1] = [1] ∧ (s.coreOrigin 0).unit = 240) ∧
    (let s := { cS [] with soft := [⟨7, [64], 1, (cS []).coreOrigin 1, [0]⟩] }
     s.cur = .core 0 ∧ s.seen (.core 0) 0 [80] = []) := by decide +kernel
/-- RodWords: an add of 0, one that overflows, and one to a rod that is not allocated. -/
theorem wit_RodAddActs :
    (let s := State.reset.setRod 0x8000000000000000 { count := 5, a := true }
     let a : RodAdd := ⟨0x8000000000000000, 0, 0, who0, 3⟩
     rodKind a.ref = 2 ∧ (s.rod a.ref).a = true ∧ (s.rodCount a.ref 0).toNat + 0 < 2 ^ 64 ∧
       2 ^ 64 ≤ (s.rodCount a.ref 0).toNat + (2 ^ 64 - 5) ∧ (State.reset.rod a.ref).a = false ∧ rodKind 0xC000000000000040 = 3 ∧
       s.eccAt 0 8 = false ∧ { s with ecc := [0] }.eccAt 0 8 = true) := by decide +kernel
/-- PrivilegedWordsInBothModes: a word that stays for tokens in transit, one that has waited for them, a PURGE that is ignored. -/
theorem wit_BusyWords :
    (let s := { kerS .running with pend := [⟨9, [], .exitToken (tk 0 0) who0⟩] }
     let k := s.setCore 0 { s.core 0 with busy := some (20, 5) }
     s.stillInTransit 0 0 20 5 = true ∧ s.stillInTransit 0 0 3 5 = false ∧ (k.core 0).busy.isSome = true ∧ (s.core 0).busy = none ∧
       ((kerS .purging).kernel 0).st ∉ [.running, .faulted] ∧ ((kerS .purging).kernel 0).st ≠ .draining ∧
       (kerS .purging).instKernel 0 0 = some 0) ∧
    (gldS.slotClearing 0 0 = false ∧ unitOk 200 = false) := by decide +kernel
/-- TokenArrivals: a credit return at a pool, a STICKY port, contexts that are away and torn down, a colour that is not live; a sender. -/
theorem wit_TokenFates :
    (let s := poolS.setBusy (.pool 0) 0 0 4
     let g := (s.units 0).groups.filter fun z => z.2.holds && z.2.ctx == 0
     (g.find? fun z => (s.busyMap (.pool 0) (256 * z.1 + 0) 0).getLsbD 2).map (·.1) = some 0) ∧
    (let o : OpEntry := { op1 with ports := [{ mode := .sticky }] }
     let s := tkS { fr4 with spc := 2 } o
     ((s.opAt (.eng 0) 0 0).ports.getD 0 {}).mode = .sticky ∧ s.frameChecks (.eng 0) (tk 1 5) = true) ∧
    ((tkS fr4 op1).frame (.eng 0) 0).live (tokCol (tk 9 5)) = false ∧
    (let s := State.reset.setCtx 0 { torn := true }
     (s.ctx 0).st = .free ∧ (s.ctx 0).torn = true ∧ (State.reset.setCtx 0 { st := .ready, svalid := true } |>.ctx 0).svalid = true) := by
  decide +kernel
/-- LoopArms and ExitsCount: a trip count of 0 and one above 4,096; an exit past the count, one of another context, one of no instance. -/
theorem wit_LoopAndExitBounds :
    (tokPay (tk 0 0)).toNat = 0 ∧ 4096 < (tokPay (tk 0 4097)).toNat ∧
    (let s := { State.reset with cp := { State.reset.cp with kernels := [(0, { used := true, st := .running, nexit := 1, exits := 1 })] } }
     s.instKernel 0 0 = some 0 ∧ (s.kernel 0).nexit.toNat < (s.kernel 0).exits.toNat + 0 + 1 ∧ (s.ctx 0).isTorn = false ∧
       ((tokPay (tk 0 0x100)).extractLsb' 8 6).toNat ≠ tokCtx (tk 0 0x100) ∧ s.instKernel 0 1 = none) := by decide +kernel
/-- TokenEventsComplete: a token at an empty slot, a pair for a LOOP, an arming with colours left. -/
theorem wit_TokenEventsComplete :
    (let s := tkS fr4 op1
     let tok := tk 1 5
     (0 ≤ 71) ∧ (s.ctx (tokCtx tok)).st = .running ∧ tokCredit tok = false ∧ s.frameChecks (.eng 0) tok = true ∧
       s.initialRefused (.eng 0) tok = false ∧ tokRun tok = 0 ∧ ((s.opAt (.eng 0) 0 0).ports.getD 0 {}).mode ≠ .rod ∧
       (s.opAt (.eng 0) 0 0).h.kind ≠ .loop ∧ (s.frame (.eng 0) 0).live 1 = true ∧ (s.slot (.eng 0) 1).p = false) ∧
    (let s := tkS { fr4 with spc := 2 } opLoop [(0, { p := true, tok := tk 0 7 }), (1, { p := true, tok := tk 0 3 })]
     let f := tget {} (s.engine 0).t.ft 0
     1 ≤ (tokPay ((s.portTok (.eng 0) f ((s.engine 0).op 0) 0 1).getD 0)).toNat ∧
       (f.window.find? fun c => (s.portTok (.eng 0) f ((s.engine 0).op 0) c 0).isSome &&
         (s.portTok (.eng 0) f ((s.engine 0).op 0) c 1).isSome) = some 0) ∧
    (let f := fr4
     (f.next + 4096 - f.wbase) % 4096 < f.w ∧ (((6 : Nat), (0 : Nat)) ≠ (6, 6))) := by decide +kernel
/-- TokenEventsComplete: a spilled token of a frame in use, one entry of the region; the homes of the entry. -/
theorem wit_SpilledReturns :
    (let s := trS ((tkS fr4 op1).setCtx 0 { st := .running, r := { ovsize := 1 } })
     let t := s.storeHomes ((List.range 32).map (hbmHome ·)) (ovBytes (tk 1 5) 0 0 false)
     let f := t.frame (.eng 0) 0
     let b := ovBytes (tk 1 5) 0 0 false
     f.v = true ∧ (ovLoc 0 b == Loc.eng 0 && tokFrame (ovToken b) == 0 && f.live (tokCol (ovToken b)) && ovFlags b / 2 % 2 == 0) = true ∧
       pickMin (fun x y : Nat × List Byte => ovBefore f x.2 y.2) [(0, b)] = some (0, b) ∧
       (t.ovHomes 0 0 0 .store).1.toOption.map List.length = some 32) := by decide +kernel
/-- TokenEventsComplete: a pushed row that lands in the sub-slot of its colour, with an empty slot. -/
theorem wit_PushLands :
    (let s := tkS fr4 { op1 with rcnt := 4 }
     let tok := tk 1 d1
     let o := (s.engine 0).op (tokOp tok)
     let d := dWithBase (tokPay tok) (o.inLine (tokPort tok) (tokCol tok % o.rcnt))
     let named := tokWithPay tok d
     let u := s.landRows 0 d [[1, 2, 3, 4]]
     o.h.kind ≠ .none ∧ (s.ctx 0).isTorn = false ∧ (u.ctx 0).st = .running ∧ tokCredit named = false ∧
       u.frameChecks (.eng 0) named = true ∧ tokRun named = 0 ∧ (u.frame (.eng 0) 0).live (tokCol named) = true ∧
       (u.slot (.eng 0) 1).p = false ∧ s.consumerK tok 0 = 0) := by decide +kernel
/-- StreamEvents: a chunk whose bytes have all come and one that lacks some; an acknowledged stream with an add at GROUP scope. -/
theorem wit_StreamBuffer :
    (let s := strS (str0 .ldt 0x8000000000000000)
     let hs := s.scratchHomes 0 (d1 + 1) 0 0 16
     hs.length = 16 ∧ (∀ h ∈ hs, h ∈ s.chunkMates 0 (d1 + 1) hs) ∧ bufHas [] (hs.getD 0 0) = false ∧
       bufHas [(hs.getD 0 0, 7)] (hs.getD 0 0) = true ∧ (hs.getD 0 0) / 64 = (hs.getD 15 0) / 64) ∧
    (let q : StreamReq := { rod := some 0, scope := 2 }
     q.scope ≠ 4 ∧ ([3] : List Nat) ≠ []) := by decide +kernel
/-- Writes of registers from outside, with and without a reserved bit (R6): a context, a group, a queue, a walker, a Reckoner. -/
theorem wit_ReservedBits :
    ctlReserved (ctxOff 5 0) 8 = true ∧ ctlReserved (ctxOff 5 0) 0x180 = false ∧ ctlReserved (ctxOff 5 1) 1 = true ∧
    ctlReserved (ctxOff 5 1) 0x10000 = false ∧ ctlReserved (groupOff 3 71 0) 8 = true ∧ ctlReserved (groupOff 3 71 0) 0x10300 = false ∧
    ctlReserved (queueOff 255 0) 8 = true ∧ ctlReserved (queueOff 255 0) 0x18500 = false ∧ ctlReserved (queueOff 255 4) (2 ^ 32) = true ∧
    ctlReserved (queueOff 255 4) 7 = false ∧ ctlReserved (walkerOff 3 0) 4 = true ∧ ctlReserved (walkerOff 3 0) 0x181 = false ∧
    ctlReserved (lockOff 3 2) 0x40 = true ∧ ctlReserved (lockOff 3 2) 0x105 = false := by decide +kernel
/-- ContextLifeCycle: a READY context with saved state whose groups are back, and one whose group is away; a pass that waits. -/
theorem wit_ContextRestore :
    (let s := gcS { st := .ready, svalid := true, runReq := true } .reserved
     (s.ctxGroups 0 fun t => t == .parked) = [] ∧ (∀ p ∈ s.ctxGroups 0 fun t => t == .reserved, (s.group p.1 p.2).clear = none)) ∧
    (gcS { st := .ready, svalid := true } .parked).ctxGroups 0 (fun t => t == .parked) = [(0, 0)] ∧
    (lkS.active 0 1).map (fun a => decide (a.pass.wait = .none)) = some false := by decide +kernel
/-- QueueRegisters: a context with a device queue of its own when another queue asks for it; a post that finds its reservation. -/
theorem wit_DeviceQueues :
    (let s := State.reset.setQueue 7 { devq := true, ctx := 5 }
     (∃ p ∈ s.cp.queues, p.1 ≠ 0 ∧ p.2.devq = true ∧ p.2.ctx = 5) ∧ (0x8500 : Word).getLsbD 15 = true ∧
       ((0x8500 : Word).extractLsb' 8 7).toNat = 5 ∧ (s.queue 0).st = .disabled) ∧
    (let l : List Reservation := [{ eng := 1, granted := true }, { eng := 2, granted := true }]
     (l.find? fun r => r.ctx == 0 && r.eng == 2 && r.granted && r.uid == 0) = some { eng := 2, granted := true }) := by decide +kernel
/-- CollectiveControlWords: a wait that a notification has ended. -/
theorem wit_CsWaitMet :
    (let w : RodWaiter := ⟨rodKey 0x8000000000000000 0, 3, 0, true⟩
     let p : CProg := { rodw := some w }
     p.rodw = some w ∧ ({ State.reset with soft := [] } : State).seen (.seq 0) 5 (rodKeys 0x8000000000000000 0) = []) := by decide +kernel
/-- RemoteTraffic: a store that is not aligned and the packet that follows it, a token for a reserved unit, a torn-down context. -/
theorem wit_RemoteBytes :
    (let p : Packet := { (default : Packet) with kind := 0x10, addr := 0x41, payload := [1, 2], len := 2 }
     let va : Word := p.addr &&& 0x0000FFFFFFFFFFFF#64
     p.payload ≠ [] ∧ va.toNat % p.payload.length ≠ 0 ∧ { p with payload := [] }.len ≠ 0 ∧ (0x40 : Word).toNat % 2 = 0) ∧
    unitOk 100 = false ∧ unitOk 248 = true ∧ (State.reset.setCtx 0 { torn := true } |>.ctx 0).isTorn = true ∧ (State.reset.ctx 0).isTorn = false := by
  decide +kernel

/-- Words of a frame entry and of an operator entry as their tables show them, by the layouts of R25 and R36. -/
theorem test_tableWords :
    (let o : OpEntry := { h := { kind := .compute, nin := 2, cls := 1, body := 5, blen := 3, olbase := 9, olcnt := 1 }, frame := 6,
                          slotoff := 4, ports := [{}, { mode := .sticky, epol := .replace, tile := true }], rbase := 100, rsize := 2,
                          rcnt := 4, rstr := 64 }
     o.readWord 8 = 0x2bc0000050c09100 ∧ o.readWord 9 = 0x18040000d000000 ∧ o.readWord 10 = 0x190043010000000) ∧
    (let f : Frame := { v := true, inst := 7, ctx := 3, w := 4, wbase := 16, spc := 2, base := 64, owner := 5 }
     (State.reset.setFrame (.pool 1) 9 f).regRead (.frame 289 9) = 0x8386180800204005) := by decide +kernel
/-- CsrAndAccessWords: an INV, a write of ROOT and another word of the walker, and an INV of a core whose store is on its way (R391). -/
theorem wit_InvStores :
    invStore 0xF000000000700000 0x100 = true ∧ invStore 0xF000000000100008 0 = true ∧ invStore 0xF000000000700000 0x80 = false ∧
    ctlReg 0x700000 = some (.walker 0 0) ∧ ctlReg 0x100008 = some (.ctx 0 1) ∧ addrPath 0xF000000000700000 = 0xF ∧
    (let r := cS [(1, 0xF000000000700000), (2, 0x102)]
     let s := r.post (.accessAtHome ⟨[64], .store [1], 0, r.coreOrigin 0, none⟩)
     let busy := fun (u : State) => match exec (.st { zCM with gd := 2, ga := 1, size := 3 }) u with
       | .next t => some (t.units 0).walk.busy
       | _ => none
     s.corePend 0 ≠ [] ∧ busy s = some false ∧ busy r = some true) := by decide +kernel
/-- A walk of a stream reads an entry before it ends (R385): the entry of that moment is the one it takes. -/
theorem test_walkEarly :
    (let s := strS (({ str0 .ldt 0x40 with phase := .walking 0 0x40 } : Stream))
     let t := match (s.wrWord 0x10000 7).moveEvent (.early 0 2 0x2000 255) with | .stay t => t | _ => s
     let pre := ((t.stream 0 0).map (·.pre)).getD []
     pre.length = 8 ∧ (t.wrWord 0x10000 0).pte pre 0x10000 = 7 ∧ (t.wrWord 0x10000 0).pte [] 0x10000 = 0 ∧
       ((t.voidWalks 0).stream 0 0).map (·.pre) = some []) ∧
    (let x := (str0 .ldt 0x40).walks 0 0x40 7
     { x with phase := .stalled 3 }.retried 7 = x ∧ { str0 .ldt 0x40 with phase := .stalled 3 }.retried 7 = str0 .ldt 0x40) := by decide +kernel
/-- PacketRouting: a packet in transit that grows too old in the queue of a port counts at the port it came by (R399). -/
theorem test_dropPort :
    (let p : Packet := { (default : Packet) with snode := 9, dnode := 8 }
     let s := State.reset
     s.net.nodeid = 0 ∧ s.dropPort 0 1 p (s.ownerOf 2 3 p) = (2, 3) ∧ s.dropPort 0 1 { p with snode := 0 } (s.ownerOf 0 16 p) = (0, 1)) := by
  decide +kernel

/-! ## What acts in several steps or for several observers -/

/-- MatrixProducts: MMA in dual mode takes the primal product, then A′B, then AB′, which adds 3 · 2 + 1 · 5 into the shadow (R215). -/
theorem test_mmDual :
    let i := Instr.mma { zA with dst := 44, sa := 1, sb := 2, sc := 3, f1 := 1, f2 := 1 }
    let s0 := mS [(scratchHome 0 64, 0x3F800000), (scratchHome 0 128, 0x40000000), (scratchHome 0 (64 * 65), 0x40400000),
      (scratchHome 0 (64 * 66), 0x40A00000)] (pSK 1 [(1, d1 + 1), (2, d1 + 2), (3, 2 ^ 13)])
    let x := s0.engine 0
    let s := s0.setEngine 0 { x with t := { x.t with ot := tput x.t.ot 0 { x.op 0 with rstr := 64 } } }
    let go := fun (u : State) => match exec i u with | .next t => t | _ => u
    let see := fun (u : State) => (u.active 0 1).map fun a => (a.pass.step, a.pass.accRd 1 0 0 0, a.pass.accRd 1 (a.pass.shadowAcc 0 1) 0 0)
    see (go s) = some (1, 0x40000000, 0) ∧ see (go (go s)) = some (2, 0x40000000, 0) ∧
      see (go (go (go s))) = some (0, 0x40000000, 0x41300000) := by decide +kernel
/-- StepRunsHeldWord: a PURGE that core 0 has begun and that waits. -/
theorem wit_StepRunsHeldWord :
    let s := (cS []).setCore 0 { (cS []).core 0 with run := true, held := some 0xD400000000000000, busy := some (1, 0) }
    let t := { s with sched := [.core 0] }.nextMove.2
    (t.core 0).held = some 0xD400000000000000 ∧ (t.core 0).busy ≠ none ∧ (t.core 0).run = true ∧ (t.core 0).halted = false ∧
      (t.core 0).step = none ∧ (t.core 0).after = [] ∧ (t.core 0).wfe = false ∧ t.isFrozen = false ∧ waitsForAll 0xD400000000000000 = true ∧
      t.corePend 0 = [] := by decide +kernel
/-- CsrAndAccessWords: a store voids what its core has read ahead of its bytes, and no other byte (R224); a RELALL waits (R376). -/
theorem test_coreForget :
    (let s := (cS [(1, 64)]).setCore 0 { (cS [(1, 64)]).core 0 with pre := [⟨64, 1, 9, 0⟩, ⟨80, 1, 8, 0⟩] }
     (match exec (.st { zCM with gd := 2, ga := 1, size := 0 }) s with | .next t => (t.core 0).pre | _ => []) = [⟨80, 1, 8, 0⟩]) ∧
    invStore 0xF000000000600010 0x100 = true ∧ invStore 0xF000000000600010 0 = false ∧ ctlReg 0x600010 = some (.lock 0 2) := by decide +kernel
/-- RodWords: a wait that is not met in a context that drains and in one that does not. -/
theorem wit_RodWaitDrains :
    let f : FmtM := { zM with sa := 1, sb := 2 }
    let w : Table Word := [(1, 0x8000000000000000), (2, 5)]
    let s := (pS w).setRod 0x8000000000000000 { a := true }
    let t := s.setCtx 0 { s.ctx 0 with st := .draining }
    let left := fun (u : State) => match exec (.rodWait f) u with
      | .next v => some ((v.active 0 1).isSome, (v.engine 0).susp.length, (v.engine 0).requeue.length)
      | _ => none
    InPass s 0 1 (act w) ∧ left s = some (false, 1, 0) ∧ left t = some (false, 0, 1) := by decide +kernel
/-- LocksAndWalkers: an escalated record, as its pass commits and as it reverts; a setting that arrives; a walker that waits for an open pass. -/
theorem test_lockWhole :
    (let x : LockRec := { ctx := 0, name := 0, age := 0, base := 2, takes := [⟨0, 7, 4, true⟩], whole := some (7, 4) }
     x.mode = 4 ∧ (x.endPass 7 true).base = 4 ∧ (x.endPass 7 false).base = 2 ∧ (x.endPass 7 false).whole = none) ∧
    (let r : LockRel := ⟨0, 0, 0, .matrix 5⟩
     (match exec (.lockReleaseArrival r) State.reset with | .next t => (t.ctx 0).lk.matrix | _ => 0) = 5) ∧
    (let h : Held := { eff := .access ⟨[64], .store [1], 0, who0, none⟩ }
     let a := { act [] with pass := (act []).pass.hold h }
     let s := (pS []).setPass 0 1 a a.pass
     s.holding (fun _ => true) = [(0, 1)] ∧ State.reset.holding (fun _ => true) = [] ∧
       ((s.awaitUsers 0 (· == 0)).units 0).walk.opens = [(0, 1)]) := by decide +kernel
/-- QueueProcessing: a COLL whose generation a peer has aborted, one whose generation it has not; a device queue that is disabled. -/
theorem wit_StillbornColl :
    (let s := quS .ready [5, 0x1000, 0, 1]
     let t := { s with cp := { s.cp with aborts := [{ ctx := 0, tbl := 0, gen := 0, early := true }] } }
     let run := fun (u : State) => match exec (.cmdColl 0) u with
       | .next v => some ((v.pgt 0 0).gen, v.cp.colls.length)
       | _ => none
     run s = some (1, 1) ∧ run t = some (1, 0)) ∧
    (let s := pS []
     let t := { s with cp := { s.cp with resv := [{ eng := 0, uid := 1 }], queues := [(0, { st := .idle, devq := true })] } }
     (match exec (.queueDisable 0 0x8200) t with | .next u => ((u.queue 0).st, (u.active 0 1).isSome) | _ => (.idle, true)) = (.disabled, false)) := by
  decide +kernel
/-- CollectiveStepWords: an address on path 0xF is PRIV; a TREE step without a peer that names a DST does nothing (R411). -/
theorem wit_StepAddresses :
    (stepFailure 64 [0xF000000000000000]).map (·.cause) = some cPriv ∧ (stepFailure 64 [0x1000000000000000]).map (·.cause) = some cBadpath ∧
    (stepFailure 63 [0]).map (·.addr) = some 63 ∧ stepFailure 64 [0] = none ∧ stepRecorded cPriv = true := by decide
/-- RemoteTraffic: a run within one chunk and one over two; a remote add that would overflow. -/
theorem wit_RemoteRuns :
    (0x40 : Word).toNat % 64 + 64 ≤ 64 ∧ 64 < (0x50 : Word).toNat % 64 + 64 ∧
    (let s := seqS [] []
     let p : Packet := { cpk 0x11 with addr := 0x50, len := 64, payload := List.replicate 64 7 }
     (s.resolve ({ by_ := .link 0, ctx := some 0, kind := .store } : Via) [0x0] 0x50 64 false).1.toOption.map List.length = some 64 ∧
       (match exec (.remoteOpArrival 0 0 0 p) s with | .next t => (t.pend.length - s.pend.length, t.rdByte (hbmHome 0x50)) | _ => (0, 7)) = (3, 0)) := by
  decide +kernel
/-- HostAndManagement: an aligned scalar access and others; a write of three bytes goes byte by byte, and the next access waits for it. -/
theorem wit_HostPieces :
    let s := seqS [] []
    s.hostScalar 8 8 = true ∧ s.hostScalar 9 8 = false ∧ s.hostScalar 8 3 = false ∧
    (s.resolve ({ by_ := .link 0, kind := .store, ctx := none } : Via) [0x0] 9 3 false).1.toOption.map (fun hs => (hs.length, decide hs.Nodup)) = some (3, true) ∧
    (match exec (.hostApertureAccess 9 0 (some [1, 2, 3])) s with
      | .next t => (t.pend.length - s.pend.length, t.hostBusy, t.rdByte (hbmHome 9))
      | _ => (0, false, 1)) = (3, true, 0) ∧ s.hostBusy = false := by decide +kernel
/-- BootPowerAndCapture: a recorded decision of die 1 that has waited while die 0 went on, and none. -/
theorem wit_StuckReplay :
    let s := mS [(hbmHome 0, 0x100)] State.reset
    let t := { s with root := { s.root with cmode := 2, caplen := 1, divAt := [(0, 2 ^ 24), (1, 0)] }, clock := { s.clock with tick := BitVec.ofNat 64 (2 ^ 24) } }
    t.stuckReplay 0 = false ∧ t.stuckReplay 1 = true ∧ State.reset.stuckReplay 1 = false := by decide +kernel
/-- PoolAndInstanceEvents: a context without overflow entries is looked through without effect. -/
theorem wit_OverflowLook : State.reset.ovLook 0 0 none = State.reset := by decide +kernel

end Sys2Proof.Tests
end

section
/-!
Memory and the state after reset.
-/
namespace Sys2Proof.Machine
open Sys2Proof Sys2Proof.Machine Sys2Proof.Cert

/-- Settles O7: the byte read is looked up in the table that the write has extended. -/
theorem memoryReadAfterWrite : Obligations.MemoryReadAfterWrite :=
  fun s h k bs => rdByte_wrBytes s h k bs

/-- Settles O6: every table of the reset state is empty, so each entry reads as its default. -/
theorem resetValues : Obligations.ResetValues :=
  ⟨fun _ => ⟨rfl, rfl, rfl, rfl, rfl, rfl, rfl⟩, fun _ => rfl, fun _ => rfl, fun _ _ => rfl, fun _ _ => rfl, rfl, rfl, rfl⟩
end Sys2Proof.Machine
end

section
/-!
The CSR words (R260, R266), LD, ST and WFE of a control core (R263, R267), and the order of its accesses (R264).
-/
namespace Sys2Proof.Machine
open Sys2Proof Sys2Proof.Machine Sys2Proof.Cert

/-! ### The CSRs (R260, R266) -/

/-- CSTAT as the sum of its four bits. -/
theorem CoreCsr.cstat_eq (c : CoreCsr) :
    c.cstat = BitVec.ofNat 64 (c.ie.toNat + 2 * c.mode.toNat + 4 * c.ebusy.toNat + 8 * c.xbusy.toNat) := by
  unfold CoreCsr.cstat
  cases c.ie <;> cases c.mode <;> cases c.ebusy <;> cases c.xbusy <;> decide

theorem put_bit0 (b : Bool) : put 0 1 (b2n b) = BitVec.ofNat 64 b.toNat := by cases b <;> decide

/-- The table of R260 says what a CSR reads and whether user mode may read it. -/
theorem csrRead_of_mem (s : State) (d n : Nat) (old : Word) (user : Bool) (h : (n, old, user) ∈ csrValues s d) :
    s.csrRead d n = some old ∧ csrUser n = user := by
  simp only [csrValues, List.mem_append, List.mem_map, List.mem_range] at h
  rcases h with h | ⟨i, hi, h⟩
  · simp only [List.mem_cons, List.not_mem_nil, or_false, Prod.mk.injEq] at h
    rcases h with ⟨rfl, rfl, rfl⟩ | ⟨rfl, rfl, rfl⟩ | ⟨rfl, rfl, rfl⟩ | ⟨rfl, rfl, rfl⟩ | ⟨rfl, rfl, rfl⟩ | ⟨rfl, rfl, rfl⟩ |
      ⟨rfl, rfl, rfl⟩ | ⟨rfl, rfl, rfl⟩ | ⟨rfl, rfl, rfl⟩ | ⟨rfl, rfl, rfl⟩ | ⟨rfl, rfl, rfl⟩ | ⟨rfl, rfl, rfl⟩ |
      ⟨rfl, rfl, rfl⟩ | ⟨rfl, rfl, rfl⟩ | ⟨rfl, rfl, rfl⟩ <;>
      simp [State.csrRead, csrUser, CoreCsr.cstat_eq, put_bit0]
  · obtain ⟨rfl, rfl, rfl⟩ := h
    interval_cases i <;> simp [State.csrRead, csrUser]

/-- The numbers that the table of R260 lists. -/
theorem csrValues_numbers (s : State) (d : Nat) : (csrValues s d).map (·.1) =
    [0x000, 0x001, 0x002, 0x003, 0x004, 0x005, 0x006, 0x010, 0x011, 0x012, 0x013, 0x028, 0x029, 0x030, 0x031, 0x020, 0x021,
      0x022, 0x023, 0x024, 0x025, 0x026, 0x027] := rfl

/-- A number that the table of R260 does not list is no CSR. -/
theorem csrRead_of_not_mem (s : State) (d n : Nat) (h : ∀ x ∈ csrValues s d, x.1 ≠ n) : s.csrRead d n = none := by
  have hn : n ∉ (csrValues s d).map (·.1) := fun hm => by
    obtain ⟨x, hx, e⟩ := List.mem_map.mp hm
    exact h x hx e
  rw [csrValues_numbers] at hn
  simp only [List.mem_cons, List.not_mem_nil, or_false, not_or] at hn
  unfold State.csrRead
  dsimp only
  split
  case h_16 =>
    refine if_neg fun hr => ?_
    obtain ⟨lo, hi⟩ := hr
    interval_cases n <;> simp at hn
  all_goals simp at hn

/-- CSRR in the mode that may read the CSR (R266, R258). -/
theorem csrWord_read {i : Instr} {f : FmtCS} {s : State} {d : Nat} {old : Word} (hc : s.cur = .core d)
    (hr : s.csrRead d f.csr.toNat = some old) (hm : (s.core d).csr.mode = true ∨ csrUser f.csr.toNat = true) :
    csrWord i f s none = .next (s.setCore d (pastWord ((s.core d).wr f.gd old))) := by
  have hp : ¬ ((s.core d).csr.mode = false ∧ csrUser f.csr.toNat = false) := by
    rcases hm with hm | hm <;> simp [hm]
  simp [csrWord, onCore_core _ _ _ _ hc, hr, hp, CoreState.adv_eq, pastWord]

/-- A CSR word that user mode may not run raises PRIV (R258). -/
theorem csrWord_priv {i : Instr} {f : FmtCS} {s : State} {d : Nat} {old : Word} {new : Option (Word → Word → Word)}
    (hc : s.cur = .core d) (hr : s.csrRead d f.csr.toNat = some old) (hm : (s.core d).csr.mode = false)
    (hn : new.isSome = true ∨ csrUser f.csr.toNat = false) :
    csrWord i f s new = .next (s.coreFault d cPriv (wordOf i)) := by
  simp [csrWord, onCore_core _ _ _ _ hc, hr, hm, hn]

/-- A CSR word in supervisor mode that writes: the reserved bits of CSTAT raise ILLEGAL, any other value is written (R266). -/
theorem csrWord_write {i : Instr} {f : FmtCS} {s : State} {d : Nat} {old : Word} {g : Word → Word → Word}
    (hc : s.cur = .core d) (hr : s.csrRead d f.csr.toNat = some old) (hm : (s.core d).csr.mode = true) :
    csrWord i f s (some g) = .next (
      if f.csr.toNat = 0 ∧ (g old ((s.core d).rd f.ga)).extractLsb' 4 60 ≠ 0 then s.coreFault d cIllegal (wordOf i)
      else s.setCore d { pastWord ((s.core d).wr f.gd old) with
        csr := (s.core d).csr.write f.csr.toNat (g old ((s.core d).rd f.ga)) }) := by
  have hz : fld (g old ((s.core d).rd f.ga)) 4 60 ≠ 0 ↔ (g old ((s.core d).rd f.ga)).extractLsb' 4 60 ≠ 0 := by
    simp [fld, BitVec.toNat_eq]
  simp only [csrWord, onCore_core _ _ _ _ hc, hr, hm, hz]
  rfl

/-- A CSR word whose number is no CSR raises ILLEGAL (R266). -/
theorem csrWord_illegal {i : Instr} {f : FmtCS} {s : State} {d : Nat} {new : Option (Word → Word → Word)}
    (hc : s.cur = .core d) (hr : s.csrRead d f.csr.toNat = none) :
    csrWord i f s new = .next (s.coreFault d cIllegal (wordOf i)) := by
  simp [csrWord, onCore_core _ _ _ _ hc, hr]

/-- What each CSR keeps of a write (R260, R266). -/
theorem CoreCsr.write_readOnly (c : CoreCsr) (k : Nat) (v : Word)
    (h : k ∈ [0x005, 0x006, 0x030] ∨ 0x020 ≤ k ∧ k ≤ 0x029) : c.write k v = c := by
  simp only [List.mem_cons, List.not_mem_nil, or_false] at h
  unfold CoreCsr.write
  split <;> [omega; omega; omega; omega; omega; omega; omega; omega; omega; omega; rfl]

theorem csrWords : CsrWords := by
  intro f s d hc
  dsimp only
  refine ⟨fun old user hmem => ?_, fun hno i hi => ?_, fun v => ?_⟩
  · obtain ⟨hr, rfl⟩ := csrRead_of_mem s d _ old user hmem
    refine ⟨csrWord_read hc hr, fun hm hu => csrWord_priv hc hr hm (.inr hu), fun i new hi => ?_⟩
    -- each writer is csrWord with the function that forms the new value
    obtain ⟨g, hx, hg⟩ : ∃ g : Word → Word → Word, exec i s = csrWord i f s (some g) ∧ g old ((s.core d).rd f.ga) = new old := by
      simp only [List.mem_cons, List.not_mem_nil, or_false, Prod.mk.injEq] at hi
      rcases hi with ⟨rfl, rfl⟩ | ⟨rfl, rfl⟩ | ⟨rfl, rfl⟩ <;> exact ⟨_, rfl, rfl⟩
    rw [hx]
    refine ⟨fun hm => csrWord_priv hc hr hm (.inl rfl), fun hm hz => ?_, fun hm h0 hz => ?_⟩
    · rw [csrWord_write hc hr hm, hg, if_neg fun h => h.2 (hz h.1)]
    · rw [csrWord_write hc hr hm, hg, if_pos ⟨h0, hz⟩]
  · have hr := csrRead_of_not_mem s d _ hno
    obtain ⟨new, hx⟩ : ∃ new, exec i s = csrWord i f s new := by
      simp only [List.map_cons, List.map_nil, List.mem_cons, List.not_mem_nil, or_false] at hi
      rcases hi with rfl | rfl | rfl | rfl <;> exact ⟨_, rfl⟩
    rw [hx]
    exact csrWord_illegal hc hr
  · exact ⟨rfl, rfl, rfl, rfl, rfl, rfl, rfl, rfl, fun h => if_pos h, fun h => if_neg (by omega), rfl,
      fun k hk => CoreCsr.write_readOnly _ k v hk⟩

/-! ### LD and ST of a control core (R263, R264) -/

/-- The integer of `w` low bits is that of the bit vector of width `w`. -/
theorem sintOf_eq_toInt (w m : Nat) (hw : 0 < w) : sintOf w m = (BitVec.ofNat w m).toInt := by
  obtain ⟨k, rfl⟩ : ∃ k, w = k + 1 := ⟨w - 1, by omega⟩
  rw [BitVec.toInt_eq_toNat_cond, BitVec.toNat_ofNat, sintOf, Nat.add_sub_cancel, Nat.pow_succ]
  simp only [Nat.mul_comm 2, Nat.mul_lt_mul_right (show 0 < 2 by omega)]
  push_cast
  rfl

/-- A loaded value is extended as its size code says (R237, R263). -/
theorem loadExt_eq (sz m : Nat) : loadExt sz m =
    if sz < 4 then BitVec.ofNat 64 m else (BitVec.ofNat (8 * 2 ^ (sz % 4)) m).signExtend 64 := by
  unfold loadExt
  rw [sintOf_eq_toInt _ _ (by positivity)]
  rfl

/-- Which writes of control space wait for the core's earlier accesses (R376, R391). -/
theorem invStore_iff (a v : Word) : invStore a v = true ↔ addrPath a = 0xF ∧
    ((∃ k, (ctlReg (fld a 0 60) = some (.walker k 0) ∨ ctlReg (fld a 0 60) = some (.lock k 2)) ∧ fld v 8 4 = 1) ∨
      ∃ k, ctlReg (fld a 0 60) = some (.ctx k 1)) := by
  unfold invStore
  simp only [Bool.and_eq_true, decide_eq_true_eq]
  refine and_congr_right fun _ => ?_
  split <;> simp_all

/-- How LD goes on with a value, from the homes it has read (R263, R264). -/
def State.coreLoads (t : State) (d : Nat) (f : FmtCM) (acq : Nat) (hs : List Nat) (v : Word) : State :=
  (t.setCore d { pastWord ((t.core d).wr f.gd v) with pre := forget (t.core d).pre hs }).coreAcquired d acq (byteKeys hs)

/-- How ST goes on once it has sent its store, or has acted (R263, R264). -/
def State.coreStored (t : State) (d acq : Nat) : State := (t.setCore d (pastWord (t.core d))).coreAcquired d acq []

section
variable {f : FmtCM} {s : State} {d : Nat} (hc : s.cur = .core d)
include hc

/-- LD that must wait for the core's earlier accesses runs again (R264). -/
theorem exec_ld_again (h : f.ord = 3 ∧ s.corePend d ≠ []) : exec (.ld f) s = .next (s.coreAgain d (.ld f)) := by
  simp only [exec, execLd, onCore_core _ _ _ _ hc, if_pos h]

/-- ST that must wait for the core's earlier accesses runs again (R264, R376, R391). -/
theorem exec_st_again (h : (f.ord = 3 ∨ invStore (cmAddr f (s.core d)) ((s.core d).rd f.gd) = true) ∧ s.corePend d ≠ []) :
    exec (.st f) s = .next (s.coreAgain d (.st f)) := by
  simp only [exec, execSt, onCore_core _ _ _ _ hc, if_pos h]

/-- LD in control space (R258, R263). -/
theorem exec_ld_ctl (h : ¬ (f.ord = 3 ∧ s.corePend d ≠ [])) (hp : addrPath (cmAddr f (s.core d)) = 0xF) :
    exec (.ld f) s = .next (match ctlFault (s.core d) f.size.toNat (cmAddr f (s.core d)) none with
      | some cause => s.coreFault d cause (cmAddr f (s.core d))
      | none => s.coreLoads d f (acqScope f.ord.toNat (scopeOn (cmAddr f (s.core d)) f.scope.toNat)) []
          (s.ctlRead (fld (cmAddr f (s.core d)) 0 60))) := by
  simp only [exec, execLd, onCore_core _ _ _ _ hc, if_neg h, if_pos hp]
  rfl

/-- ST in control space (R6, R258, R263). -/
theorem exec_st_ctl (h : ¬ ((f.ord = 3 ∨ invStore (cmAddr f (s.core d)) ((s.core d).rd f.gd) = true) ∧ s.corePend d ≠ []))
    (hp : addrPath (cmAddr f (s.core d)) = 0xF) :
    exec (.st f) s = .next (match ctlFault (s.core d) f.size.toNat (cmAddr f (s.core d)) (some ((s.core d).rd f.gd)) with
      | some cause => s.coreFault d cause (cmAddr f (s.core d))
      | none => (s.ctlWrite (fld (cmAddr f (s.core d)) 0 60) ((s.core d).rd f.gd)).coreStored d
          (acqScope f.ord.toNat (scopeOn (cmAddr f (s.core d)) f.scope.toNat))) := by
  simp only [exec, execSt, onCore_core _ _ _ _ hc, if_neg h, if_pos hp]
  rfl

/-- LD in memory does what its read answers (R263, R264). -/
theorem exec_ld_mem (h : ¬ (f.ord = 3 ∧ s.corePend d ≠ [])) (hp : addrPath (cmAddr f (s.core d)) ≠ 0xF) :
    exec (.ld f) s = .next (match s.coreRead d (cmAddr f (s.core d)) (sizeBytes f.size.toNat)
        (acqScope f.ord.toNat (scopeOn (cmAddr f (s.core d)) f.scope.toNat)) with
      | (.error g, t) => t.coreFault d g.cause g.addr
      | (.ok (hs, bs), t) => t.coreLoads d f (acqScope f.ord.toNat (scopeOn (cmAddr f (s.core d)) f.scope.toNat)) hs
          (loadExt f.size.toNat (leNat bs))) := by
  simp only [exec, execLd, onCore_core _ _ _ _ hc, if_neg h, if_neg hp]
  rfl

/-- ST in memory does what its checks answer (R223, R263, R264). -/
theorem exec_st_mem (h : ¬ (f.ord = 3 ∧ s.corePend d ≠ [])) (hp : addrPath (cmAddr f (s.core d)) ≠ 0xF) :
    exec (.st f) s = .next (
      let a := cmAddr f (s.core d)
      let n := sizeBytes f.size.toNat
      let scope := scopeOn a f.scope.toNat
      let acq := acqScope f.ord.toNat scope
      let bs := leBytes n ((s.core d).rd f.gd).toNat
      let rel := f.ord.toNat / 2 == 1
      match s.resolve (s.coreVia d .store) [0x0, 0x1, 0x2, 0x8, 0x9] a n false with
      | (.error g, _) => s.coreFault d g.cause g.addr
      | (.ok hs, t) =>
        if f.ord = 3 then (t.storeHomes hs bs).coreStored d acq
        else if a.toNat % n = 0 then (coreStores t d hs bs rel scope).coreStored d acq
        else ((hs.zip bs).foldl (fun u x => coreStores u d [x.1] [x.2] rel scope) t).coreStored d acq) := by
  have hi : ¬ ((f.ord = 3 ∨ invStore (cmAddr f (s.core d)) ((s.core d).rd f.gd) = true) ∧ s.corePend d ≠ []) := by
    rw [invStore_iff]
    tauto
  simp only [exec, execSt, onCore_core _ _ _ _ hc, if_neg hi, if_neg hp]
  rfl

/-- LD of bytes that are good: the core sees its own stores that are on their way (R263, R264). -/
theorem exec_ld_ok (h : f.ord = 3 → s.corePend d = []) (hp : addrPath (cmAddr f (s.core d)) ≠ 0xF) {hs : List Nat} {t : State}
    (hr : s.resolve (s.coreVia d .load) [0x0, 0x1, 0x2, 0x8, 0x9] (cmAddr f (s.core d)) (sizeBytes f.size.toNat) false = (.ok hs, t))
    (he : t.eccHomes hs = false) :
    exec (.ld f) s = .next (
      let a := cmAddr f (s.core d)
      let acq := acqScope f.ord.toNat (scopeOn a f.scope.toNat)
      let live := if acq = 0 then earlyBytes (t.core d).pre (decide (a.toNat % sizeBytes f.size.toNat = 0)) hs (t.rdHomes hs)
        else t.rdHomes hs
      let bytes := if addrPath a = 1 then t.rdConst (288 + d) (t.core d).acq hs else t.coreView d hs live
      t.coreLoads d f acq hs (loadExt f.size.toNat (leNat bytes))) := by
  rw [exec_ld_mem hc (fun x => x.2 (h x.1)) hp]
  by_cases h1 : addrPath (cmAddr f (s.core d)) = 1 <;>
    simp only [State.coreRead, hr, he, h1, Bool.false_eq_true, if_false, if_true]

/-- LD of bytes with an uncorrectable error (R454). -/
theorem exec_ld_ecc (h : f.ord = 3 → s.corePend d = []) (hp : addrPath (cmAddr f (s.core d)) ≠ 0xF) {hs : List Nat} {t : State}
    (hr : s.resolve (s.coreVia d .load) [0x0, 0x1, 0x2, 0x8, 0x9] (cmAddr f (s.core d)) (sizeBytes f.size.toNat) false = (.ok hs, t))
    (he : t.eccHomes hs = true) : exec (.ld f) s = .next (t.coreFault d cEcc (cmAddr f (s.core d))) := by
  rw [exec_ld_mem hc (fun x => x.2 (h x.1)) hp]
  simp only [State.coreRead, hr, he, if_true]

/-- LD that fails a check (R263). -/
theorem exec_ld_error (h : f.ord = 3 → s.corePend d = []) (hp : addrPath (cmAddr f (s.core d)) ≠ 0xF) {g : Failure} {t : State}
    (hr : s.resolve (s.coreVia d .load) [0x0, 0x1, 0x2, 0x8, 0x9] (cmAddr f (s.core d)) (sizeBytes f.size.toNat) false =
      (.error g, t)) : exec (.ld f) s = .next (t.coreFault d g.cause g.addr) := by
  rw [exec_ld_mem hc (fun x => x.2 (h x.1)) hp]
  simp only [State.coreRead, hr]

end

/-- What the checks of path 0xF answer (R6, R258, R263). -/
theorem ctlFault_user {c : CoreState} {n : Nat} {a : Word} {v : Option Word} (h : c.csr.mode = false) :
    ctlFault c n a v = some cPriv := if_pos h

theorem ctlFault_shape {c : CoreState} {n : Nat} {a : Word} {v : Option Word} (h : c.csr.mode = true)
    (hn : n ≠ 3 ∨ a.toNat % 8 ≠ 0) : ctlFault c n a v = some cBadpath := by simp [ctlFault, h, hn]

theorem ctlFault_read {c : CoreState} {a : Word} (h : c.csr.mode = true) (ha : a.toNat % 8 = 0) :
    ctlFault c 3 a none = none := by simp [ctlFault, h, ha]

theorem ctlFault_write {c : CoreState} {a v : Word} (h : c.csr.mode = true) (ha : a.toNat % 8 = 0) :
    ctlFault c 3 a (some v) = if ctlReserved (fld a 0 60) v then some cIllegal else none := by simp [ctlFault, h, ha]

/-- WFE in supervisor mode: the core idles where neither EVT.PEND nor a record that may be delivered waits (R267). -/
theorem exec_wfe {f : FmtCG} {s : State} {d : Nat} (hc : s.cur = .core d) (hm : (s.core d).csr.mode = true) :
    exec (.wfe f) s = .next (s.setCore d { pastWord (s.core d) with
      wfe := decide ((s.core d).csr.pend = false ∧ ((s.die d).trapq = [] ∨ (s.core d).csr.ie = false)) }) := by
  have hw : (!((s.core d).csr.pend || (!(s.die d).trapq.isEmpty && (s.core d).csr.ie))) =
      decide ((s.core d).csr.pend = false ∧ ((s.die d).trapq = [] ∨ (s.core d).csr.ie = false)) := by
    rw [Bool.eq_iff_iff]
    simp
  simp only [exec, execWfe, onSup_core _ _ _ _ hc hm, hw]
  rfl

theorem coreAccessWords : CoreAccessWords := by
  refine ⟨fun f s d hc => ?_, fun f s d hc hm => ?_⟩
  · have hinv := invStore_iff (cmAddr f (s.core d)) ((s.core d).rd f.gd)
    refine ⟨fun ho hb i hi => ?_, fun hv hb => exec_st_again hc ⟨.inr (hinv.mpr hv), hb⟩, fun hw hp => ?_, fun hw hp => ?_⟩
    · rcases hi with rfl | rfl
      · exact exec_ld_again hc ⟨ho, hb⟩
      · exact exec_st_again hc ⟨.inl ho, hb⟩
    · have hst := exec_st_mem hc (fun x => x.2 (hw x.1)) hp
      dsimp only at hst
      refine ⟨fun hs t hr he => (exec_ld_ok hc hw hp hr he).trans ?_, fun hs t hr he => exec_ld_ecc hc hw hp hr he,
        fun g t hr => exec_ld_error hc hw hp hr, fun hs t hr => ?_, fun g t hr => ?_⟩
      · dsimp only
        rw [loadExt_eq]
        rfl
      · change State.resolve _ _ _ (cmAddr f (s.core d)) (sizeBytes f.size.toNat) _ = _ at hr
        simp only [hr] at hst
        exact ⟨fun ho => hst.trans (congrArg _ (if_pos ho)),
          fun ho ha => hst.trans (congrArg _ ((if_neg ho).trans (if_pos ha))),
          fun ho ha => hst.trans (congrArg _ ((if_neg ho).trans (if_neg ha)))⟩
      · change State.resolve _ _ _ (cmAddr f (s.core d)) (sizeBytes f.size.toNat) _ = _ at hr
        simp only [hr] at hst
        exact hst
    · have hld := exec_ld_ctl hc (fun x => x.2 (hw (.inl x.1))) hp
      have hst := exec_st_ctl hc (fun x => x.2 (hw (x.1.imp_right hinv.mp))) hp
      refine ⟨fun hm i hi => ?_, fun hm hz i hi => ?_, fun hm hz ha => ?_⟩
      · rw [ctlFault_user hm] at hld hst
        rcases hi with rfl | rfl
        · exact hld
        · exact hst
      · rw [ctlFault_shape (a := cmAddr f (s.core d)) hm hz] at hld hst
        rcases hi with rfl | rfl
        · exact hld
        · exact hst
      · rw [hz, ctlFault_read (a := cmAddr f (s.core d)) hm ha] at hld
        rw [hz, ctlFault_write (a := cmAddr f (s.core d)) hm ha] at hst
        refine ⟨hld, fun hv => ?_, fun hv => ?_⟩ <;>
          (change ctlReserved (fld (cmAddr f (s.core d)) 0 60) _ = _ at hv; simp only [hv] at hst; exact hst)
  · exact exec_wfe hc hm

/-! ### The order of a core's accesses (R264) -/

/-- The stores of a core that are on their way, in program order, as what they put at which home. -/
def State.coreMine (s : State) (d : Nat) : List (List (Nat × Byte)) :=
  s.pend.filterMap fun m => match m.ev with
    | .accessAtHome a => (match a.op with
      | .store bs => if a.who.unit = 240 ∧ a.who.die = d then some (a.homes.zip bs) else none
      | _ => none)
    | _ => none

/-- What a byte becomes under one store. -/
def under (h : Nat) (v : Byte) (l : List (Nat × Byte)) : Byte := ((l.find? fun x => x.1 == h).map (·.2)).getD v

theorem State.coreView_eq (s : State) (d : Nat) (hs : List Nat) (live : List Byte) :
    s.coreView d hs live = (hs.zip live).map fun x => (s.coreMine d).foldl (under x.1) x.2 := rfl

/-- Which stores of the core are on their way. -/
theorem State.mem_coreMine {s : State} {d : Nat} {l : List (Nat × Byte)} : l ∈ s.coreMine d ↔
    ∃ m ∈ s.pend, ∃ a bs, (m.ev = .accessAtHome a ∧ a.op = .store bs ∧ a.who.unit = 240 ∧ a.who.die = d) ∧
      l = a.homes.zip bs := by
  unfold State.coreMine
  rw [List.mem_filterMap]
  refine exists_congr fun m => and_congr_right fun _ => ?_
  constructor
  · intro h
    split at h <;> [skip; cases h]
    split at h <;> [skip; cases h]
    next a ev _ bs op =>
      split at h <;> [skip; cases h]
      next hw => exact ⟨a, bs, ⟨ev, op, hw⟩, (Option.some.inj h).symm⟩
  · rintro ⟨a, bs, ⟨ev, op, hw⟩, rfl⟩
    simp only [ev, op, if_pos hw]

/-- A store to other bytes leaves a byte. -/
theorem under_of_not_mem {h : Nat} {hs : List Nat} {bs : List Byte} (hn : h ∉ hs) (v : Byte) : under h v (hs.zip bs) = v := by
  have : (hs.zip bs).find? (fun x => x.1 == h) = none := by
    rw [List.find?_eq_none]
    rintro ⟨k, b⟩ hm e
    rw [beq_iff_eq] at e
    exact hn (e ▸ (List.of_mem_zip hm).1)
  rw [under, this]
  rfl

/-- Stores that leave a byte one by one leave it together. -/
theorem foldl_under_eq {h : Nat} {ls : List (List (Nat × Byte))} (hl : ∀ l ∈ ls, ∀ v, under h v l = v) (b : Byte) :
    ls.foldl (under h) b = b := by
  induction ls with
  | nil => rfl
  | cons l r ih => rw [List.foldl_cons, hl l List.mem_cons_self, ih fun x hx => hl x (List.mem_cons_of_mem _ hx)]

/-- A load of bytes that no store of the core on its way touches sees them as they are. -/
theorem State.coreView_eq_live {s : State} {d : Nat} {hs : List Nat} {live : List Byte} (hl : live.length = hs.length)
    (h : ∀ m ∈ s.pend, ∀ a bs, m.ev = .accessAtHome a ∧ a.op = .store bs ∧ a.who.unit = 240 ∧ a.who.die = d →
      ∀ h ∈ hs, h ∉ a.homes) : s.coreView d hs live = live := by
  have hkeep : ∀ x ∈ hs.zip live, (s.coreMine d).foldl (under x.1) x.2 = x.2 := fun x hx =>
    foldl_under_eq (fun l hm v => by
      obtain ⟨m, hp, a, bs, hmine, rfl⟩ := State.mem_coreMine.mp hm
      exact under_of_not_mem (h m hp a bs hmine x.1 (List.of_mem_zip hx).1) v) x.2
  rw [State.coreView_eq, List.map_congr_left hkeep]
  exact List.map_snd_zip hl.le

/-- A load sees the core's latest store to a byte. -/
theorem State.coreView_latest {s : State} {d : Nat} {rest : List Msg} {m : Msg} {a : Access} {bs : List Byte} {h : Nat} {b : Byte}
    (hp : s.pend = rest ++ [m]) (hm : m.ev = .accessAtHome a ∧ a.op = .store bs ∧ a.who.unit = 240 ∧ a.who.die = d)
    (hf : (a.homes.zip bs).find? (fun y => y.1 == h) = some (h, b)) (x : Byte) : s.coreView d [h] [x] = [b] := by
  obtain ⟨ev, op, hw⟩ := hm
  have hmine : ∃ before, s.coreMine d = before ++ [a.homes.zip bs] := by
    refine ⟨({ s with pend := rest } : State).coreMine d, ?_⟩
    simp only [State.coreMine, hp, List.filterMap_append, List.filterMap_cons, List.filterMap_nil, ev, op, if_pos hw]
  obtain ⟨before, hb⟩ := hmine
  simp [State.coreView_eq, hb, under, hf]

theorem coreOrder : CoreOrder := by
  intro s d hs
  refine ⟨fun release scope id => ⟨?_, ?_⟩, fun live hl h => State.coreView_eq_live hl h,
    fun rest m a bs h b x hp hm hf => State.coreView_latest hp hm hf x⟩
  · simp [State.coreDeps, List.mem_map]
  · cases release <;> simp [State.coreDeps, List.mem_map]

/-- Settles O34: the CSR words by the table of R260, LD and ST by what their checks answer, the order by the core's own accesses. -/
theorem csrAndAccessWords : Obligations.CsrAndAccessWords := ⟨csrWords, coreAccessWords, coreOrder⟩

end Sys2Proof.Machine
end

section
/-!
What the shared operations leave alone, as two relations between the state before and the state after: `Aside`, of the abort, the fault
and the report of passes, and `Calm`, of everything that neither issues a pass nor moves a context.
-/
namespace Sys2Proof.Machine
open Sys2Proof Sys2Proof.Machine Sys2Proof.Cert

/-- A fold whose steps are all in a reflexive and transitive relation is in it. -/
theorem foldl_of_trans {α : Type} {R : State → State → Prop} (refl : ∀ s, R s s) (trans : ∀ {s t u}, R s t → R t u → R s u)
    {f : State → α → State} (l : List α) (h : ∀ a ∈ l, ∀ t, R t (f t a)) (s : State) : R s (l.foldl f s) := by
  induction l generalizing s with
  | nil => exact refl s
  | cons a r ih =>
    rw [List.foldl_cons]
    exact trans (h a List.mem_cons_self s) (ih (fun b hb => h b (List.mem_cons_of_mem _ hb)) _)

/-- The units of a die do not see what replaces the rest of it. -/
theorem State.units_setDie_of {s : State} {d : Nat} {x : Die} (h : x.u = s.units d) (a : Nat) : (s.setDie d x).units a = s.units a := by
  by_cases e : d = a
  · subst e; simp [State.units, h]
  · simp [State.units, State.die_setDie_ne _ _ _ _ e]

/-! ### Aside: memory, contexts and the units of the dies, their detectors apart -/

/-- From `s` to `t` memory and the contexts are the same, and so are the units of every die but for its detector. -/
structure Aside (s t : State) : Prop where
  mem : t.mem = s.mem
  ctxs : t.ctxs = s.ctxs
  units : ∀ d, t.units d = { s.units d with det := (t.units d).det }

namespace Aside

theorem refl (s : State) : Aside s s := ⟨rfl, rfl, fun _ => rfl⟩

theorem trans {s t u : State} (h : Aside s t) (k : Aside t u) : Aside s u :=
  ⟨k.mem.trans h.mem, k.ctxs.trans h.ctxs, fun d => by rw [k.units d, h.units d]⟩

theorem of_eq {s t : State} (m : t.mem = s.mem) (c : t.ctxs = s.ctxs) (u : ∀ d, t.units d = s.units d) : Aside s t :=
  ⟨m, c, fun d => by rw [u d]⟩

variable {s t : State}

theorem ctx (h : Aside s t) (c : Nat) : t.ctx c = s.ctx c := by rw [State.ctx, h.ctxs]; rfl
theorem group (h : Aside s t) (d g : Nat) : t.group d g = s.group d g := by rw [State.group, h.units d]; rfl
theorem reckoner (h : Aside s t) (d : Nat) : t.reckoner d = s.reckoner d := by rw [State.reckoner, h.units d]; rfl

theorem foldl {α : Type} {f : State → α → State} (l : List α) (h : ∀ t a, Aside t (f t a)) (s : State) : Aside s (l.foldl f s) :=
  foldl_of_trans Aside.refl Aside.trans l (fun a _ t => h t a) s

theorem each {f : Nat → State → State} (l : List Nat) (h : ∀ n t, Aside t (f n t)) (s : State) : Aside s (s.each l f) :=
  foldl l (fun t n => h n t) s

theorem setEngine (s : State) (e : Nat) (x : Engine) : Aside s (s.setEngine e x) := of_eq rfl rfl fun _ => rfl
theorem setKernel (s : State) (k : Nat) (x : Kernel) : Aside s (s.setKernel k x) := of_eq rfl rfl fun _ => rfl
theorem setQueue (s : State) (q : Nat) (x : Queue) : Aside s (s.setQueue q x) := of_eq rfl rfl fun _ => rfl
theorem setDie {s : State} {d : Nat} {x : Die} (h : x.u = s.units d) : Aside s (s.setDie d x) :=
  of_eq rfl rfl fun a => State.units_setDie_of h a
theorem setProg (s : State) (d k : Nat) (x : Option CProg) : Aside s (s.setProg d k x) := setDie rfl
theorem setActive (s : State) (e sl : Nat) (x : Option Active) : Aside s (s.setActive e sl x) := setEngine ..
theorem postDep (s : State) (l : List Nat) (i : Instr) : Aside s (s.postDep l i) := of_eq rfl rfl fun _ => rfl
theorem post (s : State) (i : Instr) : Aside s (s.post i) := postDep s [] i

theorem touch (s : State) (d c : Nat) : Aside s (s.touch d c) := by
  refine ⟨rfl, rfl, fun a => ?_⟩
  by_cases e : d = a
  · subst e; simp [State.touch]
  · simp [State.touch, State.units_setUnits_ne _ _ _ _ e]

theorem faultInst (s : State) (c i : Nat) : Aside s (s.faultInst c i) := by
  unfold State.faultInst
  split
  · exact refl s
  · dsimp only
    split <;> [exact setKernel ..; exact refl s]

theorem raise (s : State) (d : Nat) (r : Record) : Aside s (s.raise d r) := by
  unfold State.raise
  refine trans (t := _) ?_ (post ..)
  split
  · split <;> [exact faultInst ..; exact refl s]
  · exact refl s

theorem report (s : State) (d cause : Nat) (who : Origin) (ad det : Word) (tok : Option Token) :
    Aside s (s.report d cause who ad det tok) := raise ..

theorem openFault (s : State) (d c i cause page : Nat) : Aside s (s.openFault d c i cause page).2 := by
  have h1 : ∀ n (x : Die), x.u = s.units d → Aside s ({ s with nextId := n }.setDie d x) := fun n x h =>
    trans (t := { s with nextId := n }) (of_eq rfl rfl fun _ => rfl) (setDie h)
  unfold State.openFault
  dsimp only
  split
  · exact h1 _ _ rfl
  · refine trans ?_ (setKernel ..)
    exact h1 _ _ rfl

theorem abortActive (s : State) (e : Nat) (a : Active) (h : Hold) : Aside s (s.abortActive e a h) := by
  unfold State.abortActive
  refine trans (t := _) ?_ (touch ..)
  refine trans (t := _) ?_ (each _ (fun _ _ => post ..) _)
  exact of_eq rfl rfl fun _ => rfl

theorem faultActive (s : State) (e : Nat) (a : Active) (f : Failure) : Aside s (s.faultActive e a f) := by
  unfold State.faultActive
  exact ((openFault ..).trans (raise ..)).trans (abortActive ..)

theorem takePasses (s : State) (e : Nat) (p : Active → Bool) : Aside s (s.takePasses e p).2 := setEngine ..

theorem abortPasses (s : State) (e : Nat) (p : Active → Bool) : Aside s (s.abortPasses e p) :=
  (takePasses s e p).trans (foldl _ (fun _ _ => abortActive ..) _)

theorem faultPasses (s : State) (e : Nat) (p : Active → Bool) (f : Failure) : Aside s (s.faultPasses e p f) :=
  (takePasses s e p).trans (foldl _ (fun _ _ => faultActive ..) _)

theorem refuseResv (s : State) (q : Nat) : Aside s (s.refuseResv q) := by
  unfold State.refuseResv
  dsimp only
  split
  · exact foldl _ (fun _ _ => faultPasses ..) _
  · exact refl s

theorem haltQueue (s : State) (q : Nat) (f : Failure) : Aside s (s.haltQueue q f) :=
  ((setQueue s q _).trans (refuseResv ..)).trans (report ..)

theorem suspend (s : State) (e sl : Nat) (a : Active) (w : Wait) : Aside s (s.suspend e sl a w) := by
  unfold State.suspend
  dsimp only
  split
  · exact (setActive ..).trans (abortPasses ..)
  · split
    · exact (setActive ..).trans (setEngine ..)
    · exact setActive ..

theorem collAbort (s : State) (d k r : Nat) (a : Word) : Aside s (s.collAbort d k r a) := by
  unfold State.collAbort
  split
  · exact refl s
  · exact (setProg ..).trans (post ..)

theorem abortColls (s : State) (c r : Nat) : Aside s (s.abortColls c r) := foldl _ (fun _ _ => collAbort ..) _

end Aside

/-! ### The passes of an engine that are taken out -/

/-- Each issue slot keeps its pass where `p` does not pick it. -/
theorem State.slot_takePasses (s : State) (e sl : Nat) (p : Active → Bool) :
    (((s.takePasses e p).2.engine e).slot sl).act = ((s.engine e).slot sl).act.filter fun a => !p a := by
  have hout : ∀ y : IssueSlot, (if y.act.any p = true then { y with act := none } else y).act = y.act.filter fun a => !p a := by
    rintro ⟨_ | a, _, _⟩
    · rfl
    · cases h : p a <;> simp [h, Option.filter]
  rw [State.takePasses, State.engine_setEngine]
  unfold Engine.slot
  split
  · exact hout _
  · exact hout _

/-! ### Calm: no pass is issued and no context moves -/

/-- Every pass in an issue slot of `y` was in that slot of `x`. -/
def Engine.Fewer (x y : Engine) : Prop := ∀ sl a, (y.slot sl).act = some a → ∃ b, (x.slot sl).act = some b ∧ b.fr = a.fr

theorem Engine.Fewer.of_eq {x y : Engine} (m : y.mat.act = x.mat.act) (v : y.vec.act = x.vec.act) : x.Fewer y := by
  intro sl a h
  refine ⟨a, ?_, rfl⟩
  unfold Engine.slot at h ⊢
  split at h <;> simp_all

theorem Engine.Fewer.trans {x y z : Engine} (h : x.Fewer y) (k : y.Fewer z) : x.Fewer z := fun sl a ha => by
  obtain ⟨b, hb, e⟩ := k sl a ha
  obtain ⟨c, hc, e'⟩ := h sl b hb
  exact ⟨c, hc, e'.trans e⟩

/-- Passes that go on stay in their slots. -/
theorem Engine.Fewer.wake (x : Engine) (p : Active → Bool) {g : Active → Active} (hg : ∀ a, (g a).fr = a.fr) :
    x.Fewer (x.wake p g) := by
  intro sl a h
  have hw : ∀ y : IssueSlot, (y.wake p g).act = some a → ∃ b, y.act = some b ∧ b.fr = a.fr := fun y hy => by
    obtain ⟨b, hb, rfl⟩ := Option.map_eq_some_iff.mp hy
    exact ⟨b, hb, by split <;> simp [hg]⟩
  unfold Engine.slot at h ⊢
  split at h <;> rename_i hs <;> simp only [hs, if_true, if_false] <;> exact hw _ h

/-- From `s` to `t` every context is the same, but for the moment of its latest acquire, and no pass has come into an issue slot. -/
structure Calm (s t : State) : Prop where
  ctx : ∀ c, t.ctx c = { s.ctx c with acq := (t.ctx c).acq }
  fewer : ∀ e, (s.engine e).Fewer (t.engine e)

namespace Calm

theorem of_eq {s t : State} (c : t.ctxs = s.ctxs) (e : t.eng = s.eng) : Calm s t :=
  ⟨fun n => by rw [show t.ctx n = s.ctx n by rw [State.ctx, c]; rfl],
   fun n => by rw [show t.engine n = s.engine n by rw [State.engine, e]; rfl]; exact .of_eq rfl rfl⟩

theorem refl (s : State) : Calm s s := of_eq rfl rfl

theorem trans {s t u : State} (h : Calm s t) (k : Calm t u) : Calm s u :=
  ⟨fun c => by rw [k.ctx c, h.ctx c], fun e => (h.fewer e).trans (k.fewer e)⟩

theorem foldl {α : Type} {f : State → α → State} (l : List α) (h : ∀ t a, Calm t (f t a)) (s : State) : Calm s (l.foldl f s) :=
  foldl_of_trans Calm.refl Calm.trans l (fun a _ t => h t a) s

theorem each {f : Nat → State → State} (l : List Nat) (h : ∀ n t, Calm t (f n t)) (s : State) : Calm s (s.each l f) :=
  foldl l (fun t n => h n t) s

theorem ite {s t u : State} {p : Prop} [Decidable p] (h : Calm s t) (k : Calm s u) : Calm s (if p then t else u) := by
  split <;> assumption

theorem setEngine {s : State} {e : Nat} {x : Engine} (h : (s.engine e).Fewer x) : Calm s (s.setEngine e x) := by
  refine ⟨fun _ => rfl, fun a => ?_⟩
  by_cases k : e = a
  · subst k; rw [State.engine_setEngine]; exact h
  · rw [State.engine_setEngine_ne _ _ _ _ k]; exact .of_eq rfl rfl

/-- An engine whose issue slots keep their passes. -/
theorem setEngine_of_slots {s : State} {e : Nat} {x : Engine} (m : x.mat.act = (s.engine e).mat.act)
    (v : x.vec.act = (s.engine e).vec.act) : Calm s (s.setEngine e x) := setEngine (.of_eq m v)

theorem setUnits (s : State) (d : Nat) (x : DieUnits) : Calm s (s.setUnits d x) := of_eq rfl rfl
theorem setDie (s : State) (d : Nat) (x : Die) : Calm s (s.setDie d x) := of_eq rfl rfl
theorem setPool (s : State) (d : Nat) (x : Pool) : Calm s (s.setPool d x) := of_eq rfl rfl
theorem setGroup (s : State) (d g : Nat) (x : Group) : Calm s (s.setGroup d g x) := of_eq rfl rfl
theorem setReckoner (s : State) (d : Nat) (x : Reckoner) : Calm s (s.setReckoner d x) := of_eq rfl rfl
theorem setProg (s : State) (d k : Nat) (x : Option CProg) : Calm s (s.setProg d k x) := of_eq rfl rfl
theorem setKernel (s : State) (k : Nat) (x : Kernel) : Calm s (s.setKernel k x) := of_eq rfl rfl
theorem setQueue (s : State) (q : Nat) (x : Queue) : Calm s (s.setQueue q x) := of_eq rfl rfl
theorem postDep (s : State) (l : List Nat) (i : Instr) : Calm s (s.postDep l i) := of_eq rfl rfl
theorem post (s : State) (i : Instr) : Calm s (s.post i) := of_eq rfl rfl
theorem touch (s : State) (d c : Nat) : Calm s (s.touch d c) := of_eq rfl rfl
theorem wrBytes (s : State) (h : Nat) (bs : List Byte) : Calm s (s.wrBytes h bs) := of_eq rfl rfl
theorem fireMsix (s : State) (v : Nat) : Calm s (s.fireMsix v) := of_eq rfl rfl

theorem faultInst (s : State) (c i : Nat) : Calm s (s.faultInst c i) := by
  unfold State.faultInst
  split
  · exact refl s
  · dsimp only
    split <;> [exact setKernel ..; exact refl s]

theorem raise (s : State) (d : Nat) (r : Record) : Calm s (s.raise d r) := by
  unfold State.raise
  refine trans (t := _) ?_ (post ..)
  split
  · split <;> [exact faultInst ..; exact refl s]
  · exact refl s

theorem report (s : State) (d cause : Nat) (who : Origin) (ad det : Word) (tok : Option Token) :
    Calm s (s.report d cause who ad det tok) := raise ..

/-! #### Aborts -/

theorem abortActive (s : State) (e : Nat) (a : Active) (h : Hold) : Calm s (s.abortActive e a h) := by
  unfold State.abortActive
  refine trans (t := _) ?_ (touch ..)
  refine trans (t := _) ?_ (each _ (fun _ _ => post ..) _)
  refine trans ?_ (setEngine_of_slots rfl rfl)
  exact of_eq rfl rfl

theorem takePasses (s : State) (e : Nat) (p : Active → Bool) : Calm s (s.takePasses e p).2 :=
  setEngine fun sl a h => by
    have hk := State.slot_takePasses s e sl p
    rw [State.takePasses, State.engine_setEngine] at hk
    exact ⟨a, (Option.filter_eq_some_iff.mp (hk.symm.trans h)).1, rfl⟩

theorem abortPasses (s : State) (e : Nat) (p : Active → Bool) : Calm s (s.abortPasses e p) :=
  (takePasses s e p).trans (foldl _ (fun _ _ => abortActive ..) _)

theorem collAbort (s : State) (d k r : Nat) (a : Word) : Calm s (s.collAbort d k r a) := by
  unfold State.collAbort
  split
  · exact refl s
  · exact (setProg ..).trans (post ..)

theorem abortColls (s : State) (c r : Nat) : Calm s (s.abortColls c r) := foldl _ (fun _ _ => collAbort ..) _

/-! #### What a change wakes -/

theorem acquireAt (s : State) (c q : Nat) : Calm s (s.acquireAt c q).2 := by
  unfold State.acquireAt
  split
  · exact refl s
  · split
    · exact refl s
    · dsimp only
      split
      · refine ⟨fun n => ?_, fun e => .of_eq rfl rfl⟩
        by_cases h : c = n
        · subst h; rw [State.ctx_setCtx]
        · rw [State.ctx_setCtx_ne _ _ _ _ h]; rfl
      · exact of_eq rfl rfl

theorem acquireEach (l : List Active) (s : State) : Calm s (s.acquireEach l).2 := by
  induction l generalizing s with
  | nil => exact refl s
  | cons a r ih => exact (acquireAt ..).trans (ih _)

theorem endWaits (s : State) (e : Nat) (p : Active → Bool) (k : List Nat) : Calm s (s.endWaits e p k) := by
  unfold State.endWaits
  split
  · exact refl s
  · exact (acquireEach _ s).trans (setEngine (.wake _ _ fun _ => rfl))

theorem wakeLock (s : State) (e uid : Nat) (n : Word) : Calm s (s.wakeLock e uid n) := endWaits ..

theorem wakeWaiters (s : State) (k : Nat) (v : Word) : Calm s (s.wakeWaiters k v) := by
  unfold State.wakeWaiters
  exact (each _ (fun _ _ => setDie ..) _).trans (of_eq rfl rfl)

theorem wakePasses (s : State) (k : Nat) (l : List Nat) (v : Word) : Calm s (s.wakePasses k l v) :=
  (each _ (fun _ _ => endWaits ..) _).trans (wakeWaiters ..)

theorem wakePorts (s : State) (p : Word → Bool) (v : Word) : Calm s (s.wakePorts p v) := by
  unfold State.wakePorts
  refine trans ?_ (each _ (fun _ _ => setPool ..) _)
  refine each _ (fun e u => ?_) _
  exact setEngine_of_slots rfl rfl

theorem notifyUnit (s : State) (d n h : Nat) (w : Watch) : Calm s (s.notifyUnit d n h w) := by
  have woken : ∀ u k v p, Calm s (((s.setUnits d u).wakePasses k (byteKeys (homes8 h)) v).wakePorts p v) := fun u k v p =>
    ((setUnits s d u).trans (wakePasses ..)).trans (wakePorts ..)
  unfold State.notifyUnit
  dsimp only
  split
  · exact woken ..
  · exact (woken ..).trans (touch ..)

theorem notify (s : State) (hs : List Nat) : Calm s (s.notify hs) := by
  unfold State.notify
  refine foldl _ (fun t x => foldl _ (fun u y => ?_) t) s
  dsimp only
  split
  · split
    · split <;> [exact notifyUnit ..; exact refl _]
    · exact refl _
  · exact refl _

theorem storeHomes (s : State) (hs : List Nat) (bs : List Byte) : Calm s (s.storeHomes hs bs) :=
  (foldl _ (fun _ _ => wrBytes ..) s).trans (notify ..)

/-! #### Translation -/

theorem translate (s : State) (d c va : Nat) (pre : List PreByte) : Calm s (s.translate d c va pre).2 := by
  unfold State.translate
  dsimp only
  split
  · exact refl s
  · split
    · exact refl s
    · split
      · exact refl s
      · split
        · exact refl s
        · exact setUnits ..

theorem setDirty (s : State) (d c : Nat) (t : Trans) : Calm s (s.setDirty d c t) := by
  unfold State.setDirty
  split
  · exact refl s
  · dsimp only
    split <;> exact of_eq rfl rfl

theorem byteHome (s : State) (v : Via) (a : Word) : Calm s (s.byteHome v a).2 := by
  unfold State.byteHome
  dsimp only
  split
  case h_5 =>
    -- the paths of memory, the only ones that translate
    split
    · split <;> [exact refl s; (split <;> [exact refl s; (split <;> exact refl s)])]
    · next c _ =>
      have ht := translate s v.by_.die c (addrVa a) (s.walkPre v)
      split
      · next h => rw [h] at ht; exact ht
      · next h =>
        rw [h] at ht
        split
        · exact ht
        · exact ite (ht.trans (setDirty ..)) ht
  all_goals
    repeat' split
    all_goals exact refl s

theorem byteHomes (s : State) (v : Via) (a : Word) (n : Nat) : Calm s (s.byteHomes v a n).2 := by
  induction n generalizing s a with
  | zero => exact refl s
  | succ n ih =>
    rw [State.byteHomes]
    have h1 := byteHome s v a
    split
    · next h => rw [h] at h1; exact h1
    · next s1 h =>
      rw [h] at h1
      have h2 := ih s1 (a + 1)
      split <;> next k => rw [k] at h2; exact h1.trans h2

theorem resolve (s : State) (v : Via) (ps : List Nat) (a : Word) (n : Nat) (al : Bool) : Calm s (s.resolve v ps a n al).2 := by
  unfold State.resolve
  dsimp only
  split
  · exact refl s
  · split
    · exact refl s
    · split
      · exact refl s
      · exact byteHomes ..

/-! #### The overflow region -/

theorem ovSpill (s : State) (d c : Nat) (i : Option Nat) (g : Failure) : Calm s (s.ovSpill d c i g) := report ..

theorem ovLook (s : State) (d c : Nat) (i : Option Nat) : Calm s (s.ovLook d c i) := by
  unfold State.ovLook
  split <;> [exact ovSpill ..; exact refl s]

theorem ovWrite (s : State) (d c i : Nat) (bs : List Byte) : Calm s (s.ovWrite d c i bs) := by
  have h1 : Calm s (s.ovHomes d c i .store).2 := resolve ..
  unfold State.ovWrite
  split
  · next h => rw [h] at h1; exact h1.trans (ovSpill ..)
  · next h => rw [h] at h1; exact h1.trans (storeHomes ..)

theorem reinject (s : State) (d c i : Nat) (b : List Byte) : Calm s (s.reinject d c i b) := by
  have h1 : Calm s (s.ovHomes d c i .store).2 := resolve ..
  unfold State.reinject
  dsimp only
  split
  · next h => rw [h] at h1; exact h1.trans (ovSpill ..)
  · next h => rw [h] at h1; exact ((h1.trans (storeHomes ..)).trans (postDep ..)).trans (touch ..)

theorem reinjectNr (s : State) (c : Nat) : Calm s (s.reinjectNr c) :=
  each _ (fun _ _ => (ovLook ..).trans (foldl _ (fun _ _ => reinject ..) _)) s

end Calm
end Sys2Proof.Machine
end

section
/-!
Groups (R328–R330): how a write of word 0 acts, and what the clearing of the members (R289) reads and leaves.
-/
namespace Sys2Proof.Machine
open Sys2Proof Sys2Proof.Machine Sys2Proof.Cert

/-! ### A replaced part replaced again -/

theorem tput_tput {α : Type} (t : Table α) (k : Nat) (v w : α) : tput (tput t k v) k w = tput t k w := by
  induction t with
  | nil => simp [tput]
  | cons a r ih =>
    obtain ⟨j, u⟩ := a
    simp only [tput]
    split
    · next h => simp only [tput, if_pos h, ih]
    · split <;> simp [tput]

theorem State.setDie_setDie (s : State) (d : Nat) (x y : Die) : (s.setDie d x).setDie d y = s.setDie d y := by
  simp only [State.setDie, tput_tput]

theorem State.setUnits_setUnits (s : State) (d : Nat) (x y : DieUnits) : (s.setUnits d x).setUnits d y = s.setUnits d y := by
  simp only [State.setUnits, State.setDie_setDie, State.die_setDie]

theorem State.setGroup_setGroup (s : State) (d g : Nat) (x y : Group) : (s.setGroup d g x).setGroup d g y = s.setGroup d g y := by
  simp only [State.setGroup, State.setUnits_setUnits, State.units_setUnits, tput_tput]

/-! ### Writes of word 0 -/

section
variable {s : State} {d g : Nat} {v : Word} (hd : d < 4) (hg : g < 72)
include hd hg

theorem exec_group_reserved (h : ctlReserved (groupOff d g 0) v = true) :
    exec (.groupReserve d g v) s = .next (s.hostCount cIllegal (groupOff d g 0)) ∧
      exec (.groupFree d g v) s = .next (s.hostCount cIllegal (groupOff d g 0)) := by
  simp [exec, execGroupReserve, execGroupFree, State.regEvent, h, hd, hg]

theorem exec_groupReserve (h : ctlReserved (groupOff d g 0) v = false) :
    exec (.groupReserve d g v) s = .next (if (s.group d g).st = .free then
      (s.setGroup d g { s.group d g with ctx := fld v 8 6 }).groupReserve d g else s.groupReserve d g) := by
  simp [exec, execGroupReserve, State.regEvent, h, hd, hg, State.groupWord0, apply_ite (State.groupReserve · d g)]

theorem exec_groupFree (h : ctlReserved (groupOff d g 0) v = false) :
    exec (.groupFree d g v) s = .next (if (s.group d g).st = .free then
      (s.setGroup d g { s.group d g with ctx := fld v 8 6 }).groupFree d g else s.groupFree d g) := by
  simp [exec, execGroupFree, State.regEvent, h, hd, hg, State.groupWord0, apply_ite (State.groupFree · d g)]

end

/-! ### RESERVE: the members are cleared (R289) -/

theorem tget_filter {α : Type} (dflt : α) (t : Table α) (p : Nat → Bool) (k : Nat) :
    tget dflt (t.filter fun x => p x.1) k = if p k then tget dflt t k else dflt := by
  induction t with
  | nil => simp
  | cons x r ih =>
    obtain ⟨j, u⟩ := x
    by_cases hj : j = k
    · subst hj
      cases h : p j <;> simp_all [tget]
    · cases h : p j <;> simp_all [tget]

/-- The bytes of a cleared engine read 0, and every other byte as before. -/
theorem State.rdByte_clearEngine (s : State) (e h : Nat) : (s.clearEngine e).rdByte h =
    if scratchHome e 0 ≤ h ∧ h < scratchHome e 0 + 2 ^ 20 then 0 else s.rdByte h := by
  have hf := tget_filter memDefault s.mem
    (fun h => decide (h < scratchHome e 0) || decide (scratchHome e 0 + 2 ^ 20 ≤ h)) h
  refine (show (s.clearEngine e).rdByte h = _ from hf).trans ?_
  by_cases hin : scratchHome e 0 ≤ h ∧ h < scratchHome e 0 + 2 ^ 20
  · rw [if_neg (by simp; omega), if_pos hin]; rfl
  · rw [if_pos (by simp; omega), if_neg hin]; rfl

theorem State.ms_clearEngine (s : State) (e : Nat) : ((s.clearEngine e).engine e).t.ms = [] := by
  show ((State.setEngine _ e _).engine e).t.ms = []
  rw [State.engine_setEngine]

theorem State.engine_clearEngine_ne (s : State) (e a : Nat) (h : e ≠ a) : (s.clearEngine e).engine a = s.engine a :=
  State.engine_setEngine_ne _ _ _ _ h

/-- An engine that has been cleared stays so while others are cleared. -/
theorem State.cleared_of_mem (l : List Nat) (s : State) (e : Nat)
    (he : e ∈ l ∨ (s.engine e).t.ms = [] ∧ ∀ o < 2 ^ 20, s.rdByte (scratchHome e o) = 0) :
    ((l.foldl (fun t e => t.clearEngine e) s).engine e).t.ms = [] ∧
      ∀ o < 2 ^ 20, (l.foldl (fun t e => t.clearEngine e) s).rdByte (scratchHome e o) = 0 := by
  induction l generalizing s with
  | nil => simpa using he
  | cons a r ih =>
    rw [List.foldl_cons]
    refine ih _ ?_
    by_cases ha : a = e
    · subst ha
      refine .inr ⟨s.ms_clearEngine a, fun o ho => ?_⟩
      rw [State.rdByte_clearEngine, if_pos (by unfold scratchHome; omega)]
    · rcases he with he | ⟨hm, hz⟩
      · exact .inl ((List.mem_cons.mp he).resolve_left (Ne.symm ha))
      · refine .inr ⟨by rw [State.engine_clearEngine_ne _ _ _ ha]; exact hm, fun o ho => ?_⟩
        rw [State.rdByte_clearEngine]
        split <;> [rfl; exact hz o ho]

theorem State.rdByte_clearEngines (l : List Nat) (s : State) (h : Nat) (hh : h < 2 ^ 50) :
    (l.foldl (fun t e => t.clearEngine e) s).rdByte h = s.rdByte h := by
  induction l generalizing s with
  | nil => rfl
  | cons a r ih =>
    rw [List.foldl_cons, ih, State.rdByte_clearEngine, if_neg (by unfold scratchHome; omega)]

/-- A group that passes its checks becomes RESERVED, its members cleared (R330). -/
theorem State.enterReserved_spec (s : State) (d g : Nat) (x : Group) :
    let t := s.enterReserved d g x
    t.group d g = { x with st := .reserved, nmem := (groupMembers d x).length, clear := some (s.clock.cyc + 64) } ∧
      (∀ e ∈ groupMembers d x, (t.engine e).t.ms = [] ∧ ∀ o < 2 ^ 20, t.rdByte (scratchHome e o) = 0) ∧
      ∀ h < 2 ^ 50, t.rdByte h = s.rdByte h := by
  refine ⟨State.group_setGroup .., fun e he => ?_, fun h hh => ?_⟩
  · exact State.cleared_of_mem _ s e (.inl he)
  · exact State.rdByte_clearEngines _ s h hh

/-! ### FREE: the group's rods go with it (R344) -/

theorem State.group_setRod (s : State) (r : Word) (x : Rod) (d g : Nat) : (s.setRod r x).group d g = s.group d g := by
  unfold State.setRod State.group
  by_cases e : rodDie r = d
  · subst e; dsimp only; split <;> simp
  · dsimp only; split <;> simp [State.units_setUnits_ne _ _ _ _ e]

theorem State.group_freeRod (s : State) (r : Word) (d g : Nat) : (s.freeRod r).group d g = s.group d g := by
  unfold State.freeRod
  refine Eq.trans (Aside.group (Aside.foldl _ (fun _ _ => Aside.haltQueue ..) _) d g) ?_
  exact ((Aside.each _ (fun _ _ => Aside.faultPasses ..) _).group d g).trans (s.group_setRod ..)

theorem State.group_freeGroup (s : State) (d g : Nat) :
    (s.freeGroup d g).group d g = { s.group d g with st := .free, nmem := 0, clear := none } := by
  unfold State.freeGroup
  dsimp only
  generalize List.filter _ _ = l
  have keeps : ∀ t : State, (l.foldl (fun t x => t.freeRod (put 62 2 1 ||| put 60 2 d ||| put 0 8 x.1)) t).group d g = t.group d g := by
    induction l with
    | nil => exact fun _ => rfl
    | cons a r ih => exact fun t => (ih _).trans (t.group_freeRod ..)
  exact (keeps _).trans (State.group_setGroup ..)

/-! ### RESERVE and FREE by their cases -/

section
variable {s : State} {d g : Nat} {x : Group} (hx : s.group d g = x)
include hx

theorem State.groupReserve_accepted (hs : x.st = .free) (h : s.reserveFault d g x = none) :
    s.groupReserve d g = s.enterReserved d g { x with rcode := 0 } := by
  subst hx
  simp only [State.groupReserve, hs, ne_eq, not_true, if_false, h]

theorem State.groupReserve_refused {n : Nat} (hs : x.st = .free) (h : s.reserveFault d g x = some n) :
    s.groupReserve d g = s.setGroup d g { x with rcode := n } := by
  subst hx
  simp only [State.groupReserve, hs, ne_eq, not_true, if_false, h]

theorem State.groupReserve_of_ne (hs : x.st ≠ .free) : s.groupReserve d g = s.setGroup d g { x with rcode := cFrame } := by
  subst hx
  exact if_pos hs

theorem State.groupFree_accepted (h : (x.st = .reserved ∨ x.st = .parked) ∧ s.groupInUse d x = false) :
    s.groupFree d g = (s.setGroup d g { x with rcode := 0 }).freeGroup d g := by
  subst hx
  exact if_pos h

theorem State.groupFree_refused (h : ¬((x.st = .reserved ∨ x.st = .parked) ∧ s.groupInUse d x = false)) :
    s.groupFree d g = s.setGroup d g { x with rcode := cFrame } := by
  subst hx
  exact if_neg h

end

/-- Settles O44: each write of word 0 acts as its command, RESERVE by clearing the members, FREE by freeing the rods of the group. -/
theorem groupCommands : Obligations.GroupCommands := by
  intro s d g v hd hg
  refine ⟨fun h => exec_group_reserved hd hg h, fun h => ?_⟩
  have hr := exec_groupReserve (s := s) hd hg h
  have hf := exec_groupFree (s := s) hd hg h
  intro x y s1
  have hy : s1.group d g = y := State.group_setGroup ..
  refine ⟨fun hs hn => ?_, fun n hs hn => ?_, fun hs => ?_, fun hs hu => ?_, fun hs => ?_, fun hs => ?_⟩
  · obtain ⟨hg', hc, hm⟩ := s1.enterReserved_spec d g { y with rcode := 0 }
    rw [if_pos hs] at hr
    rw [← State.groupReserve_accepted hy hs hn] at hg' hc hm
    exact ⟨_, hr, congrArg Group.st hg', congrArg Group.nmem hg', congrArg Group.clear hg', congrArg Group.rcode hg', hc, hm⟩
  · rw [hr, if_pos hs]
    exact congrArg Host.Outcome.next ((State.groupReserve_refused hy hs hn).trans (State.setGroup_setGroup ..))
  · rw [hr, if_neg hs, State.groupReserve_of_ne rfl hs]
  · rw [if_neg (show x.st ≠ .free by rintro h; simp [h] at hs), State.groupFree_accepted rfl ⟨hs, hu⟩] at hf
    refine ⟨_, hf, ?_⟩
    simp [State.group_freeGroup]
  · rw [hf, if_neg (show x.st ≠ .free by rintro h; simp [h] at hs), State.groupFree_refused rfl]
    rintro ⟨h, hu⟩
    rcases hs with hs | ⟨-, hs⟩
    · simp [show (s.group d g).st = _ from hs] at h
    · exact absurd hu (by simp [show s.groupInUse d (s.group d g) = _ from hs])
  · rw [hf, if_pos hs]
    refine congrArg Host.Outcome.next ((State.groupFree_refused hy ?_).trans (State.setGroup_setGroup ..))
    simp [show y.st = .free from hs]
end Sys2Proof.Machine
end

section
/-!
The lock table (R358–R367): what a grant, a wound and a release leave in it.
-/
namespace Sys2Proof.Machine
open Sys2Proof Sys2Proof.Machine Sys2Proof.Cert

/-! ### Modes together (R359) -/

@[simp] theorem lkLub_nl_left (m : Nat) : lkLub 0 m = m := by simp [lkLub]

@[simp] theorem lkLub_nl_right (m : Nat) : lkLub m 0 = m := by
  unfold lkLub
  split <;> simp_all

@[simp] theorem lkLub_self (m : Nat) : lkLub m m = m := by
  unfold lkLub
  split <;> simp_all

theorem lkLub_eq_nl {a b : Nat} : lkLub a b = 0 ↔ a = 0 ∧ b = 0 := by
  unfold lkLub
  grind

/-- The mode of some takes on top of another is NL where they all are and it is. -/
theorem foldl_lkLub_eq_nl (l : List LockTake) (b : Nat) :
    l.foldl (fun m t => lkLub m t.mode) b = 0 ↔ b = 0 ∧ ∀ t ∈ l, t.mode = 0 := by
  induction l generalizing b with
  | nil => simp
  | cons t r ih => simp [ih, lkLub_eq_nl, and_assoc]

theorem foldl_lkLub_stays {m : Nat} (l : List LockTake) (h : ∀ t ∈ l, t.mode = 0 ∨ t.mode = m) :
    l.foldl (fun m t => lkLub m t.mode) m = m := by
  induction l with
  | nil => rfl
  | cons t r ih =>
    have e : lkLub m t.mode = m := by rcases h t List.mem_cons_self with h | h <;> simp [h]
    rw [List.foldl_cons, e, ih fun u hu => h u (List.mem_cons_of_mem _ hu)]

theorem foldl_lkLub_reaches {m : Nat} (l : List LockTake) (h : ∀ t ∈ l, t.mode = 0 ∨ t.mode = m) (hm : ∃ t ∈ l, t.mode = m) :
    l.foldl (fun m t => lkLub m t.mode) 0 = m := by
  induction l with
  | nil => simp at hm
  | cons t r ih =>
    have hr : ∀ u ∈ r, u.mode = 0 ∨ u.mode = m := fun u hu => h u (List.mem_cons_of_mem _ hu)
    rw [List.foldl_cons, lkLub_nl_left]
    by_cases ht : t.mode = m
    · rw [ht, foldl_lkLub_stays r hr]
    · rw [(h t List.mem_cons_self).resolve_right ht]
      obtain ⟨u, hu, e⟩ := hm
      exact ih hr ⟨u, (List.mem_cons.mp hu).resolve_left (fun k => ht (k ▸ e)), e⟩

/-- A record of mode NL of which a pass takes a mode has that mode. -/
theorem LockRec.mode_take {x : LockRec} (r : LockReq) (m : Nat) (h : x.mode = 0) : (x.take r m).mode = m := by
  obtain ⟨c, n, a, base, takes, hit, whole⟩ := x
  cases whole with
  | some o => simp_all [LockRec.mode, LockRec.take, apply_ite LockRec.whole]
  | none =>
    obtain ⟨hb, ht⟩ := (foldl_lkLub_eq_nl takes base).mp h
    subst hb
    unfold LockRec.take
    dsimp only
    split
    · next hf =>
      obtain ⟨t, hm, e⟩ := List.any_eq_true.mp hf
      refine foldl_lkLub_reaches _ (fun u hu => ?_) ⟨_, List.mem_map_of_mem hm, ?_⟩
      · obtain ⟨v, hv, rfl⟩ := List.mem_map.mp hu
        split <;> simp [ht v hv]
      · simp [eq_of_beq e, ht t hm]
    · refine foldl_lkLub_reaches _ (fun u hu => ?_) ⟨⟨r.eng, r.fid, m, r.hold⟩, by simp, rfl⟩
      rcases List.mem_append.mp hu with hu | hu
      · exact .inl (ht u hu)
      · rw [List.mem_singleton.mp hu]; exact .inr rfl

/-! ### Records of the table -/

/-- Whether a record is the one of an owner on an object. -/
def LockRec.is (x : LockRec) (c : Nat) (age o : Word) : Prop := x.ctx = c ∧ x.age = age ∧ x.name = o

theorem Reckoner.rec?_some {k : Reckoner} {c : Nat} {age o : Word} {x : LockRec} (h : k.rec? c age o = some x) : x.is c age o := by
  have := List.find?_some h
  simp only [Bool.and_eq_true, beq_iff_eq] at this
  exact ⟨this.1.1, this.1.2, this.2⟩

theorem Reckoner.rec?_putRec (k : Reckoner) {x : LockRec} {c : Nat} {age o : Word} (h : x.is c age o) :
    (k.putRec x).rec? c age o = some x := by
  obtain ⟨rfl, rfl, rfl⟩ := h
  simp only [Reckoner.rec?, Reckoner.putRec, List.find?_append, List.find?_filter]
  rw [List.find?_eq_none.mpr (by simp; tauto)]
  simp

theorem Reckoner.rec?_putRec_ne (k : Reckoner) {x : LockRec} {c : Nat} {age o : Word} (h : ¬x.is c age o) :
    (k.putRec x).rec? c age o = k.rec? c age o := by
  have hx : (x.ctx == c && x.age == age && x.name == o) = false := by
    simpa [LockRec.is, and_assoc] using h
  simp only [Reckoner.rec?, Reckoner.putRec, List.find?_append, List.find?_filter, List.find?_singleton, hx]
  rw [show (fun r : LockRec => decide ((!(r.ctx == x.ctx && r.age == x.age && r.name == x.name)) = true ∧
      (r.ctx == c && r.age == age && r.name == o) = true)) = fun r => r.ctx == c && r.age == age && r.name == o from
    funext fun r => ?_]
  · simp
  · rw [Bool.eq_iff_iff]
    simp only [decide_eq_true_eq, Bool.and_eq_true, beq_iff_eq, Bool.not_eq_true', and_assoc, and_iff_right_iff_imp]
    rintro ⟨rfl, rfl, rfl⟩
    rw [← Bool.not_eq_true]
    simp only [Bool.and_eq_true, beq_iff_eq]
    rintro ⟨⟨e1, e2⟩, e3⟩
    exact h ⟨e1.symm, e2.symm, e3.symm⟩

theorem Reckoner.recOf_is (k : Reckoner) (r : LockReq) (o : Word) : (k.recOf r o).is r.ctx r.age o := by
  unfold Reckoner.recOf
  cases h : k.rec? r.ctx r.age o with
  | none => exact ⟨rfl, rfl, rfl⟩
  | some x => exact Reckoner.rec?_some h

theorem LockRec.take_is {x : LockRec} {c : Nat} {age o : Word} (r : LockReq) (m : Nat) (h : x.is c age o) :
    (x.take r m).is c age o := by
  unfold LockRec.take
  split <;> exact h

/-- An owner that takes a mode of an object of which it holds nothing holds that mode. -/
theorem Reckoner.held_take (k : Reckoner) (r : LockReq) (o : Word) (m : Nat) (h : k.held r.ctx r.age o = 0) :
    (k.putRec ((k.recOf r o).take r m)).held r.ctx r.age o = m := by
  have hm : (k.recOf r o).mode = 0 := by
    unfold Reckoner.held at h
    unfold Reckoner.recOf
    cases hx : k.rec? r.ctx r.age o with
    | none => rfl
    | some x => simpa [hx] using h
  rw [Reckoner.held, k.rec?_putRec (LockRec.take_is r m (k.recOf_is r o))]
  simp [LockRec.mode_take r m hm]

/-- Whether an older or younger holder of an object conflicts with a mode wanted on it. -/
def Reckoner.Blocked (k : Reckoner) (m : BitVec 36) (c : Nat) (age o : Word) (want : Nat) : Prop :=
  ∃ x ∈ k.recs, x.ctx = c ∧ x.name = o ∧ x.age ≠ age ∧ lkCompat m want x.mode = false

theorem Reckoner.Blocked.not_grantable {k : Reckoner} {m : BitVec 36} {c : Nat} {age o : Word} {want : Nat}
    (h : k.Blocked m c age o want) : k.grantable m c age o want = false := by
  obtain ⟨x, hx, e1, e2, e3, hc⟩ := h
  unfold Reckoner.grantable
  rw [Bool.and_eq_false_iff]
  exact .inl (List.all_eq_false.mpr ⟨x, hx, by simp [e1, e2, e3, hc]⟩)

theorem Reckoner.blocked_of_not_grantable {k : Reckoner} {m : BitVec 36} {c : Nat} {age o : Word} {want : Nat} (hq : k.queue = [])
    (h : k.grantable m c age o want = false) : k.Blocked m c age o want := by
  simp only [Reckoner.grantable, hq, List.all_nil, Bool.and_true, List.all_eq_false, Bool.or_eq_true, Bool.not_eq_true',
    not_or, Bool.not_eq_false, Bool.not_eq_true, Bool.and_eq_true, beq_iff_eq, bne_iff_ne] at h
  obtain ⟨x, hx, ⟨⟨e1, e2⟩, e3⟩, hc⟩ := h
  exact ⟨x, hx, e1, e2, e3, hc⟩

/-- A holder that conflicts, put back with a wound on its way, still conflicts. -/
theorem Reckoner.Blocked.putRec {k : Reckoner} {m : BitVec 36} {c : Nat} {age o : Word} {want : Nat} {x : LockRec} (e1 : x.ctx = c)
    (e2 : x.name = o) (e3 : x.age ≠ age) (hc : lkCompat m want x.mode = false) : (k.putRec x).Blocked m c age o want :=
  ⟨x, by simp [Reckoner.putRec], e1, e2, e3, hc⟩

/-! ### The scan of the waiters (R365) -/

theorem State.lkRescan_of_not_ready {s : State} {h : Nat} (hr : s.lkReady h = none) : s.lkRescan h = s := by
  unfold State.lkRescan
  rw [State.lkScan, hr]

theorem State.lkRescan_of_empty {s : State} {h : Nat} (hq : (s.reckoner h).queue = []) : s.lkRescan h = s :=
  State.lkRescan_of_not_ready (by simp [State.lkReady, hq])

/-! ### Passes that go on -/

theorem acquireAt_dies (s : State) (c q : Nat) : (s.acquireAt c q).2.dies = s.dies := by
  unfold State.acquireAt
  repeat' split
  all_goals rfl

theorem acquireEach_dies (l : List Active) (s : State) : (s.acquireEach l).2.dies = s.dies := by
  induction l generalizing s with
  | nil => rfl
  | cons a r ih => exact (ih _).trans (acquireAt_dies ..)

theorem State.reckoner_wakeLock (s : State) (e uid : Nat) (n : Word) (h : Nat) : (s.wakeLock e uid n).reckoner h = s.reckoner h := by
  unfold State.wakeLock State.endWaits
  split
  · rfl
  · simp only [State.reckoner, State.units, State.die, State.setEngine, acquireEach_dies]

theorem State.mem_wakeLock (s : State) (e uid : Nat) (n : Word) : (s.wakeLock e uid n).mem = s.mem := endWaits_mem ..

/-! ### A request on a tensor (R364) -/

section
variable {s : State} {h : Nat} {r : LockReq}

theorem lkChain_of_tensor (hl : lkLevel r.name = 0) : lkChain r.name = [r.name] := by simp [lkChain, hl]

theorem State.decision_of_idle (hc : s.root.cmode = 0) (cls die unit : Nat) (what : List Nat) : s.decision cls die unit what = some s := by
  simp [State.decision, hc]

theorem Reckoner.want_of_nl {k : Reckoner} (hh : k.held r.ctx r.age r.name = 0) : k.want r r.name = r.mode := by
  simp [Reckoner.want, LockReq.modeOn, hh]

/-- A request on a tensor of which its owner holds nothing, for which the table has room, goes through its one level. -/
theorem State.lkAcquire_tensor (hl : lkLevel r.name = 0) (hm : r.mode ≠ 0) (hh : (s.reckoner h).held r.ctx r.age r.name = 0)
    (hf : (s.reckoner h).needed r ≤ (s.reckoner h).free) : s.lkAcquire h r = s.lkLevels h r [r.name] := by
  simp [State.lkAcquire, Reckoner.want_of_nl hh, hh, hm, lkChain_of_tensor hl, Nat.not_lt.mpr hf]

theorem State.lkLevels_granted (hl : lkLevel r.name = 0) (hm : r.mode ≠ 0) (hh : (s.reckoner h).held r.ctx r.age r.name = 0)
    (hc : s.root.cmode = 0) (hg : (s.reckoner h).grantable (s.ctx r.ctx).lk.matrix r.ctx r.age r.name r.mode = true) :
    s.lkLevels h r [r.name] =
      (((s.setReckoner h ((s.reckoner h).putRec (((s.reckoner h).recOf r r.name).take r r.mode))).touch h r.ctx).wakeLock
        r.eng r.fid r.name).touch h r.ctx := by
  have hw := Reckoner.want_of_nl hh
  have he : ∀ t : State, t.escalate h r = t := fun t => by simp [State.escalate, hl]
  simp [State.lkLevels, hw, hh, hm, hg, State.decision_of_idle hc, he, LockReq.modeOn]

theorem State.lkLevels_blocked (hm : r.mode ≠ 0) (hh : (s.reckoner h).held r.ctx r.age r.name = 0)
    (hg : (s.reckoner h).grantable (s.ctx r.ctx).lk.matrix r.ctx r.age r.name r.mode = false)
    (hq : ((s.woundAll h r.ctx r.age r.name r.mode).reckoner h).queue = []) :
    s.lkLevels h r [r.name] = (s.woundAll h r.ctx r.age r.name r.mode).setReckoner h
      (((s.woundAll h r.ctx r.age r.name r.mode).reckoner h).enqueue ⟨r.ctx, r.name, r.age, r.mode, r⟩) := by
  have hw := Reckoner.want_of_nl hh
  simp [State.lkLevels, hw, hh, hm, hg, Reckoner.waits, hq]

end
end Sys2Proof.Machine
end

section
/-!
The events of the lock units (R364–R367): requests, wounds and releases at their homes.
-/
namespace Sys2Proof.Machine
open Sys2Proof Sys2Proof.Machine Sys2Proof.Cert

/-! ### Wounds (R366) -/

/-- What the wounding of holders in the way of an owner on an object of die `h` leaves: memory, the contexts, the empty queue, what the
owner holds, and that a holder is in the way. -/
structure StillBlocked (s t : State) (h c : Nat) (age o : Word) (m : BitVec 36) (want : Nat) : Prop where
  mem : t.mem = s.mem
  ctxs : t.ctxs = s.ctxs
  queue : (t.reckoner h).queue = []
  held : (t.reckoner h).held c age o = (s.reckoner h).held c age o
  blocked : (t.reckoner h).Blocked m c age o want

namespace StillBlocked
variable {s t u : State} {h c : Nat} {age o : Word} {m : BitVec 36} {want : Nat}

theorem aside (k : StillBlocked s t h c age o m want) (a : Aside t u) : StillBlocked s u h c age o m want := by
  have e := a.reckoner h
  exact ⟨a.mem.trans k.mem, a.ctxs.trans k.ctxs, e ▸ k.queue, e ▸ k.held, e ▸ k.blocked⟩

theorem putHit (k : StillBlocked s t h c age o m want) {x : LockRec} (e1 : x.ctx = c) (e2 : x.name = o) (e3 : x.age ≠ age)
    (hc : lkCompat m want x.mode = false) :
    StillBlocked s (t.setReckoner h ((t.reckoner h).putRec { x with hit := true })) h c age o m want := by
  refine ⟨k.mem, k.ctxs, ?_, ?_, ?_⟩ <;> rw [State.reckoner_setReckoner]
  · exact k.queue
  · rw [← k.held, Reckoner.held, Reckoner.held, Reckoner.rec?_putRec_ne _ (x := { x with hit := true }) fun i => e3 i.2.1]
  · exact .putRec e1 e2 e3 hc

end StillBlocked

theorem State.woundAll_stillBlocked {s : State} {h c : Nat} {age o : Word} {want : Nat} (hq : (s.reckoner h).queue = [])
    (hb : (s.reckoner h).Blocked (s.ctx c).lk.matrix c age o want) :
    StillBlocked s (s.woundAll h c age o want) h c age o (s.ctx c).lk.matrix want := by
  unfold State.woundAll
  dsimp only
  refine List.foldlRecOn (motive := fun t => StillBlocked s t h c age o (s.ctx c).lk.matrix want) _ _ ⟨rfl, rfl, hq, rfl, hb⟩
    fun t k x hx => ?_
  simp only [List.mem_filter, Bool.and_eq_true, beq_iff_eq, Bool.not_eq_true'] at hx
  obtain ⟨-, ⟨⟨e1, e2⟩, hlt⟩, hc⟩ := hx
  split
  · exact k.aside (Aside.report ..)
  · refine (k.putHit e1 e2 ?_ hc).aside (Aside.foldl _ (fun _ _ => Aside.post ..) _)
    rintro rfl
    simp [BitVec.ult] at hlt

/-! ### LOCK_REQUEST_DECIDE (R364, R365) -/

/-- A pass in a slot that waits for its request stands aside, if room is left. -/
def State.standAside (t : State) (r : LockReq) (sl : Nat) : State :=
  match t.active r.eng sl with
  | some a => if a.fr.uid = r.fid ∧ a.pass.wait ≠ .none then t.suspend r.eng sl a a.pass.wait else t
  | none => t

theorem exec_lockRequestDecide (r : LockReq) (s : State) : exec (.lockRequestDecide r) s =
    .next (((if ((s.engine r.eng).waiting fun a => a.fr.uid == r.fid) = [] then s
      else (s.lkAcquire (lockHome r.name) r).lkRescan (lockHome r.name)).standAside r 0).standAside r 1) := rfl

theorem Aside.standAside (t : State) (r : LockReq) (sl : Nat) : Aside t (t.standAside r sl) := by
  unfold State.standAside
  split
  · split <;> [exact Aside.suspend ..; exact .refl t]
  · exact .refl t

theorem exec_lockRequestDecide_open {r : LockReq} {s : State} (ho : ((s.engine r.eng).waiting fun a => a.fr.uid == r.fid) ≠ []) :
    ∃ t, exec (.lockRequestDecide r) s = .next t ∧
      Aside ((s.lkAcquire (lockHome r.name) r).lkRescan (lockHome r.name)) t :=
  ⟨_, by rw [exec_lockRequestDecide, if_neg ho], (Aside.standAside _ r 0).trans (.standAside _ r 1)⟩

/-- The request of a pass that is gone changes nothing. -/
theorem exec_lockRequestDecide_gone {r : LockReq} {s : State} (ho : ((s.engine r.eng).waiting fun a => a.fr.uid == r.fid) = []) :
    exec (.lockRequestDecide r) s = .next s := by
  have none_stands : ∀ sl, s.standAside r sl = s := fun sl => by
    unfold State.standAside
    split
    · next a ha =>
      refine if_neg fun k => List.filter_eq_nil_iff.mp ho a ?_ (by simp [k.1])
      unfold State.active Engine.slot at ha
      split at ha <;> simp [ha]
    · rfl
  rw [exec_lockRequestDecide, if_pos ho, none_stands, none_stands]

section
variable {s : State} {r : LockReq} (ho : ((s.engine r.eng).waiting fun a => a.fr.uid == r.fid) ≠ []) (hl : lkLevel r.name = 0)
  (hm : r.mode ≠ 0) (hh : (s.reckoner (lockHome r.name)).held r.ctx r.age r.name = 0) (hq : (s.reckoner (lockHome r.name)).queue = [])
  (hf : (s.reckoner (lockHome r.name)).needed r ≤ (s.reckoner (lockHome r.name)).free)
include ho hl hm hh hq hf

theorem exec_lockRequestDecide_granted (hc : s.root.cmode = 0)
    (hg : (s.reckoner (lockHome r.name)).grantable (s.ctx r.ctx).lk.matrix r.ctx r.age r.name r.mode = true) :
    ∃ t, exec (.lockRequestDecide r) s = .next t ∧ (t.reckoner (lockHome r.name)).held r.ctx r.age r.name = r.mode ∧
      t.mem = s.mem := by
  obtain ⟨t, he, ha⟩ := exec_lockRequestDecide_open ho
  refine ⟨t, he, ?_⟩
  rw [ha.reckoner, ha.mem, State.lkAcquire_tensor hl hm hh hf, State.lkLevels_granted hl hm hh hc hg]
  have hk : ∀ t : State, (((t.touch (lockHome r.name) r.ctx).wakeLock r.eng r.fid r.name).touch (lockHome r.name) r.ctx).reckoner
      (lockHome r.name) = t.reckoner (lockHome r.name) := fun t => by
    rw [(Aside.touch ..).reckoner, State.reckoner_wakeLock, (Aside.touch ..).reckoner]
  rw [State.lkRescan_of_empty (by rw [hk, State.reckoner_setReckoner]; exact hq), hk, State.reckoner_setReckoner]
  refine ⟨Reckoner.held_take _ _ _ _ hh, ?_⟩
  rw [(Aside.touch ..).mem, State.mem_wakeLock, (Aside.touch ..).mem, State.setReckoner_mem]

theorem exec_lockRequestDecide_queued
    (hg : (s.reckoner (lockHome r.name)).grantable (s.ctx r.ctx).lk.matrix r.ctx r.age r.name r.mode = false) :
    ∃ t, exec (.lockRequestDecide r) s = .next t ∧ (t.reckoner (lockHome r.name)).held r.ctx r.age r.name = 0 ∧
      (∃ w ∈ (t.reckoner (lockHome r.name)).queue, w.req = r ∧ w.name = r.name) ∧ t.mem = s.mem := by
  obtain ⟨t, he, ha⟩ := exec_lockRequestDecide_open ho
  have hb := State.woundAll_stillBlocked hq (Reckoner.blocked_of_not_grantable hq hg)
  have hz : ((s.woundAll (lockHome r.name) r.ctx r.age r.name r.mode).reckoner (lockHome r.name)).held r.ctx r.age r.name = 0 :=
    hb.held.trans hh
  have hx : ∀ c, (s.woundAll (lockHome r.name) r.ctx r.age r.name r.mode).ctx c = s.ctx c := fun c => by
    rw [State.ctx, hb.ctxs]; rfl
  refine ⟨t, he, ?_⟩
  rw [ha.reckoner, ha.mem, State.lkAcquire_tensor hl hm hh hf, State.lkLevels_blocked hm hh hg hb.queue]
  rw [State.lkRescan_of_not_ready, State.reckoner_setReckoner, State.setReckoner_mem]
  · exact ⟨hz, ⟨⟨r.ctx, r.name, r.age, r.mode, r⟩, by simp [Reckoner.enqueue, hb.queue, insertBy], rfl, rfl⟩, hb.mem⟩
  · obtain ⟨y, hy, e⟩ := hb.blocked
    have hn : ∀ k : Reckoner, k.recs = ((s.woundAll (lockHome r.name) r.ctx r.age r.name r.mode).reckoner (lockHome r.name)).recs →
        k.grantable (s.ctx r.ctx).lk.matrix r.ctx r.age r.name (k.want r r.name) = false := fun k hk => by
      have hw : k.want r r.name = r.mode := Reckoner.want_of_nl (by rw [← hz]; simp [Reckoner.held, Reckoner.rec?, hk])
      exact hw ▸ Reckoner.Blocked.not_grantable ⟨y, hk ▸ hy, e⟩
    simp [State.lkReady, Reckoner.enqueue, hb.queue, insertBy, hx, hn]

end

/-! ### WOUND_ARRIVAL (R366) -/

theorem State.engine_posts (l : List Nat) (f : Nat → Instr) (t : State) (e : Nat) :
    (t.each l fun n u => u.post (f n)).engine e = t.engine e := by
  induction l generalizing t with
  | nil => rfl
  | cons b r ih => exact ih _

theorem State.engine_abortActive (s : State) (e : Nat) (a : Active) (h : Hold) : (s.abortActive e a h).engine e =
    { s.engine e with requeue := (s.engine e).requeue ++ [{ a.fr with requeued := true, hold := h }] } := by
  unfold State.abortActive
  exact (State.engine_posts ..).trans (State.engine_setEngine ..)

/-- Passes that have been taken out are queued again, and that is all that happens to their engine. -/
theorem State.engine_abortActives (e : Nat) (l : List Active) (s : State) :
    (l.foldl (fun u b => u.abortActive e b .free) s).engine e =
      { s.engine e with requeue := (s.engine e).requeue ++ l.map fun b => { b.fr with requeued := true, hold := .free } } := by
  induction l generalizing s with
  | nil => simp
  | cons b r ih => rw [List.foldl_cons, ih, State.engine_abortActive]; simp

/-- A pass that is taken out is queued again. -/
theorem State.mem_requeue_abortPasses {s : State} {e sl : Nat} {a : Active} {p : Active → Bool} (ha : s.active e sl = some a)
    (hp : p a = true) : { a.fr with requeued := true, hold := .free } ∈ ((s.abortPasses e p).engine e).requeue := by
  have hin : a ∈ (s.takePasses e p).1 := by
    refine List.mem_filter.mpr ⟨?_, hp⟩
    unfold State.active Engine.slot at ha
    split at ha <;> simp [ha]
  rw [State.abortPasses, State.engine_abortActives]
  exact List.mem_append_right _ (List.mem_map_of_mem (f := fun b : Active => { b.fr with requeued := true, hold := .free }) hin)

/-- An issue slot keeps its pass where it is not taken out. -/
theorem State.active_abortPasses (s : State) (e sl : Nat) (p : Active → Bool) :
    (s.abortPasses e p).active e sl = (s.active e sl).filter fun a => !p a := by
  rw [State.active, State.abortPasses, State.engine_abortActives]
  exact s.slot_takePasses e sl p

theorem exec_woundArrival {s : State} {e sl : Nat} {a : Active} (name : Word) (ha : s.active e sl = some a) :
    ∃ t, exec (.woundArrival e a.fr.uid name) s = .next t ∧ t.active e sl = none ∧
      { a.fr with requeued := true, hold := .free } ∈ (t.engine e).requeue ∧ t.mem = s.mem := by
  refine ⟨_, rfl, ?_, State.mem_requeue_abortPasses ha (by simp), (Aside.abortPasses ..).mem⟩
  rw [State.active_abortPasses, ha]
  simp

/-! ### LOCK_RELEASE_ARRIVAL (R362, R365) -/

/-- Where nobody waits, a release is the change of the records. -/
theorem State.lkRelease_of_empty {s : State} {r : LockRel} (hq : (s.reckoner r.die).queue = []) :
    s.lkRelease r = s.setReckoner r.die
      { s.reckoner r.die with recs := (s.reckoner r.die).recs.filterMap (lkReleased r) } := by
  have hs : s.lkStillHeld r = [] := by
    unfold State.lkStillHeld
    split <;> simp [hq]
  rw [State.lkRelease, hs]
  dsimp only
  rw [List.foldl_nil, State.lkRescan_of_empty]
  · congr 2
    split <;> simp only [hq, List.filter_nil]
  · rw [State.reckoner_setReckoner]
    split <;> simp [hq]

theorem filterMap_ite_none {α : Type} (l : List α) (p : α → Bool) : (l.filterMap fun x => if p x then none else some x) =
    l.filter fun x => !p x := by
  rw [← List.filterMap_eq_filter]
  congr 1
  funext x
  cases h : p x <;> simp [h, Option.guard]

/-- The mode that stands on a record after a pass has ended: where it commits, its HOLD modes, and an escalated mode in their place. -/
def LockRec.stands (x : LockRec) (f : Nat) (ok : Bool) : Nat :=
  let mine := if ok then (x.takes.filter fun t => t.uid == f && t.hold).map (·.mode) else []
  match x.whole with
  | some (u, c) => if u = f ∧ mine ≠ [] then c else mine.foldl lkLub x.base
  | none => mine.foldl lkLub x.base

theorem LockRec.endPass_eq (x : LockRec) (f : Nat) (ok : Bool) : x.endPass f ok =
    (let y : LockRec := { x with
      base := x.stands f ok, takes := x.takes.filter fun t => t.uid != f, whole := x.whole.filter fun o => o.1 != f }
    { y with hit := x.hit && y.raising != [] }) := by
  obtain ⟨c, n, a, base, takes, hit, whole⟩ := x
  cases ok <;> cases whole <;> simp [LockRec.endPass, LockRec.stands, List.foldl_map]

/-- LOCK_RELEASE_ARRIVAL where nobody waits. -/
theorem exec_lockReleaseArrival {s : State} {r : LockRel} (hq : (s.reckoner r.die).queue = []) (hm : ∀ v, r.kind ≠ .matrix v)
    (he : ∀ v, r.kind ≠ .esc v) : exec (.lockReleaseArrival r) s = .next (s.setReckoner r.die
      { s.reckoner r.die with recs := (s.reckoner r.die).recs.filterMap (lkReleased r) }) := by
  rw [← State.lkRelease_of_empty hq]
  simp only [exec, execLockReleaseArrival]

/-- A release that only takes records away. -/
theorem exec_lockReleaseArrival_filter {s : State} {r : LockRel} {p : LockRec → Bool} (hq : (s.reckoner r.die).queue = [])
    (hm : ∀ v, r.kind ≠ .matrix v) (he : ∀ v, r.kind ≠ .esc v) (hp : ∀ x, lkReleased r x = if p x then none else some x) :
    exec (.lockReleaseArrival r) s = .next (s.setReckoner r.die
      { s.reckoner r.die with recs := (s.reckoner r.die).recs.filter fun x => !p x }) := by
  rw [exec_lockReleaseArrival hq hm he, funext hp, filterMap_ite_none]

theorem lkReleased_all {r : LockRel} (h : r.kind = .all) (x : LockRec) :
    lkReleased r x = if x.ctx == r.ctx && x.age == r.age then none else some x := by
  by_cases hc : x.ctx = r.ctx <;> simp [lkReleased, h, hc]

theorem lkReleased_below {r : LockRel} {n : Word} (h : r.kind = .below n) (x : LockRec) :
    lkReleased r x = if x.ctx == r.ctx && x.age == r.age && lkUnder n x.name then none else some x := by
  by_cases hc : x.ctx = r.ctx <;> simp [lkReleased, h, hc]

theorem lkReleased_ended {r : LockRel} {f : Nat} {ok : Bool} (h : r.kind = (if ok then .passEnd f else .revert f)) (x : LockRec) :
    lkReleased r x = if x.ctx = r.ctx ∧ (x.takes.any fun t => t.uid == f) = true then (x.endPass f ok).some? else some x := by
  by_cases hc : x.ctx = r.ctx <;> cases ok <;> simp [lkReleased, h, hc]

theorem lockEvents : LockEvents := by
  refine ⟨fun s r => ?_, fun m r c => ?_, fun s e sl a name _ ha => exec_woundArrival name ha, fun s r hq => ?_⟩
  · refine ⟨exec_lockRequestDecide_gone, fun ho ha hq hf hc hg => ?_, fun ho ha hq hf hg => ?_⟩ <;> obtain ⟨hl, hm, hh⟩ := ha
    · exact exec_lockRequestDecide_granted ho hl hm hh hq hf hc hg
    · exact exec_lockRequestDecide_queued ho hl hm hh hq hf hg
  · exact ⟨by simp [lkCompat], by simp [lkCompat], fun x y _ _ => by simp [lkCompat]⟩
  · refine ⟨fun h => ?_, fun n h => ?_, fun f ok h => ?_, fun v h => ?_, fun v h => ?_⟩
    · exact exec_lockReleaseArrival_filter hq (by simp [h]) (by simp [h]) (lkReleased_all h)
    · exact exec_lockReleaseArrival_filter hq (by simp [h]) (by simp [h]) (lkReleased_below h)
    · rw [exec_lockReleaseArrival hq (by cases ok <;> simp [h]) (by cases ok <;> simp [h]), funext (lkReleased_ended h)]
      simp only [LockRec.some?, LockRec.endPass_eq]
      rfl
    · simp [exec, execLockReleaseArrival, h]
    · simp [exec, execLockReleaseArrival, h]
end Sys2Proof.Machine
end

section
/-!
The commands of the walkers (R390, R391) and of the lock units (R376).
-/
namespace Sys2Proof.Machine
open Sys2Proof Sys2Proof.Machine Sys2Proof.Cert

/-! ### What changes engines only -/

/-- From `s` to `t` only the engines may have changed. -/
def EnginesOnly (s t : State) : Prop := t = { s with eng := t.eng }

namespace EnginesOnly
variable {s t u : State}

theorem refl (s : State) : EnginesOnly s s := rfl

theorem trans (h : EnginesOnly s t) (k : EnginesOnly t u) : EnginesOnly s u := by
  unfold EnginesOnly at *
  rw [k, h]

theorem setEngine (s : State) (e : Nat) (x : Engine) : EnginesOnly s (s.setEngine e x) := rfl

theorem each {f : Nat → State → State} (l : List Nat) (h : ∀ n t, EnginesOnly t (f n t)) (s : State) : EnginesOnly s (s.each l f) :=
  foldl_of_trans refl trans l (fun n _ t => h n t) s

theorem units (h : EnginesOnly s t) (d : Nat) : t.units d = s.units d := by rw [h]; rfl
theorem mem (h : EnginesOnly s t) : t.mem = s.mem := by rw [h]
theorem ctxs (h : EnginesOnly s t) : t.ctxs = s.ctxs := by rw [h]

end EnginesOnly

/-! ### Entries that go (R391) -/

/-- The units of a die without the cached translations and constants that `p` and `q` pick, and without what its walks have read. -/
def DieUnits.forget (u : DieUnits) (p : Nat × Trans → Bool) (q : ConstChunk → Bool) : DieUnits :=
  { u with walk := { u.walk with stc := u.walk.stc.filter fun x => !p x, cbuf := u.walk.cbuf.filter fun k => !q k, pre := [] } }

theorem State.units_voidWalks (s : State) (d : Nat) :
    (s.voidWalks d).units d = { s.units d with walk := { (s.units d).walk with pre := [] } } := by
  unfold State.voidWalks
  dsimp only
  rw [State.units_setUnits, State.units_setCore, (EnginesOnly.each _ (fun _ _ => .setEngine ..) _).units]

theorem State.units_voidWalks_ne (s : State) {d a : Nat} (h : d ≠ a) : (s.voidWalks d).units a = s.units a := by
  unfold State.voidWalks
  dsimp only
  rw [State.units_setUnits_ne _ _ _ _ h, State.units_setCore, (EnginesOnly.each _ (fun _ _ => .setEngine ..) _).units]

theorem State.mem_voidWalks (s : State) (d : Nat) : (s.voidWalks d).mem = s.mem :=
  (EnginesOnly.each _ (fun _ _ => .setEngine ..) _).mem

theorem State.ctxs_voidWalks (s : State) (d : Nat) : (s.voidWalks d).ctxs = s.ctxs :=
  (EnginesOnly.each _ (fun _ _ => .setEngine ..) _).ctxs

/-- From `s` to `t` memory is the same, and each die of the list `l` has forgotten what `p` and `q` pick; the others are unchanged. -/
structure Forgot (p : Nat × Trans → Bool) (q : ConstChunk → Bool) (l : List Nat) (s t : State) : Prop where
  mem : t.mem = s.mem
  ctxs : t.ctxs = s.ctxs
  units_of_mem : ∀ d ∈ l, t.units d = (s.units d).forget p q
  units_of_not_mem : ∀ d, d ∉ l → t.units d = s.units d

/-- Dies that forget one after the other. -/
theorem Forgot.each {p : Nat × Trans → Bool} {q : ConstChunk → Bool} {f : Nat → State → State} {l : List Nat} (hl : l.Nodup)
    (h : ∀ d t, Forgot p q [d] t (f d t)) (s : State) : Forgot p q l s (s.each l f) := by
  induction l generalizing s with
  | nil => exact ⟨rfl, rfl, by simp, fun _ _ => rfl⟩
  | cons a r ih =>
    obtain ⟨ha, hr⟩ := List.nodup_cons.mp hl
    have h1 := h a s
    have h2 := ih hr (f a s)
    refine ⟨h2.mem.trans h1.mem, h2.ctxs.trans h1.ctxs, fun d hd => ?_, fun d hd => ?_⟩
    · rcases List.mem_cons.mp hd with rfl | hd
      · exact (h2.units_of_not_mem d ha).trans (h1.units_of_mem d (by simp))
      · have hne : d ∉ [a] := by rintro hm; rw [List.mem_singleton.mp hm] at hd; exact ha hd
        exact (h2.units_of_mem d hd).trans (by rw [h1.units_of_not_mem d hne])
    · obtain ⟨h3, h4⟩ := not_or.mp (mt List.mem_cons.mpr hd)
      exact (h2.units_of_not_mem d h4).trans (h1.units_of_not_mem d (by simpa using h3))

/-- A die that forgets, its walks starting afresh. -/
theorem Forgot.voidWalks {p : Nat × Trans → Bool} {q : ConstChunk → Bool} (s : State) (d : Nat) :
    Forgot p q [d] s ((s.setUnits d { s.units d with walk := { (s.units d).walk with
      stc := (s.units d).walk.stc.filter fun x => !p x, cbuf := (s.units d).walk.cbuf.filter fun k => !q k } }).voidWalks d) := by
  refine ⟨State.mem_voidWalks .., State.ctxs_voidWalks .., fun a ha => ?_, fun a ha => ?_⟩
  · obtain rfl := List.mem_singleton.mp ha
    rw [State.units_voidWalks, State.units_setUnits]
    rfl
  · have hne : d ≠ a := fun e => ha (by simp [e])
    rw [State.units_voidWalks_ne _ hne, State.units_setUnits_ne _ _ _ _ hne]

theorem Forgot.engines {p : Nat × Trans → Bool} {q : ConstChunk → Bool} {l : List Nat} {s t u : State} (h : Forgot p q l s t)
    (k : EnginesOnly t u) : Forgot p q l s u :=
  ⟨k.mem.trans h.mem, k.ctxs.trans h.ctxs, fun d hd => (k.units d).trans (h.units_of_mem d hd),
    fun d hd => (k.units d).trans (h.units_of_not_mem d hd)⟩

theorem State.dropTrans_forgot (s : State) (d : Nat) (w : Walker) :
    Forgot (fun x => w.hits x.1 x.2) (fun k => w.hits k.ctx { base := k.va * 64, log := 6 }) [d] s (s.dropTrans d w) :=
  (Forgot.voidWalks s d).engines (.each _ (fun _ _ => .setEngine ..) _)

/-! ### INV (R390, R391) -/

section
variable {s : State} {d : Nat} {v : Word}

theorem exec_walkerInv (hd : d < 4) (hr : ctlReserved (walkerOff d 0) v = false) :
    exec (.walkerInv d v) s = .next (s.walkWord0 d v 1) := by
  simp [exec, execWalkerInv, State.regEvent, hr, hd]

theorem exec_walkerInv_busy (hd : d < 4) (hr : ctlReserved (walkerOff d 0) v = false) (hb : (s.units d).walk.busy = true) :
    exec (.walkerInv d v) s = .next s := by
  rw [exec_walkerInv hd hr, State.walkWord0]
  simp [hb]

/-- The walker block as an INV leaves it: busy, and with the accesses to wait for. -/
def State.invStarted (s : State) (d : Nat) (w : Walker) : State :=
  (s.setUnits d { s.units d with walk := { w with busy := true, await := [], opens := [] } }).awaitUsers d w.takesIn

theorem State.inv_acts {w : Walker} (hw : (s.units d).walk = w) (hk : w.kind ≤ 2) (hn : w.kind = 0 → w.npg ≠ 0) :
    s.inv d = (s.invStarted d w).each (if w.bcast then List.range 4 else [d]) fun e t => t.dropTrans e w := by
  subst hw
  refine if_neg ?_
  rintro (h | ⟨h, h'⟩)
  · omega
  · exact hn h h'

theorem exec_walkerInv_idle (hd : d < 4) (hr : ctlReserved (walkerOff d 0) v = false) (hb : (s.units d).walk.busy = false)
    (w : Walker) (hw : w = { (s.units d).walk with bcast := v.getLsbD 7, kind := fld v 0 2 }) (hk : w.kind ≤ 2)
    (hn : w.kind = 0 → w.npg ≠ 0) : exec (.walkerInv d v) s =
      .next (((s.setUnits d { s.units d with walk := w }).invStarted d w).each (if w.bcast then List.range 4 else [d])
        fun e t => t.dropTrans e w) := by
  rw [exec_walkerInv hd hr, ← State.inv_acts (by rw [State.units_setUnits]) hk hn, hw]
  simp [State.walkWord0, hb]

theorem State.units_invStarted (s : State) (d : Nat) (w : Walker) : ((s.invStarted d w).units d).walk.busy = true ∧
    ((s.invStarted d w).units d).walk.stc = w.stc ∧ ((s.invStarted d w).units d).walk.cbuf = w.cbuf := by
  simp [State.invStarted, State.awaitUsers]

theorem State.units_invStarted_ne (s : State) {d a : Nat} (w : Walker) (h : d ≠ a) : (s.invStarted d w).units a = s.units a := by
  simp [State.invStarted, State.awaitUsers, State.units_setUnits_ne _ _ _ _ h]

end

/-! ### The commands -/

theorem walkerInv_acts {s : State} {d : Nat} {v : Word} (hd : d < 4) (hr : ctlReserved (walkerOff d 0) v = false)
    (hb : (s.units d).walk.busy = false) (w : Walker)
    (hw : w = { (s.units d).walk with bcast := v.getLsbD 7, kind := fld v 0 2 }) (hk : w.kind ≤ 2) (hn : w.kind = 0 → w.npg ≠ 0) :
    ∃ t, exec (.walkerInv d v) s = .next t ∧ (t.units d).walk.busy = true ∧ t.mem = s.mem ∧
      (∀ e, e < 4 → e = d ∨ v.getLsbD 7 = true →
        (t.units e).walk.stc = (s.units e).walk.stc.filter (fun p => !w.hits p.1 p.2) ∧
        ∀ k ∈ (t.units e).walk.cbuf, w.hits k.ctx { base := k.va * 64, log := 6 } = false) ∧
      (∀ e, e ≠ d → v.getLsbD 7 = false → t.units e = s.units e) := by
  have hnd : (if w.bcast then List.range 4 else [d]).Nodup := by split <;> [exact List.nodup_range; exact List.nodup_singleton d]
  have hf := Forgot.each hnd (fun e t => t.dropTrans_forgot e w) ((s.setUnits d { s.units d with walk := w }).invStarted d w)
  have hin : ∀ e, e < 4 → e = d ∨ v.getLsbD 7 = true → e ∈ if w.bcast then List.range 4 else [d] := fun e he h => by
    have hbc : w.bcast = v.getLsbD 7 := by rw [hw]
    split
    · exact List.mem_range.mpr he
    · next hc => exact List.mem_singleton.mpr (h.resolve_right (hbc ▸ hc))
  have hstc : w.stc = (s.units d).walk.stc := by rw [hw]
  obtain ⟨i1, i2, i3⟩ := State.units_invStarted (s.setUnits d { s.units d with walk := w }) d w
  refine ⟨_, exec_walkerInv_idle hd hr hb w hw hk hn, ?_, hf.mem, fun e he h => ?_, fun e he h => ?_⟩
  · rw [hf.units_of_mem d (hin d hd (.inl rfl))]
    exact i1
  · rw [hf.units_of_mem e (hin e he h)]
    refine ⟨?_, fun k hk => by simpa using (List.mem_filter.mp hk).2⟩
    by_cases e' : d = e
    · subst e'
      simp only [DieUnits.forget, i2, hstc]
    · rw [State.units_invStarted_ne _ _ e', State.units_setUnits_ne _ _ _ _ e']
      rfl
  · have hbc : w.bcast = false := by rw [hw]; exact h
    rw [hf.units_of_not_mem e (by simp [hbc, he]), State.units_invStarted_ne _ _ (Ne.symm he),
      State.units_setUnits_ne _ _ _ _ (Ne.symm he)]

/-- BUSY clears where nothing is waited for and no pass that held an access is open. -/
theorem exec_walkerInvComplete (s : State) (d : Nat) (hd : d < 4) (hb : (s.units d).walk.busy = true) :
    let shut := ∀ p ∈ s.holding fun _ => true, p ∉ (s.units d).walk.opens
    (s.depsDone (s.units d).walk.await = true → shut → ∃ t, exec (.walkerInvComplete d) s = .next t ∧
      (t.units d).walk.busy = false ∧ t.mem = s.mem) ∧
    (s.depsDone (s.units d).walk.await = false ∨ ¬shut → exec (.walkerInvComplete d) s = .next s) := by
  intro shut
  have hs : ((s.holding fun _ => true).any (s.units d).walk.opens.contains = true) ↔ ¬shut := by simp [shut]
  refine ⟨fun hw hk => ⟨_, if_neg ?_, ?_, rfl⟩, fun h => if_pos ?_⟩
  · rw [hs]
    simp [hd, hb, hw, hk]
  · rw [State.units_setUnits]
  · rw [hs]
    rcases h with h | h <;> simp [h]

theorem State.setReckoner_setReckoner (s : State) (d : Nat) (x y : Reckoner) :
    (s.setReckoner d x).setReckoner d y = s.setReckoner d y := by
  simp only [State.setReckoner, State.setUnits_setUnits, State.units_setUnits]

/-- RELALL where nobody waits: the records of the owner go, and are counted. -/
theorem exec_reckonerRelall {s : State} {d : Nat} {v : Word} (hd : d < 4) (hr : ctlReserved (lockOff d 2) v = false)
    (hq : (s.reckoner d).queue = []) : exec (.reckonerRelall d v) s = .next (s.setReckoner d { s.reckoner d with
      ctx := fld v 0 6
      last := BitVec.ofNat 32 ((s.reckoner d).recs.filter fun x => x.ctx == fld v 0 6 && x.age == (s.reckoner d).owner).length
      recs := (s.reckoner d).recs.filter fun x => !(x.ctx == fld v 0 6 && x.age == (s.reckoner d).owner) }) := by
  simp only [exec, execReckonerRelall, Nat.not_le.mpr hd, if_false, State.regEvent, hr, Bool.false_eq_true, State.lkCommand, ne_eq,
    not_true]
  rw [State.lkRelease_of_empty (by rw [State.reckoner_setReckoner]; exact hq), State.setReckoner_setReckoner,
    State.reckoner_setReckoner, funext (lkReleased_all rfl), filterMap_ite_none]

theorem walkerAndLockCommands : WalkerAndLockCommands := by
  refine ⟨fun s d v hd => ⟨fun h => ?_, fun h => ?_⟩, fun s d v hd hr => ⟨exec_walkerInv_busy hd hr, fun hb hk hn => ?_, fun hb => ?_,
    fun hb => ?_⟩, fun w c t h => by simp [Walker.hits, h], fun s d v hd hr hq => exec_reckonerRelall hd hr hq⟩
  · simp [exec, execWalkerInv, State.regEvent, h, hd]
  · simp [exec, execReckonerRelall, State.regEvent, h, hd]
  · exact walkerInv_acts hd hr hb _ rfl hk hn
  · exact (exec_walkerInvComplete s d hd hb).1
  · exact (exec_walkerInvComplete s d hd hb).2

/-- Settles O56: the events of the lock table, and the commands of the walker and of the lock unit. -/
theorem locksAndWalkers : Obligations.LocksAndWalkers := ⟨lockEvents, walkerAndLockCommands⟩
end Sys2Proof.Machine
end

section
/-!
A LAUNCH in a state whose kernel table names one slot twice.
-/
namespace Sys2Proof.Machine
open Sys2Proof Sys2Proof.Machine Sys2Proof.Cert

/-- Queue 0 of the running context 0 is READY with a LAUNCH of kernel 0 at its head. The kernel table has two entries for slot 0: what
reads the slot finds the first, of context 1, and the search for the kernel of context 0 passes it over and finds the second. -/
def twiceNamed : State where
  mem := [(0, 1)]
  dies := [(0, { u := { walk := { stc := [(0, { log := 29, r := true, w := true, a := true, sa := true, d := true })] } } })]
  ctxs := [(0, { st := .running })]
  cp :=
    { queues := [(0, { st := .ready, tail := 1 })]
      kernels := [(0, { used := true, ctx := 1, st := .armed }), (0, { used := true, ctx := 0, st := .armed })] }

/-- The words of the LAUNCH. -/
def twiceNamedHead : List Word := [1, 0, 0, 0, 0, 0, 0, 0]

theorem twiceNamed_startsNow : startsNow twiceNamed 0 1 twiceNamedHead := by
  unfold startsNow
  decide +kernel

theorem twiceNamed_kidKernel : twiceNamed.kidKernel 0 (launchKid twiceNamedHead) = some 0 := by decide +kernel

theorem twiceNamed_freeInst : twiceNamed.freeInst 0 = some 0 := by decide +kernel

/-- What starts is the kernel that the slot holds: the age of context 0 stays. -/
theorem twiceNamed_age : ∃ t, exec (.cmdLaunch 0) twiceNamed = .next t ∧ (t.ctx 0).r.age = (twiceNamed.ctx 0).r.age := by
  refine ⟨_, rfl, ?_⟩
  decide +kernel

/-- Refutes O45: where the kernel table names a slot twice, the kernel that a LAUNCH finds for its context is not the one that the slot
holds, and the age that advances is that of the other context. -/
theorem not_queueProcessing : ¬ Obligations.QueueProcessing := by
  intro h
  obtain ⟨launch, -⟩ := h.1.1 twiceNamed 0 twiceNamedHead
  obtain ⟨u, hu, -, -, -, -, hage, -⟩ := launch twiceNamed_startsNow 0 0 twiceNamed_kidKernel twiceNamed_freeInst
  obtain ⟨t, ht, hkept⟩ := twiceNamed_age
  have same : t = u := by
    injection ht.symm.trans hu
  subst same
  have advanced : (t.ctx 0).r.age = (twiceNamed.ctx 0).r.age + 1 := hage
  exact absurd (hkept.symm.trans advanced) (by decide)
end Sys2Proof.Machine
end

section
/-!
More that is calm: the locks, the tables of kernels, and what a tear-down and a RUN do to the rest of the package.
-/
namespace Sys2Proof.Machine
open Sys2Proof Sys2Proof.Machine Sys2Proof.Cert

namespace Calm
variable {s t : State}

/-! ### Locks (R364–R369) -/

theorem faultActive (s : State) (e : Nat) (a : Active) (f : Failure) : Calm s (s.faultActive e a f) := by
  have opened : ∀ d c i cause page, Calm s (s.openFault d c i cause page).2 := fun d c i cause page => by
    have numbered : ∀ n x, Calm s ({ s with nextId := n }.setDie d x) := fun n x => of_eq rfl rfl
    unfold State.openFault
    dsimp only
    split
    · exact numbered ..
    · exact (numbered ..).trans (setKernel ..)
  unfold State.faultActive
  exact ((opened ..).trans (raise ..)).trans (abortActive ..)

theorem faultPasses (s : State) (e : Nat) (p : Active → Bool) (f : Failure) : Calm s (s.faultPasses e p f) :=
  (takePasses s e p).trans (foldl _ (fun _ _ => faultActive ..) _)

theorem decision {cls die unit : Nat} {what : List Nat} (h : s.decision cls die unit what = some t) : Calm s t := by
  have rooted : ∀ (u : State) r, Calm u { u with root := r } := fun u r => of_eq rfl rfl
  have stored : ∀ hs bs r, Calm s { s.storeHomes hs bs with root := r } := fun hs bs r => (storeHomes ..).trans (rooted ..)
  have fired : ∀ hs bs r, Calm s (State.fireMsix { s.storeHomes hs bs with root := r } 3) := fun hs bs r =>
    (stored hs bs r).trans (fireMsix ..)
  unfold State.decision at h
  dsimp only at h
  split at h
  · split at h <;> obtain rfl := Option.some.inj h
    · exact (rooted ..).trans (fireMsix ..)
    · split <;> [exact fired ..; exact stored ..]
  · split at h
    · split at h
      · obtain rfl := Option.some.inj h; exact refl s
      · split at h
        · obtain rfl := Option.some.inj h; exact rooted ..
        · exact absurd h (by simp)
    · obtain rfl := Option.some.inj h; exact refl s

theorem woundAll (s : State) (h c : Nat) (age o : Word) (want : Nat) : Calm s (s.woundAll h c age o want) := by
  unfold State.woundAll
  refine foldl _ (fun t x => ?_) s
  split
  · exact report ..
  · exact (setReckoner ..).trans (foldl _ (fun _ _ => post ..) _)

theorem escalate (s : State) (h : Nat) (r : LockReq) : Calm s (s.escalate h r) := by
  unfold State.escalate
  exact ite (refl s) (ite (setReckoner ..) (refl s))

theorem lkLevels (s : State) (h : Nat) (r : LockReq) (l : List Word) : Calm s (s.lkLevels h r l) := by
  induction l generalizing s with
  | nil => exact ((escalate ..).trans (wakeLock ..)).trans (touch ..)
  | cons o rest ih =>
    rw [State.lkLevels]
    dsimp only
    split
    · exact (setReckoner ..).trans (ih _)
    · split
      · next t ht =>
        have decided : Calm s t := by
          split at ht <;> [exact decision ht; exact absurd ht (by simp)]
        exact decided.trans (((setReckoner ..).trans (touch ..)).trans (ih _))
      · split
        · exact woundAll ..
        · exact (woundAll ..).trans (setReckoner ..)

theorem lkScan (s : State) (h n : Nat) : Calm s (s.lkScan h n) := by
  induction n generalizing s with
  | zero => exact refl s
  | succ n ih =>
    rw [State.lkScan]
    split
    · exact refl s
    · exact ((setReckoner ..).trans (lkLevels ..)).trans (ih _)

theorem lkDrop (s : State) (p : LockRec → Bool) (q : LockWaiter → Bool) : Calm s (s.lkDrop p q) :=
  each _ (fun _ _ => (setReckoner ..).trans (lkScan ..)) s

/-! ### The tables of a kernel (R310) -/

theorem setFrame (s : State) (l : Loc) (f : Nat) (x : Frame) : Calm s (s.setFrame l f x) := by
  unfold State.setFrame
  cases l with
  | eng e => exact setEngine_of_slots rfl rfl
  | pool d => exact setPool ..

theorem vacate (s : State) (k : Nat) : Calm s (s.vacate k) := by
  unfold State.vacate
  refine trans ?_ (setKernel ..)
  refine trans ?_ (foldl _ (fun _ _ => setUnits ..) _)
  refine trans ?_ (foldl _ (fun _ _ => by exact setEngine_of_slots rfl rfl) _)
  refine trans ?_ (foldl _ (fun _ _ => by exact setEngine_of_slots rfl rfl) _)
  refine trans ?_ (foldl _ (fun _ _ => by exact setEngine_of_slots rfl rfl) _)
  refine trans ?_ (foldl _ (fun _ _ => by exact setEngine_of_slots rfl rfl) _)
  exact foldl _ (fun _ _ => setFrame ..) s

/-! ### Tear-down (R290) -/

theorem tearEngine (s : State) (c e : Nat) : Calm s (s.tearEngine c e) := by
  unfold State.tearEngine
  exact (takePasses ..).trans (setEngine_of_slots rfl rfl)

theorem tearDie (s : State) (c d : Nat) : Calm s (s.tearDie c d) := by
  unfold State.tearDie
  exact ((setPool ..).trans (foldl _ (fun _ _ => ovWrite ..) _)).trans (setDie ..)

/-! ### RUN (R282) -/

theorem shiftLimits (s : State) (c n : Nat) : Calm s (s.shiftLimits c n) := by
  unfold State.shiftLimits
  dsimp only
  refine trans ?_ (each _ (fun d t => each _ (fun k u => ?_) t) _)
  · exact of_eq rfl rfl
  · split
    · split <;> [exact setProg ..; exact refl u]
    · exact refl u

theorem activate (s : State) (c : Nat) : Calm s (s.activate c) := by
  unfold State.activate
  refine foldl _ (fun t x => ?_) s
  dsimp only
  split <;> [exact setGroup ..; exact refl t]

theorem freezeArrays (s : State) (c : Nat) (on : Bool) : Calm s (s.freezeArrays c on) :=
  each _ (fun _ _ => by exact setEngine_of_slots rfl rfl) s

theorem handleHeld (s : State) (c : Nat) : Calm s (s.handleHeld c) := by
  unfold State.handleHeld
  refine trans ?_ (foldl _ (fun _ ⟨_, _, _⟩ => by exact post ..) _)
  exact of_eq rfl rfl

end Calm
end Sys2Proof.Machine
end

section
/-!
The commands on a context (R282–R285, R290), each by what it leaves in the context, in the issue slots and in memory.
-/
namespace Sys2Proof.Machine
open Sys2Proof Sys2Proof.Machine Sys2Proof.Cert

theorem State.setCtx_setCtx (s : State) (c : Nat) (x y : Ctx) : (s.setCtx c x).setCtx c y = s.setCtx c y := by
  simp only [State.setCtx, tput_tput]

/-- A table reads its default at a key that it does not list. -/
theorem tget_of_not_mem {α : Type} (dflt : α) (t : Table α) (k : Nat) (h : k ∉ t.map (·.1)) : tget dflt t k = dflt := by
  induction t with
  | nil => rfl
  | cons x r ih =>
    simp only [List.map_cons, List.mem_cons, not_or] at h
    simp [tget, Ne.symm h.1, ih h.2]

/-! ### What keeps memory and the contexts -/

/-- From `s` to `t` memory and the contexts are the same. -/
structure Kept (s t : State) : Prop where
  mem : t.mem = s.mem
  ctxs : t.ctxs = s.ctxs

namespace Kept
variable {s t u : State}

theorem refl (s : State) : Kept s s := ⟨rfl, rfl⟩
theorem trans (h : Kept s t) (k : Kept t u) : Kept s u := ⟨k.mem.trans h.mem, k.ctxs.trans h.ctxs⟩

theorem foldl {α : Type} {f : State → α → State} (l : List α) (h : ∀ t a, Kept t (f t a)) (s : State) : Kept s (l.foldl f s) :=
  foldl_of_trans refl trans l (fun a _ t => h t a) s

theorem each {f : Nat → State → State} (l : List Nat) (h : ∀ n t, Kept t (f n t)) (s : State) : Kept s (s.each l f) :=
  foldl l (fun t n => h n t) s

theorem ctx (h : Kept s t) (c : Nat) : t.ctx c = s.ctx c := by rw [State.ctx, h.ctxs]; rfl

end Kept

theorem Aside.kept {s t : State} (h : Aside s t) : Kept s t := ⟨h.mem, h.ctxs⟩

theorem Calm.ctx_of_setCtx {s t : State} {c : Nat} {y : Ctx} (h : Calm (s.setCtx c y) t) :
    t.ctx c = { y with acq := (t.ctx c).acq } := by
  rw [h.ctx c, State.ctx_setCtx]

/-- What the command processor, the links and the receive buffers hold apart from contexts and engines. -/
theorem Calm.outside (s : State) (p : Cp) (n : Net) (l : List (Nat × Nat × Instr)) : Calm s { s with cp := p, net := n, held := l } :=
  .of_eq rfl rfl

/-! ### Changes engine by engine -/

/-- What each step of a walk gives to its own part, an engine or a die, and takes from no other, is true of every part of the list. -/
theorem State.each_own {β : Type} {part : State → Nat → β} {P : β → Prop} {f : Nat → State → State} (own : ∀ e t, P (part (f e t) e))
    (others : ∀ e a t, e ≠ a → part (f e t) a = part t a) (l : List Nat) (s : State) (e : Nat) (h : e ∈ l ∨ P (part s e)) :
    P (part (s.each l f) e) := by
  induction l generalizing s with
  | nil => exact h.resolve_left List.not_mem_nil
  | cons a r ih =>
    refine ih (f a s) ?_
    by_cases k : a = e
    · exact .inr (k ▸ own a s)
    · rw [others a e s k]
      exact h.imp_left fun h => (List.mem_cons.mp h).resolve_left (Ne.symm k)

/-- A walk over all engines that the package lists, where what it gives is true of an engine with nothing in it. -/
theorem State.engine_each_all {P : Engine → Prop} {f : Nat → State → State} (own : ∀ e t, P ((f e t).engine e))
    (others : ∀ e a t, e ≠ a → (f e t).engine a = t.engine a) (dflt : P {}) (s : State) (e : Nat) :
    P ((s.each (s.eng.map (·.1)) f).engine e) := by
  refine State.each_own own others _ s e ?_
  by_cases h : e ∈ s.eng.map (·.1)
  · exact .inl h
  · rw [State.engine, tget_of_not_mem _ _ _ h]
    exact .inr dflt

/-- A walk over all dies that the package lists, where what it gives is true of a die with nothing in it. -/
theorem State.units_each_all {P : DieUnits → Prop} {f : Nat → State → State} (own : ∀ d t, P ((f d t).units d))
    (others : ∀ d a t, d ≠ a → (f d t).units a = t.units a) (dflt : P {}) (s : State) (d : Nat) :
    P ((s.each (s.dies.map (·.1)) f).units d) := by
  refine State.each_own own others _ s d ?_
  by_cases h : d ∈ s.dies.map (·.1)
  · exact .inl h
  · rw [State.units, State.die, tget_of_not_mem _ _ _ h]
    exact .inr dflt

theorem State.engine_abortActive_ne (s : State) {e k : Nat} (a : Active) (h : Hold) (hk : e ≠ k) :
    (s.abortActive e a h).engine k = s.engine k := by
  unfold State.abortActive
  exact (State.engine_posts ..).trans (State.engine_setEngine_ne _ _ _ _ hk)

theorem State.engine_abortPasses_ne (s : State) {e k : Nat} (p : Active → Bool) (hk : e ≠ k) :
    (s.abortPasses e p).engine k = s.engine k := by
  have hl : ∀ (l : List Active) (t : State), (l.foldl (fun u a => u.abortActive e a .free) t).engine k = t.engine k := fun l => by
    induction l with
    | nil => exact fun _ => rfl
    | cons b r ih => exact fun t => (ih _).trans (t.engine_abortActive_ne _ _ hk)
  exact (hl _ _).trans (State.engine_setEngine_ne _ _ _ _ hk)

theorem State.susp_abortPasses (s : State) (e : Nat) (p : Active → Bool) :
    ((s.abortPasses e p).engine e).susp = (s.engine e).susp.filter fun a => !p a := by
  rw [State.abortPasses, State.engine_abortActives]
  unfold State.takePasses
  rw [State.engine_setEngine]

theorem State.engine_tearEngine_ne (s : State) (c : Nat) {e k : Nat} (hk : e ≠ k) : (s.tearEngine c e).engine k = s.engine k := by
  unfold State.tearEngine
  exact (State.engine_setEngine_ne _ _ _ _ hk).trans (State.engine_setEngine_ne _ _ _ _ hk)

/-! ### No pass of a context -/

/-- No pass in an issue slot of an engine belongs to a context. -/
def Engine.Clear (x : Engine) (c : Nat) : Prop := ∀ sl a, (x.slot sl).act = some a → a.fr.ctx ≠ c

theorem Engine.Clear.fewer {x y : Engine} {c : Nat} (h : x.Clear c) (k : x.Fewer y) : y.Clear c := fun sl a ha => by
  obtain ⟨b, hb, e⟩ := k sl a ha
  exact e ▸ h sl b hb

theorem Engine.clear_default (c : Nat) : ({} : Engine).Clear c := fun sl a ha => by
  unfold Engine.slot at ha
  split at ha <;> simp at ha

theorem State.clear_abortPasses (s : State) (e c : Nat) : ((s.abortPasses e fun a => a.fr.ctx == c).engine e).Clear c :=
  fun sl a ha => by
    have := (s.active_abortPasses e sl fun a => a.fr.ctx == c).symm.trans ha
    simpa using (Option.filter_eq_some_iff.mp this).2

theorem State.clear_tearEngine (s : State) (c e : Nat) : ((s.tearEngine c e).engine e).Clear c := by
  have taken : ((s.takePasses e fun a => a.fr.ctx == c).2.engine e).Clear c := fun sl a ha => by
    rw [State.slot_takePasses] at ha
    simpa using (Option.filter_eq_some_iff.mp ha).2
  refine taken.fewer ?_
  unfold State.tearEngine
  rw [State.engine_setEngine]
  exact .of_eq rfl rfl

/-! ### Writes of word 0 -/

section
variable {s : State} {c : Nat} {v : Word}

/-- The context after a write of word 0, before its command acts. -/
def Ctx.worded (x : Ctx) (v : Word) : Ctx := { x with hv := v.getLsbD 7, prio := fld v 4 3 }

theorem exec_context_reserved (hc : c < 64) (h : ctlReserved (ctxOff c 0) v = true) :
    ∀ i ∈ [Instr.contextAlloc c v, .contextSoft c v, .contextHard c v, .contextRelease c v, .contextRun c v, .contextTear c v],
      exec i s = .next (s.hostCount cIllegal (ctxOff c 0)) := by
  simp [exec, execContextAlloc, execContextSoft, execContextHard, execContextRelease, execContextRun, execContextTear, State.regEvent,
    h, hc]

theorem exec_context (hc : c < 64) (h : ctlReserved (ctxOff c 0) v = false) :
    let s1 := s.setCtx c ((s.ctx c).worded v)
    exec (.contextAlloc c v) s = .next (s1.allocCmd c) ∧ exec (.contextSoft c v) s = .next (s1.softCmd c) ∧
      exec (.contextHard c v) s = .next (s1.hardCmd c) ∧ exec (.contextRelease c v) s = .next (s1.releaseCmd c) ∧
      exec (.contextRun c v) s = .next (s1.runCmd c) ∧ exec (.contextTear c v) s = .next (s1.tearCmd c) := by
  simp [exec, execContextAlloc, execContextSoft, execContextHard, execContextRelease, execContextRun, execContextTear, State.regEvent,
    h, hc, State.ctxWord0, Ctx.worded]

end

/-! ### The commands by what they leave -/

section
variable {s : State} {c : Nat} {x : Ctx} (hx : s.ctx c = x)
include hx

theorem State.allocCmd_free (h : x.st = .free) : s.allocCmd c = s.setCtx c { x with
    st := .ready, svalid := false, since := s.tick.toNat, torn := false, lk := { x.lk with matrix := 0x100450CF, esc := 32 } } := by
  subst hx
  exact if_pos h

theorem State.allocCmd_of_ne (h : x.st ≠ .free) : s.allocCmd c = s := by
  subst hx
  exact if_neg h

/-- SOFT: the context drains, and its passes that wait abort (R284, R349). -/
theorem State.softCmd_running (h : x.st = .running) :
    (s.softCmd c).ctx c = { x with st := .draining, hStart := some s.tick.toNat, hardReq := false, pausedAt := s.tick.toNat } ∧
      (∀ e sl a, (s.softCmd c).active e sl = some a → a.fr.ctx = c → a.pass.wait = .none) ∧
      (∀ e, ∀ a ∈ ((s.softCmd c).engine e).susp, a.fr.ctx = c → a.pass.wait = .none) ∧ (s.softCmd c).mem = s.mem := by
  subst hx
  rw [State.softCmd, if_pos h]
  have kept := fun t : State => (Aside.each (t.eng.map (·.1)) (fun e u => Aside.abortPasses u e fun a =>
    a.fr.ctx == c && a.pass.wait != .none) t).kept
  refine ⟨?_, fun e => ?_, fun e => ?_, (kept _).mem⟩
  · rw [(kept _).ctx, State.ctx_setCtx]
  · refine State.engine_each_all (P := fun x => ∀ sl a, (x.slot sl).act = some a → a.fr.ctx = c → a.pass.wait = .none)
      (fun e t sl a ha hc => ?_) (fun e k t => t.engine_abortPasses_ne _) (fun sl a ha => ?_) _ e
    · have := (t.active_abortPasses e sl _).symm.trans ha
      simpa [hc] using (Option.filter_eq_some_iff.mp this).2
    · unfold Engine.slot at ha
      split at ha <;> simp at ha
  · refine State.engine_each_all (P := fun x => ∀ a ∈ x.susp, a.fr.ctx = c → a.pass.wait = .none)
      (fun e t a ha hc => ?_) (fun e k t => t.engine_abortPasses_ne _) (by simp) _ e
    rw [State.susp_abortPasses] at ha
    simpa [hc] using (List.mem_filter.mp ha).2

theorem State.softCmd_of_ne (h : x.st ≠ .running) : s.softCmd c = s := by
  subst hx
  exact if_neg h

/-- HARD: the context drains, and its passes abort (R285). -/
theorem State.hardCmd_acts (h : x.st = .running ∨ x.st = .draining) :
    (∃ n, (s.hardCmd c).ctx c = { x with st := .draining, hardReq := true, pausedAt := n }) ∧
      (∀ e, ((s.hardCmd c).engine e).Clear c) ∧ (s.hardCmd c).mem = s.mem := by
  subst hx
  rw [State.hardCmd, if_neg (by rcases h with h | h <;> simp [h])]
  have kept := fun t : State => (Aside.each (t.eng.map (·.1)) (fun e u => Aside.abortPasses u e fun a => a.fr.ctx == c) t).kept
  have froze := fun t : State => EnginesOnly.each (t.ctxEngines c) (fun e u =>
    EnginesOnly.setEngine u e { u.engine e with frozen := true }) t
  have after := fun t : State => ((kept t).trans ⟨(froze _).mem, (froze _).ctxs⟩).trans (Aside.abortColls _ c 5).kept
  refine ⟨⟨_, ((after _).ctx c).trans (State.ctx_setCtx ..)⟩, fun e => ?_, (after _).mem⟩
  refine Engine.Clear.fewer ?_ (((Calm.freezeArrays _ c true).trans (.abortColls _ c 5)).fewer e)
  exact State.engine_each_all (P := fun x => x.Clear c) (fun e t => t.clear_abortPasses e c)
    (fun e k t => t.engine_abortPasses_ne _) (Engine.clear_default c) _ e

/-- RELEASE first returns the engines, the program slots and the groups of the context (R282, R330). -/
theorem State.releaseCmd_eq (h : x.st = .stopped) (hs : s.covers c x.snapd = true) (hn : x.next = none) :
    ∃ t, Kept s t ∧ s.releaseCmd c =
      t.setCtx c { t.ctx c with st := .ready, svalid := true, since := s.tick.toNat, next := none } := by
  subst hx
  rw [State.releaseCmd, if_neg (by simp [h, hs])]
  dsimp only
  rw [hn]
  refine ⟨_, ?_, rfl⟩
  refine Kept.trans ?_ (.foldl _ (fun _ ⟨_, _⟩ => by exact ⟨rfl, rfl⟩) _)
  refine Kept.trans (t := s.each (s.ctxEngines c) fun e t => t.park c e) ?_ (.each _ (fun d t => .each _ (fun k u => ?_) t) _)
  · exact .each _ (fun _ _ => by exact ⟨rfl, rfl⟩) s
  · split
    · split <;> [exact ⟨rfl, rfl⟩; exact .refl u]
    · exact .refl u

/-- RELEASE: the context is READY again, with a snapshot that is valid (R282). -/
theorem State.releaseCmd_acts (h : x.st = .stopped) (hs : s.covers c x.snapd = true) (hn : x.next = none) :
    (s.releaseCmd c).ctx c = { x with st := .ready, svalid := true, since := s.tick.toNat, next := none } ∧
      (s.releaseCmd c).mem = s.mem := by
  obtain ⟨t, kept, e⟩ := State.releaseCmd_eq hx h hs hn
  rw [e, State.ctx_setCtx, kept.ctx, hx]
  exact ⟨rfl, kept.mem⟩

/-- A context enters RUNNING (R282). -/
theorem State.enterRunning_ctx : ∃ n, (s.enterRunning c).ctx c = { x with
    st := .running, svalid := false, rstd := 0, runReq := false, hStart := none, qStart := s.tick.toNat, acq := n } := by
  subst hx
  exact ⟨_, Calm.ctx_of_setCtx ((Calm.ite (.shiftLimits ..) (.refl _)).trans
    ((((Calm.activate ..).trans (.freezeArrays ..)).trans (.reinjectNr ..)).trans (.handleHeld ..)))⟩

/-- What a TEAR does after the queues and the engines (R290, steps 3 to 7) neither issues a pass nor moves a context. -/
theorem State.tearCmd_calm (h : x.st ≠ .free) (h' : x.st ≠ .tearing) :
    let s1 := (s.setCtx c { x with st := .tearing, runReq := false, hardReq := false, next := none }).tearQueues c
    Calm (s1.each (s1.eng.map (·.1)) fun e t => t.tearEngine c e) (s.tearCmd c) := by
  subst hx
  rw [State.tearCmd, if_neg (by simp [h, h'])]
  refine Calm.trans ?_ (.lkDrop ..)
  refine Calm.trans ?_ (.abortColls ..)
  refine Calm.trans ?_ (.outside ..)
  refine Calm.trans ?_ (.each _ (fun k t => .vacate t k) _)
  exact .each _ (fun d t => .tearDie t c d) _

/-- TEAR: the context is torn down, and its passes are discarded (R290). -/
theorem State.tearCmd_acts (h : x.st ≠ .free) (h' : x.st ≠ .tearing) :
    (∃ n, (s.tearCmd c).ctx c = { x with st := .tearing, runReq := false, hardReq := false, next := none, acq := n }) ∧
      ∀ e, ((s.tearCmd c).engine e).Clear c := by
  have rest := State.tearCmd_calm hx h h'
  have queues : ∀ t : State, Calm t (t.tearQueues c) := fun t => .of_eq rfl rfl
  have all := (queues (s.setCtx c { x with st := .tearing, runReq := false, hardReq := false, next := none })).trans
    (.trans (.each _ (fun e t => .tearEngine t c e) _) rest)
  exact ⟨⟨_, all.ctx_of_setCtx⟩, fun e => Engine.Clear.fewer (State.engine_each_all (P := fun x => x.Clear c)
    (fun e t => t.clear_tearEngine c e) (fun e k t => t.engine_tearEngine_ne c) (Engine.clear_default c) _ e) (rest.fewer e)⟩

end
end Sys2Proof.Machine
end

section
/-!
A write of ROOT (R391), the steps of the command processor for a context, and the two halves of the statement.
-/
namespace Sys2Proof.Machine
open Sys2Proof Sys2Proof.Machine Sys2Proof.Cert

/-! ### A write of ROOT discards every translation of the context (R391) -/

/-- No cached translation and no constant of a die belongs to a context. -/
def DieUnits.Without (u : DieUnits) (c : Nat) : Prop := (∀ p ∈ u.walk.stc, p.1 ≠ c) ∧ ∀ k ∈ u.walk.cbuf, k.ctx ≠ c

theorem DieUnits.without_forget (u : DieUnits) (c : Nat) : (u.forget (fun x => x.1 == c) fun k => k.ctx == c).Without c :=
  ⟨fun p hp => by simpa using (List.mem_filter.mp hp).2, fun k hk => by simpa using (List.mem_filter.mp hk).2⟩

/-- From `s` to `t` memory and the contexts are the same, and every die has the cached translations and constants that it had. -/
structure SameEntries (s t : State) : Prop extends Kept s t where
  stc : ∀ d, (t.units d).walk.stc = (s.units d).walk.stc
  cbuf : ∀ d, (t.units d).walk.cbuf = (s.units d).walk.cbuf

namespace SameEntries
variable {s t u : State}

theorem refl (s : State) : SameEntries s s := ⟨.refl s, fun _ => rfl, fun _ => rfl⟩

theorem trans (h : SameEntries s t) (k : SameEntries t u) : SameEntries s u :=
  ⟨h.toKept.trans k.toKept, fun d => (k.stc d).trans (h.stc d), fun d => (k.cbuf d).trans (h.cbuf d)⟩

theorem setUnits {s : State} {d : Nat} {x : DieUnits} (hs : x.walk.stc = (s.units d).walk.stc) (hc : x.walk.cbuf = (s.units d).walk.cbuf) :
    SameEntries s (s.setUnits d x) := by
  refine ⟨⟨rfl, rfl⟩, fun a => ?_, fun a => ?_⟩ <;>
  · by_cases h : d = a
    · subst h; rw [State.units_setUnits]; assumption
    · rw [State.units_setUnits_ne _ _ _ _ h]

end SameEntries

theorem State.dropPages_kept (s : State) (c : Nat) : Kept s (s.dropPages c) := by
  unfold State.dropPages
  have dropped := fun l : List Nat => Kept.each l (f := fun d t => (t.setUnits d { t.units d with walk := { (t.units d).walk with
      stc := (t.units d).walk.stc.filter (fun (k, _) => k != c), cbuf := (t.units d).walk.cbuf.filter fun k => k.ctx != c } }).voidWalks d)
    (fun d t => ⟨State.mem_voidWalks .., State.ctxs_voidWalks ..⟩) s
  exact (dropped _).trans (.each _ (fun _ _ => by exact ⟨rfl, rfl⟩) _)

theorem State.dropPages_without (s : State) (c d : Nat) : ((s.dropPages c).units d).Without c := by
  have forgot := fun (d : Nat) (t : State) => Forgot.voidWalks (p := fun x => x.1 == c) (q := fun k => k.ctx == c) t d
  unfold State.dropPages
  dsimp only
  rw [(EnginesOnly.each _ (fun _ _ => .setEngine ..) _).units d]
  refine State.units_each_all (P := fun u => u.Without c) (fun d t => ?_) (fun d a t h => ?_) ⟨by simp, by simp⟩ s d
  · exact ((forgot d t).units_of_mem d (by simp)) ▸ DieUnits.without_forget _ c
  · exact (forgot d t).units_of_not_mem a (by simpa using Ne.symm h)

theorem State.rootInv_sameEntries (s : State) (c : Nat) : SameEntries (s.dropPages c) (s.rootInv c) := by
  unfold State.rootInv
  refine foldl_of_trans SameEntries.refl SameEntries.trans _ (fun d _ t => ?_) _
  have waits : SameEntries t (t.awaitUsers d (· == c)) := .setUnits rfl rfl
  dsimp only
  split
  · exact waits
  · exact waits.trans (.setUnits rfl rfl)

theorem exec_contextRootWrite {s : State} {c : Nat} {v : Word} (hc : c < 64) (hr : ctlReserved (ctxOff c 1) v = false) :
    exec (.contextRootWrite c v) s = .next (if (s.ctx c).open_ then
      (s.setCtx c { s.ctx c with r := { (s.ctx c).r with root := v.extractLsb' 16 32 } }).rootInv c else s) := by
  simp [exec, execContextRootWrite, State.regEvent, hr, hc, State.ctxWord, CtxRegs.write]

theorem contextRootWrite_acts {s : State} {c : Nat} {v : Word} (hc : c < 64) (hr : ctlReserved (ctxOff c 1) v = false)
    (ho : (s.ctx c).st = .free ∨ (s.ctx c).st = .ready) : ∃ t, exec (.contextRootWrite c v) s = .next t ∧
      (t.ctx c).r.root = v.extractLsb' 16 32 ∧ (∀ d, ∀ p ∈ (t.units d).walk.stc, p.1 ≠ c) ∧
      (∀ d, ∀ k ∈ (t.units d).walk.cbuf, k.ctx ≠ c) ∧ t.mem = s.mem ∧ (∀ k, k ≠ c → t.ctx k = s.ctx k) := by
  have same := State.rootInv_sameEntries (s.setCtx c { s.ctx c with r := { (s.ctx c).r with root := v.extractLsb' 16 32 } }) c
  have kept := (State.dropPages_kept _ c).trans same.toKept
  refine ⟨_, (exec_contextRootWrite hc hr).trans (congrArg _ (if_pos (by rcases ho with h | h <;> simp [Ctx.open_, h]))), ?_⟩
  refine ⟨?_, fun d => ?_, fun d => ?_, kept.mem, fun k hk => ?_⟩
  · rw [kept.ctx, State.ctx_setCtx]
  · rw [same.stc]; exact (State.dropPages_without _ c d).1
  · rw [same.cbuf]; exact (State.dropPages_without _ c d).2
  · rw [kept.ctx, State.ctx_setCtx_ne _ _ _ _ (Ne.symm hk)]

/-! ### RUN (R282) -/

section
variable {s : State} {c : Nat} {x : Ctx} (hx : s.ctx c = x)
include hx

theorem State.tryRun_fresh (h : x.st = .ready) (hr : x.runReq = true) (hv : x.svalid = false) : s.tryRun c = s.enterRunning c := by
  subst hx
  rw [State.tryRun, if_neg (by simp [h, hr]), if_pos hv]

theorem State.tryRun_of_ne (h : x.st ≠ .ready ∨ x.runReq = false) : s.tryRun c = s := by
  subst hx
  exact if_pos h

/-- A RUN whose snapshot is to be restored, where every group of the context is granted and cleared. -/
theorem State.tryRun_restore (h : x.st = .ready) (hr : x.runReq = true) (hv : x.svalid = true)
    (hp : (s.ctxGroups c fun t => t == .parked) = [])
    (hg : ∀ p ∈ s.ctxGroups c fun t => t == .reserved, (s.group p.1 p.2).clear = none) :
    s.tryRun c = ((s.activate c).setCtx c { x with st := .stopped, runReq := false, rstd := 0, snapd := 0 }).ringDies c := by
  subst hx
  have granted : s.grantParked c = s := by rw [State.grantParked, hp]; rfl
  have waits : ((s.ctxGroups c fun t => t == .reserved).any fun (d, g) => (s.group d g).clear.isSome) = false :=
    List.any_eq_false.mpr fun p hm => by simp [hg p hm]
  rw [State.tryRun, if_neg (by simp [h, hr]), if_neg (by simp [hv])]
  simp only [granted, hp, waits, Bool.or_false, bne_self_eq_false, Bool.false_eq_true, if_false]

theorem State.runCmd_ready (h : x.st = .ready) (hv : x.svalid = false) :
    s.runCmd c = (s.setCtx c { x with runReq := true }).enterRunning c := by
  subst hx
  have tried : s.runCmd c = (s.setCtx c { s.ctx c with runReq := true }).tryRun c := by simp only [State.runCmd, h]
  exact tried.trans (State.tryRun_fresh (State.ctx_setCtx ..) h rfl hv)

theorem State.runCmd_stopped (h : x.st = .stopped) (hv : x.svalid = false ∨ s.covers c x.rstd = true) :
    s.runCmd c = s.enterRunning c := by
  subst hx
  rw [State.runCmd, h]
  exact if_pos hv

end

/-! ### The commands -/

theorem contextCommands : ContextCommands := by
  refine ⟨fun s c v hc => ⟨exec_context_reserved hc, fun h => ?_⟩, fun s c v hc hr => ⟨contextRootWrite_acts hc hr, fun h h' => ?_⟩,
    fun s c v hc hr => ?_⟩
  · simp [exec, execContextRootWrite, State.regEvent, h, hc]
  · rw [exec_contextRootWrite hc hr, if_neg (by simp [Ctx.open_, h, h'])]
  obtain ⟨alloc, soft, hard, release, run, tear⟩ := exec_context (s := s) hc hr
  intro x y now kept
  have hy : (s.setCtx c y).ctx c = y := State.ctx_setCtx ..
  refine ⟨fun h => ?_, fun h => ?_, fun h => ?_, fun h => ?_, fun h => ?_, fun h hs hn => ?_, fun h hv => ?_, fun h hv => ?_,
    fun h h' => ?_⟩
  · exact alloc.trans (congrArg _ ((State.allocCmd_free hy h).trans (State.setCtx_setCtx ..)))
  · exact alloc.trans (congrArg _ (State.allocCmd_of_ne hy h))
  · obtain ⟨h1, h2, h3, h4⟩ := State.softCmd_running hy h
    exact ⟨_, soft, h1, fun e sl a _ => h2 e sl a, h3, h4⟩
  · exact soft.trans (congrArg _ (State.softCmd_of_ne hy h))
  · obtain ⟨⟨n, h1⟩, h2, h3⟩ := State.hardCmd_acts hy h
    exact ⟨_, hard, congrArg Ctx.st h1, congrArg Ctx.hardReq h1, fun e sl a _ => h2 e sl a, h3,
      (congrArg Ctx.hv h1 :), (congrArg Ctx.prio h1 :)⟩
  · obtain ⟨h1, h2⟩ := State.releaseCmd_acts hy h hs hn
    exact ⟨_, release, congrArg Ctx.st h1, congrArg Ctx.svalid h1, h2, (congrArg Ctx.hv h1 :), (congrArg Ctx.prio h1 :)⟩
  · obtain ⟨n, h1⟩ := State.enterRunning_ctx (State.ctx_setCtx (s.setCtx c y) c { y with runReq := true })
    exact ⟨_, run.trans (congrArg _ (State.runCmd_ready hy h hv)), congrArg Ctx.st h1, congrArg Ctx.qStart h1,
      (congrArg Ctx.hv h1 :), (congrArg Ctx.prio h1 :)⟩
  · obtain ⟨n, h1⟩ := State.enterRunning_ctx hy
    exact ⟨_, run.trans (congrArg _ (State.runCmd_stopped hy h hv)), congrArg Ctx.st h1, congrArg Ctx.svalid h1,
      (congrArg Ctx.hv h1 :), (congrArg Ctx.prio h1 :)⟩
  · obtain ⟨⟨n, h1⟩, h2⟩ := State.tearCmd_acts hy h h'
    exact ⟨_, tear, congrArg Ctx.st h1, fun e sl a _ => h2 e sl a, (congrArg Ctx.hv h1 :), (congrArg Ctx.prio h1 :)⟩

/-! ### Bells and groups -/

/-- From `s` to `t` memory, the contexts and the engines are the same. -/
structure Quiet (s t : State) : Prop extends Kept s t where
  eng : t.eng = s.eng

theorem Quiet.refl (s : State) : Quiet s s := ⟨.refl s, rfl⟩
theorem Quiet.trans {s t u : State} (h : Quiet s t) (k : Quiet t u) : Quiet s u := ⟨h.toKept.trans k.toKept, k.eng.trans h.eng⟩

theorem State.ringDies_quiet (s : State) (c : Nat) : Quiet s (s.ringDies c) :=
  foldl_of_trans .refl .trans _ (fun _ _ _ => by exact ⟨⟨rfl, rfl⟩, rfl⟩) s

theorem State.activate_quiet (s : State) (c : Nat) : Quiet s (s.activate c) := by
  refine foldl_of_trans .refl .trans _ (fun p _ t => ?_) s
  dsimp only
  split <;> [exact ⟨⟨rfl, rfl⟩, rfl⟩; exact .refl t]

/-! ### The context that runs next (R283) -/

section
variable {α : Type} {lt : α → α → Bool}

theorem pickMin_eq_none {l : List α} : pickMin lt l = none ↔ l = [] := by
  cases l with
  | nil => simp [pickMin]
  | cons a r =>
    simp only [pickMin, reduceCtorEq, iff_false]
    split
    · simp
    · split <;> simp

theorem pickMin_mem {l : List α} {n : α} (h : pickMin lt l = some n) : n ∈ l := by
  induction l with
  | nil => simp [pickMin] at h
  | cons a r ih =>
    rw [pickMin] at h
    split at h
    · exact Option.some.inj h ▸ List.mem_cons_self
    · next b hb =>
      split at h <;> obtain rfl := Option.some.inj h
      · exact List.mem_cons_of_mem _ (ih hb)
      · exact List.mem_cons_self

/-- Nothing precedes the element picked, under an order by which what does not precede carries over. -/
theorem pickMin_le (asymm : ∀ a b, lt a b = true → lt b a = false)
    (trans : ∀ a b c, lt a b = false → lt b c = false → lt a c = false) {l : List α} {n : α} (h : pickMin lt l = some n) :
    ∀ m ∈ l, lt m n = false := by
  have irrefl : ∀ a, lt a a = false := fun a => by
    cases k : lt a a with
    | false => rfl
    | true => exact absurd (asymm a a k) (by simp [k])
  induction l generalizing n with
  | nil => simp
  | cons a r ih =>
    intro m hm
    rw [pickMin] at h
    split at h
    · next hr =>
      obtain rfl := Option.some.inj h
      rw [pickMin_eq_none.mp hr, List.mem_singleton] at hm
      exact hm ▸ irrefl m
    · next b hb =>
      split at h <;> rename_i k <;> obtain rfl := Option.some.inj h
      · rcases List.mem_cons.mp hm with rfl | hm
        · exact asymm _ _ k
        · exact ih hb m hm
      · rcases List.mem_cons.mp hm with rfl | hm
        · exact irrefl m
        · exact trans m b _ (ih hb m hm) (Bool.eq_false_iff.mpr k)

end

/-- The contexts that a quantum may give way to (R283). -/
def State.rivals (s : State) (c : Nat) : List Nat :=
  (List.range 64).filter fun n => (s.ctx n).st == .ready && s.hasWork n && decide ((s.ctx c).prio ≤ (s.ctx n).prio)

/-- Whether a context takes its turn before another: higher PRIO, then the longer wait (R283). -/
def State.goesBefore (s : State) (a b : Nat) : Bool :=
  decide ((s.ctx b).prio < (s.ctx a).prio) || ((s.ctx a).prio == (s.ctx b).prio && decide ((s.ctx a).since < (s.ctx b).since))

theorem State.not_goesBefore (s : State) (a b : Nat) : s.goesBefore a b = false ↔
    (s.ctx a).prio < (s.ctx b).prio ∨ (s.ctx a).prio = (s.ctx b).prio ∧ (s.ctx b).since ≤ (s.ctx a).since := by
  simp only [State.goesBefore, Bool.or_eq_false_iff, Bool.and_eq_false_iff, decide_eq_false_iff_not, beq_eq_false_iff_ne]
  omega

theorem State.goesBefore_iff (s : State) (a b : Nat) : s.goesBefore a b = true ↔
    (s.ctx b).prio < (s.ctx a).prio ∨ (s.ctx a).prio = (s.ctx b).prio ∧ (s.ctx a).since < (s.ctx b).since := by
  simp [State.goesBefore]

theorem State.pickMin_rivals {s : State} {l : List Nat} {n : Nat} (h : pickMin s.goesBefore l = some n) :
    n ∈ l ∧ ∀ m ∈ l,
      (s.ctx m).prio < (s.ctx n).prio ∨ (s.ctx m).prio = (s.ctx n).prio ∧ (s.ctx n).since ≤ (s.ctx m).since := by
  refine ⟨pickMin_mem h, fun m hm => (s.not_goesBefore m n).mp (pickMin_le (fun a b => ?_) (fun a b c => ?_) h m hm)⟩
  · rw [s.goesBefore_iff, s.not_goesBefore]; omega
  · rw [s.not_goesBefore, s.not_goesBefore, s.not_goesBefore]; omega

section
variable {s : State} {c : Nat}

/-- Whether the quantum of a running context has expired (R283). -/
def State.quantumOver (s : State) (c : Nat) : Prop :=
  (s.ctx c).st = .running ∧ (s.ctx c).r.quantum ≠ 0 ∧ (s.ctx c).qStart + (s.ctx c).r.quantum.toNat ≤ s.tick.toNat

theorem exec_quantumExpiry_early (h : ¬s.quantumOver c) : exec (.quantumExpiry c) s = .next s := by
  refine if_pos ?_
  unfold State.quantumOver at h
  by_contra k
  simp only [not_or, not_not, not_lt] at k
  exact h k

theorem exec_quantumExpiry_alone (h : s.quantumOver c) (hn : s.rivals c = []) :
    exec (.quantumExpiry c) s = .next (s.setCtx c { s.ctx c with qStart := s.tick.toNat }) := by
  obtain ⟨h1, h2, h3⟩ := h
  have picked : pickMin s.goesBefore (s.rivals c) = none := pickMin_eq_none.mpr hn
  unfold State.goesBefore State.rivals at picked
  simp only [exec, execQuantumExpiry, h1, h2, Nat.not_lt.mpr h3, ne_eq, not_true, or_self, if_false, picked]

theorem exec_quantumExpiry_rival {n : Nat} (h : s.quantumOver c) (hn : pickMin s.goesBefore (s.rivals c) = some n) :
    exec (.quantumExpiry c) s = .next ((s.setCtx c { s.ctx c with next := some n }).softCmd c) := by
  obtain ⟨h1, h2, h3⟩ := h
  unfold State.goesBefore State.rivals at hn
  simp only [exec, execQuantumExpiry, h1, h2, Nat.not_lt.mpr h3, ne_eq, not_true, or_self, if_false, hn]

end

/-! ### The steps of the command processor -/

theorem exec_contextRunGrant (s : State) (c : Nat) : exec (.contextRunGrant c) s = .next (s.tryRun c) := rfl

theorem contextSteps : ContextSteps := by
  intro s c x now
  have hx : s.ctx c = x := rfl
  refine ⟨fun h hr hv => ?_, fun h hr hv hp hg => ?_, fun h => ?_, ⟨fun h hn => ?_, fun h hn => ?_, exec_quantumExpiry_early⟩,
    fun t0 h hq hd ht hl => ?_, fun h hd => ⟨fun hq => ?_, fun hq => ?_⟩, fun hd => ⟨?_, ?_, ?_⟩, fun h hd => ?_⟩
  · obtain ⟨n, e⟩ := State.enterRunning_ctx hx
    exact ⟨_, (exec_contextRunGrant s c).trans (congrArg _ (State.tryRun_fresh hx h hr hv)), congrArg Ctx.st e,
      congrArg Ctx.runReq e⟩
  · have active := s.activate_quiet c
    have rung := State.ringDies_quiet ((s.activate c).setCtx c { x with st := .stopped, runReq := false, rstd := 0, snapd := 0 }) c
    exact ⟨_, (exec_contextRunGrant s c).trans (congrArg _ (State.tryRun_restore hx h hr hv hp hg)),
      (rung.ctx c).trans (State.ctx_setCtx ..),
      rung.mem.trans active.mem, rung.eng.trans active.eng⟩
  · exact (exec_contextRunGrant s c).trans (congrArg _ (State.tryRun_of_ne hx h))
  · exact exec_quantumExpiry_alone h hn
  · cases hp : pickMin s.goesBefore (s.rivals c) with
    | none => exact absurd (pickMin_eq_none.mp hp) hn
    | some n =>
      obtain ⟨hm, hle⟩ := State.pickMin_rivals hp
      obtain ⟨h1, -, -, h4⟩ := State.softCmd_running (State.ctx_setCtx s c { x with next := some n }) h.1
      exact ⟨n, hm, hle, _, exec_quantumExpiry_rival h hp, h4, h1⟩
  · obtain ⟨⟨n, e⟩, -, -⟩ := State.hardCmd_acts hx (.inr h)
    refine ⟨_, if_neg ?_, congrArg Ctx.hardReq e, congrArg Ctx.st e⟩
    simp only [hx, h, hq, ht, Option.any_some, decide_eq_false_iff_not, ne_eq, not_true, Bool.false_eq_true, false_or, not_or,
      not_not]
    exact ⟨hd, hl⟩
  · have rung := State.ringDies_quiet (s.setCtx c { x with st := .stopped, hards := false, snapd := 0, hStart := none }) c
    exact ⟨_, if_neg (by simp [hx, h, hq, hd]), (rung.ctx c).trans (State.ctx_setCtx ..), rung.mem, rung.eng⟩
  · exact if_neg (by simp [hx, h, hq, hd])
  · exact if_pos (.inr (.inr hd))
  · exact if_pos (.inr (.inr hd))
  · exact if_pos (.inr hd)
  · exact ⟨_, if_neg (by simp [hx, h, hd]), by rw [State.ctx_setCtx], by rw [State.ctx_setCtx]⟩

/-- Settles O43: the commands of a context's block, and the steps of the command processor that follow from them. -/
theorem contextLifeCycle : Obligations.ContextLifeCycle := ⟨contextCommands, contextSteps⟩
end Sys2Proof.Machine
end

section
/-!
Bit fields that are put and taken, bytes of a number, and the fields of a token that is made anew (R1, R22).
-/
namespace Sys2Proof.Machine
open Sys2Proof Sys2Proof.Machine Sys2Proof.Cert

/-! ### Fields of a word (R1) -/

/-- The bits of a number placed in a word. -/
theorem getLsbD_put (lo n v i : Nat) :
    (put lo n v).getLsbD i = (decide (i < 64) && (decide (lo ≤ i) && (decide (i - lo < n) && v.testBit (i - lo)))) := by
  rw [put, BitVec.getLsbD_ofNat, Nat.testBit_mul_two_pow, Nat.testBit_mod_two_pow]

/-- The bits of a mask of the low `n` bits. -/
theorem getLsbD_lowMask (n i : Nat) : (BitVec.ofNat 64 (2 ^ n - 1)).getLsbD i = (decide (i < 64) && decide (i < n)) := by
  rw [BitVec.getLsbD_ofNat, Nat.testBit_two_pow_sub_one]

/-- The virtual address of a word, as a word. -/
theorem put_addrVa (a : Word) : put 0 48 (addrVa a) = a &&& 0x0000FFFFFFFFFFFF#64 := by
  have mask : 0x0000FFFFFFFFFFFF#64 = BitVec.ofNat 64 (2 ^ 48 - 1) := by decide
  apply BitVec.eq_of_getLsbD_eq
  intro i hi
  rw [mask, getLsbD_put, addrVa, fld, BitVec.testBit_toNat, BitVec.getLsbD_extractLsb', BitVec.getLsbD_and, getLsbD_lowMask]
  simp [hi, Bool.and_comm]

/-- Bits [47:0] of a remote address are those of its virtual address; the rank and the path lie above them. -/
theorem extractLsb'_va_remote (rank va : Nat) :
    (put 60 4 3 ||| put 48 12 rank ||| put 0 48 va).extractLsb' 0 48 = BitVec.ofNat 48 va := by
  apply BitVec.eq_of_getLsbD_eq
  intro i hi
  simp only [BitVec.getLsbD_extractLsb', BitVec.getLsbD_or, getLsbD_put, BitVec.getLsbD_ofNat]
  simp [hi, show i < 64 by omega, show ¬ 60 ≤ i by omega, show ¬ 48 ≤ i by omega]

/-- Bits [59:48] of a remote address are the rank. -/
theorem extractLsb'_rank_remote (rank va : Nat) :
    (put 60 4 3 ||| put 48 12 rank ||| put 0 48 va).extractLsb' 48 12 = BitVec.ofNat 12 rank := by
  apply BitVec.eq_of_getLsbD_eq
  intro i hi
  simp only [BitVec.getLsbD_extractLsb', BitVec.getLsbD_or, getLsbD_put, BitVec.getLsbD_ofNat]
  simp [hi, show 48 + i < 64 by omega, show ¬ 60 ≤ 48 + i by omega]

/-- Of a field of 16 bits the low byte stays. -/
theorem put_and_ff {w : Nat} (x : BitVec w) (lo : Nat) : put 0 16 (fld x lo 16) &&& 0xFF = put 0 8 (x.extractLsb' lo 8).toNat := by
  have mask : (0xFF : Word) = BitVec.ofNat 64 (2 ^ 8 - 1) := by decide
  apply BitVec.eq_of_getLsbD_eq
  intro i hi
  rw [mask, BitVec.getLsbD_and, getLsbD_lowMask, getLsbD_put, getLsbD_put, fld, BitVec.testBit_toNat, BitVec.testBit_toNat,
    BitVec.getLsbD_extractLsb', BitVec.getLsbD_extractLsb']
  by_cases h : i < 8
  · simp [h, hi, show i < 16 by omega]
  · simp [h]

/-! ### Bytes of a number (R1) -/

theorem leBytes_succ (n v : Nat) : leBytes (n + 1) v = BitVec.ofNat 8 v :: leBytes n (v / 256) := by
  simp [leBytes, List.range_succ_eq_map, Function.comp_def, Nat.pow_succ', Nat.div_div_eq_div_mul]

@[simp] theorem length_leBytes (n v : Nat) : (leBytes n v).length = n := by simp [leBytes]

/-- The value of the bytes of a number. -/
theorem leNat_leBytes (n v : Nat) : leNat (leBytes n v) = v % 256 ^ n := by
  induction n generalizing v with
  | zero => simp [leBytes, leNat, Nat.mod_one]
  | succ n ih =>
    have e : leNat (leBytes (n + 1) v) = v % 256 + 256 * leNat (leBytes n (v / 256)) := by
      rw [leBytes_succ, leNat, List.foldr_cons, BitVec.toNat_ofNat]; rfl
    rw [e, ih, Nat.pow_succ', Nat.mod_mul]

theorem leNat_lt (bs : List Byte) : leNat bs < 256 ^ bs.length := by
  induction bs with
  | nil => exact Nat.one_pos
  | cons b r ih =>
    have hb := b.isLt
    have e : leNat (b :: r) = b.toNat + 256 * leNat r := rfl
    rw [e, List.length_cons, Nat.pow_succ']
    omega

/-- The value of at most 8 bytes fits a word. -/
theorem toNat_ofNat_leNat (bs : List Byte) (h : bs.length ≤ 8) : (BitVec.ofNat 64 (leNat bs)).toNat = leNat bs := by
  have hp : 256 ^ bs.length ≤ 256 ^ 8 := Nat.pow_le_pow_right (by decide) h
  exact Nat.mod_eq_of_lt (Nat.lt_of_lt_of_le (leNat_lt bs) hp)

/-! ### A token made of its fields (R22) -/

/-- A bit is a field of one bit. -/
theorem getLsbD_eq_fld {w : Nat} (x : BitVec w) (k : Nat) : x.getLsbD k = decide (fld x k 1 = 1) := by
  have h : fld x k 1 = (x.getLsbD k).toNat := by
    rw [fld, BitVec.extractLsb'_toNat, Nat.shiftRight_eq_div_pow, pow_one, BitVec.getLsbD, Nat.testBit_eq_decide_div_mod_eq]
    rcases Nat.mod_two_eq_zero_or_one (x.toNat / 2 ^ k) with e | e <;> simp [e]
  rw [h]; cases x.getLsbD k <;> rfl

/-- The fields as a token keeps them: each in the bits that R22 gives it. -/
def TokF.kept (f : TokF) : TokF :=
  { f with die := f.die % 4, unit := f.unit % 256, op := f.op % 256, port := f.port % 4, col := f.col % 4096, run := f.run % 32,
           frame := f.frame % 1024, ctx := f.ctx % 64 }

/-- A token reads back the fields that it was made of. -/
theorem tokFields_mk128 (f : TokF) : tokFields f.mk128 = f.kept := by
  have bit : ∀ b : Bool, decide ((BitVec.ofBool b).toNat = 1) = b := by decide
  simp only [tokFields, tokDie, tokUnit, tokOp, tokPort, tokCol, tokRun, tokFrame, tokE, tokN, tokS, tokD, tokQ, tokO, tokCtx, tokPay,
    getLsbD_eq_fld]
  simp (disch := omega) only [fld, TokF.mk128, BitVec.setWidth_eq, extract_append_high, extract_append_low, Nat.reduceSub, Nat.sub_self]
  simp only [BitVec.extractLsb'_eq_self, BitVec.toNat_ofNat, bit, Nat.reducePow, TokF.kept]

/-- The fields of a token fit their bits. -/
theorem TokF.kept_tokFields (t : Token) : (tokFields t).kept = tokFields t := by
  have keep : ∀ lo n, fld t lo n % 2 ^ n = fld t lo n := fun lo n => Nat.mod_eq_of_lt (BitVec.isLt _)
  unfold TokF.kept tokFields
  congr 1
  exacts [keep _ 2, keep _ 8, keep _ 8, keep _ 2, keep _ 12, keep _ 5, keep _ 10, keep _ 6]

/-- A token moved to a context. -/
theorem tokFields_withCtx (t : Token) (c : Nat) :
    tokFields { tokFields t with ctx := c }.mk128 = { tokFields t with ctx := c % 64 } :=
  (tokFields_mk128 _).trans (congrArg (fun f : TokF => { f with ctx := c % 64 }) (TokF.kept_tokFields t))

/-- A token sent to another engine or unit. -/
theorem tokFields_withDest (t : Token) (d u : Nat) :
    tokFields { tokFields t with die := d, unit := u }.mk128 = { tokFields t with die := d % 4, unit := u % 256 } :=
  (tokFields_mk128 _).trans (congrArg (fun f : TokF => { f with die := d % 4, unit := u % 256 }) (TokF.kept_tokFields t))

/-- A token with another payload. -/
theorem tokFields_withPay (t : Token) (v : Word) : tokFields (tokWithPay t v) = { tokFields t with pay := v } :=
  (tokFields_mk128 _).trans (congrArg (fun f : TokF => { f with pay := v }) (TokF.kept_tokFields t))

end Sys2Proof.Machine
end

section
/-!
What a write to memory reads back and leaves in flight, and bytes that go to their homes one by one (R223, R225).
-/
namespace Sys2Proof.Machine
open Sys2Proof Sys2Proof.Machine Sys2Proof.Cert

/-! ### A write at a list of homes -/

section
variable {s : State} {hs : List Nat} {bs : List Byte}

theorem State.rdByte_wrByte (s : State) (h a : Nat) (b : Byte) : (s.wrBytes h [b]).rdByte a = if a = h then b else s.rdByte a := by
  rw [rdByte_wrBytes]
  by_cases e : a = h
  · subst e; simp
  · rw [if_neg e, if_neg (by simp; omega)]

theorem State.wrHomes_cons (s : State) (h : Nat) (hs : List Nat) (b : Byte) (bs : List Byte) :
    s.wrHomes (h :: hs) (b :: bs) = (s.wrBytes h [b]).wrHomes hs bs := rfl

/-- A byte whose home is not among those written stays. -/
theorem State.rdByte_wrHomes_of_not_mem {h : Nat} (hn : h ∉ hs) : (s.wrHomes hs bs).rdByte h = s.rdByte h := by
  induction hs generalizing s bs with
  | nil => rfl
  | cons a r ih =>
    obtain ⟨ha, hr⟩ := List.ne_and_not_mem_of_not_mem_cons hn
    cases bs with
    | nil => rfl
    | cons b bs => rw [State.wrHomes_cons, ih hr, State.rdByte_wrByte, if_neg ha]

/-- Bytes written at different homes read back. -/
theorem State.rdHomes_wrHomes (nd : hs.Nodup) (len : hs.length = bs.length) : (s.wrHomes hs bs).rdHomes hs = bs := by
  induction hs generalizing s bs with
  | nil => exact (List.length_eq_zero_iff.mp len.symm).symm
  | cons a r ih =>
    obtain ⟨ha, nd⟩ := List.nodup_cons.mp nd
    cases bs with
    | nil => cases len
    | cons b bs =>
      rw [State.wrHomes_cons, State.rdHomes, List.map_cons, State.rdByte_wrHomes_of_not_mem ha, State.rdByte_wrByte, if_pos rfl]
      exact congrArg (b :: ·) (ih nd (Nat.succ.inj len))

theorem State.rdByte_storeHomes (s : State) (hs : List Nat) (bs : List Byte) (h : Nat) :
    (s.storeHomes hs bs).rdByte h = (s.wrHomes hs bs).rdByte h := by
  rw [State.rdByte, State.storeHomes, notify_mem]; rfl

theorem State.rdByte_storeHomes_of_not_mem {h : Nat} (hn : h ∉ hs) : (s.storeHomes hs bs).rdByte h = s.rdByte h :=
  (State.rdByte_storeHomes ..).trans (State.rdByte_wrHomes_of_not_mem hn)

theorem State.rdHomes_storeHomes (nd : hs.Nodup) (len : hs.length = bs.length) : (s.storeHomes hs bs).rdHomes hs = bs :=
  (List.map_congr_left fun h _ => State.rdByte_storeHomes s hs bs h).trans (State.rdHomes_wrHomes nd len)

end

/-! ### A write puts nothing in flight -/

/-- From `s` to `t` the messages in flight are the same. -/
def SamePend (s t : State) : Prop := t.pend = s.pend

namespace SamePend

theorem refl (s : State) : SamePend s s := rfl
theorem trans {s t u : State} (h : SamePend s t) (k : SamePend t u) : SamePend s u := Eq.trans k h

theorem setEngine (s : State) (e : Nat) (x : Engine) : SamePend s (s.setEngine e x) := rfl
theorem setDie (s : State) (d : Nat) (x : Die) : SamePend s (s.setDie d x) := rfl
theorem setPool (s : State) (d : Nat) (x : Pool) : SamePend s (s.setPool d x) := rfl
theorem wrBytes (s : State) (h : Nat) (bs : List Byte) : SamePend s (s.wrBytes h bs) := rfl

theorem foldl {α : Type} {f : State → α → State} (l : List α) (h : ∀ t a, SamePend t (f t a)) (s : State) : SamePend s (l.foldl f s) :=
  foldl_of_trans SamePend.refl SamePend.trans l (fun a _ t => h t a) s
theorem each {f : Nat → State → State} (l : List Nat) (h : ∀ n t, SamePend t (f n t)) (s : State) : SamePend s (s.each l f) :=
  foldl l (fun t n => h n t) s

theorem acquireAt (s : State) (c q : Nat) : SamePend s (s.acquireAt c q).2 := by
  unfold State.acquireAt
  split
  · exact refl s
  · split
    · exact refl s
    · dsimp only
      split <;> exact refl s

theorem acquireEach (l : List Active) (s : State) : SamePend s (s.acquireEach l).2 := by
  induction l generalizing s with
  | nil => exact refl s
  | cons a r ih => exact (acquireAt ..).trans (ih _)

theorem endWaits (s : State) (e : Nat) (p : Active → Bool) (k : List Nat) : SamePend s (s.endWaits e p k) := by
  unfold State.endWaits
  split
  · exact refl s
  · exact acquireEach _ s

theorem wakeWaiters (s : State) (k : Nat) (v : Word) : SamePend s (s.wakeWaiters k v) := by
  unfold State.wakeWaiters
  exact each _ (fun _ _ => setDie ..) s

theorem wakePasses (s : State) (k : Nat) (l : List Nat) (v : Word) : SamePend s (s.wakePasses k l v) :=
  (each _ (fun _ _ => endWaits ..) s).trans (wakeWaiters ..)

theorem wakePorts (s : State) (p : Word → Bool) (v : Word) : SamePend s (s.wakePorts p v) :=
  trans (each _ (fun _ _ => setEngine ..) s) (each _ (fun _ _ => setPool ..) _)

theorem notifyUnit (s : State) (d n h : Nat) (w : Watch) : SamePend s (s.notifyUnit d n h w) := by
  have woken : ∀ u k v p, SamePend s (((s.setUnits d u).wakePasses k (byteKeys (homes8 h)) v).wakePorts p v) := fun u k v p =>
    (wakePasses (s.setUnits d u) ..).trans (wakePorts ..)
  unfold State.notifyUnit
  dsimp only
  split <;> exact woken ..

theorem notify (s : State) (hs : List Nat) : SamePend s (s.notify hs) := by
  unfold State.notify
  refine foldl _ (fun t x => foldl _ (fun u y => ?_) t) s
  dsimp only
  split
  · split
    · split <;> [exact notifyUnit ..; exact refl u]
    · exact refl u
  · exact refl u

theorem storeHomes (s : State) (hs : List Nat) (bs : List Byte) : SamePend s (s.storeHomes hs bs) :=
  (foldl _ (fun _ _ => wrBytes ..) s).trans (notify ..)

end SamePend

/-! ### Messages put in flight one after another -/

/-- The messages of events that set out together, with the numbers from `n` on. -/
def msgsFrom (n : Nat) : List Instr → List Msg
  | [] => []
  | i :: r => ⟨n, [], i⟩ :: msgsFrom (n + 1) r

theorem map_ev_msgsFrom (n : Nat) (l : List Instr) : (msgsFrom n l).map (·.ev) = l := by
  induction l generalizing n with
  | nil => rfl
  | cons i r ih => exact congrArg (i :: ·) (ih _)

theorem map_id_msgsFrom (n : Nat) (l : List Instr) : (msgsFrom n l).map (·.id) = (List.range l.length).map (n + ·) := by
  induction l generalizing n with
  | nil => rfl
  | cons i r ih =>
    rw [msgsFrom, List.map_cons, ih, List.length_cons, List.range_succ_eq_map, List.map_cons, List.map_map]
    exact congrArg (n :: ·) (List.map_congr_left fun k _ => by simp; omega)

/-- The state after events have set out one after another. -/
theorem State.foldl_post (l : List Instr) (s : State) :
    l.foldl State.post s = { s with pend := s.pend ++ msgsFrom s.nextId l, nextId := s.nextId + l.length } := by
  induction l generalizing s with
  | nil => simp [msgsFrom]
  | cons i r ih =>
    rw [List.foldl_cons, ih]
    simp [State.post, State.postDep, msgsFrom, Nat.add_assoc, Nat.add_comm 1]

/-! ### Bytes one by one (R223) -/

theorem eraseDups_of_nodup {l : List Nat} (h : l.Nodup) : l.eraseDups = l := by
  induction l with
  | nil => rfl
  | cons a r ih =>
    obtain ⟨ha, hr⟩ := List.nodup_cons.mp h
    have keep : (r.filter fun b => !b == a) = r := List.filter_eq_self.mpr fun b hb => by
      simpa using fun e : b = a => ha (e ▸ hb)
    rw [List.eraseDups_cons, keep, ih hr]

/-- Of pairs whose first parts differ, one alone has the first part of a given one. -/
theorem filter_fst_beq {l : List (Nat × Byte)} (nd : (l.map Prod.fst).Nodup) {x : Nat × Byte} (hx : x ∈ l) :
    l.filter (fun y => y.1 == x.1) = [x] := by
  induction l with
  | nil => cases hx
  | cons a r ih =>
    obtain ⟨ha, nd⟩ := List.nodup_cons.mp nd
    rcases List.mem_cons.mp hx with rfl | hr
    · rw [List.filter_cons_of_pos (by simp)]
      refine congrArg (x :: ·) (List.filter_eq_nil_iff.mpr fun y hy e => ha ?_)
      exact (beq_iff_eq.mp e) ▸ List.mem_map_of_mem hy
    · rw [List.filter_cons_of_neg, ih nd hr]
      exact fun e => ha ((beq_iff_eq.mp e) ▸ List.mem_map_of_mem hr)

/-- The store of one byte at its home. -/
def byteStore (who : Origin) (x : Nat × Byte) : Instr := .accessAtHome ⟨[x.1], .store [x.2], 0, who, none⟩

/-- Bytes at different homes that go by themselves are one store each, in order. -/
theorem State.postPieces_one {s : State} {hs : List Nat} {bs : List Byte} {who : Origin} (nd : hs.Nodup) (len : hs.length = bs.length) :
    s.postPieces [] 1 hs bs who = ((hs.zip bs).map (byteStore who)).foldl State.post s := by
  have fst : (hs.zip bs).map Prod.fst = hs := List.map_fst_zip len.le
  have keys : (hs.map (· / 1)).eraseDups = (hs.zip bs).map Prod.fst := by
    rw [fst, List.map_congr_left fun h _ => Nat.div_one h, List.map_id', eraseDups_of_nodup nd]
  rw [State.postPieces, keys, List.foldl_map, List.foldl_map]
  refine List.foldl_ext _ _ s fun t x hx => ?_
  have mine : ((hs.zip bs).filter fun y => y.1 / 1 == x.1) = [x] := by
    simpa only [Nat.div_one] using filter_fst_beq (fst.symm ▸ nd) hx
  rw [mine]; rfl

/-- What the bytes of a store leave: their stores in flight. -/
theorem State.postPieces_one_eq {s : State} {hs : List Nat} {bs : List Byte} {who : Origin} (nd : hs.Nodup) (len : hs.length = bs.length) :
    let l := (hs.zip bs).map (byteStore who)
    s.postPieces [] 1 hs bs who = { s with pend := s.pend ++ msgsFrom s.nextId l, nextId := s.nextId + l.length } :=
  (State.postPieces_one nd len).trans (State.foldl_post ..)

end Sys2Proof.Machine
end

section
/-!
Tokens and remote operations between packages: how they leave and arrive (R403), what they do at the peer (R404), and how the answer ends
them at their maker (R253, R254).
-/
namespace Sys2Proof.Machine
open Sys2Proof Sys2Proof.Machine Sys2Proof.Cert

/-! ### Tokens (R403) -/

section
variable {s : State} {die unit : Nat} {tok : Token} {ref : Word} {who : Origin}

theorem exec_tokenAtLinkPort_torn {remote : Option Word} (h : (s.ctx who.ctx).isTorn = true) :
    exec (.tokenAtLinkPort die unit tok remote who) s = .next s := if_pos h

/-- The rank that a link word names in a group. -/
def linkRank (g : Pgt) (ref : Word) : Nat := if refRmt ref / 2 % 2 = 1 then (g.own + refCimm ref) % g.n else refCimm ref

/-- The token as it reaches the engine or the pool of the peer that a link word names. -/
def peerToken (tok : Token) (ref : Word) : Token :=
  { tokFields tok with die := refRmt ref / 512, unit := if refRmt ref / 4 % 128 = 127 then 248 else refRmt ref / 4 % 128 }.mk128

/-- The packet that takes a token to the peer that a link word names. -/
def State.tokenPacketTo (s : State) (g : Pgt) (tok : Token) (ref : Word) : Packet :=
  { kind := 0x01, die := BitVec.ofNat 8 (refRmt ref / 512), dnode := s.rankNode g (linkRank g ref), snode := s.net.nodeid, age := 0,
    gkey := g.gkey, srank := BitVec.ofNat 16 g.own, drank := BitVec.ofNat 16 (linkRank g ref), gen := 0, tag := 0, len := 0,
    addr := 0, xdata := (peerToken tok ref).setWidth 192, payload := [] }

theorem exec_tokenAtLinkPort {t : Nat} (h : (s.ctx who.ctx).isTorn = false) (ht : s.launchTable who.ctx (who.inst.getD 256) = some t) :
    exec (.tokenAtLinkPort die unit tok (some ref) who) s =
      if (s.pgt who.ctx t).n ≤ linkRank (s.pgt who.ctx t) ref then .next (s.report die cBadpath who 0 0 (some tok))
      else .next (s.relayed ((s.touch die who.ctx).forward die 16 (s.tokenPacketTo (s.pgt who.ctx t) tok ref) (some who))) := by
  simp only [exec, execTokenAtLinkPort, h, ht, Bool.false_eq_true, if_false]
  rfl

theorem tokFields_peerToken (tok : Token) (ref : Word) : tokFields (peerToken tok ref) =
    { tokFields tok with die := refRmt ref / 512 % 4, unit := if refRmt ref / 4 % 128 = 127 then 248 else refRmt ref / 4 % 128 } := by
  have small : (if refRmt ref / 4 % 128 = 127 then 248 else refRmt ref / 4 % 128) % 256 =
      if refRmt ref / 4 % 128 = 127 then 248 else refRmt ref / 4 % 128 := by split <;> omega
  rw [peerToken, tokFields_withDest, small]

theorem xdata_tokenPacketTo (s : State) (g : Pgt) (tok : Token) (ref : Word) :
    (s.tokenPacketTo g tok ref).xdata.setWidth 128 = peerToken tok ref :=
  BitVec.setWidth_setWidth_of_le _ (by decide)

end

/-- The token of a packet, in the receiving context. -/
def arrivedToken (p : Packet) (c : Nat) : Token := { tokFields (p.xdata.setWidth 128) with ctx := c }.mk128

theorem tokFields_arrivedToken (p : Packet) (c : Nat) :
    tokFields (arrivedToken p c) = { tokFields (p.xdata.setWidth 128) with ctx := c % 64 } := tokFields_withCtx ..

section
variable {s : State} {d i c : Nat} {p : Packet}

/-- An engine's unit and the pool's stand for neither a link port nor the command processor. -/
theorem State.sendToken_arrival {s : State} {deps : List Nat} {t : Token} {remote : Option Word} {who : Origin}
    (h : tokUnit t ≤ 71 ∨ tokUnit t = 248) :
    s.sendToken deps t remote who = s.postDep deps (.tokenArrival (tokDie t) (tokUnit t) t ⟨false, who.src⟩) := by
  rw [State.sendToken, if_neg (by omega), if_neg (by omega)]

theorem exec_tokenPacket_unit (h : tokUnit (arrivedToken p c) ≤ 71 ∨ tokUnit (arrivedToken p c) = 248) :
    exec (.tokenPacket d i c p) s = .next (s.relayed (s.post
      (.tokenArrival (tokDie (arrivedToken p c)) (tokUnit (arrivedToken p c)) (arrivedToken p c) ⟨false, 256 * d + (224 + i % 4)⟩))) := by
  have ok : unitOk (tokUnit (arrivedToken p c)) = true := by
    rcases h with h | h
    · simp [unitOk, h]
    · rw [h]; rfl
  show Host.Outcome.next (s.relayed (s.sendChecked d (224 + i % 4) (arrivedToken p c) none ⟨c, none, d, 224 + i % 4, 0, 0⟩)) = _
  rw [State.sendChecked, if_pos ok, State.sendToken_arrival h]
  rfl

theorem exec_tokenPacket_reserved (h : unitOk (tokUnit (arrivedToken p c)) = false) :
    exec (.tokenPacket d i c p) s = .next (s.relayed (s.frameReport d (256 * d + (224 + i % 4)) (arrivedToken p c))) := by
  show Host.Outcome.next (s.relayed (s.sendChecked d (224 + i % 4) (arrivedToken p c) none ⟨c, none, d, 224 + i % 4, 0, 0⟩)) = _
  rw [State.sendChecked, if_neg (by simp [h])]

/-! ### Remote operations at a peer (R253–R255, R404) -/

/-- From `t` to `u` one message has been added: the answer of a kind to a packet, for its address. -/
def Answered (t u : State) (d : Nat) (p : Packet) (kind : BitVec 8) (x : BitVec 192) (va : Word) : Prop :=
  ∃ k : Packet, u.pend.map (·.ev) = t.pend.map (·.ev) ++ [.packetForward d 16 k] ∧ k.kind = kind ∧ k.dnode = p.snode ∧
    k.tag = p.tag ∧ k.addr = va ∧ k.xdata = x

theorem State.answer_answered {t u : State} (h : SamePend t u) (d : Nat) (p : Packet) (kind : BitVec 8) (x : BitVec 192) (va : Word) :
    Answered t (u.answer d p kind x va) d p kind x va := by
  refine ⟨{ p with kind := kind, dnode := p.snode, snode := u.net.nodeid, age := 0, srank := p.drank, drank := p.srank, len := 0,
                   addr := va, xdata := x, payload := [] }, ?_, rfl, rfl, rfl, rfl, rfl⟩
  rw [State.answer, State.sendPacket, State.postDep, List.map_append, show u.pend = t.pend from h]
  rfl

theorem State.answer_mem (s : State) (d : Nat) (p : Packet) (kind : BitVec 8) (x : BitVec 192) (va : Word) :
    (s.answer d p kind x va).mem = s.mem := rfl

/-- How the bytes of a remote operation are reached: by the die of the link, in the receiving context. -/
def remoteVia (d c : Nat) (k : AccKind) : Via := { by_ := .link d, ctx := some c, kind := k }
/-- Who a remote operation is at the peer: the link port by which it came. -/
def remoteWho (d i c : Nat) : Origin := ⟨c, none, d, 224 + i % 4, 0, 0⟩
/-- The virtual address of a packet. -/
def Packet.va (p : Packet) : Word := p.addr &&& 0x0000FFFFFFFFFFFF#64

theorem exec_remoteOpArrival_empty (hk : p.kind = 0x10 ∨ p.kind = 0x11) (he : p.payload = []) (hl : p.len ≠ 0) :
    exec (.remoteOpArrival d i c p) s = .next (s.answer d p 0x18 0 p.va) := by
  simp only [exec, execRemoteOpArrival, put_addrVa]
  exact if_pos ⟨hk, he, hl⟩

theorem exec_remoteOpArrival_add (hk : p.kind = 0x12) {hs : List Nat} {t : State}
    (hr : s.resolve (remoteVia d c .atomic) [0x0] p.va 8 true = (.ok hs, t)) (he : t.eccHomes hs = false) :
    exec (.remoteOpArrival d i c p) s =
      .next ((t.storeHomes hs (leBytes 8 (leNat (t.rdHomes hs) + leNat (p.payload.take 8)))).answer d p 0x18
        (BitVec.ofNat 192 (leNat (t.rdHomes hs))) p.va) := by
  have data := toNat_ofNat_leNat (p.payload.take 8) (List.length_take_le ..)
  unfold remoteVia Packet.va at hr
  simp [exec, execRemoteOpArrival, put_addrVa, hk, hr, he, data, Packet.va]

theorem exec_remoteOpArrival_error (hk : p.kind = 0x12) {f : Failure} {t : State}
    (hr : s.resolve (remoteVia d c .atomic) [0x0] p.va 8 true = (.error f, t)) :
    exec (.remoteOpArrival d i c p) s =
      .next ((t.report d f.cause ⟨64, none, d, 224 + i % 4, 0, 0⟩ f.addr
        (if f.cause = cXlate ∨ f.cause = cPerm then remoteDetail f.detail else f.detail) none).answer d p 0x19
          (BitVec.ofNat 192 (f.cause + f.detail.toNat % 65536 * 256)) p.va) := by
  unfold remoteVia Packet.va at hr
  simp [exec, execRemoteOpArrival, put_addrVa, hk, hr, Packet.va]

/-- A store that acts in several pieces: a scalar access that is not aligned, or a run that lies in several chunks (R223). -/
abbrev Packet.InPieces (p : Packet) : Prop :=
  (p.kind = 0x10 ∧ p.va.toNat % p.payload.length ≠ 0) ∨ (p.kind = 0x11 ∧ 64 < p.va.toNat % 64 + p.payload.length)

theorem Packet.not_inPieces
    (h : p.kind = 0x11 ∧ p.va.toNat % 64 + p.payload.length ≤ 64 ∨ p.kind = 0x10 ∧ p.va.toNat % p.payload.length = 0) :
    ¬ p.InPieces := by
  rcases h with ⟨k, f⟩ | ⟨k, f⟩
  · simp [Packet.InPieces, k, f]
  · simp [Packet.InPieces, k, f]

theorem exec_remoteOpArrival_store (hk : p.kind = 0x10 ∨ p.kind = 0x11) (hp : p.payload ≠ []) {hs : List Nat} {t : State}
    (hr : s.resolve (remoteVia d c .store) [0x0] p.va p.payload.length false = (.ok hs, t)) :
    exec (.remoteOpArrival d i c p) s =
      if p.InPieces then .next (t.remoteBytes d i c p (remoteWho d i c) hs)
      else .next ((t.storeHomes hs p.payload).answer d p 0x18 0 p.va) := by
  unfold remoteVia Packet.va at hr
  have other : p.kind ≠ 0x12 ∧ p.kind ≠ 0x13 := by rcases hk with h | h <;> rw [h] <;> decide
  simp only [exec, execRemoteOpArrival, put_addrVa, hp, other, or_false, false_and, and_false, if_false, decide_false, hr,
    List.take_length]
  exact if_congr .rfl rfl rfl

/-- The bytes of a scalar store that is not aligned set out one by one, and the packet comes up again, empty, behind them. -/
theorem State.remoteBytes_scalar (t : State) {who : Origin} {hs : List Nat} (hk : p.kind = 0x10) (nd : hs.Nodup)
    (len : hs.length = p.payload.length) :
    ∃ l m, (t.remoteBytes d i c p who hs).mem = t.mem ∧ (t.remoteBytes d i c p who hs).pend = t.pend ++ l ++ [m] ∧
      l.map (·.ev) = (hs.zip p.payload).map (byteStore who) ∧
      m.ev = .remoteOpArrival d i c { p with payload := [] } ∧ m.deps = l.map (·.id) := by
  have g : (if p.kind = 0x11 then 64 else 1) = 1 := if_neg (by rw [hk]; decide)
  unfold State.remoteBytes
  dsimp only
  rw [g, State.postPieces_one_eq nd len]
  refine ⟨_, _, rfl, rfl, map_ev_msgsFrom .., rfl, ?_⟩
  rw [map_id_msgsFrom]
  simp [State.idsSince]

end

/-! ### The answer at the maker (R253, R254) -/

section
variable {s : State} {c : Nat} {p : Packet}

/-- The state in which an operation waits no more. -/
def State.ended (s : State) (r : RemoteOp) : State :=
  { s with net := { s.net with remotes := s.net.remotes.filter fun x => x.id != r.id } }

theorem exec_rack {r : RemoteOp} (h : s.answered p = some r) :
    exec (.rack c p) s = .next ((s.ended r).sendReply r.reply (p.xdata.setWidth 64)) := by
  simp only [exec, execRack, h]; rfl

/-- The result token of an operation for an engine sets out with its value. -/
theorem State.sendReply_arrival {q : Reply} (v : Word) (h : tokUnit q.tok ≤ 71) :
    s.sendReply (some q) v = s.postDep (s.joinDeps q.who q.tok)
      (.tokenArrival (tokDie q.tok) (tokUnit q.tok) (tokWithPay q.tok v) ⟨false, 256 * q.who.die + q.who.unit⟩) := by
  have e := tokFields_withPay q.tok v
  have unit : tokUnit (tokWithPay q.tok v) = tokUnit q.tok := congrArg TokF.unit e
  have die : tokDie (tokWithPay q.tok v) = tokDie q.tok := congrArg TokF.die e
  show s.sendToken _ _ _ _ = _
  rw [State.sendToken_arrival (.inl (unit.le.trans h)), unit, die]
  rfl

theorem State.sendReply_kept (s : State) (r : Option Reply) (v : Word) :
    (s.sendReply r v).mem = s.mem ∧ (s.sendReply r v).net = s.net := by
  cases r <;> exact ⟨rfl, rfl⟩

/-- ADDR of the record of an operation that failed at a peer: on path 3, with the rank. -/
def Packet.failedAt (p : Packet) : Word := put 60 4 3 ||| put 48 12 p.srank.toNat ||| put 0 48 (addrVa p.addr)

theorem exec_rfail {r : RemoteOp} (h : s.answered p = some r) :
    let cause := (p.xdata.extractLsb' 0 8).toNat
    exec (.rfail c p) s = .next ((s.failRemote r).report r.who.die cause r.who p.failedAt
      (if cause = cXlate ∨ cause = cPerm then
        put 0 8 (p.xdata.extractLsb' 8 8).toNat ||| put 12 4 6 ||| put 16 1 r.plane.toNat ||| put 48 8 (s.remoteStrm r) |||
          put 40 8 r.who.unit else 0) none) := by
  have bit : b2n r.plane = r.plane.toNat := by cases r.plane <;> rfl
  simp only [exec, execRfail, h, put_and_ff, bit]; rfl

theorem State.faultInst_net (s : State) (c i : Nat) : (s.faultInst c i).net = s.net := by
  unfold State.faultInst
  split
  · rfl
  · dsimp only
    split <;> rfl

theorem State.report_net (s : State) (d cause : Nat) (who : Origin) (ad det : Word) (tok : Option Token) :
    (s.report d cause who ad det tok).net = s.net := by
  unfold State.report State.raise
  dsimp only
  split
  · split <;> [exact State.faultInst_net ..; rfl]
  · rfl

theorem exec_answer_unknown (h : s.answered p = none) : exec (.rack c p) s = .next s ∧ exec (.rfail c p) s = .next s := by
  constructor
  · simp only [exec, execRack, h]
  · simp only [exec, execRfail, h]

end

/-! ### The statement -/

/-- Settles O53: tokens by the rank and the unit that they name, remote operations by kind and by what their checks answer, and their
answers by the operation that waits for them. -/
theorem remoteTraffic : Obligations.RemoteTraffic := by
  refine ⟨fun s die unit tok ref who t => ⟨exec_tokenAtLinkPort_torn, fun h ht => ⟨fun hn => ?_, fun hn => ?_⟩⟩,
    fun s d i c p => ⟨arrivedToken p c, exec_tokenPacket_unit, exec_tokenPacket_reserved, ?_⟩,
    fun s d i c p => ⟨fun hk hs t hr he nd len => ?_, fun hp hk hs t hr nd len => ?_, fun hk hp ha hs t hr nd len => ?_,
      fun hk hp hc hs t hr => ?_, fun hk hp hl => ?_, fun hk f t hr => ?_⟩,
    fun s c p r h => ⟨?_, ?_⟩, fun s c p h => exec_answer_unknown h⟩
  · have e := tokFields_peerToken tok ref
    refine ⟨_, (exec_tokenAtLinkPort h ht).trans (if_neg (Nat.not_le.mpr hn)), rfl, rfl, rfl, rfl, rfl, rfl, rfl, ?_⟩
    dsimp only
    rw [xdata_tokenPacketTo]
    exact ⟨congrArg TokF.die e, congrArg TokF.unit e, congrArg TokF.pay e, congrArg TokF.col e, congrArg TokF.op e, congrArg TokF.port e,
      congrArg TokF.frame e⟩
  · exact (exec_tokenAtLinkPort h ht).trans (if_pos hn)
  · have e := tokFields_arrivedToken p c
    exact ⟨congrArg TokF.ctx e, congrArg TokF.die e, congrArg TokF.unit e, congrArg TokF.op e, congrArg TokF.port e, congrArg TokF.col e,
      congrArg TokF.run e, congrArg TokF.frame e, congrArg TokF.pay e, congrArg TokF.e e, congrArg TokF.n e⟩
  · refine ⟨_, exec_remoteOpArrival_add hk hr he, State.answer_answered (.storeHomes ..) .., ?_,
      fun a ha => State.rdByte_storeHomes_of_not_mem ha⟩
    exact (congrArg leNat (State.rdHomes_storeHomes nd (len.trans (length_leBytes ..).symm))).trans (leNat_leBytes ..)
  · have store : p.kind = 0x10 ∨ p.kind = 0x11 := hk.symm.imp And.left And.left
    exact ⟨_, (exec_remoteOpArrival_store store hp hr).trans (if_neg (Packet.not_inPieces hk)), State.answer_answered (.storeHomes ..) ..,
      State.rdHomes_storeHomes nd len, fun a ha => State.rdByte_storeHomes_of_not_mem ha⟩
  · obtain ⟨l, m, mem, pend, evs, ev, deps⟩ := State.remoteBytes_scalar (d := d) (i := i) (c := c) (who := remoteWho d i c) t hk nd len
    exact ⟨_, l, m, (exec_remoteOpArrival_store (.inl hk) hp hr).trans (if_pos (.inl ⟨hk, ha⟩)), mem, pend, evs, ev, deps⟩
  · have run : (if p.kind = 0x11 then 64 else 1) = 64 := if_pos hk
    refine (exec_remoteOpArrival_store (.inr hk) hp hr).trans ((if_pos (.inr ⟨hk, hc⟩)).trans ?_)
    rw [State.remoteBytes, run]; rfl
  · exact ⟨_, exec_remoteOpArrival_empty hk hp hl, rfl, State.answer_answered (.refl s) ..⟩
  · exact ⟨_, exec_remoteOpArrival_error hk hr, (State.answer_mem ..).trans (Aside.report ..).mem, State.answer_answered (.refl _) ..⟩
  · obtain ⟨mem, net⟩ := (s.ended r).sendReply_kept r.reply (p.xdata.setWidth 64)
    refine ⟨_, exec_rack h, congrArg Net.remotes net, mem, fun hn => ?_, fun q hq hu => ⟨tokWithPay q.tok (p.xdata.setWidth 64), ?_, ?_⟩⟩
    · rw [hn]; rfl
    · exact congrArg TokF.pay (tokFields_withPay ..)
    · rw [hq, State.sendReply_arrival _ hu, State.postDep, List.map_append]; rfl
  · refine ⟨_, p.failedAt, exec_rfail h, congrArg Net.remotes (State.report_net ..), (Aside.report ..).mem, rfl, ?_, ?_⟩
    · rw [Packet.failedAt, extractLsb'_va_remote, addrVa, fld, BitVec.ofNat_toNat, BitVec.setWidth_eq]
    · rw [Packet.failedAt, extractLsb'_rank_remote, BitVec.toNat_ofNat]
end Sys2Proof.Machine
end

section
/-!
A pass alone or a core alone that changes (R50, R51, R98, R257), and the events that a step runs (R233, R456).
-/
namespace Sys2Proof.Machine
open Sys2Proof Sys2Proof.Machine Sys2Proof.Cert

/-! ### The frames of a pass and of a core -/

/-- The other issue slot keeps its firing. -/
theorem State.active_setPass_other (s : State) (e : Nat) {sl : Nat} (a : Active) (p : Pass) (h : sl ≤ 1) :
    (s.setPass e sl a p).active e (1 - sl) = s.active e (1 - sl) := by
  have two : sl = 0 ∨ sl = 1 := by omega
  obtain rfl | rfl := two <;> simp [State.setPass, State.setActive, State.active, Engine.slot, Engine.setSlot]

/-- A pass stands in its slot: every other part of the engine reads as before. -/
theorem State.engine_setPass (s : State) (e sl : Nat) (a : Active) (p : Pass) :
    (s.setPass e sl a p).engine e = (s.engine e).setSlot sl { (s.engine e).slot sl with act := some { a with pass := p } } := by
  simp [State.setPass, State.setActive]

/-- A part of an engine that is in no issue slot is not touched by replacing one. -/
theorem Engine.setSlot_rest {α : Type} (g : Engine → α) (h : ∀ x m v, g { x with mat := m, vec := v } = g x) (x : Engine) (sl : Nat)
    (y : IssueSlot) : g (x.setSlot sl y) = g x := by
  unfold Engine.setSlot
  split
  · exact h x y x.vec
  · exact h x x.mat y

theorem passFrame : PassFrame := fun s e sl a p => by
  have rest {α : Type} (g : Engine → α) (h : ∀ x m v, g { x with mat := m, vec := v } = g x) :
      g ((s.setPass e sl a p).engine e) = g (s.engine e) := by
    rw [State.engine_setPass]; exact Engine.setSlot_rest g h ..
  exact ⟨State.active_setPass .., rfl, rfl, rfl, rfl, rfl, rfl, rfl, rfl, rfl, rfl, rfl, rfl, rfl, rfl, fun _ => rfl,
    fun e' h => State.engine_setEngine_ne _ _ _ _ h.symm, State.active_setPass_other s e a p,
    rest (·.t) fun _ _ _ => rfl, rest (·.q) fun _ _ _ => rfl, rest (·.lanes) fun _ _ _ => rfl, rest (·.rods) fun _ _ _ => rfl,
    rest (·.streams) fun _ _ _ => rfl, rest (·.susp) fun _ _ _ => rfl, rest (·.requeue) fun _ _ _ => rfl⟩

theorem coreFrame : CoreFrame := fun s d c => by
  have rest {α : Type} (g : Die → α) (h : g { s.die d with core := c } = g (s.die d)) : g ((s.setCore d c).die d) = g (s.die d) :=
    (congrArg g (State.die_setDie ..)).trans h
  exact ⟨State.core_setCore .., rfl, rfl, rfl, rfl, rfl, rfl, rfl, rfl, rfl, rfl, rfl, fun _ => rfl,
    fun d' h => State.die_setDie_ne _ _ _ _ h.symm, State.trapq_setCore .., rest (·.fids) rfl, State.units_setCore ..,
    rest (·.progs) rfl, rest (·.ports) rfl⟩

/-- Settles O8: a pass is replaced in its issue slot, a core in its die, and every other part of the state is another field. -/
theorem passAndCoreFrames : Obligations.PassAndCoreFrames := ⟨passFrame, coreFrame⟩

/-! ### The event that a step runs -/

/-- A move that is an event in the state `t` runs it there in its turn, and waits in `u` where it comes late. -/
theorem runsInTurn_of_moveEvent {s t u : State} {m : Move} {i : Instr} (hm : s.nextMove = (m, u)) (he : u.moveEvent m = .run i t) :
    RunsInTurn s t u i := by
  have sel : s.select = if t.late i then .stay u else .run i ((t.afresh i).noted i) := by
    simp only [State.select, hm, State.selectMove, he, State.inTurn]
  constructor <;> intro late <;> simp only [step, sel, late] <;> rfl

/-- A message whose dependences are done arrives, and is in flight no more. -/
theorem State.moveEvent_deliver {t : State} {n : Nat} {m : Msg} (live : t.isFrozen = false) (hn : t.pend[n]? = some m)
    (joined : t.joining m.id = false) (deps : { t with pend := t.pend.eraseIdx n, arr := m.id }.depsDone m.deps = true)
    (free : { t with pend := t.pend.eraseIdx n, arr := m.id }.readsFree m.ev = true) :
    t.moveEvent (.deliver n) = .run m.ev { t with pend := t.pend.eraseIdx n, arr := m.id } := by
  simp [State.moveEvent, hn, live, joined, deps, free]

/-- An event that may come about by itself comes about where no posted write of the host is before it (R233). -/
theorem State.moveEvent_occur {t : State} {i : Instr} (live : t.isFrozen = false) (may : instrOccurs i = true)
    (host : hostEvent i = false ∨ t.hostBusy = false) : t.moveEvent (.occur i) = t.occurs i := by
  obtain h | h := host <;> simp [State.moveEvent, live, may, h]

/-- Settles O5: a move that is an event runs it in its turn, be it a message that may arrive, an event of the state itself or a recorded
write of the host. -/
theorem stepRunsEvents : Obligations.StepRunsEvents := by
  refine ⟨fun s t n m hm live hn => ?_, fun s t i hm live may host => ⟨fun inside => ?_, fun o v u write dec => ?_⟩⟩
  · exact fun joined deps free => runsInTurn_of_moveEvent hm (State.moveEvent_deliver live hn joined deps free)
  · refine runsInTurn_of_moveEvent hm ((State.moveEvent_occur live may host).trans ?_)
    rw [State.occurs, inside]
  · refine runsInTurn_of_moveEvent hm ((State.moveEvent_occur live may host).trans ?_)
    simp only [State.occurs, write, dec]

end Sys2Proof.Machine
end

section
/-!
Loads, stores and orders of a pass (R223–R226, R238, R247, R248).
-/
namespace Sys2Proof.Machine
open Sys2Proof Sys2Proof.Machine Sys2Proof.Cert

/-! ### Homes of an access -/

/-- An access that passes its checks has a home for each of its bytes. -/
theorem State.length_byteHomes {s t : State} {v : Via} {ad : Word} {n : Nat} {hs : List Nat} (h : s.byteHomes v ad n = (.ok hs, t)) :
    hs.length = n := by
  induction n generalizing s t ad hs with
  | zero => cases h; rfl
  | succ n ih =>
    unfold State.byteHomes at h
    split at h
    · cases h
    · split at h
      · cases h
      · next rest => cases h; exact congrArg (· + 1) (ih rest)

theorem State.length_resolve {s t : State} {v : Via} {paths : List Nat} {ad : Word} {n : Nat} {al : Bool} {hs : List Nat}
    (h : s.resolve v paths ad n al = (.ok hs, t)) : hs.length = n := by
  unfold State.resolve at h
  dsimp only at h
  split at h
  · cases h
  · split at h
    · cases h
    · split at h
      · cases h
      · exact State.length_byteHomes h

/-! ### Words of a pass that reach memory -/

/-- A word of a pass that answers a pass and a state publishes both, and one that fails aborts the pass there. -/
theorem memWord_pass {i : Instr} {s : State} {e sl : Nat} {a : Active} (h : InPass s e sl a)
    (k : Nat → Active → Except Failure Pass × State) : memWord i s k = .next (match k e a with
      | (.ok p, t) => t.setPass e sl a p
      | (.error f, t) => t.passFault e sl f) :=
  onPass_pass i s e sl a _ h.1 h.2

section
variable {s t : State} {e : Nat} {a : Active} {v : Via} {paths : List Nat} {ad : Word} {n l acq : Nat} {hs : List Nat}

/-- The bytes that a load finds at its homes: kept ones on the constant path, those of now for an acquire, else those read ahead too. -/
def State.loadLive (t : State) (e : Nat) (a : Active) (ad : Word) (n acq : Nat) (hs : List Nat) : List Byte :=
  if addrPath ad = 1 then t.rdConst e a.pass.acq hs
  else if acq = 0 then earlyBytes a.pass.pre (decide (ad.toNat % n = 0)) hs (t.rdHomes hs) else t.rdHomes hs

/-- The bytes that a load returns: those that it finds, under the stores of its own pass (R226). -/
def State.loadGives (t : State) (e : Nat) (a : Active) (ad : Word) (n l acq : Nat) (hs : List Nat) : List Byte :=
  (hs.zip (t.loadLive e a ad n acq hs)).map fun x => a.pass.loadByte l x.1 x.2

theorem State.passRead_ok (r : s.resolve v paths ad n false = (.ok hs, t)) (good : t.eccHomes hs = false) :
    s.passRead e a v paths ad n l acq = (.ok (hs, leNat (t.loadGives e a ad n l acq hs)), t) := by
  simp only [State.passRead, r, good]
  rfl

theorem State.passRead_ecc (r : s.resolve v paths ad n false = (.ok hs, t)) (bad : t.eccHomes hs = true) :
    s.passRead e a v paths ad n l acq = (.error ⟨cEcc, ad, Config.eccPlace (hs.headD 0)⟩, t) := by
  simp only [State.passRead, r, bad, if_true]

theorem State.passRead_error {g : Failure} (r : s.resolve v paths ad n false = (.error g, t)) :
    s.passRead e a v paths ad n l acq = (.error g, t) := by
  simp only [State.passRead, r]

/-- What a load leaves: its pass behind what comes before it, and the moment of its acquire (R226, R230). -/
theorem State.loaded_eq (u : State) (e : Nat) (a : Active) (acq : Nat) (homes : List Nat) (q : Pass) :
    u.loaded e a acq homes q = (afterAcquire u e a acq (byteKeys homes) { q with pre := forget q.pre homes },
      acquiredState u a.fr.ctx acq) := by
  simp only [State.loaded, State.acquired, State.acquireAt, acquiredState, afterAcquire]
  by_cases none : acq = 0
  · subst none; rfl
  · by_cases narrow : acq < 4 <;> simp [Pass.acquire, none, narrow]

end

/-! ### LDG and LDS (R247) -/

/-- What a load leaves once its bytes are read: pass `q`, behind what comes before the bytes at `homes`. -/
def State.loadDone (u : State) (e sl : Nat) (a : Active) (acq : Nat) (homes : List Nat) (q : Pass) : State :=
  (acquiredState u a.fr.ctx acq).setPass e sl a (afterAcquire u e a acq (byteKeys homes) { q with pre := forget q.pre homes })

/-- The value of a load (R237). -/
def loadValue (f : FmtM) (bs : List Byte) : Word :=
  if f.size.toNat < 4 then BitVec.ofNat 64 (leNat bs) else (BitVec.ofNat (8 * accessBytes f) (leNat bs)).signExtend 64

/-- The acquire that a word asks for. -/
def wordAcq (s : State) (a : Active) (f : FmtM) : Nat := acqCode f.ord.toNat (actScope s a f)

/-- The pass of a word that starts in `s`, with the value of the bytes that it finds at its homes in `t` written to DV. -/
def loadedPass (s t : State) (e : Nat) (a : Active) (f : FmtM) (hs : List Nat) : Pass :=
  (a.pass.useLsid f.lsid.toNat).wrP f.dv
    (loadValue f (t.loadGives e a (wordAddr s a f) (accessBytes f) f.lsid.toNat (wordAcq s a f) hs))

section
variable {i : Instr} {f : FmtM} {s t u : State} {e sl : Nat} {a : Active} {paths hs : List Nat} (h : InPass s e sl a)
include h

theorem loadWord_error {g : Failure}
    (r : s.passRead e a (madeBy e a .load) paths (wordAddr s a f) (accessBytes f) f.lsid.toNat (wordAcq s a f) = (.error g, t)) :
    loadWord i f paths s = .next (t.passFault e sl g) := by
  have read : s.passRead e a (a.via e .load) paths (a.pass.memAddr s.tick f) (sizeBytes f.size.toNat) f.lsid.toNat
      (acqScope f.ord.toNat (scopeOn (a.pass.memAddr s.tick f) f.scope.toNat)) = (.error g, t) := r
  simp only [loadWord, memWord_pass h, read]

variable (r : s.resolve (madeBy e a .load) paths (wordAddr s a f) (accessBytes f) false = (.ok hs, t)) (good : t.eccHomes hs = false)
include r good

theorem loadWord_ok {ht : List Nat} {ts : List Word}
    (rt : t.readTans e a paths (wordAddr s a f) (accessBytes f) f.lsid.toNat (wordAcq s a f)
      (if f.size.toNat < 4 then a.pass.tans else []) = (.ok (ht, ts), u)) :
    loadWord i f paths s =
      .next (u.loadDone e sl a (wordAcq s a f) (hs ++ ht) ((loadedPass s t e a f hs).wrShs f.dv 1 ts)) := by
  have read : s.passRead e a (a.via e .load) paths (a.pass.memAddr s.tick f) (sizeBytes f.size.toNat) f.lsid.toNat
      (acqScope f.ord.toNat (scopeOn (a.pass.memAddr s.tick f) f.scope.toNat)) = (.ok _, t) := State.passRead_ok r good
  have tangents : t.readTans e a paths (a.pass.memAddr s.tick f) (sizeBytes f.size.toNat) f.lsid.toNat
      (acqScope f.ord.toNat (scopeOn (a.pass.memAddr s.tick f) f.scope.toNat)) (if f.size.toNat < 4 then a.pass.tans else []) =
        (.ok (ht, ts), u) := rt
  simp only [loadWord, memWord_pass h, read, tangents, State.loaded_eq, loadExt_eq]
  rfl

/-- A load that computes no tangent: its word has no dual mode, or its value is sign-extended (R247). -/
theorem loadWord_plain (plain : a.pass.kp = 0 ∨ 4 ≤ f.size.toNat) :
    loadWord i f paths s = .next (t.loadDone e sl a (wordAcq s a f) hs (loadedPass s t e a f hs)) := by
  have no : (if f.size.toNat < 4 then a.pass.tans else []) = [] := by
    obtain zero | large := plain
    · rw [Pass.tans, zero]; exact ite_self _
    · exact if_neg (Nat.not_lt.mpr large)
  have := loadWord_ok (i := i) h r good (u := t) (ht := []) (ts := []) (by rw [no]; rfl)
  rwa [List.append_nil] at this

end

/-! ### STG and STS (R247), ORDJ and FENCE (R248) -/

/-- The fields that every write held by a store carries. -/
def storeBase (s : State) (a : Active) (f : FmtM) : Held := { lsid := f.lsid.toNat, ord := f.ord.toNat, scope := actScope s a f }

/-- The writes that a store holds: one access where the address is aligned, else one for each byte (R223). -/
def storeParts (s : State) (e : Nat) (a : Active) (f : FmtM) (hs : List Nat) : List Held :=
  let part := fun homes bs => { storeBase s a f with eff := .access ⟨homes, .store bs, 0, a.origin e, none⟩ }
  let bs := leBytes (accessBytes f) (a.pass.rd s.tick f.dv).toNat
  if (wordAddr s a f).toNat % accessBytes f = 0 then [part hs bs] else (hs.zip bs).map fun x => part [x.1] [x.2]

section
variable {i : Instr} {f : FmtM} {s t u : State} {e sl : Nat} {a : Active} {paths hs : List Nat} (h : InPass s e sl a)
include h

theorem storeWord_error {g : Failure} (r : s.resolve (madeBy e a .store) paths (wordAddr s a f) (accessBytes f) false = (.error g, t)) :
    storeWord i f paths s = .next (t.passFault e sl g) := by
  have refused : s.resolve (a.via e .store) paths (a.pass.memAddr s.tick f) (sizeBytes f.size.toNat) false = (.error g, t) := r
  simp only [storeWord, memWord_pass h, refused]

section
variable (r : s.resolve (madeBy e a .store) paths (wordAddr s a f) (accessBytes f) false = (.ok hs, t))
include r

theorem storeWord_ok {xs : List Held}
    (rt : t.storeTans e a (storeBase s a f) paths (wordAddr s a f) (accessBytes f) f.dv
      (a.pass.tans.flatMap fun j => (List.range (scalarSlices (accessBytes f))).map fun k => (j, k)) = (.ok xs, u)) :
    storeWord i f paths s =
      .next (u.setPass e sl a ((storeParts s e a f hs ++ xs).foldl Pass.hold (a.pass.useLsid f.lsid.toNat))) := by
  have homes : s.resolve (a.via e .store) paths (a.pass.memAddr s.tick f) (sizeBytes f.size.toNat) false = (.ok hs, t) := r
  have tangents : t.storeTans e a (heldOf f (a.pass.memAddr s.tick f)) paths (a.pass.memAddr s.tick f) (sizeBytes f.size.toNat) f.dv
      (a.pass.tans.flatMap fun j => (List.range (scalarSlices (sizeBytes f.size.toNat))).map fun k => (j, k)) = (.ok xs, u) := rt
  simp only [storeWord, memWord_pass h, homes, tangents, storeHeld, State.length_resolve r]
  rfl

/-- A store that computes no tangent. -/
theorem storeWord_plain (kp : a.pass.kp = 0) :
    storeWord i f paths s = .next (t.setPass e sl a ((storeParts s e a f hs).foldl Pass.hold (a.pass.useLsid f.lsid.toNat))) := by
  have no : a.pass.tans = [] := by rw [Pass.tans, kp]; rfl
  have := storeWord_ok (i := i) h r (u := t) (xs := []) (by rw [no]; rfl)
  rwa [List.append_nil] at this

end

theorem orderWord_pass {eff : Effect} : orderWord i f eff s = .next (s.setPass e sl a (({ a.pass with pre := [] }.useLsid f.lsid.toNat).hold
    { lsid := f.lsid.toNat, scope := f.scope.toNat, eff := eff })) := passWord_pass i s e sl a _ h.1 h.2

end

theorem loadStoreWords : LoadStoreWords := by
  intro f s e sl a h
  refine ⟨fun i paths hi => ?_, fun i paths hi _ => ?_, fun i eff hi => ?_⟩
  · have word : exec i s = loadWord i f paths s := by obtain ⟨rfl, rfl⟩ | ⟨rfl, rfl⟩ := hi <;> rfl
    intro r t hr
    refine ⟨fun hs ok good => ⟨fun plain => ?_, fun ht ts u kp narrow rt => ?_⟩, fun hs ok bad => ?_, fun g bad => ?_⟩ <;>
      subst_vars <;> rw [word]
    · exact loadWord_plain h hr good plain
    · exact loadWord_ok h hr good (by rwa [if_pos narrow])
    · exact loadWord_error h (State.passRead_ecc hr bad)
    · exact loadWord_error h (State.passRead_error hr)
  · have word : exec i s = storeWord i f paths s := by obtain ⟨rfl, rfl⟩ | ⟨rfl, rfl⟩ := hi <;> rfl
    intro r t hr
    refine ⟨fun hs ok => ⟨fun kp => ?_, fun xs u rt => ?_⟩, fun g bad => ?_⟩ <;> subst_vars <;> rw [word]
    · exact storeWord_plain h hr kp
    · exact storeWord_ok h hr rt
    · exact storeWord_error h hr
  · obtain ⟨rfl, rfl⟩ | ⟨rfl, rfl⟩ := hi <;> exact orderWord_pass h

/-! ### A load sees the stores of its own pass (R226) -/

/-- What a load with LSID `l` holds of the byte at `h` after one more access of its pass: the byte, and the LSID of the store it is of. -/
def forwardFrom (l h : Nat) (acc : Byte × Option Nat) (x : Held) : Byte × Option Nat :=
  match cellAt x.cells h with
  | none => acc
  | some b => if x.lsid < l ∧ acc.2.all (fun k => decide (k ≤ x.lsid)) then (b, some x.lsid) else acc

theorem Pass.loadByte_eq_forward {p : Pass} (stores : ∀ x ∈ p.b.held, ∃ y, x.eff = .access y) (l h : Nat) (b0 : Byte) :
    p.loadByte l h b0 = (p.b.held.foldl (forwardFrom l h) (b0, none)).1 := by
  unfold Pass.loadByte
  congr 1
  refine List.foldl_ext _ _ _ fun acc x hx => ?_
  obtain ⟨y, hy⟩ := stores x hx
  cases found : cellAt x.cells h <;> simp only [forwardFrom, found, hy]

/-- Accesses that hold no byte for the load leave what it has. -/
theorem foldl_forwardFrom_of_none {l h : Nat} {held : List Held} (no : ∀ x ∈ held, x.lsid < l → cellAt x.cells h = none)
    (acc : Byte × Option Nat) : held.foldl (forwardFrom l h) acc = acc := by
  induction held with
  | nil => rfl
  | cons x r ih =>
    have keep : forwardFrom l h acc x = acc := by
      unfold forwardFrom
      split
      · rfl
      · next found => exact if_neg fun below => by rw [no x List.mem_cons_self below.1] at found; cases found
    rw [List.foldl_cons, keep]
    exact ih fun y hy => no y (List.mem_cons_of_mem _ hy)

/-- The latest store of the byte is forwarded, be it met already or still to come. -/
theorem foldl_forwardFrom_of_latest {l h : Nat} {b : Byte} {x : Held} (below : x.lsid < l) (cell : cellAt x.cells h = some b)
    {held : List Held} (latest : ∀ y ∈ held, y.lsid < l → (cellAt y.cells h).isSome → y ≠ x → y.lsid < x.lsid)
    (acc : Byte × Option Nat) (older : acc.2.all (fun k => decide (k ≤ x.lsid)) = true) (met : x ∈ held ∨ acc = (b, some x.lsid)) :
    (held.foldl (forwardFrom l h) acc).1 = b := by
  induction held generalizing acc with
  | nil => obtain no | rfl := met; exacts [absurd no List.not_mem_nil, rfl]
  | cons y r ih =>
    rw [List.foldl_cons]
    have latest' : ∀ z ∈ r, z.lsid < l → (cellAt z.cells h).isSome → z ≠ x → z.lsid < x.lsid := fun z hz =>
      latest z (List.mem_cons_of_mem _ hz)
    by_cases same : y = x
    · have took : forwardFrom l h acc y = (b, some x.lsid) := by
        subst same
        simp only [forwardFrom, cell]
        exact if_pos ⟨below, older⟩
      exact ih latest' _ (by rw [took]; simp) (.inr took)
    · have met' : x ∈ r ∨ acc = (b, some x.lsid) := met.imp_left fun hx => (List.mem_cons.mp hx).resolve_left (Ne.symm same)
      unfold forwardFrom
      split
      · exact ih latest' acc older met'
      · next c found =>
        split
        · next took =>
          have less := latest y List.mem_cons_self took.1 (by rw [found]; rfl) same
          refine ih latest' _ (by simp; omega) (.inl (met'.resolve_right fun had => ?_))
          have := took.2
          simp [had] at this
          omega
        · exact ih latest' acc older met'

theorem loadForwarding : LoadForwarding := fun p l h b0 stores => by
  rw [Pass.loadByte_eq_forward stores]
  exact ⟨fun no => by rw [foldl_forwardFrom_of_none no],
    fun x hx b below cell latest => foldl_forwardFrom_of_latest below cell latest _ rfl (.inl hx)⟩

/-! ### Bytes read ahead (R223–R225) -/

section
variable {pre : List PreByte} {hs : List Nat} {live : List Byte}

theorem find?_home_eq_none {h : Nat} : pre.find? (fun x => x.home == h) = none ↔ ∀ x ∈ pre, x.home ≠ h := by
  simp [List.find?_eq_none]

/-- Byte by byte, a load returns what was read ahead of the byte, or the byte of now. -/
theorem getElem?_earlyBytes {k h : Nat} (hk : hs[k]? = some h) : (earlyBytes pre false hs live)[k]? =
    live[k]?.map fun b => ((pre.find? fun x => x.home == h).map (·.b)).getD b := by
  simp only [earlyBytes, Bool.false_eq_true, if_false, List.getElem?_map, List.zip, List.getElem?_zipWith, hk]
  cases live[k]? <;> rfl

/-- An aligned load one of whose bytes was not read ahead returns the bytes of now. -/
theorem earlyBytes_aligned_of_none {h : Nat} (mem : h ∈ hs) (no : ∀ x ∈ pre, x.home ≠ h) : earlyBytes pre true hs live = live := by
  simp only [earlyBytes, if_true]
  split
  · next x _ =>
    refine if_neg fun all => ?_
    have := List.all_eq_true.mp all _ (List.mem_map_of_mem mem)
    rw [find?_home_eq_none.mpr no] at this
    cases this
  · rfl

theorem earlyBytes_of_none (len : live.length = hs.length) (no : ∀ h ∈ hs, ∀ x ∈ pre, x.home ≠ h) (al : Bool) :
    earlyBytes pre al hs live = live := by
  cases al with
  | false =>
    refine List.ext_getElem? fun k => ?_
    cases hk : hs[k]? with
    | none =>
      have out : live.length ≤ k := len ▸ List.getElem?_eq_none_iff.mp hk
      simp [earlyBytes, List.getElem?_eq_none_iff.mpr out, len ▸ out]
    | some h => rw [getElem?_earlyBytes hk, find?_home_eq_none.mpr (no h (List.mem_of_getElem? hk))]; simp
  | true =>
    cases hs with
    | nil => simp [earlyBytes]
    | cons h r => exact earlyBytes_aligned_of_none List.mem_cons_self (no h List.mem_cons_self)

end

theorem loadsReadAhead : LoadsReadAhead := fun pre hs live len => by
  refine ⟨earlyBytes_of_none len, fun k h hk no => ?_, fun k h x hk found => ?_, fun h mem no => earlyBytes_aligned_of_none mem no,
    fun h mem x hx same => ?_⟩
  · rw [getElem?_earlyBytes hk, find?_home_eq_none.mpr no]; simp
  · obtain ⟨b, hb⟩ : ∃ b, live[k]? = some b := by
      obtain ⟨lt, _⟩ := List.getElem?_eq_some_iff.mp hk
      exact ⟨_, List.getElem?_eq_getElem (len ▸ lt)⟩
    rw [getElem?_earlyBytes hk, found, hb]; rfl
  · have := (List.mem_filter.mp hx).2
    simp [same, mem] at this

/-- Settles O28: loads, stores and orders by what their checks answer, a forwarded byte by the latest store of the pass, and bytes read
ahead one by one or at one moment. -/
theorem loadsAndStores : Obligations.LoadsAndStores := ⟨loadStoreWords, loadForwarding, loadsReadAhead⟩

end Sys2Proof.Machine
end

section
/-!
Issue, commit and abort of firings (R33, R49–R55, R94, R349).
-/
namespace Sys2Proof.Machine
open Sys2Proof Sys2Proof.Machine Sys2Proof.Cert

/-! ### What leaves every engine as it was -/

/-- From `s` to `t` the engines are the same. -/
def SameEng (s t : State) : Prop := t.eng = s.eng

namespace SameEng
variable {s t u : State}

theorem refl (s : State) : SameEng s s := rfl
theorem trans (h : SameEng s t) (k : SameEng t u) : SameEng s u := Eq.trans k h
theorem engine (h : SameEng s t) (e : Nat) : t.engine e = s.engine e := by rw [State.engine, h]; rfl

theorem foldl {α : Type} {f : State → α → State} (l : List α) (h : ∀ t a, SameEng t (f t a)) (s : State) :
    SameEng s (l.foldl f s) :=
  foldl_of_trans refl trans l (fun a _ t => h t a) s
theorem each {f : Nat → State → State} (l : List Nat) (h : ∀ n t, SameEng t (f n t)) (s : State) : SameEng s (s.each l f) :=
  foldl l (fun t n => h n t) s

theorem setUnits (s : State) (d : Nat) (u : DieUnits) : SameEng s (s.setUnits d u) := rfl
theorem postDep (s : State) (l : List Nat) (i : Instr) : SameEng s (s.postDep l i) := rfl

theorem faultInst (s : State) (c i : Nat) : SameEng s (s.faultInst c i) := by
  unfold State.faultInst
  split
  · exact refl s
  · dsimp only
    split <;> exact refl s

theorem raise (s : State) (d : Nat) (r : Record) : SameEng s (s.raise d r) := by
  unfold State.raise
  refine trans (t := _) ?_ (refl _)
  split
  · split <;> [exact faultInst ..; exact refl s]
  · exact refl s

theorem report (s : State) (d cause : Nat) (who : Origin) (ad det : Word) (tok : Option Token) :
    SameEng s (s.report d cause who ad det tok) := raise ..

theorem sendCredit (s : State) (deps : List Nat) (t : Option Token) (who : Origin) : SameEng s (s.sendCredit deps t who) := by
  unfold State.sendCredit
  split
  · exact refl s
  · split <;> [exact refl s; exact report ..]

theorem touch (s : State) (d c : Nat) : SameEng s (s.touch d c) := rfl

theorem releaseLocks (s : State) (e : Nat) (a : Active) (deps : List Nat) : SameEng s (s.releaseLocks e a deps) :=
  each _ (fun h t => postDep t deps (.lockReleaseArrival ⟨h, a.fr.ctx, a.age, .passEnd a.fr.uid⟩)) s

theorem awaitPass (s : State) (e uid : Nat) (ids : List Nat) : SameEng s (s.awaitPass e uid ids) := by
  unfold State.awaitPass
  refine each _ (fun d t => ?_) s
  dsimp only
  split <;> [exact setUnits ..; exact refl t]

theorem openFault (s : State) (d c i cause page : Nat) : SameEng s (s.openFault d c i cause page).2 := by
  unfold State.openFault
  dsimp only
  split <;> exact refl s

theorem acquireAt (s : State) (c q : Nat) : SameEng s (s.acquireAt c q).2 := by
  unfold State.acquireAt
  split
  · exact refl s
  · split
    · exact refl s
    · dsimp only
      split <;> exact refl s

theorem portAcquires (s : State) (e : Nat) (a : Active) (p : Pass) (l : List PortIn) : SameEng s (s.portAcquires e a p l).2 := by
  induction l generalizing s p with
  | nil => exact refl s
  | cons i r ih =>
    unfold State.portAcquires
    split
    · exact (acquireAt ..).trans (ih ..)
    · exact ih ..

end SameEng

/-! ### What leaves the registers that outlive a pass -/

/-- From `s` to `t` the scalar registers of every operator are the same, and their shadows (R94, R200). -/
structure SameRegs (s t : State) : Prop where
  regs : ∀ e op, ((t.engine e).run op).s = ((s.engine e).run op).s ∧ ((t.engine e).run op).ssh = ((s.engine e).run op).ssh

namespace SameRegs
variable {s t u : State}

theorem refl (s : State) : SameRegs s s := ⟨fun _ _ => ⟨rfl, rfl⟩⟩
theorem trans (h : SameRegs s t) (k : SameRegs t u) : SameRegs s u := ⟨fun e op =>
  ⟨(k.regs e op).1.trans (h.regs e op).1, (k.regs e op).2.trans (h.regs e op).2⟩⟩
theorem of_sameEng (h : SameEng s t) : SameRegs s t := ⟨fun e op => by rw [h.engine]; exact ⟨rfl, rfl⟩⟩

theorem setEngine {e : Nat} {x : Engine}
    (h : ∀ op, (x.run op).s = ((s.engine e).run op).s ∧ (x.run op).ssh = ((s.engine e).run op).ssh) :
    SameRegs s (s.setEngine e x) := ⟨fun a op => by
  by_cases k : e = a
  · subst k; rw [State.engine_setEngine]; exact h op
  · rw [State.engine_setEngine_ne _ _ _ _ k]; exact ⟨rfl, rfl⟩⟩

/-- An engine whose running states are as they were. -/
theorem setEngine_of_orun {e : Nat} {x : Engine} (h : x.t.orun = (s.engine e).t.orun) : SameRegs s (s.setEngine e x) :=
  setEngine fun op => by rw [Engine.run, h]; exact ⟨rfl, rfl⟩

/-- An engine where the running state of one operator keeps its registers. -/
theorem setEngine_tset {e op : Nat} {x : Engine} {r : OpRun} (h : x.t.orun = tset {} (s.engine e).t.orun op r)
    (regs : r.s = ((s.engine e).run op).s ∧ r.ssh = ((s.engine e).run op).ssh) : SameRegs s (s.setEngine e x) :=
  setEngine fun k => by
    rw [Engine.run, h]
    by_cases same : op = k
    · subst same; rw [tget_tset_same]; exact regs
    · rw [tget_tset_ne _ _ _ _ _ same]; exact ⟨rfl, rfl⟩

theorem setActive (s : State) (e sl : Nat) (a : Option Active) : SameRegs s (s.setActive e sl a) :=
  setEngine_of_orun (congrArg (·.orun) (Engine.setSlot_rest (·.t) (fun _ _ _ => rfl) ..))

theorem abortActive (s : State) (e : Nat) (a : Active) (h : Hold) : SameRegs s (s.abortActive e a h) := ⟨fun k op => by
  by_cases same : e = k
  · subst same; rw [State.engine_abortActive]; exact ⟨rfl, rfl⟩
  · rw [State.engine_abortActive_ne _ _ _ same]; exact ⟨rfl, rfl⟩⟩

theorem faultActive (s : State) (e : Nat) (a : Active) (f : Failure) : SameRegs s (s.faultActive e a f) :=
  (of_sameEng ((SameEng.openFault ..).trans (SameEng.raise ..))).trans (abortActive ..)

theorem stickySweep (s : State) (l : Loc) (op frame : Nat) : SameRegs s (s.stickySweep l op frame) := by
  unfold State.stickySweep
  dsimp only
  split
  · exact refl s
  · refine (setEngine_tset rfl ?_).trans (of_sameEng (SameEng.foldl _ (fun _ _ => SameEng.sendCredit ..) _))
    exact ⟨rfl, rfl⟩

theorem startPass (s : State) (e sl : Nat) (f : Firing) : SameRegs s (s.startPass e sl f) := by
  have counted : SameRegs s { s with nextId := s.nextId + 1 } := of_sameEng (SameEng.refl s)
  unfold State.startPass
  dsimp only
  split
  · exact (counted.trans (of_sameEng (SameEng.portAcquires ..))).trans (setActive ..)
  · exact counted.trans (faultActive ..)

theorem nextPass (s : State) (e sl : Nat) (a : Active) (sent : List (Nat × Nat)) : SameRegs s (s.nextPass e sl a sent) := by
  unfold State.nextPass
  dsimp only
  split
  · exact (setActive ..).trans (stickySweep ..)
  · split
    · exact (setActive ..).trans (setEngine_of_orun rfl)
    · exact (setActive ..).trans (startPass ..)

/-- What a commit does once the registers are published. -/
theorem afterPublish (s : State) (e sl : Nat) (a : Active) (deps ids : List Nat) (sent : List (Nat × Nat)) :
    SameRegs s ((((s.releaseLocks e a deps).awaitPass e a.fr.uid ids).touch (e / 72) a.fr.ctx).nextPass e sl a sent) :=
  (of_sameEng (((SameEng.releaseLocks s e a deps).trans (SameEng.awaitPass ..)).trans (SameEng.touch ..))).trans (nextPass ..)

end SameRegs

/-! ### A pass that opens (R33, R94) -/

/-- `q` is `p` but for what acquires leave: the effects that come first, the moment that bounds the constant path, what is read ahead. -/
def Pass.Acquired (p q : Pass) : Prop := q = { p with after := q.after, acq := q.acq, pre := q.pre }

theorem Pass.acquired_acquire (p : Pass) (acq n : Nat) (after : List Nat) : p.Acquired (p.acquire acq n after) := by
  unfold Pass.acquire
  split <;> rfl

theorem Pass.Acquired.trans {p q r : Pass} (h : p.Acquired q) (k : q.Acquired r) : p.Acquired r := by
  unfold Pass.Acquired at *
  rw [k, h]

theorem State.portAcquires_acquired (s : State) (e : Nat) (a : Active) (p : Pass) (l : List PortIn) :
    p.Acquired (s.portAcquires e a p l).1 := by
  induction l generalizing s p with
  | nil => rfl
  | cons i r ih =>
    unfold State.portAcquires
    split
    · exact (Pass.acquired_acquire ..).trans (ih ..)
    · exact ih ..

theorem State.portAcquires_mem (s : State) (e : Nat) (a : Active) (p : Pass) (l : List PortIn) :
    (s.portAcquires e a p l).2.mem = s.mem := by
  induction l generalizing s p with
  | nil => rfl
  | cons i r ih =>
    unfold State.portAcquires
    split
    · exact (ih ..).trans (acquireAt_mem ..)
    · exact ih ..

/-- The pass of the first colour of a firing starts with the registers of its operator (R94). -/
theorem State.newPass_starts {s : State} {e : Nat} {f : Firing} {c : Nat} {ins : List PortIn} (first : f.passes.headD (0, []) = (c, ins)) :
    (s.newPass e f).col = c ∧ (s.newPass e f).ins = ins ∧ (s.newPass e f).idx = 0 ∧ (s.newPass e f).b = {} ∧
      (s.newPass e f).r.s = ((s.engine e).run f.op).s ∧ (s.newPass e f).r.w = [] := by
  simp only [State.newPass, first, and_self]

/-- A firing whose scale tags agree opens the pass of its first colour in the slot (R49). -/
theorem State.startPass_opens {s : State} {e : Nat} (sl : Nat) {f : Firing} {c : Nat} {ins : List PortIn}
    (first : f.passes.headD (0, []) = (c, ins)) (ok : ((s.engine e).op f.op).scaleOk ins = true) :
    ∃ a, (s.startPass e sl f).active e sl = some a ∧ a.fr.op = f.op ∧ a.pass.col = c ∧ a.pass.ins = ins ∧ a.pass.idx = 0 ∧
      a.pass.b = {} ∧ a.pass.r.s = ((s.engine e).run f.op).s ∧ a.pass.r.w = [] ∧ (s.startPass e sl f).mem = s.mem := by
  unfold State.startPass
  dsimp only
  generalize hp : State.newPass _ e _ = p
  obtain ⟨hcol, hins, hidx, hb, hs, hw⟩ : p.col = c ∧ p.ins = ins ∧ p.idx = 0 ∧ p.b = {} ∧
      p.r.s = ((s.engine e).run f.op).s ∧ p.r.w = [] := by
    subst hp
    exact State.newPass_starts first
  rw [if_pos (by rw [hins]; exact ok)]
  refine ⟨_, State.active_setActive .., rfl, ?_⟩
  dsimp only
  rw [State.portAcquires_acquired]
  exact ⟨hcol, hins, hidx, hb, hs, hw, State.portAcquires_mem ..⟩

/-- Marking a slot as having issued leaves the tables of its engine. -/
theorem State.tables_markIssued (s : State) (e sl : Nat) : ((s.markIssued e sl).engine e).t = (s.engine e).t := by
  rw [State.markIssued, State.engine_setEngine]
  exact Engine.setSlot_rest (·.t) (fun _ _ _ => rfl) ..

/-- A chosen colour that runs the body opens its pass, with the registers of its operator (R94). -/
theorem State.issue_opens {s : State} {e : Nat} (sl : Nat) {ch : Choice} {ins : List PortIn} (fresh : ch.fir = none)
    (elig : s.eligible e ch.op ch.col = some ins) (fate : ((s.engine e).op ch.op).fate ins = .run)
    (ok : ((s.engine e).op ch.op).scaleOk ins = true) :
    ∃ a, (s.issue e sl ch).active e sl = some a ∧ a.fr.op = ch.op ∧ a.pass.col = ch.col ∧ a.pass.ins = ins ∧ a.pass.idx = 0 ∧
      a.pass.b = {} ∧ a.pass.r.s = ((s.engine e).run ch.op).s ∧ a.pass.r.w = [] ∧ (s.issue e sl ch).mem = s.mem := by
  have tables := s.tables_markIssued e sl
  have op : ((s.markIssued e sl).engine e).op ch.op = (s.engine e).op ch.op := by rw [Engine.op, tables]; rfl
  have run : ((s.markIssued e sl).engine e).run ch.op = (s.engine e).run ch.op := by rw [Engine.run, tables]; rfl
  simp only [State.issue, fresh, elig, op, fate, ← run]
  exact State.startPass_opens sl rfl (by rw [op]; exact ok)

theorem exec_firingIssue {s : State} {e sl : Nat} {ch : Choice} (he : e < 288) (hsl : sl < 2) (empty : ((s.engine e).slot sl).act = none)
    (first : ((s.engine e).slot sl).issued = false) (live : (s.engine e).frozen = false)
    (ready : ∀ a ∈ (s.engine e).ready, ((s.engine e).op a.fr.op).h.cls ≠ sl)
    (best : pickMin (fun a b => keyLt a.key b.key) (s.choices_ e sl) = some ch) :
    exec (.firingIssue e sl) s = .next (s.issue e sl ch) := by
  have none_ready : (s.engine e).ready.any (fun a => decide (((s.engine e).op a.fr.op).h.cls = sl)) = false := by simpa using ready
  simp only [exec, execFiringIssue, empty, first, live, none_ready, best]
  rw [if_neg (by simp; omega)]

/-! ### Commit (R50, R51) -/

/-- Where nothing is captured or replayed, a decision is as it comes (R456). -/
theorem State.decision_off {s : State} (off : s.root.cmode = 0) (cls die unit : Nat) (what : List Nat) :
    s.decision cls die unit what = some s := by
  simp [State.decision, off]

/-- A commit publishes the scalar registers of its pass and their shadows (R94, R200). -/
theorem State.run_commitPass (s : State) (e sl : Nat) (a : Active) :
    (((s.commitPass e sl a).engine e).run a.fr.op).s = a.pass.r.s ∧
    (((s.commitPass e sl a).engine e).run a.fr.op).ssh = a.pass.r.ssh := by
  have publish (t : State) : ((t.publish e a).engine e).run a.fr.op =
      { (t.engine e).run a.fr.op with s := a.pass.r.s, ssh := a.pass.r.ssh } := by
    rw [State.publish, State.engine_setEngine]
    exact tget_tset_same ..
  unfold State.commitPass
  dsimp only
  refine ⟨((SameRegs.afterPublish ..).regs e a.fr.op).1.trans ?_,
    ((SameRegs.afterPublish ..).regs e a.fr.op).2.trans ?_⟩ <;> rw [publish]

section
variable {s : State} {e sl : Nat} {a : Active} (act : s.active e sl = some a) (awake : a.pass.wait = .none)
  (ended : a.pass.done = true ∨ ((s.engine e).op a.fr.op).h.blen < a.pass.next)
include awake ended

/-- A pass that has ended and waits for nothing is due to commit (R50). -/
theorem passCommit_due : ¬ (a.pass.wait ≠ .none ∨ (a.pass.done = false ∧ a.pass.next ≤ ((s.engine e).op a.fr.op).h.blen)) := by
  rintro (h | ⟨running, more⟩)
  · exact h awake
  · obtain h | h := ended
    · rw [h] at running; cases running
    · omega

include act

theorem exec_passCommit_unsettled (h : a.pass.settle (s.engine e) ((s.engine e).op a.fr.op) = none) :
    exec (.passCommit e sl) s = .next (s.passFault e sl ⟨cCommit, 0, 0⟩) := by
  simp only [exec, execPassCommit, act, if_neg (passCommit_due awake ended), h]

theorem exec_passCommit_settled {p : Pass} (h : a.pass.settle (s.engine e) ((s.engine e).op a.fr.op) = some p)
    (posts : p.b.lnches ≤ (s.cp.resv.filter fun r => r.eng == e && r.uid == a.fr.uid && r.granted).length)
    (streams : ((s.engine e).streams.filter fun y => decide (y.n < 96)).length + (p.b.held.filter (·.eff.isStream)).length ≤ 96)
    (off : s.root.cmode = 0) : exec (.passCommit e sl) s = .next (s.commitPass e sl { a with pass := p }) := by
  have may : ¬ ((s.cp.resv.filter fun r => r.eng == e && r.uid == a.fr.uid && r.granted).length < p.b.lnches ∨
      96 < ((s.engine e).streams.filter fun y => decide (y.n < 96)).length + (p.b.held.filter (·.eff.isStream)).length) := by omega
  simp only [exec, execPassCommit, act, if_neg (passCommit_due awake ended), h, if_neg may, State.decision_off off]
  exact ite_self _

end

/-- A satisfied pass takes its empty slot again (R349). -/
theorem exec_suspendedPassResume {s : State} {e fid : Nat} {a : Active}
    (found : ((s.engine e).ready.find? fun b => b.fr.uid == fid) = some a)
    (empty : ((s.engine e).slot ((s.engine e).op a.fr.op).h.cls).act = none) :
    exec (.suspendedPassResume e fid) s = .next ((s.setEngine e { s.engine e with ready := (s.engine e).ready.erase a }).setActive e
      ((s.engine e).op a.fr.op).h.cls (some a)) := by
  simp only [exec, execSuspendedPassResume, found, empty]
  rfl

/-- Settles O39: an issue opens the pass of the chosen colour, a commit that settles publishes its registers, an abort queues its firing
again, and a satisfied pass returns to its slot. -/
theorem firingEvents : Obligations.FiringEvents := by
  refine ⟨fun s e sl ch ins he hsl empty first live ready best fresh elig fate ok => ?_,
    fun s e sl a act awake ended => ⟨exec_passCommit_unsettled act awake ended, fun p h posts streams off => ?_⟩,
    fun s e sl a _ act => exec_woundArrival 0 act, fun s e fid a found empty => exec_suspendedPassResume found empty⟩
  · obtain ⟨a, opened⟩ := State.issue_opens sl fresh elig fate ok
    exact ⟨_, a, exec_firingIssue he hsl empty first live ready best, opened⟩
  · exact ⟨_, exec_passCommit_settled act awake ended h posts streams off, rfl, State.run_commitPass s e sl { a with pass := p }⟩

end Sys2Proof.Machine
end

section
/-!
Tokens at a matching store (R26–R31, R40, R47, R58): what an arrival does, by the liveness of its colour, its slot and the mode of its
port.
-/
namespace Sys2Proof.Machine
open Sys2Proof Sys2Proof.Machine Sys2Proof.Cert

/-! ### Tokens of one colour (R22) -/

theorem tokFields_withRun (t : Token) (c r : Nat) : tokFields (tokWithRun t c r) = { tokFields t with col := c % 4096, run := r % 32 } :=
  (tokFields_mk128 _).trans (congrArg (fun f : TokF => { f with col := c % 4096, run := r % 32 }) (TokF.kept_tokFields t))

theorem tokWithRun_withRun (t : Token) (c r c' r' : Nat) : tokWithRun (tokWithRun t c r) c' r' = tokWithRun t c' r' := by
  rw [tokWithRun, tokFields_withRun]; rfl

theorem tokCol_lt (t : Token) : tokCol t < 4096 := BitVec.isLt _

theorem tokCols_of_run_zero {t : Token} (h : tokRun t = 0) : tokCols t = [tokCol t] := by
  simp [tokCols, h, Nat.mod_eq_of_lt (tokCol_lt t)]

section
variable (t : Token)

@[simp] theorem tokCol_one : tokCol (tokWithRun t (tokCol t) 0) = tokCol t :=
  (congrArg TokF.col (tokFields_withRun ..)).trans (Nat.mod_eq_of_lt (tokCol_lt t))
@[simp] theorem tokRun_one (c : Nat) : tokRun (tokWithRun t c 0) = 0 := congrArg TokF.run (tokFields_withRun t c 0)
@[simp] theorem tokPort_withRun (c r : Nat) : tokPort (tokWithRun t c r) = tokPort t := congrArg TokF.port (tokFields_withRun t c r)
@[simp] theorem tokPay_withRun (c r : Nat) : tokPay (tokWithRun t c r) = tokPay t := congrArg TokF.pay (tokFields_withRun t c r)

end

/-! ### Slots of a store (R26) -/

theorem State.ms_setSlot (s : State) (l : Loc) (n : Nat) (x : Slot) : (s.setSlot l n x).ms l = tset {} (s.ms l) n x := by
  cases l <;> simp [State.setSlot, State.ms]

@[simp] theorem State.slot_setSlot (s : State) (l : Loc) (n : Nat) (x : Slot) : (s.setSlot l n x).slot l n = x := by
  rw [State.slot, State.ms_setSlot, tget_tset_same]
theorem State.slot_setSlot_ne (s : State) (l : Loc) {n m : Nat} (x : Slot) (h : m ≠ n) : (s.setSlot l n x).slot l m = s.slot l m := by
  rw [State.slot, State.ms_setSlot, tget_tset_ne _ _ _ _ _ h.symm]; rfl

@[simp] theorem State.setSlot_mem (s : State) (l : Loc) (n : Nat) (x : Slot) : (s.setSlot l n x).mem = s.mem := by cases l <;> rfl
@[simp] theorem State.setSlot_pend (s : State) (l : Loc) (n : Nat) (x : Slot) : (s.setSlot l n x).pend = s.pend := by cases l <;> rfl
theorem State.engine_setSlot_ne (s : State) {l : Loc} (n : Nat) (x : Slot) {e : Nat} (h : l ≠ .eng e) :
    (s.setSlot l n x).engine e = s.engine e := by
  cases l with
  | eng a => exact State.engine_setEngine_ne _ _ _ _ fun k => h (congrArg Loc.eng k)
  | pool d => rfl

/-- From `s` to `t` the slots of every store are the same. -/
def SameSlots (s t : State) : Prop := ∀ l, t.ms l = s.ms l

namespace SameSlots
variable {s t u : State}

theorem refl (s : State) : SameSlots s s := fun _ => rfl
theorem trans (h : SameSlots s t) (k : SameSlots t u) : SameSlots s u := fun l => (k l).trans (h l)

theorem slot (h : SameSlots s t) (l : Loc) (n : Nat) : t.slot l n = s.slot l n := by rw [State.slot, h]; rfl

/-- What leaves the engines and the pools. -/
theorem of_aside (h : SameEng s t) (k : Aside s t) : SameSlots s t
  | .eng e => congrArg (fun x : Engine => x.t.ms) (h.engine e)
  | .pool d => by rw [State.ms, State.pool, k.units d]; rfl

theorem touch (s : State) (d c : Nat) : SameSlots s (s.touch d c) := of_aside (SameEng.touch ..) (Aside.touch ..)

/-- An engine with the slots that it had. -/
theorem setEngine {e : Nat} {x : Engine} (h : x.t.ms = (s.engine e).t.ms) : SameSlots s (s.setEngine e x)
  | .eng a => by
    by_cases k : e = a
    · subst k; rw [State.ms, State.engine_setEngine]; exact h
    · rw [State.ms, State.engine_setEngine_ne _ _ _ _ k]; rfl
  | .pool d => rfl

end SameSlots

/-- From `s` to `t` slot `n` of a store has become `x`, and no other slot, no byte of memory, no message and no other engine has changed. -/
structure Fills (s t : State) (l : Loc) (n : Nat) (x : Slot) : Prop where
  slot : t.slot l n = x
  others : ∀ m, m ≠ n → t.slot l m = s.slot l m
  mem : t.mem = s.mem
  pend : t.pend = s.pend
  engines : ∀ e, l ≠ .eng e → t.engine e = s.engine e

theorem Fills.setSlot_touch (s : State) (l : Loc) (n : Nat) (x : Slot) (d c : Nat) : Fills s ((s.setSlot l n x).touch d c) l n x where
  slot := ((SameSlots.touch _ d c).slot l n).trans (State.slot_setSlot ..)
  others m h := ((SameSlots.touch _ d c).slot l m).trans (State.slot_setSlot_ne s l x h)
  mem := State.setSlot_mem ..
  pend := State.setSlot_pend ..
  engines _ h := State.engine_setSlot_ne s n x h

/-! ### Where an arrival goes (R30, R58) -/

section
variable {s : State} {l : Loc} {tok : Token} {init : Bool}

theorem State.arriveCtx_torn (h : (s.ctx (tokCtx tok)).isTorn = true) : s.arriveCtx l tok init = s := if_pos h

/-- A token of a context that is not resident is spilled (R287). -/
theorem State.arriveCtx_away (h : (s.ctx (tokCtx tok)).isTorn = false)
    (away : (s.ctx (tokCtx tok)).st = .ready ∧ (s.ctx (tokCtx tok)).svalid = true) : s.arriveCtx l tok init = s.spill l tok true := by
  simp [State.arriveCtx, h, away]

theorem State.arriveCtx_resident (h : (s.ctx (tokCtx tok)).isTorn = false)
    (here : ¬ ((s.ctx (tokCtx tok)).st = .ready ∧ (s.ctx (tokCtx tok)).svalid = true)) :
    s.arriveCtx l tok init = s.arrive l tok init := by
  simp only [State.arriveCtx, h]
  exact if_neg here

/-- The checks of R30 and R313 on a token hold. -/
def State.accepts (s : State) (l : Loc) (tok : Token) (init : Bool) : Prop :=
  s.frameChecks l tok = true ∧ ¬ (init = true ∧ s.initialRefused l tok = true)

theorem State.arrive_credit (h : tokCredit tok = true) : s.arrive l tok init = s.credit l tok := if_pos h

theorem State.arrive_refused (h : tokCredit tok = false) (bad : ¬ s.accepts l tok init) :
    s.arrive l tok init = s.dropTok l cFrame tok 0 := by
  unfold State.arrive
  rw [if_neg (by simp [h]), if_pos (by unfold State.accepts at bad; cases k : s.frameChecks l tok <;> simp_all)]

variable {f : Frame} {o : OpEntry} (hf : s.frame l (tokFrame tok) = f) (ho : s.opAt l (tokOp tok) (tokFrame tok) = o)
  (data : tokCredit tok = false) (good : s.accepts l tok init) (unrod : (o.ports.getD (tokPort tok) {}).mode ≠ .rod)
  (forward : ¬ (o.h.kind = .loop ∧ tokPort tok = 3))
include hf ho data good unrod forward

/-- A token for a port that is neither ROD nor the retire port of a LOOP is stored. -/
theorem State.arrive_stored : s.arrive l tok init =
    if (o.ports.getD (tokPort tok) {}).mode = .sticky then (s.stickyReplace l tok).touch l.die (tokCtx tok)
    else s.landPieces l f o tok (livePieces f (tokCols tok)) := by
  have kept : ¬ (s.frameChecks l tok = false ∨ (init = true ∧ s.initialRefused l tok = true)) := by
    obtain ⟨checks, fresh⟩ := good
    rw [checks]
    rintro (h | h)
    · cases h
    · exact fresh h
  unfold State.arrive
  rw [if_neg (by simp [data]), if_neg kept]
  simp only [hf, ho]
  cases l with
  | eng e => exact (if_neg forward).trans (if_neg fun h => unrod h.1)
  | pool d => exact if_neg fun h => unrod h.1

theorem State.arrive_sticky (sticky : (o.ports.getD (tokPort tok) {}).mode = .sticky) :
    s.arrive l tok init = (s.stickyReplace l tok).touch l.die (tokCtx tok) := by
  rw [State.arrive_stored hf ho data good unrod forward, if_pos sticky]

variable (one : tokRun tok = 0) (plain : (o.ports.getD (tokPort tok) {}).mode ≠ .sticky)
include one plain

/-- A token of one colour is one piece. -/
theorem State.arrive_piece : s.arrive l tok init = s.landPieces l f o tok [(tokCol tok, 0)] := by
  rw [State.arrive_stored hf ho data good unrod forward, if_neg plain, tokCols_of_run_zero one]
  rfl

/-- A colour that is not live is spilled (R27). -/
theorem State.arrive_dead (dead : f.live (tokCol tok) = false) :
    s.arrive l tok init = s.spill l (tokWithRun tok (tokCol tok) 0) false := by
  rw [State.arrive_piece hf ho data good unrod forward one plain, State.landPieces]
  simp only [dead, if_true]
  exact ite_self _

variable {n : Nat} (hn : slotNum f o (tokCol tok) (tokPort tok) = n)
include hn

/-- A live colour whose slot is full raises DOUBLE (R31). -/
theorem State.arrive_double (live : f.live (tokCol tok) = true) (full : (s.slot l n).p = true) :
    s.arrive l tok init = s.report l.die cDouble (s.tokOrigin l (tokWithRun tok (tokCol tok) 0)) 0 0
      (some (tokWithRun tok (tokCol tok) 0)) := by
  have origin : { s.tokOrigin l (tokWithRun tok (tokCol tok) 0) with col := tokCol tok } =
      s.tokOrigin l (tokWithRun tok (tokCol tok) 0) := by simp [State.tokOrigin]
  rw [State.arrive_piece hf ho data good unrod forward one plain, State.landPieces]
  simp [live, tokCols_of_run_zero, hn, full, origin]

/-- A live colour whose slot is empty becomes present there (R26). -/
theorem State.arrive_present (live : f.live (tokCol tok) = true) (empty : (s.slot l n).p = false) :
    s.arrive l tok init = (s.setSlot l n { p := true, tok := tokWithRun tok (tokCol tok) 0 }).touch l.die (tokCtx tok) := by
  have untested : ((o.ports.getD (tokPort tok) {}).mode == .rod) = false := beq_false_of_ne unrod
  rw [State.arrive_piece hf ho data good unrod forward one plain, State.landPieces]
  simp [-List.getD_eq_getElem?_getD, live, tokCols_of_run_zero, hn, empty, State.landPieces, State.setPresent, tokWithRun_withRun,
    untested]

theorem State.arrive_fills (live : f.live (tokCol tok) = true) (empty : (s.slot l n).p = false) :
    Fills s (s.arrive l tok init) l n { p := true, tok := tokWithRun tok (tokCol tok) 0 } := by
  rw [State.arrive_present hf ho data good unrod forward one plain hn live empty]
  exact Fills.setSlot_touch ..

end

/-! ### A token that is stored -/

theorem slotNum_plain {f : Frame} {o : OpEntry} {p : Nat} (h : (o.ports.getD p {}).mode ≠ .sticky) (c : Nat) :
    slotNum f o c p = f.base + (c % f.w) * f.spc + o.slotoff + p := by rw [slotNum, if_neg h]

theorem slotNum_sticky {f : Frame} {o : OpEntry} {p : Nat} (h : (o.ports.getD p {}).mode = .sticky) (c : Nat) :
    slotNum f o c p = f.base + o.slotoff + p := by rw [slotNum, if_pos h, Nat.zero_mul, Nat.add_zero]

theorem Aside.sendCredit (s : State) (deps : List Nat) (t : Option Token) (who : Origin) : Aside s (s.sendCredit deps t who) := by
  unfold State.sendCredit
  split
  · exact Aside.refl s
  · split <;> [exact Aside.postDep ..; exact Aside.report ..]

/-- Credits that leave keep every slot and memory. -/
theorem State.sendCredits_keep {α : Type} (ys : List α) (g : State → α → Option Token) (who : State → α → Origin) (t : State) :
    SameSlots t (ys.foldl (fun u y => u.sendCredit [] (g u y) (who u y)) t) ∧
      (ys.foldl (fun u y => u.sendCredit [] (g u y) (who u y)) t).mem = t.mem :=
  have aside := Aside.foldl ys (fun u y => Aside.sendCredit u [] (g u y) (who u y)) t
  ⟨.of_aside (SameEng.foldl ys (fun u y => SameEng.sendCredit u [] (g u y) (who u y)) t) aside, aside.mem⟩

/-- The sweep of replaced tiles sends credits and changes running state alone (R40). -/
theorem State.stickySweep_keeps (s : State) (l : Loc) (op frame : Nat) :
    SameSlots s (s.stickySweep l op frame) ∧ (s.stickySweep l op frame).mem = s.mem := by
  unfold State.stickySweep
  dsimp only
  split
  · exact ⟨.refl s, rfl⟩
  · refine ⟨SameSlots.trans (SameSlots.setEngine ?_) (State.sendCredits_keep ..).1, (State.sendCredits_keep ..).2⟩
    rfl

/-- A new sticky token takes the slot of its port (R40). -/
theorem State.stickyReplace_stores {s : State} {l : Loc} {tok : Token} {n : Nat}
    (hn : slotNum (s.frame l (tokFrame tok)) (s.opAt l (tokOp tok) (tokFrame tok)) (tokCol tok) (tokPort tok) = n) :
    SameSlots (s.setSlot l n { p := true, tok := tok }) (s.stickyReplace l tok) ∧ (s.stickyReplace l tok).mem = s.mem := by
  unfold State.stickyReplace
  simp only [hn]
  split
  · obtain ⟨slots, mem⟩ := State.stickySweep_keeps _ l (tokOp tok) (tokFrame tok)
    refine ⟨SameSlots.trans (SameSlots.setEngine ?_) slots, mem.trans (State.setSlot_mem ..)⟩
    rfl
  · exact ⟨.refl _, State.setSlot_mem ..⟩

/-! ### Credit returns (R47) -/

theorem getLsbD_bit64 (b j : Nat) (hb : b < 64) (hj : j < 64) : (bit64 b).getLsbD j = decide (b = j) := by
  rw [bit64, Nat.mod_eq_of_lt hb, BitVec.getLsbD_ofNat, Nat.testBit_two_pow]
  simp [hj]

theorem and_bit64_bne_zero (x : BitVec 64) {b : Nat} (hb : b < 64) : (x &&& bit64 b != 0) = x.getLsbD b := by
  cases k : x.getLsbD b with
  | true =>
    refine bne_iff_ne.mpr fun zero => ?_
    have := congrArg (·.getLsbD b) zero
    simp [k, getLsbD_bit64 b b hb hb] at this
  | false =>
    have zero : x &&& bit64 b = 0 := BitVec.eq_of_getLsbD_eq fun j hj => by
      rw [BitVec.getLsbD_and, getLsbD_bit64 b j hb hj]
      by_cases h : b = j
      · subst h; simp [k]
      · simp [h]
    simp [zero]

theorem State.busyMap_setBusy (s : State) (l : Loc) (op n : Nat) (b : BitVec 64) : (s.setBusy l op n b).busyMap l op n = b := by
  cases l <;> simp [State.setBusy, State.busyMap, Engine.run, tget_tset_same]

theorem State.setBusy_mem (s : State) (l : Loc) (op n : Nat) (b : BitVec 64) : (s.setBusy l op n b).mem = s.mem := by cases l <;> rfl
theorem State.setBusy_pend (s : State) (l : Loc) (op n : Nat) (b : BitVec 64) : (s.setBusy l op n b).pend = s.pend := by cases l <;> rfl

/-- Bit `b` of a busy map is clear, and nothing else of the map, of memory or of what is in flight has changed. -/
theorem State.setBusy_clears (s : State) (l : Loc) (op n : Nat) {b : Nat} (hb : b < 64) :
    let t := s.setBusy l op n (s.busyMap l op n &&& ~~~ bit64 b)
    (t.busyMap l op n).getLsbD b = false ∧ (∀ j < 64, j ≠ b → (t.busyMap l op n).getLsbD j = (s.busyMap l op n).getLsbD j) ∧
      t.mem = s.mem ∧ t.pend = s.pend := by
  dsimp only
  rw [State.busyMap_setBusy]
  refine ⟨?_, fun j hj h => ?_, State.setBusy_mem .., State.setBusy_pend ..⟩
  · simp [getLsbD_bit64 b b hb hb]
  · rw [BitVec.getLsbD_and, BitVec.getLsbD_not, getLsbD_bit64 b j hb hj]
    simp [hj, h.symm]

theorem tokCreditBit_lt (tok : Token) : fld (tokPay tok) 0 6 < 64 := BitVec.isLt _

theorem State.credit_engine (s : State) (e : Nat) (tok : Token) : s.credit (.eng e) tok =
    s.setBusy (.eng e) (tokOp tok) (fld (tokPay tok) 8 3)
      (s.busyMap (.eng e) (tokOp tok) (fld (tokPay tok) 8 3) &&& ~~~ bit64 (fld (tokPay tok) 0 6)) := rfl

/-- At the pool a credit return means the first group of its context whose map of the slot has the bit set. -/
theorem State.credit_pool {s : State} {d : Nat} {tok : Token} {g : Nat} {y : Group}
    (first : (((s.units d).groups.filter fun z => z.2.holds && z.2.ctx == tokCtx tok).find?
      fun z => (s.busyMap (.pool d) (256 * z.1 + tokOp tok) (fld (tokPay tok) 8 3)).getLsbD (fld (tokPay tok) 0 6)) = some (g, y)) :
    s.credit (.pool d) tok = s.setBusy (.pool d) (256 * g + tokOp tok) (fld (tokPay tok) 8 3)
      (s.busyMap (.pool d) (256 * g + tokOp tok) (fld (tokPay tok) 8 3) &&& ~~~ bit64 (fld (tokPay tok) 0 6)) := by
  simp only [← and_bit64_bne_zero _ (tokCreditBit_lt tok)] at first
  simp only [State.credit, first]

/-! ### TOKEN_ARRIVAL (R58) -/

/-- The store that a unit number names. -/
def storeOf (die unit : Nat) : Loc := if unit = 248 then .pool die else .eng (72 * die + unit)

section
variable {s : State} {die unit : Nat} {tok : Token} {init : Bool} {src : Nat}

theorem exec_tokenArrival (h : unit ≤ 71 ∨ unit = 248) :
    exec (.tokenArrival die unit tok ⟨init, src⟩) s = .next (s.arriveCtx (storeOf die unit) tok init) := by
  obtain small | rfl := h
  · rw [storeOf, if_neg (by omega)]
    exact if_pos small
  · rfl

/-- A unit without a store drops the token with a record that names the sender (R20, R23). -/
theorem exec_tokenArrival_unstored (h : 71 < unit) (pool : unit ≠ 248) :
    exec (.tokenArrival die unit tok ⟨init, src⟩) s = .next (s.frameReport die src tok) :=
  (if_neg (Nat.not_le.mpr h)).trans (if_neg pool)

theorem isTorn_iff (x : Ctx) : x.isTorn = true ↔ x.st = .tearing ∨ (x.st = .free ∧ x.torn = true) := by simp [Ctx.isTorn]

theorem isTorn_eq_false {x : Ctx} (h : ¬ (x.st = .tearing ∨ (x.st = .free ∧ x.torn = true))) : x.isTorn = false :=
  Bool.eq_false_iff.mpr fun torn => h ((isTorn_iff x).mp torn)

end

theorem tokenArrivals : TokenArrivals := by
  intro s die unit tok init src
  refine ⟨fun hu torn here => ?_, fun hu torn away => ?_, fun hu torn => ?_, exec_tokenArrival_unstored⟩
  · have resident := (exec_tokenArrival (src := src) (init := init) hu).trans
      (congrArg Host.Outcome.next (State.arriveCtx_resident (l := storeOf die unit) (isTorn_eq_false torn) here))
    refine ⟨fun credit small => ?_, fun g y credit pool first => ?_,
      fun data good plain live empty => ?_, fun data good plain live full => ?_,
      fun data good plain dead => ?_, fun data good matched sticky => ?_, fun data bad => ?_⟩
    · have eng : storeOf die unit = .eng (72 * die + unit) := if_neg (by omega)
      refine ⟨_, resident.trans (congrArg Host.Outcome.next (State.arrive_credit credit)), ?_⟩
      dsimp only
      rw [← storeOf, eng, State.credit_engine]
      exact State.setBusy_clears s _ _ _ (tokCreditBit_lt tok)
    · subst pool
      refine ⟨_, resident.trans (congrArg Host.Outcome.next (State.arrive_credit credit)), ?_⟩
      rw [show storeOf die 248 = .pool die from rfl, State.credit_pool first]
      exact State.setBusy_clears s _ _ _ (tokCreditBit_lt tok)
    · obtain ⟨one, ⟨unrod, forward⟩, unsticky⟩ := plain
      obtain ⟨slot, others, mem, pend, engines⟩ :=
        State.arrive_fills rfl rfl data good unrod forward one unsticky (slotNum_plain unsticky _) live empty
      exact ⟨_, resident, slot, others, mem, pend, engines⟩
    · obtain ⟨one, ⟨unrod, forward⟩, unsticky⟩ := plain
      exact resident.trans (congrArg Host.Outcome.next
        (State.arrive_double rfl rfl data good unrod forward one unsticky (slotNum_plain unsticky _) live full))
    · obtain ⟨one, ⟨unrod, forward⟩, unsticky⟩ := plain
      exact resident.trans (congrArg Host.Outcome.next (State.arrive_dead rfl rfl data good unrod forward one unsticky dead))
    · obtain ⟨unrod, forward⟩ := matched
      obtain ⟨slots, mem⟩ := State.stickyReplace_stores (slotNum_sticky sticky (tokCol tok))
      have after := slots.trans (SameSlots.touch _ (storeOf die unit).die (tokCtx tok))
      refine ⟨_, resident.trans (congrArg Host.Outcome.next (State.arrive_sticky rfl rfl data good unrod forward sticky)),
        (after.slot ..).trans (State.slot_setSlot ..), fun m hm => (after.slot ..).trans (State.slot_setSlot_ne _ _ _ hm), mem⟩
    · exact resident.trans (congrArg Host.Outcome.next (State.arrive_refused data bad))
  · exact (exec_tokenArrival hu).trans (congrArg Host.Outcome.next (State.arriveCtx_away (isTorn_eq_false torn) away))
  · exact (exec_tokenArrival hu).trans (congrArg Host.Outcome.next (State.arriveCtx_torn ((isTorn_iff _).mpr torn)))

end Sys2Proof.Machine
end

section
/-!
LOOP operators (R39), spilled tokens that return (R28), pushed tiles (R46, R210) and exits (R314).
-/
namespace Sys2Proof.Machine
open Sys2Proof Sys2Proof.Machine Sys2Proof.Cert

/-! ### LOOP_ARM (R39) -/

section
variable {s : State} {e op c : Nat} {x : Engine} {o : OpEntry} {f : Frame} (hx : s.engine e = x) (ho : x.op op = o)
  (hf : tget {} x.t.ft o.frame = f) (loop : o.h.kind = .loop) (used : f.v = true) (running : (s.ctx f.ctx).st = .running)
include hx ho hf loop used running

/-- The state without the pair of tokens with which a LOOP arms. -/
def State.takePair (s : State) (e : Nat) (f : Frame) (o : OpEntry) (c : Nat) : State :=
  (s.setSlot (.eng e) (slotNum f o c 0) {}).setSlot (.eng e) (slotNum f o c 1) {}

/-- The state in which one more arming of a LOOP is open. -/
def State.addArming (s : State) (e op : Nat) (r : OpRun) (a : Arming) : State :=
  s.setEngine e { s.engine e with t := { (s.engine e).t with orun := tset {} (s.engine e).t.orun op { r with arms := r.arms ++ [a] } } }

theorem exec_loopArm (room : (x.run op).arms.length < 4)
    (first : (f.window.find? fun c => (s.portTok (.eng e) f o c 0).isSome && (s.portTok (.eng e) f o c 1).isSome) = some c)
    {cnt : Token} (hcnt : (s.portTok (.eng e) f o c 1).getD 0 = cnt) :
    exec (.loopArm e op) s = .next (
      if 4096 < (tokPay cnt).toNat then (s.takePair e f o c).dropTok (.eng e) cFrame cnt 0
      else if (tokPay cnt).toNat = 0 then (s.takePair e f o c).loopSend e op (o.h.olcnt - 1) c 0 0
      else (s.takePair e f o c).addArming e op (x.run op)
        { n := (tokPay cnt).toNat, outer := c, start := tokPay ((s.portTok (.eng e) f o c 0).getD 0) }) := by
  have may : ¬ (o.h.kind ≠ .loop ∨ f.v = false ∨ 4 ≤ (x.run op).arms.length ∨ (s.ctx f.ctx).st ≠ .running) := by
    simp [loop, used, running]; omega
  simp only [exec, execLoopArm, hx, ho, hf, if_neg may, first, hcnt]
  split
  · rfl
  · split <;> rfl

end

/-- Both slots of the pair are empty, and nothing but slots of the engine has changed. -/
theorem State.slot_takePair (s : State) (e : Nat) (f : Frame) (o : OpEntry) (c : Nat) :
    ((s.takePair e f o c).slot (.eng e) (slotNum f o c 0)).p = false ∧
    ((s.takePair e f o c).slot (.eng e) (slotNum f o c 1)).p = false ∧
      ∀ m, m ≠ slotNum f o c 0 → m ≠ slotNum f o c 1 → (s.takePair e f o c).slot (.eng e) m = s.slot (.eng e) m := by
  refine ⟨?_, by rw [State.takePair, State.slot_setSlot], fun m h0 h1 => ?_⟩
  · by_cases same : slotNum f o c 0 = slotNum f o c 1
    · rw [State.takePair, same, State.slot_setSlot]
    · rw [State.takePair, State.slot_setSlot_ne _ _ _ same, State.slot_setSlot]
  · rw [State.takePair, State.slot_setSlot_ne _ _ _ h1, State.slot_setSlot_ne _ _ _ h0]

theorem State.arms_addArming (s : State) (e op : Nat) (r : OpRun) (a : Arming) :
    (((s.addArming e op r a).engine e).run op).arms = r.arms ++ [a] := by
  rw [State.addArming, State.engine_setEngine, Engine.run, tget_tset_same]

theorem SameSlots.addArming (s : State) (e op : Nat) (r : OpRun) (a : Arming) : SameSlots s (s.addArming e op r a) :=
  SameSlots.setEngine rfl

theorem loopArms : LoopArms := by
  intro s e op c run x o l f cnt n taken loop used room running first
  have arm := exec_loopArm (s := s) (e := e) (op := op) rfl rfl rfl loop used running room first rfl
  refine ⟨fun pos small => ?_, fun zero => ?_, fun big => ?_⟩
  · rw [if_neg (Nat.not_lt.mpr small), if_neg (Nat.pos_iff_ne_zero.mp pos)] at arm
    have slots := SameSlots.addArming (s.takePair e f o c) e op (x.run op)
      { n := n, outer := c, start := tokPay ((s.portTok l f o c 0).getD 0) }
    obtain ⟨start, count, others⟩ := s.slot_takePair e f o c
    exact ⟨_, arm, State.arms_addArming .., by rw [slots.slot]; exact start, by rw [slots.slot]; exact count,
      fun m h0 h1 => (slots.slot l m).trans (others m h0 h1), rfl, rfl⟩
  · have small : ¬ 4096 < n := by omega
    rw [if_neg small, if_pos zero] at arm
    exact arm
  · rw [if_pos big] at arm
    exact arm

/-! ### Messages that stay in flight -/

/-- From `s` to `t` no message has arrived, and the engines and memory are the same. -/
structure Sends (s t : State) : Prop where
  pend : ∀ m ∈ s.pend, m ∈ t.pend
  eng : SameEng s t
  mem : t.mem = s.mem

namespace Sends
variable {s t u : State}

theorem refl (s : State) : Sends s s := ⟨fun _ h => h, .refl s, rfl⟩
theorem trans (h : Sends s t) (k : Sends t u) : Sends s u := ⟨fun m hm => k.pend m (h.pend m hm), h.eng.trans k.eng, k.mem.trans h.mem⟩

theorem foldl {α : Type} {f : State → α → State} (l : List α) (h : ∀ t a, Sends t (f t a)) (s : State) : Sends s (l.foldl f s) :=
  foldl_of_trans refl trans l (fun a _ t => h t a) s

theorem postDep (s : State) (l : List Nat) (i : Instr) : Sends s (s.postDep l i) := ⟨fun _ h => List.mem_append_left _ h, .refl s, rfl⟩

theorem sendToken (s : State) (deps : List Nat) (t : Token) (r : Option Word) (who : Origin) : Sends s (s.sendToken deps t r who) :=
  postDep ..

theorem raise (s : State) (d : Nat) (r : Record) : Sends s (s.raise d r) where
  pend m h := by
    unfold State.raise
    refine List.mem_append_left _ ?_
    split
    · split
      · unfold State.faultInst
        split
        · exact h
        · dsimp only
          split <;> exact h
      · exact h
    · exact h
  eng := .raise ..
  mem := (Aside.raise ..).mem

theorem report (s : State) (d cause : Nat) (who : Origin) (ad det : Word) (tok : Option Token) :
    Sends s (s.report d cause who ad det tok) := raise ..

theorem loopSend (s : State) (e op n c run : Nat) (pay : Word) : Sends s (s.loopSend e op n c run pay) := by
  unfold State.loopSend
  dsimp only
  split
  · exact report ..
  · split
    · exact sendToken ..
    · exact foldl _ (fun _ _ => sendToken ..) s

end Sends

/-! ### LOOP_HAND_OUT (R39) -/

/-- The token with which a LOOP hands out `run` + 1 colours from `c` on by a reference. -/
def handOutToken (ref : Word) (ctx c run : Nat) (pay : Word) : Token :=
  { die := refDie ref, unit := refUnit ref, op := refOp ref, port := refPort ref, col := colourTo (refCt ref) (refCimm ref) c, run := run,
    frame := refFrame ref, ctx := ctx, pay := pay : TokF }.mk128

theorem tokFields_handOutToken (ref : Word) (ctx c run : Nat) (pay : Word) : tokFields (handOutToken ref ctx c run pay) =
    { die := refDie ref % 4, unit := refUnit ref % 256, op := refOp ref % 256, port := refPort ref % 4,
      col := colourTo (refCt ref) (refCimm ref) c % 4096, run := run % 32, frame := refFrame ref % 1024, ctx := ctx % 64, pay := pay } :=
  tokFields_mk128 _

/-- A reference that keeps or shifts the colour takes one run token to its engine. -/
theorem State.loopSend_engine {s : State} {e op n : Nat} {ref : Word} (href : (s.engine e).ref ((s.engine e).op op) n = ref)
    (unit : refUnit ref ≤ 71) (ct : refCt ref ≤ 1) (c run : Nat) (pay : Word) :
    ∃ ctx src, s.loopSend e op n c run pay =
      s.postDep [] (.tokenArrival (refDie ref) (refUnit ref) (handOutToken ref ctx c run pay) ⟨false, src⟩) := by
  have ok : unitOk (refUnit ref) ≠ false := by simp [unitOk, unit]
  have hdie (ctx : Nat) : tokDie (handOutToken ref ctx c run pay) = refDie ref :=
    (congrArg TokF.die (tokFields_handOutToken ..)).trans (Nat.mod_eq_of_lt (BitVec.isLt _))
  have hunit (ctx : Nat) : tokUnit (handOutToken ref ctx c run pay) = refUnit ref :=
    (congrArg TokF.unit (tokFields_handOutToken ..)).trans (Nat.mod_eq_of_lt (BitVec.isLt _))
  obtain ⟨ctx, who, sent⟩ : ∃ ctx who, s.loopSend e op n c run pay =
      s.sendToken [] (handOutToken ref ctx c run pay) (some ref) who := by
    simp only [State.loopSend, href, if_neg ok, if_pos ct]
    exact ⟨_, _, rfl⟩
  exact ⟨ctx, who.src, by rw [sent, State.sendToken_arrival (.inl (by rw [hunit]; exact unit)), hdie, hunit]⟩

section
variable {s : State} {e op : Nat} {x : Engine} {o : OpEntry} {f : Frame} {a : Arming} {n first : Nat}

/-- The engine of a LOOP with `n` more colours of an arming handed out, the first of the arming being `first`. -/
def Engine.handOut (x : Engine) (op first n : Nat) : Engine :=
  let o := x.op op
  let f := tget {} x.t.ft o.inner
  { x with t := { x.t with
      orun := tset {} x.t.orun op { x.run op with
        arms := modifyFirst (fun b => decide (b.handed < b.n))
          (fun b => { b with first := first, handed := b.handed + n }) (x.run op).arms }
      ft := tset {} x.t.ft o.inner { f with next := (f.next + n) % 4096 } } }

/-- What follows a hand-out: run tokens on every reference but the last. -/
def State.handOutTokens (s : State) (e op count c run : Nat) (pay : Word) : State :=
  (List.range count).foldl (fun u k => u.loopSend e op k c run pay) s

theorem exec_loopHandOut (hx : s.engine e = x) (ho : x.op op = o) (hf : tget {} x.t.ft o.inner = f) (loop : o.h.kind = .loop)
    (used : f.v = true) (running : (s.ctx f.ctx).st = .running)
    (oldest : ((x.run op).arms.find? fun b => decide (b.handed < b.n)) = some a)
    (hn : Nat.min (Nat.min (a.n - a.handed) (f.w - (f.next + 4096 - f.wbase) % 4096)) 32 = n) (pos : 1 ≤ n)
    (hfirst : (if a.handed = 0 then f.next else a.first) = first) :
    exec (.loopHandOut e op) s = .next ((s.setEngine e (x.handOut op first n)).handOutTokens e op (o.h.olcnt - 1) f.next (n - 1)
      (BitVec.ofNat 64 (a.start.toNat * 4096 + first))) := by
  have may : ¬ (o.h.kind ≠ .loop ∨ f.v = false ∨ (s.ctx f.ctx).st ≠ .running) := by simp [loop, used, running]
  simp only [exec, execLoopHandOut, hx, ho, hf, if_neg may, oldest, hn, if_neg (Nat.pos_iff_ne_zero.mp pos), hfirst]
  subst ho hf
  rfl

theorem Sends.handOutTokens (s : State) (e op count c run : Nat) (pay : Word) : Sends s (s.handOutTokens e op count c run pay) :=
  .foldl _ (fun _ _ => .loopSend ..) s

/-- The element that a search finds is among the list with it replaced. -/
theorem mem_modifyFirst_of_find? {α : Type} {p : α → Bool} (g : α → α) {l : List α} {b : α} (h : l.find? p = some b) :
    g b ∈ modifyFirst p g l := by
  induction l with
  | nil => cases h
  | cons y r ih =>
    rw [modifyFirst]
    cases hp : p y with
    | true =>
      rw [List.find?_cons_of_pos hp] at h
      obtain rfl := Option.some.inj h
      exact List.mem_cons_self
    | false =>
      rw [List.find?_cons_of_neg (by simp [hp])] at h
      exact List.mem_cons_of_mem _ (ih h)

/-- Each reference but the last has its token among the messages sent. -/
theorem State.mem_handOutTokens {count k : Nat} (hk : k < count) {ref : Word} (href : (s.engine e).ref ((s.engine e).op op) k = ref)
    (unit : refUnit ref ≤ 71) (ct : refCt ref ≤ 1) (c run : Nat) (pay : Word) :
    ∃ m ∈ (s.handOutTokens e op count c run pay).pend, ∃ ctx src,
      m.ev = .tokenArrival (refDie ref) (refUnit ref) (handOutToken ref ctx c run pay) ⟨false, src⟩ := by
  induction count with
  | zero => omega
  | succ count ih =>
    have last : s.handOutTokens e op (count + 1) c run pay = (s.handOutTokens e op count c run pay).loopSend e op count c run pay := by
      simp [State.handOutTokens, List.range_succ]
    rw [last]
    by_cases same : k = count
    · subst same
      obtain ⟨ctx, src, sent⟩ := State.loopSend_engine (s := s.handOutTokens e op k c run pay) (e := e) (op := op)
        (by rw [(Sends.handOutTokens ..).eng.engine]; exact href) unit ct c run pay
      rw [sent]
      exact ⟨_, List.mem_append_right _ List.mem_cons_self, ctx, src, rfl⟩
    · obtain ⟨m, hm, rest⟩ := ih (by omega)
      exact ⟨m, (Sends.loopSend ..).pend m hm, rest⟩

end

theorem loopHandsOut : LoopHandsOut := by
  intro s e op a x o f n first loop used running oldest pos
  have le : n ≤ 32 := Nat.min_le_right ..
  have sends := Sends.handOutTokens (s.setEngine e (x.handOut op first n)) e op (o.h.olcnt - 1) f.next (n - 1)
    (BitVec.ofNat 64 (a.start.toNat * 4096 + first))
  have after := (sends.eng.engine e).trans (State.engine_setEngine ..)
  refine ⟨_, exec_loopHandOut rfl rfl rfl loop used running oldest rfl pos rfl, ?_, ?_, sends.mem, ?_⟩
  · rw [after]
    exact congrArg Frame.next (tget_tset_same ..)
  · rw [after, Engine.run, Engine.handOut, tget_tset_same]
    exact mem_modifyFirst_of_find? (fun b : Arming => { b with first := first, handed := b.handed + n }) oldest
  · intro k hk ref unit ct
    obtain ⟨m, hm, ctx, src, ev⟩ := State.mem_handOutTokens (s := s.setEngine e (x.handOut op first n)) (e := e) (op := op)
      (count := o.h.olcnt - 1) (k := k) (ref := ref) (by omega) (by rw [State.engine_setEngine]; rfl) unit ct f.next (n - 1)
      (BitVec.ofNat 64 (a.start.toNat * 4096 + first))
    have fields := tokFields_handOutToken ref ctx f.next (n - 1) (BitVec.ofNat 64 (a.start.toNat * 4096 + first))
    have run : tokRun (handOutToken ref ctx f.next (n - 1) (BitVec.ofNat 64 (a.start.toNat * 4096 + first))) = (n - 1) % 32 :=
      congrArg TokF.run fields
    exact ⟨m, hm, _, src, ev, congrArg TokF.col fields, by omega, congrArg TokF.pay fields⟩

/-! ### OVERFLOW_REINJECT (R28) -/

/-- The store that an entry of the overflow region of a die names; 255 stands for the pool (R317). -/
def storeOfSpilled (die eng : Nat) : Loc := if eng = 255 then .pool die else .eng (72 * die + eng)

section
variable {s u : State} {die eng frame i : Nat} {b : List Byte} {l : Loc} {f : Frame}

/-- The token that comes back is the one of the frame that is first among those that are live. -/
theorem exec_overflowReinject (hdie : die < 4) (hl : storeOfSpilled die eng = l) (hf : s.frame l frame = f) (used : f.v = true)
    (runs : (s.ctx f.ctx).st = .running ∨ (s.ctx f.ctx).st = .draining)
    (first : pickMin (fun x y => ovBefore f x.2 y.2) ((s.ovUsed die f.ctx).filter fun x =>
      ovLoc die x.2 == l && tokFrame (ovToken x.2) == frame && f.live (tokCol (ovToken x.2)) && ovFlags x.2 / 2 % 2 == 0) = some (i, b)) :
    exec (.overflowReinject die eng frame) s = .next (s.reinject die f.ctx i b) := by
  have may : ¬ (f.v = false ∨ ((s.ctx f.ctx).st ≠ .running ∧ (s.ctx f.ctx).st ≠ .draining)) := by
    obtain h | h := runs <;> simp [used, h]
  subst hl hf
  refine (if_neg (Nat.not_le.mpr hdie)).trans ((if_neg may).trans ?_)
  dsimp only
  split
  · next found =>
    cases Option.some.inj (found.symm.trans first)
    rfl
  · next none => cases none.symm.trans first

/-- The entry is freed and its token is in flight again, behind the reinjections of its frame. -/
structure Reinjected (u t : State) (die : Nat) (l : Loc) (frame : Nat) (b : List Byte) (h : Nat) : Prop where
  freed : t.rdByte h = 0
  others : ∀ k, k ≠ h → t.rdByte k = u.rdByte k
  pend : ∀ m ∈ u.pend, m ∈ t.pend
  sent : ∃ id, ⟨id, u.reinjecting l frame, .tokenArrival l.die l.unit (ovToken b) ⟨false, 256 * die + 255⟩⟩ ∈ t.pend

theorem State.reinject_ok {c : Nat} (hl : ovLoc die b = l) (hframe : tokFrame (ovToken b) = frame) {hs : List Nat}
    (homes : s.ovHomes die c i .store = (.ok hs, u)) : Reinjected u (s.reinject die c i b) die l frame b (hs.getD 21 0) := by
  have stored : SamePend u (u.storeHomes [hs.getD 21 0] [0]) := .storeHomes ..
  simp only [State.reinject, homes, hl, hframe]
  refine ⟨?_, fun k hk => ?_, fun m hm => ?_, _, List.mem_append_right _ List.mem_cons_self⟩
  · refine (State.rdByte_storeHomes u [hs.getD 21 0] [0] _).trans ?_
    rw [State.wrHomes_cons]
    exact (State.rdByte_wrByte ..).trans (if_pos rfl)
  · exact State.rdByte_storeHomes_of_not_mem (by simpa using hk)
  · exact List.mem_append_left _ (stored.symm ▸ hm)

theorem State.reinject_error {c : Nat} {g : Failure} (homes : s.ovHomes die c i .store = (.error g, u)) :
    s.reinject die c i b = u.ovSpill die c (u.tokOrigin (ovLoc die b) (ovToken b)).inst g := by
  simp only [State.reinject, homes]

end

/-- A spilled token that is picked to come back is of the store and the frame. -/
theorem spilled_of_pickMin {lt : Nat × List Byte → Nat × List Byte → Bool} {l : Loc} {die frame i : Nat} {b : List Byte} {f : Frame}
    {used : List (Nat × List Byte)} (first : pickMin lt (used.filter fun x =>
      ovLoc die x.2 == l && tokFrame (ovToken x.2) == frame && f.live (tokCol (ovToken x.2)) && ovFlags x.2 / 2 % 2 == 0) = some (i, b)) :
    ovLoc die b = l ∧ tokFrame (ovToken b) = frame := by
  have := (List.mem_filter.mp (pickMin_mem first)).2
  simp only [Bool.and_eq_true, beq_iff_eq] at this
  obtain ⟨⟨⟨store, of_frame⟩, _⟩, _⟩ := this
  exact ⟨store, of_frame⟩

theorem spilledReturns : SpilledReturns := by
  intro s die eng frame i b hdie l f used runs first
  have run := exec_overflowReinject hdie rfl rfl used runs first
  obtain ⟨store, of_frame⟩ := spilled_of_pickMin first
  refine ⟨fun hs u homes => ?_, fun g u homes => ?_⟩
  · obtain ⟨freed, others, pend, id, sent⟩ := State.reinject_ok store of_frame homes
    exact ⟨_, id, run, freed, others, pend, sent⟩
  · exact run.trans (congrArg Host.Outcome.next (State.reinject_error homes))

/-! ### PUSH_LANDING (R46, R210) -/

section
variable (t : Token) (v : Word)

theorem tokOp_withPay : tokOp (tokWithPay t v) = tokOp t := congrArg TokF.op (tokFields_withPay t v)
theorem tokPort_withPay : tokPort (tokWithPay t v) = tokPort t := congrArg TokF.port (tokFields_withPay t v)
theorem tokCol_withPay : tokCol (tokWithPay t v) = tokCol t := congrArg TokF.col (tokFields_withPay t v)
theorem tokRun_withPay : tokRun (tokWithPay t v) = tokRun t := congrArg TokF.run (tokFields_withPay t v)
theorem tokFrame_withPay : tokFrame (tokWithPay t v) = tokFrame t := congrArg TokF.frame (tokFields_withPay t v)
theorem tokCtx_withPay : tokCtx (tokWithPay t v) = tokCtx t := congrArg TokF.ctx (tokFields_withPay t v)
theorem tokPay_withPay : tokPay (tokWithPay t v) = v := congrArg TokF.pay (tokFields_withPay t v)

end

/-- Rows from number `r` on written where a descriptor places them. -/
def State.landFrom (s : State) (e : Nat) (d : Word) (r : Nat) : List (List Byte) → State
  | [] => s
  | bs :: rest => (s.storeHomes ((List.range bs.length).map fun i => scratchHome e (tileByte d r i)) bs).landFrom e d (r + 1) rest

theorem State.landRows_eq_landFrom (s : State) (e : Nat) (d : Word) (rows : List (List Byte)) :
    s.landRows e d rows = s.landFrom e d 0 rows := by
  have from_ (r : Nat) (t : State) : (rows.zipIdx r).foldl (fun t (bs, r) =>
      t.storeHomes ((List.range bs.length).map fun i => scratchHome e (tileByte d r i)) bs) t = t.landFrom e d r rows := by
    induction rows generalizing r t with
    | nil => rfl
    | cons bs rest ih => exact ih _ _
  exact from_ 0 s

/-- The homes of the bytes of a row of a tile. -/
def rowHomes (e : Nat) (d : Word) (r n : Nat) : List Nat := (List.range n).map fun i => scratchHome e (tileByte d r i)

/-- The homes of rows from number `r` on. -/
def homesFrom (e : Nat) (d : Word) (r : Nat) : List (List Byte) → List Nat
  | [] => []
  | bs :: rest => rowHomes e d r bs.length ++ homesFrom e d (r + 1) rest

theorem homesFrom_eq (e : Nat) (d : Word) (rows : List (List Byte)) (r : Nat) : homesFrom e d r rows =
    (List.range rows.length).flatMap fun k => rowHomes e d (r + k) (rows.getD k []).length := by
  induction rows generalizing r with
  | nil => rfl
  | cons bs rest ih =>
    rw [homesFrom, ih, List.length_cons, List.range_succ_eq_map, List.flatMap_cons, List.flatMap_map]
    simp [Nat.add_comm, Nat.add_left_comm]

theorem State.rdByte_landFrom_of_not_mem {s : State} {e : Nat} {d : Word} {r h : Nat} {rows : List (List Byte)}
    (hn : h ∉ homesFrom e d r rows) : (s.landFrom e d r rows).rdByte h = s.rdByte h := by
  induction rows generalizing s r with
  | nil => rfl
  | cons bs rest ih =>
    obtain ⟨here, later⟩ := not_or.mp (mt List.mem_append.mpr hn)
    exact (ih later).trans (State.rdByte_storeHomes_of_not_mem here)

/-- Rows at different homes read back byte by byte. -/
theorem State.rdByte_landFrom {s : State} {e : Nat} {d : Word} {r : Nat} {rows : List (List Byte)} (nd : (homesFrom e d r rows).Nodup)
    {k i : Nat} {v : Byte} (hv : (rows.getD k [])[i]? = some v) :
    (s.landFrom e d r rows).rdByte (scratchHome e (tileByte d (r + k) i)) = v := by
  induction rows generalizing s r k with
  | nil => simp at hv
  | cons bs rest ih =>
    obtain ⟨here, later, apart⟩ := List.nodup_append.mp nd
    cases k with
    | zero =>
      rw [List.getD_cons_zero] at hv
      obtain ⟨hi, _⟩ := List.getElem?_eq_some_iff.mp hv
      have mem : scratchHome e (tileByte d r i) ∈ rowHomes e d r bs.length := List.mem_map_of_mem (List.mem_range.mpr hi)
      have back := State.rdHomes_storeHomes (s := s) here (by simp [rowHomes] : (rowHomes e d r bs.length).length = bs.length)
      refine (State.rdByte_landFrom_of_not_mem fun h => apart _ mem _ h rfl).trans ?_
      have read : ((rowHomes e d r bs.length).map (s.storeHomes (rowHomes e d r bs.length) bs).rdByte)[i]? = some v :=
        (congrArg (·[i]?) back).trans hv
      rw [rowHomes, List.map_map, List.getElem?_map, List.getElem?_range hi] at read
      exact Option.some.inj read
    | succ k =>
      rw [show r + (k + 1) = r + 1 + k by omega]
      exact ih later hv

section
variable {s : State} {die unit : Nat} {tok : Token} {rows : List (List Byte)} {tans : List (List (List Byte))}

/-- A copy for an operator of an engine is written, and its token arrives with the descriptor of the sub-slot. -/
theorem exec_pushLanding (hdie : die < 4) (hunit : unit < 72) {e : Nat} (he : 72 * die + unit = e) {o : OpEntry}
    (ho : (s.engine e).op (tokOp tok) = o) {d : Word} (hd : dWithBase (tokPay tok) (o.inLine (tokPort tok) (tokCol tok % o.rcnt)) = d)
    (used : o.h.kind ≠ .none) (torn : (s.ctx (tokCtx tok)).isTorn = false) :
    exec (.pushLanding die unit tok rows tans) s = .next (((s.landRows e d rows).landTans e (s.shadowStride e (tokOp tok))
      (s.consumerK tok (tget {} (s.engine e).t.ft (tokFrame tok)).inst) d tans).arriveCtx (.eng e) (tokWithPay tok d) false) := by
  subst he ho hd
  refine (if_neg (by omega)).trans ?_
  rw [if_neg (by simp [used, torn])]

/-- A consumer without tangents has no shadow plane written (R210). -/
theorem State.landTans_none (s : State) (e str : Nat) (d : Word) (tans : List (List (List Byte))) : s.landTans e str 0 d tans = s := by
  simp [State.landTans]

end

theorem pushLands : PushLands := by
  intro s die unit tok rows tans hdie hunit run e l o d kc landed named used torn
  have land := exec_pushLanding (rows := rows) (tans := tans) hdie hunit rfl rfl rfl used torn
  refine ⟨land, fun none => ?_, fun untorn here data checks one unrod unsticky forward live empty => ?_⟩
  · have plain : landed = s.landRows e d rows := by
      show State.landTans _ _ _ kc _ _ = _
      rw [none]; exact State.landTans_none ..
    refine ⟨plain, fun nd r i v hv => ?_⟩
    rw [plain, State.landRows_eq_landFrom]
    have apart : (homesFrom e d 0 rows).Nodup := by
      rw [homesFrom_eq]
      simp only [Nat.zero_add]
      exact nd
    simpa only [Nat.zero_add] using State.rdByte_landFrom (s := s) apart hv
  · obtain ⟨slot, _, mem, pend, _⟩ :=
      State.arrive_fills (init := false) rfl rfl data ⟨checks, by simp⟩ unrod forward one unsticky rfl live empty
    exact ⟨_, land.trans (congrArg Host.Outcome.next (State.arriveCtx_resident untorn here)), slot, mem, pend⟩

/-! ### EXIT_TOKEN (R314) -/

section
variable {s : State} {tok : Token} {who : Origin} {k : Nat} {x : Kernel}

/-- The record of an exit token that is dropped, which names the command processor (R314). -/
def State.dropExit (s : State) (tok : Token) (i : Option Nat) : State :=
  s.report 0 cFrame ⟨tokCtx tok, i, 0, 252, tokOp tok, tokCol tok⟩ 0 0 (some tok)

theorem exec_exitToken_unknown (torn : (s.ctx (tokCtx tok)).isTorn = false) (no : s.instKernel (tokCtx tok) (fld (tokPay tok) 0 8) = none) :
    exec (.exitToken tok who) s = .next (s.dropExit tok none) := by
  refine (if_neg (by simp [torn])).trans ?_
  dsimp only
  rw [no]
  rfl

theorem exec_exitToken (torn : (s.ctx (tokCtx tok)).isTorn = false) (hk : s.instKernel (tokCtx tok) (fld (tokPay tok) 0 8) = some k)
    (hx : s.kernel k = x) {n : Nat} (hn : x.exits.toNat + tokRun tok + 1 = n) :
    exec (.exitToken tok who) s =
      if fld (tokPay tok) 8 6 ≠ tokCtx tok ∨ (x.st ≠ .running ∧ x.st ≠ .draining ∧ x.st ≠ .faulted) then
        .next (s.dropExit tok none)
      else if x.nexit.toNat < n then .next (s.dropExit tok (some (fld (tokPay tok) 0 8)))
      else
        .next (s.setKernel k { x with exits := BitVec.ofNat 32 n, st := if n = x.nexit.toNat ∧ x.st = .running then .draining else x.st }) := by
  subst hx hn
  refine (if_neg (by simp [torn])).trans ?_
  dsimp only
  rw [hk]
  rfl

end

theorem exitsCount : ExitsCount := by
  intro s tok who run c inst dropped torn
  refine ⟨fun k hk => ?_, fun no => exec_exitToken_unknown torn no⟩
  intro x n exits
  have exit := exec_exitToken (who := who) torn hk rfl rfl
  have named : exits ↔ ¬ (fld (tokPay tok) 8 6 ≠ tokCtx tok ∨ (x.st ≠ .running ∧ x.st ≠ .draining ∧ x.st ≠ .faulted)) := by
    show (fld (tokPay tok) 8 6 = tokCtx tok ∧ _) ↔ _
    tauto
  refine ⟨fun ok within => ?_, fun ok past => ?_, fun bad => ?_⟩
  · rw [if_neg (named.mp ok), if_neg (Nat.not_lt.mpr within)] at exit
    have counted : (BitVec.ofNat 32 n).toNat = n := Nat.mod_eq_of_lt (Nat.lt_of_le_of_lt within (BitVec.isLt _))
    refine ⟨_, exit, ?_, ?_, ?_⟩ <;> rw [State.kernel_setKernel]
    exact counted
  · rw [if_neg (named.mp ok), if_pos past] at exit
    exact exit
  · rw [if_pos (by rwa [named, not_not] at bad)] at exit
    exact exit

/-- Settles O38: a token by the checks of R30, its colour and its slot; a LOOP by its pair and its arming; a spilled token, a pushed tile
and an exit token by what each finds. -/
theorem tokenAndLoopEvents : Obligations.TokenAndLoopEvents :=
  ⟨tokenArrivals, loopArms, loopHandsOut, spilledReturns, pushLands, exitsCount⟩

/-! ### The events complete -/

theorem isTorn_of_running {x : Ctx} (h : x.st = .running) : x.isTorn = false := by simp [Ctx.isTorn, h]

theorem resident_of_running {x : Ctx} (h : x.st = .running) : ¬ (x.st = .ready ∧ x.svalid = true) := by simp [h]

/-- Settles O60: each event answers the state that `TokenAndLoopEvents` gives for it. -/
theorem tokenEventsComplete : Obligations.TokenEventsComplete := by
  refine ⟨?_, ?_, ?_, ?_, ?_, ?_⟩
  · intro s die unit tok init src hu l f o mode n running data checks fresh one unrod unsticky forward live empty
    obtain ⟨arrives, _, _, _⟩ := tokenArrivals s die unit tok init src
    obtain ⟨_, _, present, _⟩ := arrives hu (by simp [running]) (resident_of_running running)
    obtain ⟨t, run, slot, _⟩ := present data
      ⟨checks, fun refused => Bool.false_ne_true (fresh.symm.trans refused.2)⟩ ⟨one, ⟨unrod, forward⟩, unsticky⟩ live empty
    exact ⟨t, run, by rw [slot], by rw [slot, tokPay_withRun], by rw [slot, tokCol_one]⟩
  · intro s e op c x o f n loop used room running first pos small
    obtain ⟨arms, _⟩ := loopArms s e op c loop used room running first
    obtain ⟨t, run, opened, _⟩ := arms pos small
    refine ⟨t, run, by rw [opened, List.length_append]; rfl,
      { n := n, outer := c, start := tokPay ((s.portTok (.eng e) f o c 0).getD 0) }, ?_, rfl, rfl, rfl⟩
    rw [opened]
    exact List.mem_append_right _ List.mem_cons_self
  · intro s e op a x o f loop used running oldest room
    have left : a.handed < a.n := by simpa using List.find?_some oldest
    have pos : 1 ≤ Nat.min (Nat.min (a.n - a.handed) (f.w - (f.next + 4096 - f.wbase) % 4096)) 32 := by
      show 1 ≤ min (min _ _) 32
      omega
    obtain ⟨t, run, next, arm, _⟩ := loopHandsOut s e op a loop used running oldest pos
    exact ⟨t, _, run, pos, next, _, arm, rfl, rfl, rfl⟩
  · intro s u die eng frame i b hs hdie l f used running first homes
    obtain ⟨returns, _⟩ := spilledReturns s die eng frame i b hdie used (.inl running) first
    obtain ⟨t, id, run, freed, _, _, sent⟩ := returns hs u homes
    exact ⟨t, run, freed, _, sent, rfl⟩
  · intro s die unit tok rows tans hdie hunit e l o d named u f p mode n used torn
      running data checks one unrod unsticky forward live empty
    obtain ⟨_, _, lands⟩ := pushLands s die unit tok rows tans hdie hunit used torn
    simp only [tokCtx_withPay, tokFrame_withPay, tokOp_withPay, tokPort_withPay, tokCol_withPay, tokRun_withPay] at lands
    obtain ⟨t, run, slot, mem, _⟩ :=
      lands (isTorn_of_running running) (resident_of_running running) data checks one unrod unsticky forward live empty
    exact ⟨t, run, mem, by rw [slot], by rw [slot, tokPay_withRun, tokPay_withPay]⟩
  · intro s tok who k x n running hk named st within
    obtain ⟨counts, _⟩ := exitsCount s tok who (isTorn_of_running running)
    obtain ⟨counted, _, _⟩ := counts k hk
    obtain ⟨t, run, exits, after, _⟩ := counted ⟨named, st⟩ within
    exact ⟨t, run, exits, fun last goes => by rw [after, if_pos ⟨last, goes⟩]⟩

end Sys2Proof.Machine
end

section
/-!
Words that change nothing but their pass, and the descriptor words (R129–R132).
-/
namespace Sys2Proof.Machine
open Sys2Proof Sys2Proof.Machine Sys2Proof.Cert

/-! ### Words of a pass -/

section
variable {i : Instr} {H : State → Nat → Active → Prop}

/-- A word of a pass gives the pass that it answers wherever `H` holds. -/
theorem passGives_of_passWord {k : State → Nat → Active → PassRes} {r : State → Nat → Active → Pass}
    (run : ∀ s, exec i s = passWord i s (k s)) (ok : ∀ s e a, H s e a → k s e a = .ok (r s e a)) : PassGives i H r := by
  rintro s e sl a ⟨hc, ha⟩ h
  rw [run, passWord_pass i s e sl a _ hc ha, ok s e a h]

/-- A word of a pass aborts it with the cause that it answers wherever `H` holds. -/
theorem passTraps_of_passWord {k : State → Nat → Active → PassRes} {c : Nat}
    (run : ∀ s, exec i s = passWord i s (k s)) (trap : ∀ s e a, H s e a → k s e a = .trap ⟨c, 0, 0⟩) : PassTraps i H c := by
  rintro s e sl a ⟨hc, ha⟩ h
  rw [run, passWord_pass i s e sl a _ hc ha, trap s e a h]

end

/-! ### Fields of a word (R1) -/

theorem testBit_fld {w : Nat} (x : BitVec w) (lo n i : Nat) : (fld x lo n).testBit i = (decide (i < n) && x.getLsbD (lo + i)) := by
  rw [fld, BitVec.testBit_toNat, BitVec.getLsbD_extractLsb']

/-- The low part of a field. -/
theorem fld_mod {w : Nat} (x : BitVec w) (lo m n : Nat) : fld x lo (m + n) % 2 ^ m = fld x lo m := by
  apply Nat.eq_of_testBit_eq
  intro i
  rw [Nat.testBit_mod_two_pow, testBit_fld, testBit_fld]
  by_cases h : i < m <;> simp [h, Nat.lt_add_right]

/-- The high part of a field. -/
theorem fld_div {w : Nat} (x : BitVec w) (lo m n : Nat) : fld x lo (m + n) / 2 ^ m = fld x (lo + m) n := by
  apply Nat.eq_of_testBit_eq
  intro i
  rw [Nat.testBit_div_two_pow, testBit_fld, testBit_fld]
  rw [Nat.add_comm i m, Nat.add_assoc]
  simp

/-- The bits of a word with a field replaced. -/
theorem getLsbD_setField (d : Word) (lo n v : Nat) {i : Nat} (hi : i < 64) :
    (setField d lo n v).getLsbD i = if lo ≤ i ∧ i < lo + n then v.testBit (i - lo) else d.getLsbD i := by
  rw [setField, BitVec.getLsbD_or, BitVec.getLsbD_and, BitVec.getLsbD_not, getLsbD_put, getLsbD_put, Nat.testBit_two_pow_sub_one]
  by_cases h : lo ≤ i
  · have hw : i - lo < n ↔ i < lo + n := by omega
    by_cases hn : i < lo + n <;> simp [hi, h, hn, hw]
  · simp [hi, h]

/-- A field is replaced by a value in one way only. -/
theorem setField_eq {x d v : Word} {lo n : Nat} (field : d.extractLsb' lo n = v.setWidth n)
    (rest : ∀ k < 64, k < lo ∨ lo + n ≤ k → d.getLsbD k = x.getLsbD k) : setField x lo n v.toNat = d := by
  apply BitVec.eq_of_getLsbD_eq
  intro i hi
  rw [getLsbD_setField x lo n _ hi]
  split_ifs with h
  · have hb := congrArg (fun y => y.getLsbD (i - lo)) field
    simp only [BitVec.getLsbD_extractLsb', BitVec.getLsbD_setWidth, show i - lo < n by omega, decide_true, Bool.true_and,
      Nat.add_sub_cancel' h.1] at hb
    rw [BitVec.testBit_toNat, hb]
  · exact (rest i hi (by omega)).symm

/-! ### Descriptors -/

/-- A descriptor put together of its member, its location, what TDMK takes of SB, and its base. -/
theorem put_desc (m : BitVec 4) (l : BitVec 2) (t : BitVec 41) (b : BitVec 14) :
    put 57 4 m.toNat ||| put 55 2 l.toNat ||| put 14 41 t.toNat ||| put 0 14 b.toNat = 0#3 ++ m ++ l ++ t ++ b := by
  apply BitVec.eq_of_getLsbD_eq
  intro i hi
  simp only [BitVec.getLsbD_or, getLsbD_put, BitVec.testBit_toNat, BitVec.getLsbD_append]
  grind

/-- A descriptor with another base keeps the bits above it. -/
theorem dWithBase_eq (d : Word) (b : BitVec 14) : dWithBase d b.toNat = d.extractLsb' 14 50 ++ b := by
  have mask : 0x3FFF#64 = BitVec.ofNat 64 (2 ^ 14 - 1) := by decide
  apply BitVec.eq_of_getLsbD_eq
  intro i hi
  rw [dWithBase, mask, BitVec.getLsbD_or, BitVec.getLsbD_and, BitVec.getLsbD_not, getLsbD_lowMask, getLsbD_put,
    BitVec.testBit_toNat, BitVec.getLsbD_append, BitVec.getLsbD_extractLsb']
  by_cases h : i < 14
  · simp [h, hi]
  · simp [h, hi, show i - 14 < 50 by omega, show 14 + (i - 14) = i by omega]

/-- TDMK of an address in scratch (R131). -/
theorem tdMake_scratch {a t : Word} (line : fld a 0 6 = 0) (inside : fld a 0 20 < 786432) (path : addrPath a = 0xA)
    (rest : fld a 20 40 = 0) :
    tdMake a t = some (0#3 ++ 0#4 ++ 0#2 ++ t.extractLsb' 14 41 ++ a.extractLsb' 6 14) := by
  have low : fld a 0 20 % 64 = 0 := (fld_mod a 0 6 14).trans line
  have high : fld a 0 20 / 64 = fld a 6 14 := fld_div a 0 6 14
  have zeros : put 57 4 0 ||| put 55 2 0 = 0#64 := by decide
  rw [tdMake, if_neg (by omega), if_pos ⟨path, rest⟩, high, ← put_desc]
  simp [zeros, fld]

/-- TDMK of an address in the group window (R131). -/
theorem tdMake_window {a t : Word} (line : fld a 0 6 = 0) (inside : fld a 0 20 < 786432) (path : addrPath a = 0xB)
    (rest : fld a 24 36 = 0) :
    tdMake a t = some (0#3 ++ a.extractLsb' 20 4 ++ 1#2 ++ t.extractLsb' 14 41 ++ a.extractLsb' 6 14) := by
  have low : fld a 0 20 % 64 = 0 := (fld_mod a 0 6 14).trans line
  have high : fld a 0 20 / 64 = fld a 6 14 := fld_div a 0 6 14
  rw [tdMake, if_neg (by omega), if_neg (by omega), if_pos ⟨path, rest⟩, high, ← put_desc]
  rfl

/-- TDMK takes an address in scratch or in the group window alone (R131). -/
theorem tdMake_otherPath {a t : Word} (scratch : addrPath a ≠ 0xA) (window : addrPath a ≠ 0xB) : tdMake a t = none := by
  simp [tdMake, scratch, window]

/-- TDADV within the range of BASE (R131). -/
theorem tdAdvance_inside {d v : Word} {b : BitVec 14} (top : b.toNat ≤ 12287) (sum : (b.toNat : Int) = (dBase d : Int) + v.toInt) :
    tdAdvance d v = some (d.extractLsb' 14 50 ++ b) := by
  simp only [tdAdvance, ← sum]
  rw [if_pos (by omega), Int.toNat_natCast, dWithBase_eq]

/-- TDADV out of the range of BASE (R131; log 20). -/
theorem tdAdvance_outside {d v : Word} (out : (dBase d : Int) + v.toInt < 0 ∨ 12287 < (dBase d : Int) + v.toInt) :
    tdAdvance d v = none := if_neg (by omega)

/-- The fields that TDGET and TDSET name (R130). -/
theorem descField_of_mem {n lo w : Nat} (h : (n, lo, w) ∈ [(0, 0, 14), (1, 14, 6), (2, 20, 3), (3, 24, 8), (4, 32, 4), (5, 36, 3),
    (6, 39, 2), (7, 41, 14), (8, 55, 2), (9, 57, 4)]) : descField n = (lo, w) := by
  simp only [List.mem_cons, List.not_mem_nil, or_false, Prod.mk.injEq] at h
  rcases h with ⟨rfl, rfl, rfl⟩ | ⟨rfl, rfl, rfl⟩ | ⟨rfl, rfl, rfl⟩ | ⟨rfl, rfl, rfl⟩ | ⟨rfl, rfl, rfl⟩ | ⟨rfl, rfl, rfl⟩ |
    ⟨rfl, rfl, rfl⟩ | ⟨rfl, rfl, rfl⟩ | ⟨rfl, rfl, rfl⟩ | ⟨rfl, rfl, rfl⟩ <;> rfl

/-! ### The words -/

section
variable (f : FmtA) (s : State)

theorem exec_tdmk : exec (.tdmk f) s = descWord (.tdmk f) f s fun a b _ => tdMake a b := rfl
theorem exec_tdget : exec (.tdget f) s = passWord (.tdget f) s fun _ a =>
    .ok (a.pass.wrP f.dst (BitVec.ofNat 64 (fld (a.pass.rd s.tick f.sa) (descField f.imm.toNat).1 (descField f.imm.toNat).2))) := rfl
theorem exec_tdset : exec (.tdset f) s = descWord (.tdset f) f s fun a b _ =>
    if b.toNat < 2 ^ (descField f.imm.toNat).2 then
      some (setField a (descField f.imm.toNat).1 (descField f.imm.toNat).2 b.toNat)
    else none := rfl
theorem exec_tdadv : exec (.tdadv f) s = descWord (.tdadv f) f s fun a _ b => tdAdvance a b := rfl
theorem exec_tdsub : exec (.tdsub f) s = descWord (.tdsub f) f s fun a _ b => tdSubRows a (fld b 0 6) (fld b 6 6 + 1) := rfl

end

section
variable {i : Instr} {f : FmtA} {g : Word → Word → Word → Option Word} (run : ∀ s, exec i s = descWord i f s g)
include run

/-- A descriptor word writes the descriptor that it makes, where the checks of R83 pass (R129). -/
theorem passGives_of_descWord {H : State → Active → Prop} {d : State → Active → Word}
    (made : ∀ s a, H s a → g (a.pass.rd s.tick f.sa) (a.pass.rd s.tick f.sb) (opB f (a.pass.rd s.tick f.sb)) = some (d s a)) :
    PassGives i (fun s e a => H s a ∧ descFault (s.nmemOf e) (d s a) = none) fun s _ a => a.pass.wrP f.dst (d s a) := by
  refine passGives_of_passWord run fun s e a ⟨h, sound⟩ => ?_
  have hg : g (a.pass.rd s.tick f.sa) (a.pass.rd s.tick f.sb) (immB f (a.pass.rd s.tick f.sb)) = some (d s a) := made s a h
  simp only [hg, sound]

/-- A descriptor word that makes none raises DESC (R129). -/
theorem passTraps_of_descWord {H : State → Nat → Active → Prop}
    (unmade : ∀ s e a, H s e a → g (a.pass.rd s.tick f.sa) (a.pass.rd s.tick f.sb) (opB f (a.pass.rd s.tick f.sb)) = none) :
    PassTraps i H cDesc := by
  refine passTraps_of_passWord run fun s e a h => ?_
  have hg : g (a.pass.rd s.tick f.sa) (a.pass.rd s.tick f.sb) (immB f (a.pass.rd s.tick f.sb)) = none := unmade s e a h
  simp only [hg]

end

/-- Settles O13: each word by the descriptor that it makes of its operands, bit by bit, or by its making none. -/
theorem descriptorWords : Obligations.DescriptorWords := by
  intro f A B gives
  refine ⟨fun member => ?_, ?_, fun lo n hfield => ?_, fun b => ?_, ?_, fun d => ?_, by decide, by decide⟩
  · refine passGives_of_descWord (exec_tdmk f) ?_
    rintro s a ⟨line, inside, ⟨path, rest, rfl⟩ | ⟨path, rest, rfl⟩⟩
    · refine (tdMake_scratch (congrArg BitVec.toNat line) inside path (congrArg BitVec.toNat rest)).trans ?_
      rw [if_neg (by omega)]
      rfl
    · refine (tdMake_window (congrArg BitVec.toNat line) inside path (congrArg BitVec.toNat rest)).trans ?_
      rw [if_pos path]
  · exact passTraps_of_descWord (exec_tdmk f) fun s e a ⟨scratch, window⟩ => tdMake_otherPath scratch window
  · have names := descField_of_mem hfield
    refine ⟨passGives_of_passWord (exec_tdget f) fun s e a _ => ?_, fun d => ?_, ?_⟩
    · simp only [names]
      rw [fld, BitVec.ofNat_toNat]
    · refine passGives_of_descWord (exec_tdset f) fun s a ⟨fits, field, rest⟩ => ?_
      simp only [names]
      rw [if_pos fits, setField_eq field rest]
    · refine passTraps_of_descWord (exec_tdset f) fun s e a big => ?_
      simp only [names]
      exact if_neg (Nat.not_lt.mpr big)
  · exact passGives_of_descWord (exec_tdadv f) fun s a ⟨top, sum⟩ => tdAdvance_inside top sum
  · exact passTraps_of_descWord (exec_tdadv f) fun s e a out => tdAdvance_outside out
  · refine passGives_of_descWord (exec_tdsub f) fun s a made => ?_
    have first : ∀ v : Word, fld v 0 6 = v.toNat % 64 := fun v => BitVec.extractLsb'_toNat ..
    have rows : ∀ v : Word, fld v 6 6 = v.toNat / 64 % 64 := fun v => by
      rw [fld, BitVec.extractLsb'_toNat, Nat.shiftRight_eq_div_pow]
    rw [first, rows]
    exact made

end Sys2Proof.Machine
end

section
/-!
The scalar floating-point words (R133–R138).
-/
namespace Sys2Proof.Machine
open Sys2Proof Sys2Proof.Machine Sys2Proof.Cert

/-- A scalar floating word writes its result, and a tangent that is +0 where the result is empty (R138, R198). -/
theorem passGives_of_fpWord {i : Instr} {f : FmtA} {prim : Nat → FV → FV → FV → Nat} {tan : FV → FV → FV → FV → FV → FV → FV → FV}
    (run : ∀ s, exec i s = fpWord i f s prim tan) :
    PassGives i always fun s e a =>
      let m := f.f1.toNat
      let va := a.pass.fpVal s.tick m f.sa
      let vb := a.pass.fpVal s.tick m f.sb
      let vc := a.pass.fpVal s.tick m f.sc
      let y := prim (s.sr e a 0 0) va vb vc
      a.pass.wrD f.dst (BitVec.ofNat 64 y) fun t =>
        if isEmptyEnc m y then 0
        else BitVec.ofNat 64 (tanEnc m (tan va vb vc (fvOf m y) (a.pass.fpTan m f.sa t) (a.pass.fpTan m f.sb t) (a.pass.fpTan m f.sc t))) :=
  passGives_of_passWord run fun _ _ _ _ => rfl

section
variable (f : FmtA) (s : State)

theorem exec_fadd : exec (.fadd f) s =
    fpWord (.fadd f) f s (fun k a b _ => rndF f k (a.add f.rm.toNat b)) fun _ _ _ _ ta tb _ => ta.add 0 tb := rfl
theorem exec_fsub : exec (.fsub f) s =
    fpWord (.fsub f) f s (fun k a b _ => rndF f k (a.sub f.rm.toNat b)) fun _ _ _ _ ta tb _ => ta.sub 0 tb := rfl
theorem exec_fmul : exec (.fmul f) s =
    fpWord (.fmul f) f s (fun k a b _ => rndF f k (a.mul b)) fun a b _ _ ta tb _ => a.prodTan b ta tb := rfl
theorem exec_ffma : exec (.ffma f) s = fpWord (.ffma f) f s (fun k a b c => rndF f k (a.fma f.rm.toNat b c))
    fun a b _ _ ta tb tc => (a.prodTan b ta tb).add 0 tc := rfl
theorem exec_frcp : exec (.frcp f) s =
    fpWord (.frcp f) f s (fun k a _ _ => rndF f k a.rcp) fun _ _ _ y ta _ _ => y.rcpTan ta := rfl
theorem exec_frsq : exec (.frsq f) s =
    fpWord (.frsq f) f s (fun k a _ _ => rndF f k a.rsq) fun _ _ _ y ta _ _ => y.rsqTan ta := rfl
theorem exec_fmin : exec (.fmin f) s = fpWord (.fmin f) f s (fun _ a b _ => encFloat f.f1.toNat 0 0 (minMaxVal false a b))
    fun a b _ _ ta tb _ => if minMaxPick false a b then tb else ta := rfl
theorem exec_fmax : exec (.fmax f) s = fpWord (.fmax f) f s (fun _ a b _ => encFloat f.f1.toNat 0 0 (minMaxVal true a b))
    fun a b _ _ ta tb _ => if minMaxPick true a b then tb else ta := rfl
theorem exec_fcmp : exec (.fcmp f) s = passWord (.fcmp f) s fun _ a =>
    .ok (a.pass.wrP f.dst (BitVec.ofNat 64 (b2n (fcond f.f2.toNat
      (a.pass.fpVal s.tick f.f1.toNat f.sa) (a.pass.fpVal s.tick f.f1.toNat f.sb))))) := rfl

theorem exec_fcvt : exec (.fcvt f) s = passWord (.fcvt f) s fun e a =>
    let m := f.f1.toNat
    let n := f.f2.toNat
    let y := convEnc m n f.rm.toNat (s.sr e a 0 0) (a.pass.fpBits s.tick m f.sa)
    if n ≤ 7 then
      .ok (a.pass.wrD f.dst (regOf n y) fun t =>
        if 8 ≤ m ∨ isEmptyEnc n y then 0
        else BitVec.ofNat 64 (convEnc (tanFmt m) (tanFmt n) 0 0 ((a.pass.rdSh f.sa t).toNat % 2 ^ tanBits m)))
    else .ok (a.pass.wrP f.dst (regOf n y)) := rfl

end

/-- A result of a format that is no signed integer is written as it is encoded (R136). -/
theorem regOf_unsigned {fmt : Nat} (h : fmt ≤ 7 ∨ 12 ≤ fmt) (bits : Nat) : regOf fmt bits = BitVec.ofNat 64 bits := if_neg (by omega)

/-- A result of a signed integer format is written sign-extended (R136). -/
theorem regOf_signed {fmt : Nat} (low : 8 ≤ fmt) (high : fmt ≤ 11) (bits : Nat) : regOf fmt bits = BitVec.ofInt 64 (intVal fmt bits) :=
  if_pos ⟨low, high⟩

theorem ofNat_b2n (b : Bool) : BitVec.ofNat 64 (b2n b) = if b then 1 else 0 := by cases b <;> rfl

theorem floatArithmetic : FloatArithmetic := fun f =>
  ⟨(passGives_of_fpWord (exec_fadd f) :), (passGives_of_fpWord (exec_fsub f) :), (passGives_of_fpWord (exec_fmul f) :),
    (passGives_of_fpWord (exec_ffma f) :), (passGives_of_fpWord (exec_frcp f) :), (passGives_of_fpWord (exec_frsq f) :)⟩

theorem floatCompareConvert : FloatCompareConvert := by
  intro f m A B T picks
  have pick : ∀ (i : Instr) (isMax : Bool), (∀ s, exec i s = fpWord i f s (fun _ a b _ => encFloat m 0 0 (minMaxVal isMax a b))
      fun a b _ _ ta tb _ => if minMaxPick isMax a b then tb else ta) → picks i isMax := by
    intro i isMax run
    refine passGives_of_passWord run fun s e a _ => ?_
    have chosen : ∀ t, T a (if minMaxPick isMax (A s a) (B s a) then f.sb else f.sa) t =
        if minMaxPick isMax (A s a) (B s a) then T a f.sb t else T a f.sa t := fun t => apply_ite (T a · t) ..
    show _ = PassRes.ok (a.pass.wrD f.dst _ fun t => if isEmptyEnc m _ then 0
      else BitVec.ofNat 64 (tanEnc m (T a (if minMaxPick isMax (A s a) (B s a) then f.sb else f.sa) t)))
    simp only [chosen]
    rfl
  refine ⟨pick _ false (exec_fmin f), pick _ true (exec_fmax f), ?_, fun float => ?_, fun low high => ?_, fun high => ?_⟩
  · exact passGives_of_passWord (exec_fcmp f) fun s e a _ => congrArg (fun v => PassRes.ok (a.pass.wrP f.dst v)) (ofNat_b2n _)
  · refine passGives_of_passWord (exec_fcvt f) fun s e a _ => ?_
    simp only [if_pos float, regOf_unsigned (.inl float)]
    rfl
  · refine passGives_of_passWord (exec_fcvt f) fun s e a _ => ?_
    simp only [if_neg (show ¬ f.f2.toNat ≤ 7 by omega), regOf_signed low high]
    rfl
  · refine passGives_of_passWord (exec_fcvt f) fun s e a _ => ?_
    simp only [if_neg (show ¬ f.f2.toNat ≤ 7 by omega), regOf_unsigned (.inr high)]
    rfl

/-- Settles O14: the arithmetic words by their operands' values, the choice of FMIN and FMAX made once, FCVT by its target. -/
theorem floatWords : Obligations.FloatWords := ⟨floatArithmetic, floatCompareConvert⟩

end Sys2Proof.Machine
end

section
/-!
The products of the multiply array (R173–R180) and the sum of a K-group (R71).
-/
namespace Sys2Proof.Machine
open Sys2Proof Sys2Proof.Machine Sys2Proof.Cert

/-! ### Words that may fail -/

/-- A word that changes nothing but the pass publishes what it answers, and a failure aborts the pass (R52). -/
theorem vecWord_pass (i : Instr) {s : State} {e sl : Nat} {a : Active} (k : Nat → Active → Except Failure Pass) (here : InPass s e sl a) :
    vecWord i s k = .next (match k e a with
      | .ok p => s.setPass e sl a p
      | .error g => s.passFault e sl g) := by
  rw [vecWord, passWord_pass i s e sl a _ here.1 here.2]
  cases k e a <;> rfl

/-- Such a word gives the pass that it answers wherever `H` holds. -/
theorem passGives_of_vecWord {i : Instr} {H : State → Nat → Active → Prop} {k : State → Nat → Active → Except Failure Pass}
    {r : State → Nat → Active → Pass} (run : ∀ s, exec i s = vecWord i s (k s)) (ok : ∀ s e a, H s e a → k s e a = .ok (r s e a)) :
    PassGives i H r := fun s e sl a here h => by
  rw [run, vecWord_pass i _ here, ok s e a h]

/-! ### Accumulators and shapes (R167, R175) -/

theorem accOf_eq {sp : Spec} (h : 44 ≤ sp.toNat ∧ sp.toNat < 52) : accOf sp = some (sp.toNat - 44) := if_pos h

/-- N of an operand B that is no zero descriptor (R175). -/
theorem mmCols_of_ne {db : Word} (h : db ≠ 0) (pw : Word) : mmCols db pw = if pwBtr pw then dRows db else dEpr db := if_neg h

/-- N of an operand B that counts as the zero descriptor where `h` holds (R175, R180). -/
theorem mmCols_ite (h : Prop) [Decidable h] (db pw : Word) :
    mmCols (if h then 0 else db) pw = if h ∨ db = 0 then 1 else if pwBtr pw then dRows db else dEpr db := by
  by_cases hh : h <;> simp [hh, mmCols]

/-- The shapes of R175, with what a zero descriptor leaves to check (R170). -/
theorem mmShape_iff {da db pw : Word} {view m : Nat} : mmShape da db pw view m = true ↔
    (da = 0 ∨ db = 0 ∨ if pwBtr pw then dEpr db = dEpr da else dRows db = dEpr da) ∧
      pwRow pw + m ≤ 64 ∧ pwCol pw + mmCols db pw ≤ viewCols view := by
  cases h : pwBtr pw <;> simp [mmShape, h, and_assoc, or_assoc]

/-- The operands A and B and the pitch word of a product (R168). -/
abbrev opndA (s : State) (a : Active) (f : FmtA) : Word := a.pass.rd s.tick f.sa
abbrev opndB (s : State) (a : Active) (f : FmtA) : Word := a.pass.rd s.tick f.sb
abbrev pitchWord (s : State) (a : Active) (f : FmtA) : Word := a.pass.rd s.tick f.sc

/-! ### MMA, MMAQ and MMAX (R173–R178) -/

/-- The checks that every word of slabs makes hold, with the slabs `la` of A and `lb` of B (R168, R169, R175). -/
structure SlabsChecked (s : State) (e : Nat) (a : Active) (f : FmtA) (view : Nat) (la lb : List Word) : Prop where
  dst : 44 ≤ f.dst.toNat ∧ f.dst.toNat < 52
  pitch : pwOk (pitchWord s a f) = true
  slabsA : slabsReady s e a (opndA s a f) (pwAstr (pitchWord s a f)) (List.range (pwSlabs (pitchWord s a f))) la
  slabsB : slabsReady s e a (opndB s a f) (pwBstr (pitchWord s a f)) (List.range (pwSlabs (pitchWord s a f))) lb
  shape : mmShape (opndA s a f) (opndB s a f) (pitchWord s a f) view (if opndA s a f = 0 then 1 else dRows (opndA s a f)) = true

/-- The slab of an operand that the current step of a word takes. -/
def slabNow (p : Pass) (op : MmOp) (l : List Word) : Word := l.getD (p.step / op.subs p.kp) 0

/-- The pass after the next step of a word of slabs (R184, R215). -/
def State.slabStep (s : State) (e : Nat) (a : Active) (f : FmtA) (op : MmOp) (la lb : List Word) : Pass :=
  let p := a.pass
  p.stepped (la.length * op.subs p.kp) (p.mmStep op (p.step % op.subs p.kp) (s.slabVals e a (slabNow p op la) (slabNow p op lb))
    (f.dst.toNat - 44) (pwRow (pitchWord s a f)) (pwCol (pitchWord s a f)) (mmCols (opndB s a f) (pitchWord s a f))
    (p.liveRows f (dRows (opndA s a f))))

/-- A word of slabs that passes its checks adds nothing where an operand is the zero descriptor, and takes its next step where none is
(R170, R184, R215). -/
theorem State.mmWord_of_checked {s : State} {e : Nat} {a : Active} {f : FmtA} {okA okB : Word → Bool}
    {more : Word → Word → Word → Bool} {mk : Word → Word → Word → MmOp} {op : MmOp} {la lb : List Word}
    (form : mk (opndA s a f) (opndB s a f) (pitchWord s a f) = op) (checked : SlabsChecked s e a f op.view la lb)
    (formatA : opndA s a f ≠ 0 → okA (opndA s a f) = true) (formatB : opndB s a f ≠ 0 → okB (opndB s a f) = true)
    (rest : more (opndA s a f) (opndB s a f) (pitchWord s a f) = true)
    (sound : opndA s a f ≠ 0 → opndB s a f ≠ 0 → s.tileEcc e [slabNow a.pass op la, slabNow a.pass op lb] = none) :
    s.mmWord e a f okA okB more mk =
      .ok (if opndA s a f = 0 ∨ opndB s a f = 0 then a.pass else s.slabStep e a f op la lb) := by
  obtain ⟨dst, pitch, slabsA, slabsB, shape⟩ := checked
  rw [slabsReady] at slabsA slabsB
  have formats : ¬ ((opndA s a f ≠ 0 ∧ okA (opndA s a f) = false) ∨ (opndB s a f ≠ 0 ∧ okB (opndB s a f) = false)) := by
    rintro (⟨nz, bad⟩ | ⟨nz, bad⟩)
    · exact Bool.false_ne_true (bad.symm.trans (formatA nz))
    · exact Bool.false_ne_true (bad.symm.trans (formatB nz))
  simp only [State.mmWord, accOf_eq dst, pitch, slabsA, slabsB, if_neg formats, form, shape, rest, Bool.true_eq_false, or_self, if_false]
  by_cases zero : opndA s a f = 0 ∨ opndB s a f = 0
  · rw [if_pos zero, if_pos zero]
  · obtain ⟨nzA, nzB⟩ := not_or.mp zero
    have clean := sound nzA nzB
    rw [slabNow, slabNow] at clean
    simp only [if_neg zero, clean, State.slabStep, slabNow]

/-! ### MMAG (R179, R180) -/

/-- The row counts of the groups of MMAG, and the groups that have rows. -/
abbrev rowCounts (s : State) (a : Active) (x : Word) : List Nat := mmagCounts (a.pass.rd s.tick (x.setWidth 6))
abbrev liveGroups (s : State) (a : Active) (x : Word) : List Nat := (List.range 8).filter fun g => (rowCounts s a x).getD g 0 != 0

/-- The operation of MMA and of MMAG. -/
abbrev plainOp (s : State) (a : Active) (f : FmtA) : MmOp :=
  ⟨mmView f.f1.toNat, mmKg f.f1.toNat, dEpr (opndA s a f), prodTerms (pwBtr (pitchWord s a f)), prodTans (pwBtr (pitchWord s a f)),
    mmDual f.f1.toNat, true⟩

/-- MMAG is ragged where its rows go past those of A or past the accumulator (R180). -/
def raggedRows (s : State) (a : Active) (f : FmtA) (x : Word) : Prop :=
  (if opndA s a f = 0 then 64 else dRows (opndA s a f)) < (rowCounts s a x).sum ∨ 64 < pwRow (pitchWord s a f) + (rowCounts s a x).sum

/-- The checks of MMAG hold, with the slabs `lb` of B (R169, R175, R180). -/
structure GroupsChecked (s : State) (e : Nat) (a : Active) (f : FmtA) (x : Word) (la lb : List Word) : Prop where
  dst : 44 ≤ f.dst.toNat ∧ f.dst.toNat < 52
  rows : ¬ raggedRows s a f x
  pitch : pwOk (pitchWord s a f) = true
  single : fld (pitchWord s a f) 50 4 = 0
  still : pwAstr (pitchWord s a f) = 0
  slabsA : slabsReady s e a (opndA s a f) 0 [0] la
  slabsB : slabsReady s e a (opndB s a f) (pwBstr (pitchWord s a f)) (liveGroups s a x) lb
  formatA : opndA s a f = 0 ∨ dFmt (opndA s a f) = f.f1.toNat ∧ dGs (opndA s a f) = 0
  formatB : liveGroups s a x = [] ∨ opndB s a f = 0 ∨ dFmt (opndB s a f) = f.f2.toNat ∧ dGs (opndB s a f) = 0
  shape : mmShape (opndA s a f) (if liveGroups s a x = [] then 0 else opndB s a f) (pitchWord s a f) (mmView f.f1.toNat)
    (rowCounts s a x).sum = true

/-- The pass after the next step of MMAG (R180, R184, R215). -/
def State.groupStep (s : State) (e : Nat) (a : Active) (f : FmtA) (x : Word) (lb : List Word) : Pass :=
  let p := a.pass
  let op := plainOp s a f
  let cnt := rowCounts s a x
  let g := (liveGroups s a x).getD (p.step / op.subs p.kp) 0
  p.stepped ((liveGroups s a x).length * op.subs p.kp)
    (p.mmStep op (p.step % op.subs p.kp) (s.slabVals e a (opndA s a f) (slabNow p op lb)) (f.dst.toNat - 44)
      (pwRow (pitchWord s a f)) (pwCol (pitchWord s a f)) (mmCols (opndB s a f) (pitchWord s a f))
      ((List.range (cnt.getD g 0)).map fun i => (mmagFirst cnt g + i, mmagFirst cnt g + i)))

section
variable {s : State} {e sl : Nat} {a : Active} {f : FmtA} {x : Word} {la lb : List Word} (here : InPass s e sl a)
include here

/-- MMAG that is ragged (R180). -/
theorem exec_mmag_ragged (dst : 44 ≤ f.dst.toNat ∧ f.dst.toNat < 52) (rows : raggedRows s a f x) :
    exec (.mmag f x) s = .next (s.passFault e sl ⟨cRagged, 0, 0⟩) := by
  have run : exec (.mmag f x) s = execMmag f x s := rfl
  rw [raggedRows] at rows
  rw [run, execMmag, vecWord_pass _ _ here]
  simp only [accOf_eq dst, if_pos rows]
  rfl

/-- MMAG that passes its checks adds nothing where an operand is the zero descriptor or no group has a row, and takes its next step
elsewhere (R170, R180). -/
theorem exec_mmag_of_checked (checked : GroupsChecked s e a f x la lb) :
    ((opndA s a f = 0 ∨ opndB s a f = 0 ∨ liveGroups s a x = []) → exec (.mmag f x) s = .next (s.setPass e sl a a.pass)) ∧
    (opndA s a f ≠ 0 → opndB s a f ≠ 0 → liveGroups s a x ≠ [] → s.tileEcc e [opndA s a f, slabNow a.pass (plainOp s a f) lb] = none →
      exec (.mmag f x) s = .next (s.setPass e sl a (s.groupStep e a f x lb))) := by
  obtain ⟨dst, rows, pitch, single, still, slabsA, slabsB, formatA, formatB, shape⟩ := checked
  have run : exec (.mmag f x) s = execMmag f x s := rfl
  have pitchFault : ¬ (pwOk (pitchWord s a f) = false ∨ fld (pitchWord s a f) 50 4 ≠ 0 ∨ pwAstr (pitchWord s a f) ≠ 0) := by
    simp [pitch, single, still]
  have formatFault : ¬ ((opndA s a f ≠ 0 ∧ (dFmt (opndA s a f) ≠ f.f1.toNat ∨ dGs (opndA s a f) ≠ 0)) ∨
      (liveGroups s a x ≠ [] ∧ opndB s a f ≠ 0 ∧ (dFmt (opndB s a f) ≠ f.f2.toNat ∨ dGs (opndB s a f) ≠ 0))) := by
    rintro (⟨nz, bad⟩ | ⟨rowed, nz, bad⟩)
    · exact absurd (formatA.resolve_left nz) (not_and_or.mpr bad)
    · exact absurd ((formatB.resolve_left rowed).resolve_left nz) (not_and_or.mpr bad)
  rw [raggedRows] at rows
  rw [slabsReady] at slabsA slabsB
  rw [run, execMmag, vecWord_pass _ _ here]
  simp only [accOf_eq dst, if_neg rows, if_neg pitchFault, slabsA, slabsB, if_neg formatFault, shape, Bool.true_eq_false, if_false]
  refine ⟨fun zero => ?_, fun nzA nzB rowed clean => ?_⟩
  · simp only [if_pos zero]
  · rw [slabNow] at clean
    simp only [if_neg (not_or.mpr ⟨nzA, not_or.mpr ⟨nzB, rowed⟩⟩), clean]
    rfl

end

/-! ### The words -/

section
variable (f : FmtA) (s : State)

theorem exec_mma : exec (.mma f) s = vecWord (.mma f) s fun e a =>
    s.mmWord e a f (fun d => dFmt d == f.f1.toNat && dGs d == 0) (fun d => dFmt d == f.f2.toNat && dGs d == 0) (fun _ _ _ => true)
      fun da _ pw => ⟨mmView f.f1.toNat, mmKg f.f1.toNat, dEpr da, prodTerms (pwBtr pw), prodTans (pwBtr pw), mmDual f.f1.toNat, true⟩ :=
  rfl

theorem exec_mmaq : exec (.mmaq f) s = vecWord (.mmaq f) s fun e a =>
    s.mmWord e a f (fun d => dFmt d == f.f1.toNat && dGs d == 0) (fun d => dFmt d == f.f2.toNat && decide (1 ≤ dGs d))
      (fun da db pw => pwBtr pw && (db == 0 || mmKs da db pw % gsSize (dGs db) == 0))
      fun da db _ =>
        let sc := s.scaleOf e a.pass (opndB s a f)
        let kg := gsSize (dGs db)
        ⟨1, kg, dEpr da, fun v i j g => mmaqTerms v.rb sc f.f2.toNat kg (vat v.a i) j g,
          fun v t i j g => mmaqTerms v.rb sc f.f2.toNat kg (vat (v.ta t) i) j g, mmDual f.f1.toNat, false⟩ := rfl

theorem exec_mmax : exec (.mmax f) s = vecWord (.mmax f) s fun e a =>
    s.mmWord e a f (fun d => dFmt d == f.f1.toNat && dGs d == 1) (fun d => dFmt d == f.f2.toNat && dGs d == 1)
      (fun da db pw => pwBtr pw && mmKs da db pw % 32 == 0)
      fun da _ pw => ⟨1, 32, dEpr da, prodTerms (pwBtr pw), prodTans (pwBtr pw), true, true⟩ := rfl

end

theorem productWords : ProductWords := by
  intro f DA DB PW acc isAcc cols region fits ks next n gives
  have slabs : ∀ {i : Instr} {okA okB : Word → Prop} {more : State → Active → Prop} {op : State → Nat → Active → MmOp}
      {testA testB : State → Nat → Active → Word → Bool} {test : State → Nat → Active → Word → Word → Word → Bool}
      {mk : State → Nat → Active → Word → Word → Word → MmOp},
      (∀ s, exec i s = vecWord i s fun e a => s.mmWord e a f (testA s e a) (testB s e a) (test s e a) (mk s e a)) →
      (∀ s e a d, okA d → testA s e a d = true) → (∀ s e a d, okB d → testB s e a d = true) →
      (∀ s e a, more s a → test s e a (DA s a) (DB s a) (PW s a) = true) →
      (∀ s e a, mk s e a (DA s a) (DB s a) (PW s a) = op s e a) → gives i okA okB more op := by
    intro i okA okB more op testA testB test mk run hA hB hmore hop la lb
    refine ⟨passGives_of_vecWord run ?_, passGives_of_vecWord run ?_⟩
    · rintro s e a ⟨dst, pitch, nzA, nzB, formatA, formatB, slabsA, slabsB, ⟨inner, rows, columns⟩, rest, sound⟩
      have width : mmCols (DB s a) (PW s a) = cols s a := mmCols_of_ne nzB _
      have shape : mmShape (DA s a) (DB s a) (PW s a) (op s e a).view (if DA s a = 0 then 1 else dRows (DA s a)) = true := by
        rw [if_neg nzA]
        exact mmShape_iff.mpr ⟨.inr (.inr inner), rows, width ▸ columns⟩
      rw [State.mmWord_of_checked (hop s e a) ⟨dst, pitch, slabsA, slabsB, shape⟩ (fun _ => hA _ _ _ _ formatA)
        (fun _ => hB _ _ _ _ formatB) (hmore _ _ _ rest) fun _ _ => sound, if_neg (not_or.mpr ⟨nzA, nzB⟩), State.slabStep, width]
      rfl
    · rintro s e a ⟨dst, pitch, zero, slabsA, slabsB, ⟨rows, columns⟩, rest⟩
      have gone : DA s a = 0 ∨ DB s a = 0 := zero.imp And.left And.left
      have formatA : DA s a ≠ 0 → okA (DA s a) := fun nz => (zero.resolve_left fun z => nz z.1).2.resolve_left nz
      have formatB : DB s a ≠ 0 → okB (DB s a) := fun nz => (zero.resolve_right fun z => nz z.1).2.resolve_left nz
      have height : (if DA s a = 0 then 1 else dRows (DA s a)) = dRows (DA s a) := by
        split_ifs with h
        · rw [h]; rfl
        · rfl
      have shape : mmShape (DA s a) (DB s a) (PW s a) (op s e a).view (if DA s a = 0 then 1 else dRows (DA s a)) = true := by
        rw [height]
        exact mmShape_iff.mpr ⟨gone.imp_right .inl, rows, columns⟩
      rw [State.mmWord_of_checked (hop s e a) ⟨dst, pitch, slabsA, slabsB, shape⟩ (fun nz => hA _ _ _ _ (formatA nz))
        (fun nz => hB _ _ _ _ (formatB nz)) (hmore _ _ _ rest) (fun nzA nzB => absurd gone (not_or.mpr ⟨nzA, nzB⟩)), if_pos gone]
  clear_value gives
  refine ⟨?_, ?_, ?_, fun x la lb => ⟨?_, ?_, ?_⟩⟩
  · refine slabs (exec_mma f) ?_ ?_ (fun _ _ _ _ => rfl) fun _ _ _ => rfl
    iterate 2 · intro s e a d h; simpa using h
  · refine slabs (exec_mmaq f) ?_ ?_ ?_ fun _ _ _ => rfl
    iterate 2 · intro s e a d h; simpa using h
    · intro s e a h
      have same : mmKs (DA s a) (DB s a) (PW s a) = ks s a := rfl
      simpa [same] using h
  · refine slabs (exec_mmax f) ?_ ?_ ?_ fun _ _ _ => rfl
    iterate 2 · intro s e a d h; simpa using h
    · intro s e a h
      have same : mmKs (DA s a) (DB s a) (PW s a) = ks s a := rfl
      simpa [same] using h
  · rintro s e sl a here ⟨dst, nzA, nzB, (rowed : liveGroups s a x ≠ []), within, pitch, single, still, slabsA, slabsB, fmtA, gsA,
      fmtB, gsB, ⟨inner, top, columns⟩, sound⟩
    have width : mmCols (DB s a) (PW s a) = cols s a := mmCols_of_ne nzB _
    have rows : ¬ raggedRows s a f x := not_or.mpr ⟨by rw [if_neg nzA]; exact not_lt.mpr within, not_lt.mpr top⟩
    have shape : mmShape (DA s a) (if liveGroups s a x = [] then 0 else DB s a) (PW s a) (mmView f.f1.toNat) (rowCounts s a x).sum =
        true := by
      rw [if_neg rowed]
      exact mmShape_iff.mpr ⟨.inr (.inr inner), top, width ▸ columns⟩
    obtain ⟨_, goes⟩ := exec_mmag_of_checked here ⟨dst, rows, pitch, congrArg BitVec.toNat single, still, slabsA, slabsB,
      .inr ⟨fmtA, gsA⟩, .inr (.inr ⟨fmtB, gsB⟩), shape⟩
    rw [goes nzA nzB rowed sound, State.groupStep, width]
    rfl
  · rintro s e sl a here ⟨dst, (zero : _ ∨ _ ∨ liveGroups s a x = []), within, pitch, single, still, slabsA, slabsB, formatA, formatB,
      ⟨top, columns⟩⟩
    have rows : ¬ raggedRows s a f x := not_or.mpr ⟨not_lt.mpr within, not_lt.mpr top⟩
    have shape : mmShape (DA s a) (if liveGroups s a x = [] then 0 else DB s a) (PW s a) (mmView f.f1.toNat) (rowCounts s a x).sum =
        true := by
      refine mmShape_iff.mpr ⟨?_, top, by rw [mmCols_ite]; exact columns⟩
      rcases zero with zero | zero | zero <;> simp [zero]
    obtain ⟨stays, _⟩ := exec_mmag_of_checked here ⟨dst, rows, pitch, congrArg BitVec.toNat single, still, slabsA, slabsB, formatA,
      formatB, shape⟩
    exact stays zero
  · rintro s e sl a here ⟨dst, rows⟩
    exact exec_mmag_ragged here dst rows

/-! ### The sum of a K-group (R71, R176) -/

/-- A slab no longer than a K-group is one group. -/
theorem kGroups_single {ks kg : Nat} (pos : 0 < ks) (le : ks ≤ kg) : kGroups ks kg = [List.range ks] := by
  have one : (ks + kg - 1) / kg = 1 := by
    rw [Nat.div_eq_iff (by omega)]
    omega
  simp [kGroups, blocksOf, one, List.take_of_length_le, le]

/-- An integer rounds to itself. -/
theorem roundInt_ofInt (z : Int) : (FV.ofInt z).roundInt 1 0 = z := by
  rcases lt_or_ge z 0 with h | h <;> simp [FV.ofInt, FV.roundInt, roundGrid, h, abs_of_neg, abs_of_nonneg]

theorem foldl_roundInt (l : List Int) (n : Int) : (l.map FV.ofInt).foldl (fun n v => n + v.roundInt 1 0) n = n + l.sum := by
  induction l generalizing n with
  | nil => simp
  | cons z r ih => rw [List.map_cons, List.foldl_cons, ih, roundInt_ofInt, List.sum_cons, Int.add_assoc]

theorem kGroupSum : KGroupSum := by
  intro p op i r j terms _ le pos
  have single := kGroups_single pos le
  refine ⟨fun int z products => ?_, fun float => ?_⟩
  · simp only [Pass.mmElem, single, int, List.flatMap_singleton, products, foldl_roundInt, if_true, Int.zero_add]
  · have view : op.view ≠ 8 := by omega
    simp only [Pass.mmElem, single, if_neg view, List.foldl_cons, List.foldl_nil, accAdd]

/-- Settles O23: the words by their checks and their next step, the sum by the one K-group that there is. -/
theorem matrixProducts : Obligations.MatrixProducts := ⟨productWords, kGroupSum⟩

end Sys2Proof.Machine
end

section
/-!
Encoding and decoding of words (R87, R88, R99, R261): the decoder reads what the encoder writes, and nothing else.
-/
namespace Sys2Proof
open Sys2Proof.Machine

/-! ### The parts of a word (R87) -/

/-- Bits [50:0] of a word: its fields. -/
def wordBody (w : Word) : BitVec 51 := w.extractLsb' 0 51

theorem wordBody_packWord (maj mn : Nat) (xt : Bool) (b : BitVec 51) : wordBody (packWord maj mn xt b) = b :=
  (body_packWord maj mn xt b 0 51 (Nat.le_refl _)).trans BitVec.extractLsb'_eq_self

/-- A word is its major, minor, extension bit and body. -/
theorem packWord_parts (w : Word) : packWord (wordMaj w) (wordMin w) (wordXt w) (wordBody w) = w := by
  have xt : BitVec.ofBool (wordXt w) = w.extractLsb' 51 1 := by
    apply BitVec.eq_of_getLsbD_eq
    intro i hi
    obtain rfl : i = 0 := by omega
    simp [wordXt]
  simp (disch := omega) only [packWord, wordMaj, wordMin, xt, wordBody, BitVec.ofNat_toNat, BitVec.setWidth_eq,
    BitVec.extractLsb'_append_extractLsb'_eq_extractLsb', BitVec.extractLsb'_eq_self]

@[simp] theorem packA_unpackA (w : Word) : packA (unpackA w) = wordBody w := by
  simp (disch := omega) only [packA, unpackA, wordBody, BitVec.setWidth_eq,
    BitVec.extractLsb'_append_extractLsb'_eq_extractLsb']
@[simp] theorem packB_unpackB (w : Word) : packB (unpackB w) = wordBody w := by
  simp (disch := omega) only [packB, unpackB, wordBody, BitVec.setWidth_eq,
    BitVec.extractLsb'_append_extractLsb'_eq_extractLsb']
@[simp] theorem packM_unpackM (w : Word) : packM (unpackM w) = wordBody w := by
  simp (disch := omega) only [packM, unpackM, wordBody, BitVec.setWidth_eq,
    BitVec.extractLsb'_append_extractLsb'_eq_extractLsb']
@[simp] theorem packE_unpackE (w : Word) : packE (unpackE w) = wordBody w := by
  simp (disch := omega) only [packE, unpackE, wordBody, BitVec.setWidth_eq,
    BitVec.extractLsb'_append_extractLsb'_eq_extractLsb']
@[simp] theorem packCM_unpackCM (w : Word) : packCM (unpackCM w) = wordBody w := by
  simp (disch := omega) only [packCM, unpackCM, wordBody, BitVec.setWidth_eq,
    BitVec.extractLsb'_append_extractLsb'_eq_extractLsb']
@[simp] theorem packCB_unpackCB (w : Word) : packCB (unpackCB w) = wordBody w := by
  simp (disch := omega) only [packCB, unpackCB, wordBody, BitVec.setWidth_eq,
    BitVec.extractLsb'_append_extractLsb'_eq_extractLsb']
@[simp] theorem packCJ_unpackCJ (w : Word) : packCJ (unpackCJ w) = wordBody w := by
  simp (disch := omega) only [packCJ, unpackCJ, wordBody, BitVec.setWidth_eq,
    BitVec.extractLsb'_append_extractLsb'_eq_extractLsb']
@[simp] theorem packCS_unpackCS (w : Word) : packCS (unpackCS w) = wordBody w := by
  simp (disch := omega) only [packCS, unpackCS, wordBody, BitVec.setWidth_eq,
    BitVec.extractLsb'_append_extractLsb'_eq_extractLsb']
@[simp] theorem packCG_unpackCG (w : Word) : packCG (unpackCG w) = wordBody w := by
  simp (disch := omega) only [packCG, unpackCG, wordBody, BitVec.setWidth_eq,
    BitVec.extractLsb'_append_extractLsb'_eq_extractLsb']

theorem packA_eq_wordBody {f : FmtA} {w : Word} : packA f = wordBody w ↔ unpackA w = f :=
  ⟨fun h => by rw [← packWord_parts w, ← h, unpackA_packWord], fun h => h ▸ packA_unpackA w⟩
theorem packB_eq_wordBody {f : FmtB} {w : Word} : packB f = wordBody w ↔ unpackB w = f :=
  ⟨fun h => by rw [← packWord_parts w, ← h, unpackB_packWord], fun h => h ▸ packB_unpackB w⟩
theorem packM_eq_wordBody {f : FmtM} {w : Word} : packM f = wordBody w ↔ unpackM w = f :=
  ⟨fun h => by rw [← packWord_parts w, ← h, unpackM_packWord], fun h => h ▸ packM_unpackM w⟩
theorem packE_eq_wordBody {f : FmtE} {w : Word} : packE f = wordBody w ↔ unpackE w = f :=
  ⟨fun h => by rw [← packWord_parts w, ← h, unpackE_packWord], fun h => h ▸ packE_unpackE w⟩
theorem packCM_eq_wordBody {f : FmtCM} {w : Word} : packCM f = wordBody w ↔ unpackCM w = f :=
  ⟨fun h => by rw [← packWord_parts w, ← h, unpackCM_packWord], fun h => h ▸ packCM_unpackCM w⟩
theorem packCB_eq_wordBody {f : FmtCB} {w : Word} : packCB f = wordBody w ↔ unpackCB w = f :=
  ⟨fun h => by rw [← packWord_parts w, ← h, unpackCB_packWord], fun h => h ▸ packCB_unpackCB w⟩
theorem packCJ_eq_wordBody {f : FmtCJ} {w : Word} : packCJ f = wordBody w ↔ unpackCJ w = f :=
  ⟨fun h => by rw [← packWord_parts w, ← h, unpackCJ_packWord], fun h => h ▸ packCJ_unpackCJ w⟩
theorem packCS_eq_wordBody {f : FmtCS} {w : Word} : packCS f = wordBody w ↔ unpackCS w = f :=
  ⟨fun h => by rw [← packWord_parts w, ← h, unpackCS_packWord], fun h => h ▸ packCS_unpackCS w⟩
theorem packCG_eq_wordBody {f : FmtCG} {w : Word} : packCG f = wordBody w ↔ unpackCG w = f :=
  ⟨fun h => by rw [← packWord_parts w, ← h, unpackCG_packWord], fun h => h ▸ packCG_unpackCG w⟩

/-! ### What the decoder answers -/

/-- Whatever instruction `r` answers, the encoder lays it out in major `maj`, minor `mn`, the extension word `x` and the body of `w`. -/
def LaidOut (w : Word) (x : Option Word) (maj mn : Nat) (r : Except DecErr Instr) : Prop :=
  ∀ i, r = .ok i → encodeParts i = some (maj, mn, x, wordBody w)

section
variable {w : Word} {x : Option Word} {maj mn : Nat}

@[simp] theorem laidOut_error (e : DecErr) : LaidOut w x maj mn (.error e) := fun _ h => nomatch h

@[simp] theorem laidOut_ok {i : Instr} : LaidOut w x maj mn (.ok i) ↔ encodeParts i = some (maj, mn, x, wordBody w) := by
  simp [LaidOut]

@[simp] theorem laidOut_noExt {i : Instr} :
    LaidOut w x maj mn (noExt x i) ↔ (x = none → encodeParts i = some (maj, mn, none, wordBody w)) := by
  cases x <;> simp [LaidOut, noExt]

@[simp] theorem laidOut_needExt {k : Word → Instr} :
    LaidOut w x maj mn (needExt x k) ↔ ∀ e, x = some e → encodeParts (k e) = some (maj, mn, some e, wordBody w) := by
  cases x <;> simp [LaidOut, needExt]

@[simp] theorem laidOut_ite {c : Prop} [Decidable c] {a b : Except DecErr Instr} :
    LaidOut w x maj mn (if c then a else b) ↔ (c → LaidOut w x maj mn a) ∧ (¬ c → LaidOut w x maj mn b) := by
  split <;> simp_all

@[simp] theorem noExt_ite {c : Prop} [Decidable c] {i j : Instr} :
    noExt x (if c then i else j) = if c then noExt x i else noExt x j := apply_ite ..

/-- Whatever a word decodes to, the encoder lays out in the word's own major, minor and body. -/
theorem laidOut_decodeRaw (w : Word) (x : Option Word) : LaidOut w x (wordMaj w) (wordMin w) (decodeRaw w x) := by
  unfold decodeRaw
  split
  case h_1 => exact laidOut_error _
  case h_2 => exact laidOut_error _
  case h_49 => exact laidOut_error _
  all_goals
    rename_i maj
    rw [maj]
    generalize wordMin w = mn
    simp only [decodeMaj02, decodeMaj03, decodeMaj04, decodeMaj05, decodeMaj06, decodeMaj07, decodeMaj08, decodeMaj09,
      decodeMaj0A, decodeMaj0B, decodeMaj0E, decodeMaj0F, decodeMaj10, decodeMaj11, decodeMaj12, decodeMaj13, decodeMaj14,
      decodeMaj15, decodeMaj16, decodeMaj17, decodeMaj18, decodeMaj19, decodeMaj1A, decodeMaj1B, decodeMaj1C, decodeMaj20,
      decodeMaj21, decodeMaj22, decodeMaj23, decodeMaj24, decodeMaj26, decodeMaj27, decodeMaj28, decodeMaj29, decodeMaj2A,
      decodeMaj2B, decodeMaj2C, decodeMaj2D, decodeMaj2E, decodeMaj30, decodeMaj31, decodeMaj32, decodeMaj33, decodeMaj34,
      decodeMaj35, decodeMaj36]
    split
    all_goals simp [encodeParts]

end

/-! ### Words that share a minor: a field tells them apart -/

theorem aop_of_rodInit {f : FmtM} (wf : (Instr.rodInit f).wellFormed) : f.aop ≠ 1 := by
  have only : f.only (dv := true) (sa := true) (sb := true) = true := wf
  intro aop
  simp [FmtM.only, aop] at only

theorem aop_of_rodInitFree {f : FmtM} (wf : (Instr.rodInitFree f).wellFormed) : f.aop = 1 := by
  have only : (f.only (sa := true) (aop := true) && f.aop == 1) = true := wf
  simpa using (Bool.and_eq_true_iff.mp only).2

theorem f2_of_csSend {f : FmtA} {x : Option Word} (wf : (Instr.csSend f x).wellFormed) : f.f2 = 0 := by
  have only : (f.only (sa := true) (sb := true) (sc := true) (f2 := true) (imm := true) && f.f2 == 0) = true := wf
  simpa using (Bool.and_eq_true_iff.mp only).2

theorem f2_of_csSendG {f : FmtA} {x : Word} (wf : (Instr.csSendG f x).wellFormed) : f.f2 = 1 := by
  have only : (f.only (dst := true) (sa := true) (sb := true) (sc := true) (f2 := true) (imm := true) && f.f2 == 1 &&
    x.extractLsb' 0 35 == 0) = true := wf
  simp only [Bool.and_eq_true, beq_iff_eq] at only
  exact only.1.2

theorem imm_of_retryf {f : FmtCG} (wf : (Instr.retryf f).wellFormed) : f.imm = 0 := by
  have only : f.only (gd := true) (ga := true) = true := wf
  have imm : f.imm &&& ~~~0 = 0 := eq_of_beq (Bool.and_eq_true_iff.mp only).2
  exact (BitVec.and_allOnes (x := f.imm)).symm.trans imm

theorem imm_of_retryfFail {f : FmtCG} (wf : (Instr.retryfFail f).wellFormed) : f.imm = 1 := by
  have only : (f.only (gd := true) (ga := true) (imm := 1) && f.imm == 1) = true := wf
  simpa using (Bool.and_eq_true_iff.mp only).2

/-- A word decodes where its fields do and the checks of R88 pass. -/
theorem decodeWord_eq_ok {w : Word} {x : Option Word} {i : Instr} :
    decodeWord w x = .ok i ↔ decodeRaw w x = .ok i ∧ i.wellFormed := by
  unfold decodeWord
  split
  next j raw =>
    rw [raw, Except.ok.injEq]
    by_cases wf : j.wellFormed = true
    · rw [if_pos wf, Except.ok.injEq]
      exact ⟨fun h => ⟨h, h ▸ wf⟩, And.left⟩
    · rw [if_neg wf]
      exact ⟨nofun, fun h => absurd (h.1 ▸ h.2) wf⟩
  next e raw => simp [raw]

/-! ### What the encoder writes -/

/-- The word that the encoder lays out decodes to its instruction, where the fields are those of a well-formed one (R88): they tell
apart the pairs that share a minor. -/
theorem decodeRaw_of_encodeParts {i : Instr} {w : Word} {x : Option Word} (wf : i.wellFormed)
    (h : encodeParts i = some (wordMaj w, wordMin w, x, wordBody w)) : decodeRaw w x = .ok i := by
  unfold encodeParts at h
  split at h
  case h_168 => cases h
  all_goals
    simp only [Option.some.injEq, Prod.mk.injEq, packA_eq_wordBody, packB_eq_wordBody, packM_eq_wordBody, packE_eq_wordBody,
      packCM_eq_wordBody, packCB_eq_wordBody, packCJ_eq_wordBody, packCS_eq_wordBody, packCG_eq_wordBody] at h
    obtain ⟨maj, mn, rfl, rfl⟩ := h
    rw [decodeRaw, ← maj, ← mn]
  case h_120 => exact congrArg (noExt none) (if_neg (aop_of_rodInit wf))
  case h_121 => exact congrArg (noExt none) (if_pos (aop_of_rodInitFree wf))
  case h_135 => exact if_neg (by simp [f2_of_csSend wf])
  case h_136 => exact if_pos (by simp [f2_of_csSendG wf])
  case h_161 => exact congrArg (noExt none) (if_neg (by simp [imm_of_retryf wf]))
  case h_162 => exact congrArg (noExt none) (if_pos (by simp [imm_of_retryfFail wf]))
  all_goals rfl

/-- The encoder writes majors and minors of 6 bits. -/
theorem encodeParts_lt {i : Instr} {maj mn : Nat} {x : Option Word} {body : BitVec 51} (h : encodeParts i = some (maj, mn, x, body)) :
    maj < 64 ∧ mn < 64 := by
  unfold encodeParts at h
  split at h
  all_goals cases h
  all_goals decide

/-- Settles O2: the parts of the word that the encoder writes are the parts that it was written from, and those decode to the
instruction. -/
theorem decodeOfEncode : Obligations.DecodeOfEncode := fun i w x wf h => by
  obtain ⟨⟨maj, mn, y, body⟩, parts, word⟩ := Option.map_eq_some_iff.mp h
  obtain ⟨rfl, rfl⟩ := Prod.mk.inj word
  obtain ⟨hmaj, hmn⟩ := encodeParts_lt parts
  have raw : decodeRaw (packWord maj mn y.isSome body) y = .ok i := decodeRaw_of_encodeParts wf (by
    rw [wordMaj_packWord _ _ _ _ hmaj, wordMin_packWord _ _ _ _ hmn, wordBody_packWord, parts])
  exact ⟨by simp [decodeWord, raw, wf], wordXt_packWord ..⟩

/-- Settles O3: the decoder reads every part of a word into a field, and the parts make up the word. -/
theorem encodeOfDecode : Obligations.EncodeOfDecode := fun w x i h xt => by
  obtain ⟨raw, wf⟩ := decodeWord_eq_ok.mp h
  exact ⟨wf, by simp only [encodeWord, laidOut_decodeRaw w x i raw, Option.map_some, ← xt, packWord_parts]⟩

/-- Settles O1: three words are what the encoder writes, and the others fail at the extension word or at the major. -/
theorem specWordsDecode : Obligations.SpecWordsDecode :=
  ⟨(decodeOfEncode _ _ _ (by decide) (by decide)).1, (decodeOfEncode _ _ _ (by decide) (by decide)).1,
    (decodeOfEncode _ _ _ (by decide) (by decide)).1, rfl, rfl, rfl⟩

end Sys2Proof
end

section
/-!
The register files of a pass, of a control core and of a collective program (R93, R98, R407), and the bit fields and LI (R104, R127, R128).
-/
namespace Sys2Proof.Machine
open Sys2Proof Sys2Proof.Machine Sys2Proof.Cert

/-! ### The registers of a pass (R93) -/

/-- A register that a word of a pass writes: w, s or m. -/
def isWritable (x : Spec) : Prop := x.toNat < 24 ∨ (52 ≤ x.toNat ∧ x.toNat < 56)

theorem Pass.rd_wr_same (p : Pass) (tick : Word) {x : Spec} (v : Word) (h : isWritable x) : (p.wr x v).rd tick x = v := by
  unfold isWritable at h
  rw [Pass.wr]
  split_ifs with w s m
  · simp [Pass.rd, w, tget_tset_same]
  · simp [Pass.rd, w, s, tget_tset_same]
  · have read : ¬ x.toNat < 40 ∧ ¬ x.toNat < 44 ∧ ¬ x.toNat < 52 := by omega
    simp [Pass.rd, w, s, read, m.2, tget_tset_same]
  · omega

/-- Three tables hold what a word writes, each from the number of its first register on; a write at one place of one of them is seen at
no other. -/
theorem Pass.rd_wr_ne (p : Pass) (tick : Word) {x y : Spec} (v : Word) (h : y ≠ x) : (p.wr x v).rd tick y = p.rd tick y := by
  have hn : x.toNat ≠ y.toNat := fun e => h (BitVec.eq_of_toNat_eq e.symm)
  rw [Pass.wr]
  split_ifs with w s m
  · simp [Pass.rd, tget_tset_ne _ _ _ _ _ hn]
  · by_cases low : y.toNat < 16
    · simp [Pass.rd, low]
    · simp [Pass.rd, tget_tset_ne _ _ _ (y.toNat - 16) _ (show x.toNat - 16 ≠ y.toNat - 16 by omega)]
  · by_cases low : y.toNat < 52
    · simp [Pass.rd, low]
    · simp [Pass.rd, tget_tset_ne _ _ _ (y.toNat - 52) _ (show x.toNat - 52 ≠ y.toNat - 52 by omega)]
  · rfl

theorem Pass.wr_of_not_writable (p : Pass) {x : Spec} (v : Word) (h : ¬ isWritable x) : p.wr x v = p := by
  unfold isWritable at h
  unfold Pass.wr
  rw [if_neg (by omega), if_neg (by omega), if_neg (by omega)]

theorem passRegisterFile : PassRegisterFile := fun p tick _ _ v =>
  ⟨p.rd_wr_same tick v, p.rd_wr_ne tick v, p.wr_of_not_writable v, rfl⟩

theorem coreRegisterFile : CoreRegisterFile := fun c x y v =>
  ⟨c.rd_zero, c.wr_zero v, c.rd_wr_same x v, fun h => c.rd_wr_ne x y v h.symm, c.wr_pc x v, c.wr_csr x v⟩

/-! ### The registers of a program (R407) -/

theorem State.progRd_wr_same (s : State) (d : Nat) (p : CProg) {a : Spec} (v : Word) (h : a.toNat < 16) :
    s.progRd d (p.wr a v) a = v := by
  simp [State.progRd, CProg.wr, h, tget_tset_same]

theorem CProg.wr_of_le (p : CProg) {a : Spec} (v : Word) (h : ¬ a.toNat < 16) : p.wr a v = p := if_neg h

theorem State.progRd_wr_ne (s : State) (d : Nat) (p : CProg) {a b : Spec} (v : Word) (h : a ≠ b) :
    s.progRd d (p.wr a v) b = s.progRd d p b := by
  have hn : a.toNat ≠ b.toNat := fun e => h (BitVec.eq_of_toNat_eq e)
  unfold CProg.wr
  split
  · simp [State.progRd, tget_tset_ne _ _ _ _ _ hn]
  · rfl

theorem programRegisters : ProgramRegisters := fun s d p a b v => by
  dsimp only
  split
  next h => obtain ⟨rfl, low⟩ := h; exact s.progRd_wr_same d p v low
  next h =>
    by_cases e : a = b
    · rw [p.wr_of_le v fun low => h ⟨e, low⟩]
    · exact s.progRd_wr_ne d p v e

/-- Settles O48: a register reads what its table holds at its own number, and a write puts the value there or is lost. -/
theorem registerFiles : Obligations.RegisterFiles := ⟨passRegisterFile, coreRegisterFile, programRegisters⟩

/-! ### Bit fields and LI (R104, R127, R128) -/

/-- A word that runs as a scalar word does what that says, on a pass and on a control core. -/
theorem scalarGives_of_scalarWord {i : Instr} {f : FmtA} {g : Word → Word → Word → Word} (run : ∀ s, exec i s = scalarWord i f s g) :
    ScalarGives i f g :=
  ⟨fun s e sl a here _ => (run s).trans (scalarWord_pass i f s e sl a g here.1 here.2),
    fun s d core _ => (run s).trans (scalarWord_core i f s d g core)⟩

/-- A field of a word by its number. -/
theorem fld_eq_div_mod {w : Nat} (x : BitVec w) (lo n : Nat) : fld x lo n = x.toNat / 2 ^ lo % 2 ^ n := by
  rw [fld, BitVec.extractLsb'_toNat, Nat.shiftRight_eq_div_pow]

/-- The position of a field, b[5:0] (R127). -/
theorem fld_pos (b : Word) : fld b 0 6 = b.toNat % 64 := by simp [fld_eq_div_mod]

/-- The length of a field less one, b[11:6] (R127). -/
theorem fld_len (b : Word) : fld b 6 6 = b.toNat / 64 % 64 := by simp [fld_eq_div_mod]

/-- BFX shifts the field down and masks it. -/
theorem bitExtract_eq (a b : Word) :
    bitExtract a b = (a >>> (b.toNat % 64)) &&& BitVec.ofNat 64 (2 ^ (b.toNat / 64 % 64 + 1) - 1) := by
  apply BitVec.eq_of_getLsbD_eq
  intro k hk
  rw [bitExtract, fld_pos, fld_len, BitVec.getLsbD_and, getLsbD_lowMask, BitVec.getLsbD_ushiftRight, BitVec.getLsbD_ofNat,
    Nat.testBit_mod_two_pow, Nat.testBit_div_two_pow, BitVec.testBit_toNat, Nat.add_comm k]
  simp [hk, Bool.and_comm]

/-- BFI puts the low bits of `c` in the place of the field. -/
theorem getLsbD_bitInsert (a b c : Word) {k : Nat} (hk : k < 64) :
    (bitInsert a b c).getLsbD k =
      if b.toNat % 64 ≤ k ∧ k ≤ b.toNat % 64 + b.toNat / 64 % 64 then c.getLsbD (k - b.toNat % 64) else a.getLsbD k := by
  have bit (p n : Nat) : (BitVec.ofNat 64 ((2 ^ (n + 1) - 1) * 2 ^ p)).getLsbD k = decide (p ≤ k ∧ k ≤ p + n) := by
    rw [BitVec.getLsbD_ofNat, Nat.testBit_mul_two_pow, Nat.testBit_two_pow_sub_one]
    simp only [hk, decide_true, Bool.true_and, ← Bool.decide_and, decide_eq_decide]
    omega
  rw [bitInsert, fld_pos, fld_len, BitVec.getLsbD_or, BitVec.getLsbD_and, BitVec.getLsbD_and, BitVec.getLsbD_not, bit,
    BitVec.getLsbD_shiftLeft]
  split_ifs with h
  · simp [hk, h]
  · simp [hk, h]

/-- LI on a pass and on a control core. -/
theorem liGives (f : FmtB) (x : Option Word) :
    PassGives (.li f x) always (fun _ _ a => a.pass.wrP f.dst (liValue f x)) ∧
    CoreGives (.li f x) (fun _ _ => True) fun s d => { (s.core d).wr f.dst (liValue f x) with pc := (s.core d).npc } := by
  refine ⟨fun s e sl a ⟨hc, ha⟩ _ => ?_, fun s d hc _ => ?_⟩
  · show execLi f x s = _
    simp only [execLi, hc, ha]
  · show execLi f x s = _
    simp only [execLi, hc, CoreState.adv_eq, CoreState.wr_npc]

/-- Settles O11: the field is read by a shift and a mask, and replaced bit by bit; LI writes its one value. -/
theorem bitFieldsAndLi : Obligations.BitFieldsAndLi := by
  refine ⟨fun f => ⟨?_, fun g hg => ?_⟩, fun f x => ?_⟩
  · refine scalarGives_of_scalarWord fun s => ?_
    simp only [← bitExtract_eq]
    rfl
  · refine scalarGives_of_scalarWord fun s => ?_
    have same : g = bitInsert := by
      funext a b c
      exact BitVec.eq_of_getLsbD_eq fun k hk => (hg a b c k hk).trans (getLsbD_bitInsert a b c hk).symm
    rw [same]
    rfl
  · exact liGives f x

end Sys2Proof.Machine
end

section
/-!
The word that a step runs, on an issue slot (R90, R184, R193), on a control core (R257, R262, R264, R268) and in a collective program
(R407, R408).
-/
namespace Sys2Proof.Machine
open Sys2Proof Sys2Proof.Machine Sys2Proof.Cert

/-! ### The word of a pass (R90, R184, R193) -/

/-- The instruction that the words of a pass decode to, or the event that says that they decode to none (R100). -/
def passInstr (e sl : Nat) (w : Word) (x : Option Word) : Instr :=
  match decodeWord w x with
  | .ok i => i
  | .error _ => .wordDecodeFault (.pass e sl) cIllegal w

/-- Word `j` of the body that a pass runs. -/
def State.bodyWord (s : State) (e : Nat) (a : Active) (j : Nat) : Word :=
  tget 0 (s.engine e).t.body ((s.opOf e a).h.body + j)

/-- The move of a pass that runs the word at `j` of its body. -/
def State.runsWordAt (s : State) (e sl : Nat) (a : Active) (j : Nat) (pref : Bool) : Sel :=
  .run (passInstr e sl (s.bodyWord e a j) (if wordXt (s.bodyWord e a j) then some (s.bodyWord e a (j + 1)) else none))
    ({ s with cur := .pass e sl }.setPass e sl a (a.pass.at j (if wordXt (s.bodyWord e a j) then 2 else 1) pref))

theorem State.passWordAt_eq (s : State) (e sl : Nat) (a : Active) (j : Nat) (pref : Bool) :
    s.passWordAt e sl a j pref =
      (passInstr e sl (s.bodyWord e a j) (if wordXt (s.bodyWord e a j) then some (s.bodyWord e a (j + 1)) else none),
        s.setPass e sl a (a.pass.at j (if wordXt (s.bodyWord e a j) then 2 else 1) pref)) := by
  unfold State.passWordAt passInstr State.bodyWord State.opOf
  simp only [← Nat.add_assoc]
  generalize decodeWord _ _ = d
  cases d <;> rfl

theorem State.run_passWordAt (s : State) (e sl : Nat) (a : Active) (j : Nat) (pref : Bool) :
    (fun x : Instr × State => Sel.run x.1 x.2) ({ s with cur := .pass e sl }.passWordAt e sl a j pref) =
      s.runsWordAt e sl a j pref := by
  rw [State.passWordAt_eq]
  rfl

section
variable {s : State} {e sl : Nat} {a : Active}

/-- A word whose steps are not all done goes on (R184). -/
theorem State.selectEngine_step (act : s.active e sl = some a) (wait : a.pass.wait = .none) (after : a.pass.after = [])
    (step : a.pass.step ≠ 0) : s.selectEngine e sl = s.runsWordAt e sl a a.pass.idx (decide (a.pass.kp ≠ 0)) := by
  have act' : { s with cur := .pass e sl }.active e sl = some a := act
  rw [← State.run_passWordAt, State.selectEngine]
  simp only [act', wait, after, step, ne_eq, not_true_eq_false, not_false_eq_true, if_true, if_false]

/-- A P word goes before the word that runs with every tangent of the pass (R90, R193). -/
theorem State.selectEngine_next (act : s.active e sl = some a) (wait : a.pass.wait = .none) (after : a.pass.after = [])
    (step : a.pass.step = 0) (done : a.pass.done = false) (left : a.pass.next ≤ (s.opOf e a).h.blen) :
    s.selectEngine e sl = if wordMaj (s.bodyWord e a a.pass.next) = 0x3E then s.runsWordAt e sl a (a.pass.next + 1) true
      else s.runsWordAt e sl a a.pass.next false := by
  have act' : { s with cur := .pass e sl }.active e sl = some a := act
  rw [← State.run_passWordAt, ← State.run_passWordAt, State.selectEngine]
  simp only [act', wait, after, step, done]
  rw [if_neg (by decide), if_neg (by decide), if_neg (by decide), if_neg fun h => h.elim nofun (Nat.not_lt.mpr left)]
  exact apply_ite (fun x : Instr × State => Sel.run x.1 x.2) (wordMaj (s.bodyWord e a a.pass.next) = 0x3E) _ _
end

theorem stepRunsPassWord : StepRunsPassWord := by
  intro s t e sl a he hsl hm live act wait after op body len run at_ pre j
  have sel : t.moveEvent (.engine e sl) = t.selectEngine e sl := by
    simp [State.moveEvent, live, Nat.not_le.mpr he, Nat.not_le.mpr hsl]
  have runs (j : Nat) (pref : Bool) (k : Nat) (hk : k = if a.pass.all || pref then a.pass.kfire else 0) :
      t.runsWordAt e sl a j pref = .run (run j) (at_ j k) := by
    subst hk
    rfl
  refine ⟨fun step done left => ?_, fun step => ?_⟩
  · refine runsInTurn_of_moveEvent hm (sel.trans ((State.selectEngine_next act wait after step done left).trans ?_))
    by_cases p : pre
    · have hj : j = a.pass.next + 1 := if_pos p
      rw [hj]
      exact (if_pos p).trans (runs _ _ _ (by simp [p]))
    · have hj : j = a.pass.next := if_neg p
      rw [hj]
      exact (if_neg p).trans (runs _ _ _ (by simp [p]))
  · refine runsInTurn_of_moveEvent hm (sel.trans ((State.selectEngine_step act wait after step).trans ?_))
    exact runs _ _ _ (by simp)

/-! ### Reading memory leaves the Root Core block as it was -/

theorem State.translate_root (s : State) (d c va : Nat) (pre : List PreByte) : (s.translate d c va pre).2.root = s.root := by
  unfold State.translate
  dsimp only
  repeat' split
  all_goals rfl

theorem State.setDirty_root (s : State) (d c : Nat) (t : Trans) : (s.setDirty d c t).root = s.root := by
  rw [State.setDirty]
  split_ifs <;> rfl

theorem State.byteHome_root (s : State) (v : Via) (a : Word) : (s.byteHome v a).2.root = s.root := by
  unfold State.byteHome
  dsimp only
  split
  case h_5 =>
    split
    · split_ifs <;> rfl
    · next c _ =>
      have ht := s.translate_root v.by_.die c (addrVa a) (s.walkPre v)
      split
      · next h => rw [h] at ht; exact ht
      · next h =>
        rw [h] at ht
        split
        · exact ht
        · dsimp only
          split_ifs <;> [exact (State.setDirty_root ..).trans ht; exact ht]
  all_goals
    repeat' split
    all_goals rfl

theorem State.byteHomes_root (s : State) (v : Via) (a : Word) (n : Nat) : (s.byteHomes v a n).2.root = s.root := by
  induction n generalizing s a with
  | zero => rfl
  | succ n ih =>
    have first := s.byteHome_root v a
    rw [State.byteHomes]
    split
    · next h => rw [h] at first; exact first
    · next t h =>
      rw [h] at first
      have rest := ih t (a + 1)
      split <;> next k => rw [k] at rest; exact rest.trans first

theorem State.resolve_root (s : State) (v : Via) (ps : List Nat) (a : Word) (n : Nat) (al : Bool) :
    (s.resolve v ps a n al).2.root = s.root := by
  rw [State.resolve]
  split_ifs <;> [rfl; rfl; rfl; exact State.byteHomes_root ..]

/-- A fetch leaves the Root Core block as it was, and so the package frozen or not. -/
theorem State.fetchWord_root (s : State) (d : Nat) (a : Word) : (s.fetchWord d a).2.root = s.root := by
  have res := s.resolve_root (s.coreVia d .fetch) [0x0, 0x1, 0x2, 0x8, 0x9] a 8 false
  unfold State.fetchWord
  split
  · rfl
  · split
    · next h => rw [h] at res; exact res
    · next h =>
      rw [h] at res
      split_ifs <;> exact res

/-! ### The word of a control core (R257, R262, R264, R268) -/

/-- Core `d` fetches the word `w` at `a`, with the extension word `x` where it has one, and is then in `t` (R257). -/
def State.Fetched (s : State) (d : Nat) (a w : Word) (x : Option Word) (t : State) : Prop :=
  ∃ u, s.fetchWord d a = (.ok w, u) ∧
    (x = none ∧ wordXt w = false ∧ t = u.setCore d { u.core d with wfe := false } ∨
      ∃ y, x = some y ∧ wordXt w = true ∧ (u.setCore d { u.core d with wfe := false }).fetchWord d (a + 8) = (.ok y, t))

theorem State.Fetched.root {s t : State} {d : Nat} {a w : Word} {x : Option Word} (h : s.Fetched d a w x t) : t.root = s.root := by
  obtain ⟨u, first, rest⟩ := h
  have hu := s.fetchWord_root d a
  rw [first] at hu
  obtain ⟨-, -, rfl⟩ | ⟨y, -, -, second⟩ := rest
  · exact hu
  · have hv := (u.setCore d { u.core d with wfe := false }).fetchWord_root d (a + 8)
    rw [second] at hv
    exact hv.trans hu

/-- The instruction of a core that a word decodes to, or the event that says that it is none (R98, R100). -/
def coreInstr (d : Nat) (w : Word) (x : Option Word) : Instr :=
  match decodeWord w x with
  | .ok i => if coreWordOk i then i else .wordDecodeFault (.core d) cIllegal w
  | .error _ => .wordDecodeFault (.core d) cIllegal w

/-- A core that is not held up by anything but its own word: it is released, it goes on, and neither a record nor the handler limit
comes before the word. -/
structure MayExecute (s : State) (d : Nat) : Prop where
  live : s.isFrozen = false
  run : (s.core d).run = true
  halted : (s.core d).halted = false
  step : (s.core d).step = none
  after : (s.core d).after = []
  noDelivery : s.mayDeliver d = false
  noLimit : s.handlerLate d = false
  awake : (s.core d).wfe = false ∨ (s.core d).csr.pend = true

section
variable {s : State} {d : Nat} {w : Word} {x : Option Word} {len : Nat}

/-- A word of majors 0x33 to 0x36 waits for the earlier accesses of the core (R264). -/
theorem State.coreEvent_waits (wait : waitsForAll w = true) (busy : s.corePend d ≠ []) (live : s.isFrozen = false) :
    s.coreEvent d w x len = .stay s := if_pos ⟨wait, busy, live⟩

theorem State.coreEvent_runs (free : waitsForAll w = false ∨ s.corePend d = []) :
    s.coreEvent d w x len = .run (coreInstr d w x) (s.setCore d { s.core d with
      npc := (s.core d).pc + BitVec.ofNat 64 len, step := none, pre := if waitsForAll w then [] else (s.core d).pre }) := by
  have on : ¬ (waitsForAll w = true ∧ s.corePend d ≠ [] ∧ s.isFrozen = false) := fun ⟨wait, busy, _⟩ =>
    free.elim (fun h => absurd (h.symm.trans wait) nofun) busy
  refine (if_neg on).trans ?_
  unfold coreInstr
  cases decodeWord w x with
  | error e => rfl
  | ok i => dsimp only; split_ifs <;> rfl

theorem MayExecute.awake_idle (may : MayExecute s d) {p : Prop} : ¬ ((s.core d).wfe = true ∧ (s.core d).csr.pend = false ∧ p) :=
  fun ⟨idle, quiet, _⟩ => may.awake.elim (fun h => absurd (h.symm.trans idle) nofun) fun h => absurd (h.symm.trans quiet) nofun

theorem MayExecute.at_core (may : MayExecute s d) : MayExecute { s with cur := .core d } d := by
  obtain ⟨live, run, halted, step, after, delivery, limit, awake⟩ := may
  exact ⟨live, run, halted, step, after, delivery, limit, awake⟩

/-- A core that holds a word runs it again (R268). -/
theorem State.selectCore_held (may : MayExecute s d) (held : (s.core d).held = some w) :
    s.selectCore d = { s with cur := .core d }.coreEvent d w none 8 := by
  have core : ({ s with cur := .core d }.die d).core = s.core d := rfl
  obtain ⟨live, -, -, -, -, delivery, limit, -⟩ := may.at_core
  simp only [State.selectCore, core, may.halted, may.after, may.step, may.run, live, delivery, limit, held]
  simp [may.awake_idle]

/-- A core that holds none fetches one, with its extension word (R257). -/
theorem State.selectCore_fetched {v : State} (may : MayExecute s d) (held : (s.core d).held = none)
    (fetched : { s with cur := .core d }.Fetched d (s.core d).pc w x v) :
    s.selectCore d = v.coreEvent d w x (if x.isSome then 16 else 8) := by
  have core : ({ s with cur := .core d }.die d).core = s.core d := rfl
  obtain ⟨live, -, -, -, -, delivery, limit, -⟩ := may.at_core
  obtain ⟨u, first, rest⟩ := fetched
  simp only [State.selectCore, core, may.halted, may.after, may.step, may.run, live, delivery, limit, held, first]
  obtain ⟨rfl, xt, rfl⟩ | ⟨y, rfl, xt, second⟩ := rest
  · simp [may.awake_idle, xt]
  · simp only [may.awake_idle, xt, second, ne_eq, not_true_eq_false, false_and, if_false, if_true, Bool.false_eq_true, Bool.true_eq_false,
      or_self, Option.isSome_some]

end

theorem State.moveEvent_core {s : State} {d : Nat} (hd : d < 4) : s.moveEvent (.core d) = s.selectCore d := if_neg (Nat.not_le.mpr hd)

theorem State.mayDeliver_eq_false {s : State} {d : Nat} (h : (s.core d).csr.ie = false ∨ (s.core d).csr.ebusy = true ∨
    (s.core d).csr.xbusy = true ∨ (s.die d).trapq = [] ∨ (s.core d).busy ≠ none) : s.mayDeliver d = false := by
  have core : (s.die d).core = s.core d := rfl
  obtain h | h | h | h | h := h <;> simp [State.mayDeliver, core, h, Option.isNone_eq_false_iff, Option.isSome_iff_ne_none.mpr]

theorem State.handlerLate_eq_false {s : State} {d : Nat} (h : (s.core d).busy ≠ none ∨ ∀ n, (s.core d).htEnd = some n → s.tick.toNat < n) :
    s.handlerLate d = false := by
  refine Bool.eq_false_iff.mpr fun late => ?_
  simp only [State.handlerLate, Bool.and_eq_true, Option.any_eq_true, decide_eq_true_eq, Option.isNone_iff_eq_none] at late
  obtain ⟨⟨-, idle⟩, n, ends, due⟩ := late
  exact h.elim (fun busy => busy idle) fun before => Nat.not_lt.mpr due (before n ends)

/-- A move with nothing to run goes on. -/
theorem step_of_moveEvent_stay {s t u : State} {m : Move} (hm : s.nextMove = (m, u)) (he : u.moveEvent m = .stay t) : step s = .next t := by
  simp only [step, State.select, hm, State.selectMove, he, State.inTurn]

theorem stepRunsCoreWord : StepRunsCoreWord := by
  intro s t u v d w x hd hm c run live hrun halted step after held delivery limit awake first rest
  have may : MayExecute t d :=
    ⟨live, hrun, halted, step, after, State.mayDeliver_eq_false delivery, State.handlerLate_eq_false limit, awake⟩
  have fetched : { t with cur := .core d }.Fetched d c.pc w x v := ⟨u, first, rest⟩
  have sel := (State.moveEvent_core hd).trans (State.selectCore_fetched may held fetched)
  refine ⟨fun ⟨wait, busy⟩ => ?_, fun free => ?_⟩
  · have frozen : v.isFrozen = false := by
      rw [State.isFrozen, fetched.root]
      exact live
    exact step_of_moveEvent_stay hm (sel.trans (State.coreEvent_waits wait busy frozen))
  · refine runsInTurn_of_moveEvent hm (sel.trans ((State.coreEvent_runs free).trans ?_))
    cases x <;> rfl

theorem stepRunsHeldWord : StepRunsHeldWord := by
  intro s t d w hd hm c run live hrun halted step after held busy wfe wait idle
  have may : MayExecute t d :=
    ⟨live, hrun, halted, step, after, State.mayDeliver_eq_false (.inr (.inr (.inr (.inr busy)))), State.handlerLate_eq_false (.inl busy),
      .inl wfe⟩
  have sel := (State.moveEvent_core hd).trans (State.selectCore_held may held)
  refine runsInTurn_of_moveEvent hm (sel.trans ((State.coreEvent_runs (.inr idle)).trans ?_))
  simp only [wait, if_true]
  rfl


/-! ### The word of a collective program (R407, R408) -/

/-- The instruction of a sequencer that a word decodes to, or the event that says that it is none (R100, R407). -/
def seqInstr (d k : Nat) (w : Word) (x : Option Word) : Instr :=
  match decodeWord w x with
  | .ok i => if seqWordOk i then i else .wordDecodeFault (.seq d k) cIllegal w
  | .error _ => .wordDecodeFault (.seq d k) cIllegal w

theorem State.selectSeq_word {s : State} {d k : Nat} {p : CProg} {w : Word} (prog : s.prog d k = some p) (stop : p.stop = false)
    (running : (s.ctx p.ctx).st = .running) (word : p.words[p.pc]? = some w) (ext : wordXt w = true → p.pc + 1 < p.words.length) :
    s.selectSeq d k = .run (seqInstr d k w (if wordXt w then p.words[p.pc + 1]? else none))
      ({ s with cur := .seq d k }.setProg d k (some { p with npc := p.pc + (if wordXt w then 2 else 1) })) := by
  have prog' : { s with cur := .seq d k }.prog d k = some p := prog
  have running' : ({ s with cur := .seq d k }.ctx p.ctx).st = .running := running
  have whole : ¬ (wordXt w = true ∧ (if wordXt w then p.words[p.pc + 1]? else none) = none) := fun ⟨xt, cut⟩ => by
    rw [if_pos xt, List.getElem?_eq_none_iff] at cut
    exact Nat.not_lt.mpr cut (ext xt)
  simp only [State.selectSeq, prog', stop, running', word, whole, Bool.false_eq_true, ne_eq, not_true_eq_false, or_self, if_false]
  unfold seqInstr
  generalize decodeWord _ _ = r
  cases r with
  | error e => rfl
  | ok i => dsimp only; split_ifs <;> rfl

theorem stepRunsProgramWord : StepRunsProgramWord := by
  intro s t d k p w hd hk hm live prog stop running word ext run
  have sel : t.moveEvent (.seq d k) = t.selectSeq d k := by
    simp [State.moveEvent, live, Nat.not_le.mpr hd, Nat.not_le.mpr hk]
  exact runsInTurn_of_moveEvent hm (sel.trans (State.selectSeq_word prog stop running word ext))

/-- Settles O4: each agent's choice of its next word is followed to the word, whose decoding is the event that the step runs. -/
theorem stepRunsDecodedWord : Obligations.StepRunsDecodedWord :=
  ⟨stepRunsPassWord, stepRunsCoreWord, stepRunsHeldWord, stepRunsProgramWord⟩

end Sys2Proof.Machine
end

section
/-!
Records: their queue, their delivery, the limit of a handler, and words that do not decode (R100, R271, R275–R277).
-/
namespace Sys2Proof.Machine
open Sys2Proof Sys2Proof.Machine Sys2Proof.Cert

/-! ### The trap queue (R271, R275) -/

section
variable {s : State} {d : Nat} {r : Record}

theorem exec_trapRecordEnqueue_full (full : 256 ≤ (s.die d).trapq.length) :
    exec (.trapRecordEnqueue d r) s = .next (s.post (.trapRecordEnqueue d r)) := by
  show execTrapRecordEnqueue d r s = _
  simp only [execTrapRecordEnqueue, full, if_true]

theorem exec_trapRecordEnqueue_plain (room : (s.die d).trapq.length < 256) (plain : r.key = none) :
    exec (.trapRecordEnqueue d r) s = .next (s.setDie d { s.die d with trapq := (s.die d).trapq ++ [r] }) := by
  show execTrapRecordEnqueue d r s = _
  simp only [execTrapRecordEnqueue, Nat.not_le.mpr room, if_false, plain]

theorem exec_trapRecordEnqueue_fault {key : Nat} (room : (s.die d).trapq.length < 256) (fault : r.key = some key) :
    exec (.trapRecordEnqueue d r) s = .next (s.setDie d { s.die d with
      trapq := (s.die d).trapq ++ [{ r with fid := BitVec.ofNat 32 (d * 2 ^ 30 + (s.die d).fidNext) }]
      fidNext := nextSerial (s.die d).fidNext
      fids := (s.die d).fids.map fun g =>
        if g.key = key then { g with fid := BitVec.ofNat 32 (d * 2 ^ 30 + (s.die d).fidNext) } else g }) := by
  show execTrapRecordEnqueue d r s = _
  simp only [execTrapRecordEnqueue, Nat.not_le.mpr room, if_false, fault]

/-! ### The delivery of a record (R276) -/

/-- A core that may be interrupted by a record (R276). -/
def CoreState.ready (c : CoreState) : Prop :=
  c.csr.ie = true ∧ c.csr.ebusy = false ∧ c.csr.xbusy = false ∧ c.halted = false ∧ c.busy = none

theorem State.mayDeliver_iff : s.mayDeliver d = true ↔ (s.core d).ready ∧ (s.die d).trapq ≠ [] := by
  have core : (s.die d).core = s.core d := rfl
  simp [State.mayDeliver, CoreState.ready, core, and_assoc, and_comm, and_left_comm]

theorem exec_trapDelivery_wait (wait : ¬ ((s.core d).ready ∧ (s.die d).trapq ≠ [])) : exec (.trapDelivery d) s = .next s := by
  show Host.Outcome.next _ = _
  rw [if_neg fun may => wait (State.mayDeliver_iff.mp may)]

/-- A record goes to the handler of its context (R276). -/
def State.toHandler (s : State) (r : Record) : Prop :=
  ∃ n, r.ctx = some n ∧ userCause r.cause.toNat = true ∧ (s.ctx n).hv = true ∧ (s.ctx n).st ≠ .tearing

/-- EST holds the status of R276. -/
theorem CoreCsr.status_eq {c : CoreCsr} (h : c.cctx < 128) : c.status = statusOf c := by
  have low : put 1 1 (b2n c.mode) ||| put 0 1 (b2n c.ie) = BitVec.ofNat 64 (c.ie.toNat + 2 * c.mode.toNat) := by
    cases c.mode <;> cases c.ie <;> rfl
  have small : c.ie.toNat + 2 * c.mode.toNat < 2 ^ 8 := by
    have := c.ie.toNat_le
    have := c.mode.toNat_le
    omega
  have sum : c.ie.toNat + 2 * c.mode.toNat + 256 * c.cctx = 2 ^ 8 * c.cctx + (c.ie.toNat + 2 * c.mode.toNat) := by omega
  rw [CoreCsr.status, BitVec.or_assoc, low, statusOf, sum, Nat.two_pow_add_eq_or_of_lt small, BitVec.ofNat_or, put,
    Nat.mod_eq_of_lt (show c.cctx < 2 ^ 7 from h), Nat.mul_comm]

variable {l : List Record}

theorem exec_trapDelivery (ready : (s.core d).ready) (head : (s.die d).trapq = r :: l) :
    exec (.trapDelivery d) s = .next (s.deliverRecord d) := by
  show Host.Outcome.next _ = _
  rw [if_pos (State.mayDeliver_iff.mpr ⟨ready, by simp [head]⟩)]

/-- The CSRs at the entry to a handler of records (R276). -/
def State.entryCsr (s : State) (d : Nat) (r : Record) : CoreCsr :=
  { (s.core d).csr with epc := (s.core d).pc, est := (s.core d).csr.status, ebusy := true, ie := false,
                        trec := tsets 0 (s.core d).csr.trec 0 r.words }

theorem State.deliverRecord_user {n : Nat} (head : (s.die d).trapq = r :: l) (user : s.toHandler r) (of : r.ctx = some n) :
    s.deliverRecord d = s.setCore d { s.core d with
      pc := pcOf (s.ctx n).r.hentry, wfe := false, rodw := none,
      htEnd := if (s.core d).csr.htmo = (0 : Word) then none else some (s.tick.toNat + (s.core d).csr.htmo.toNat),
      csr := { s.entryCsr d r with mode := false, cctx := n } } := by
  obtain ⟨m, hm, cause, hv, alive⟩ := user
  obtain rfl : m = n := Option.some.inj (hm.symm.trans of)
  have alive : ((s.ctx m).st != .tearing) = true := bne_iff_ne.mpr alive
  simp only [State.deliverRecord, head, hm, cause, hv, alive, Bool.and_self, Bool.true_eq_false, false_and, if_false, if_true,
    Option.getD_some]
  rfl

theorem State.deliverRecord_supervisor (head : (s.die d).trapq = r :: l) (user : ¬ s.toHandler r) :
    s.deliverRecord d = if (s.core d).csr.stvec = 0 then s.haltCore d else s.setCore d { s.core d with
      pc := pcOf (s.core d).csr.stvec, wfe := false, rodw := none,
      csr := { s.entryCsr d r with mode := true, cctx := r.ctx.getD 64 } } := by
  have core : (s.die d).core = s.core d := rfl
  unfold State.deliverRecord
  simp only [head, core]
  cases of : r.ctx with
  | none => simp only [true_and, Bool.false_eq_true, if_false, State.entryCsr]
  | some n =>
    have no : (userCause r.cause.toNat && (s.ctx n).hv && (s.ctx n).st != .tearing) = false := by
      refine Bool.eq_false_iff.mpr fun yes => user ?_
      simp only [Bool.and_eq_true, bne_iff_ne] at yes
      exact ⟨n, of, yes.1.1, yes.1.2, yes.2⟩
    simp only [no, true_and, Bool.false_eq_true, if_false, State.entryCsr]
end

/-! ### The handler limit (R277) -/

theorem State.exception_mem_eng (s : State) (d : Nat) (pc xc v : Word) :
    (s.exception d pc xc v).mem = s.mem ∧ (s.exception d pc xc v).eng = s.eng := by
  rw [State.exception]
  split_ifs
  · exact ⟨rfl, rfl⟩
  · dsimp only
    split_ifs <;> exact ⟨rfl, rfl⟩

theorem exec_handlerTimeout {s : State} {d : Nat} (late : s.handlerLate d = true) :
    exec (.handlerTimeout d) s = .next ((s.exception d (s.core d).pc 0x20A 0).setCore d
      { (s.exception d (s.core d).pc 0x20A 0).core d with htEnd := none }) := if_pos late

/-- Settles O36: each event by the lemma for its case; the status that a delivery saves is the sum of its three fields. -/
theorem recordEvents : Obligations.RecordEvents := by
  intro s d x c
  refine ⟨fun r room => ⟨exec_trapRecordEnqueue_plain room, fun key => exec_trapRecordEnqueue_fault room⟩,
    fun r => exec_trapRecordEnqueue_full, ⟨fun r l ready head cctx => ?_, exec_trapDelivery_wait⟩, ?_, ?_⟩
  · intro user csr
    have saved : s.entryCsr d r = csr := by
      rw [State.entryCsr, CoreCsr.status_eq (c := (s.core d).csr) cctx]
      rfl
    rw [exec_trapDelivery ready head]
    refine ⟨fun n u of => ?_, fun u stvec => ?_, fun u stvec => ?_⟩
    · rw [State.deliverRecord_user head u of, saved]
      rfl
    · rw [State.deliverRecord_supervisor head u, saved]
      exact congrArg Host.Outcome.next (if_neg stvec)
    · rw [State.deliverRecord_supervisor head u]
      exact congrArg Host.Outcome.next (if_pos stvec)
  · intro n run halted idle ends due
    have late : s.handlerLate d = true := by
      have core : s.core d = c := rfl
      simp [State.handlerLate, core, run, halted, idle, ends, due]
    exact ⟨_, exec_handlerTimeout late, State.core_setCore .., State.exception_mem_eng ..⟩
  · exact fun cause val => ⟨rfl, fun e sl => rfl, fun k => rfl⟩
end Sys2Proof.Machine
end

section
/-!
Every row completes, and a step faults only for an agent that does not exist.
-/
namespace Sys2Proof.Machine
open Sys2Proof Sys2Proof.Machine Sys2Proof.Cert

/-! ### Every row completes -/

/-- The instruction runs to a next state. -/
def Completes (o : Host.Outcome State Fault Refusal) : Prop := ∃ t, o = .next t

theorem completes_next (t : State) : Completes (.next t) := ⟨t, rfl⟩

section
variable (i : Instr) (s : State)

theorem onPass_completes (k : Nat → Nat → Active → State) : Completes (onPass i s k) := by
  unfold onPass
  split
  · split <;> exact completes_next _
  · exact completes_next _

theorem onCore_completes (k : Nat → CoreState → State) : Completes (onCore i s k) := by
  unfold onCore
  split <;> exact completes_next _

theorem onSeq_completes (k : Nat → Nat → CProg → State) : Completes (onSeq i s k) := by
  unfold onSeq
  split
  · split <;> exact completes_next _
  · exact completes_next _

theorem onSup_completes (k : Nat → CoreState → State) : Completes (onSup i s k) := onCore_completes i s _

theorem csrWord_completes (f : FmtCS) (new : Option (Word → Word → Word)) : Completes (csrWord i f s new) :=
  onCore_completes i s _

theorem scalarWord_completes (f : FmtA) (g : Word → Word → Word → Word) : Completes (scalarWord i f s g) := by
  unfold scalarWord
  split
  · split <;> exact completes_next _
  · exact completes_next _
  · exact completes_next _

theorem copyWord_completes (f : FmtA) (pick : Word → Word → Word → Bool) : Completes (copyWord i f s pick) := by
  unfold copyWord
  split
  · split <;> exact completes_next _
  · exact completes_next _
  · exact completes_next _

theorem collPacket_completes (c t : Nat) (p : Packet) (k : State) : Completes (collPacket i c t p s k) := by
  unfold collPacket
  dsimp only
  split
  · exact completes_next _
  · split
    · exact completes_next _
    · split <;> exact completes_next _

end

/-- Most rows are their function's `.next` or one of the shared shapes above; the last three groups branch, each way to a `.next`. -/
theorem exec_completes (i : Instr) (s : State) : Completes (exec i s) := by
  unfold exec
  cases i
  case passAbort | rodAddArrival | windowAccessArrival | woundArrival | lockReleaseArrival | trapDelivery | stall | poolDispatch |
    contextRunGrant | cmdLaunch | cmdRodAdd | cmdRodWait | cmdCopy | cmdColl | cmdFence | cmdMark | replayRequest |
    packetForward | pgtValidate | resetRelease | romTestsDone | accessAtHome | wordDecodeFault | groupReserve | groupFree |
    contextAlloc | contextSoft | contextHard | contextRelease | contextRun | contextTear | contextRootWrite | queueEnable |
    queueDisable | queueFlush | queueTailWrite | reckonerRelall | walkerInv | linkTrain | linkDown | mctpControlMessage |
    mctpReadRootBlock | mctpReadErrorLog | mctpReadSensors | packageReset | freeze | boot | capture | replay | capstop |
    lockRequestDecide | instanceQuiesce | tokenPacket | attestationReportRequest =>
    exact completes_next _
  case add | sub | mul | mulh | mulhu | divu | remu | and | or | xor | andn | shl | shr | sra | min | max | minu | maxu | cmp |
    clz | popc | bfx | bfi =>
    exact scalarWord_completes ..
  case sel | mov =>
    exact copyWord_completes ..
  case vqnt | lnch | steer | rels | keep | colr | nop | exit | tdget | fcmp | fcvt | trig | dtset | vcmp | vsel | vmsk | vcvt |
    vnrs | vsumr | vmaxr | vscan | vdqnt | vaddc | vmulw | vtopk | mma | mmaq | mmax | mmag | mzro | mldq | mstq | abxAdd |
    abxDot | dseed | dtget | dtzro | fadd | fsub | fmul | ffma | fmin | fmax | frcp | frsq | vadd | vsub | vmul | vfma | vmin |
    vmax | vabs | vneg | vand | vor | vxor | vshl | vshr | vsra | vrcp | vrsq | vexp2 | vlog2 | vtanh | vbcst | vlsh | vperm |
    vtrn | abxClr | abxMrg | abxRnd | abxOut | tdmk | tdset | tdadv | tdsub | emit | null | lgen | dmnd | lkQry | ldg | lds |
    stg | sts | atom | cas | clrm | ldt | stt | redt | rmtStt | rmtFaa | rmtSt | rmtFlag | ordj | fence | lkAcq | lkUpg | lkRel |
    lkRall | lkmLd | lkeSet =>
    exact onPass_completes ..
  case ld | st | br | jal | jalr | trapc | eret | inj | purge | retryf | retryfFail =>
    exact onCore_completes ..
  case csSend | csSendG | csRecv | csRrs | csCopy | csWait | csLoop | csPeer | csEnd =>
    exact onSeq_completes ..
  case cdone | cbusy | cack | creq | cclr | cdata =>
    exact collPacket_completes ..
  case csrr | csrw | csrs | csrc =>
    exact csrWord_completes ..
  case rodInit | rodInitFree | wfe | gload | garm | gdisarm | snap | rstor | qdrn | msrd | mswr =>
    exact onSup_completes ..
  case loopArm | loopHandOut | firingIssue | suspendedPassResume | trapRecordEnqueue | exitToken | poolPriorityPromote |
    groupClearComplete | teardownComplete | quantumExpiry | hardDeadlineExpiry | contextDrainComplete | hardPreemptComplete |
    deviceQueuePost | walkerInvComplete | linkTrainAttemptDone | flitReceive | remoteOpArrival | rack | rfail | recvPortTimeout |
    replayDivergence | tokenAtLinkPort | powerWindow | tokenArrival | overflowReinject | pushLanding | streamChunkTransfer |
    streamCompletion | handlerTimeout | replayTimeout | imageVerifyDone | hostAtomicop | debugStepWord | registerWrite |
    passCommit | translationWalkComplete | lnchReservation | creqResend | abortAckTimeout | collStepTimeout | li |
    hostApertureAccess =>
    dsimp only [execLoopArm, execLoopHandOut, execFiringIssue, execSuspendedPassResume, execTrapRecordEnqueue, execExitToken,
      execPoolPriorityPromote, execGroupClearComplete, execTeardownComplete, execQuantumExpiry, execHardDeadlineExpiry,
      execContextDrainComplete, execHardPreemptComplete, execDeviceQueuePost, execWalkerInvComplete, execLinkTrainAttemptDone,
      execFlitReceive, execRemoteOpArrival, execRack, execRfail, execRecvPortTimeout, execReplayDivergence, execTokenAtLinkPort,
      execPowerWindow, execTokenArrival, execOverflowReinject, execPushLanding, execStreamChunkTransfer, execStreamCompletion,
      execHandlerTimeout, execReplayTimeout, execImageVerifyDone, execHostAtomicop, execDebugStepWord, execRegisterWrite,
      execPassCommit, execTranslationWalkComplete, execLnchReservation, execCreqResend, execAbortAckTimeout,
      execCollStepTimeout, execLi, execHostApertureAccess]
    repeat' split
    all_goals exact completes_next _
  case cabt =>
    dsimp only [execCabt]
    split
    · exact completes_next _
    · exact collPacket_completes ..
  case rodAdd | rodWait | rodRd =>
    dsimp only [execRodAdd, execRodWait, execRodRd]
    split
    · repeat' split
      all_goals exact completes_next _
    · exact onPass_completes ..

/-! ### A step faults only for an agent that does not exist -/

theorem State.selectEngine_ne_bad (s : State) (e sl : Nat) : s.selectEngine e sl ≠ .bad := by
  unfold State.selectEngine
  dsimp only
  repeat' split
  all_goals exact nofun

@[simp] theorem State.coreEvent_ne_bad (s : State) (d : Nat) (w : Word) (x : Option Word) (len : Nat) :
    s.coreEvent d w x len ≠ .bad := by
  unfold State.coreEvent
  dsimp only
  repeat' split
  all_goals exact nofun

theorem State.selectCore_ne_bad (s : State) (d : Nat) : s.selectCore d ≠ .bad := by
  unfold State.selectCore
  dsimp only
  repeat' split
  all_goals simp

theorem State.selectSeq_ne_bad (s : State) (d k : Nat) : s.selectSeq d k ≠ .bad := by
  unfold State.selectSeq
  dsimp only
  repeat' split
  all_goals exact nofun

theorem State.occurs_ne_bad (s : State) (i : Instr) : s.occurs i ≠ .bad := by
  unfold State.occurs
  repeat' split
  all_goals exact nofun

/-- The move names an agent that the package does not have. -/
def Move.Absent : Move → Prop
  | .engine e sl => 288 ≤ e ∨ 2 ≤ sl
  | .core d => 4 ≤ d
  | .seq d k => 4 ≤ d ∨ 8 ≤ k
  | .evict d _ => 4 ≤ d
  | .constFill n _ => 292 ≤ n
  | .constPick d _ => 4 ≤ d
  | .early n _ _ _ => 297 ≤ n
  | _ => False

theorem State.moveEvent_of_absent (s : State) {m : Move} (h : m.Absent) : s.moveEvent m = .bad := by
  cases m
  case engine | core | seq | evict | constFill | constPick | early => exact if_pos h
  all_goals exact h.elim

/-- The bound that a move of an agent checks is the only way to `.bad`. -/
theorem ite_bad_ne_bad {absent : Prop} [Decidable absent] {x : Sel} (h : ¬ absent) (hx : x ≠ .bad) :
    (if absent then .bad else x) ≠ .bad := by rwa [if_neg h]

theorem ite_stay_ne_bad {c : Prop} [Decidable c] {t : State} {x : Sel} (hx : x ≠ .bad) : (if c then .stay t else x) ≠ .bad := by
  split
  · exact nofun
  · exact hx

theorem State.moveEvent_ne_bad (s : State) {m : Move} (h : ¬ m.Absent) : s.moveEvent m ≠ .bad := by
  cases m with
  | engine e sl => exact ite_bad_ne_bad h (ite_stay_ne_bad (s.selectEngine_ne_bad e sl))
  | core d => exact ite_bad_ne_bad h (s.selectCore_ne_bad d)
  | seq d k => exact ite_bad_ne_bad h (ite_stay_ne_bad (s.selectSeq_ne_bad d k))
  | evict | constFill | constPick => exact ite_bad_ne_bad h nofun
  | early e sl w mask =>
    refine ite_bad_ne_bad h ?_
    repeat' split
    all_goals exact nofun
  | clock => exact ite_stay_ne_bad nofun
  | deliver n =>
    unfold State.moveEvent
    dsimp only
    repeat' split
    all_goals exact nofun
  | occur i => exact ite_stay_ne_bad (s.occurs_ne_bad i)
  | hostStore | barSize | vector | probe | eccFail | eccFix | eccSlot | eccUnit => exact nofun

/-- A step whose move is an event or nothing goes on: every row completes. -/
theorem stepSafe_of_moveEvent_ne_bad {s u : State} {m : Move} (hm : s.nextMove = (m, u)) (h : u.moveEvent m ≠ .bad) : StepSafe s := by
  cases he : u.moveEvent m with
  | run i t =>
    obtain ⟨acts, waits⟩ := runsInTurn_of_moveEvent hm he
    cases late : t.late i with
    | true => exact ⟨u, waits late⟩
    | false =>
      obtain ⟨t', ht'⟩ := exec_completes i ((t.afresh i).noted i)
      exact ⟨t', (acts late).trans ht'⟩
  | stay t => exact ⟨t, step_of_moveEvent_stay hm he⟩
  | bad => exact absurd he h

theorem step_of_moveEvent_bad {s u : State} {m : Move} (hm : s.nextMove = (m, u)) (h : u.moveEvent m = .bad) :
    step s = .fault .noSuchAgent := by
  simp only [step, State.select, hm, State.selectMove, h, State.inTurn]

theorem stepFaultsOnlyWithoutAgent : StepFaultsOnlyWithoutAgent := fun s =>
  ⟨fun (absent : s.nextMove.1.Absent) => step_of_moveEvent_bad rfl (s.nextMove.2.moveEvent_of_absent absent),
    fun (present : ¬ s.nextMove.1.Absent) => stepSafe_of_moveEvent_ne_bad rfl (s.nextMove.2.moveEvent_ne_bad present)⟩

/-- Settles O57: every function of the rows ends in a next state, and the bound that a move checks is the only way to the fault. -/
theorem rowsAndStepsComplete : Obligations.RowsAndStepsComplete := ⟨exec_completes, stepFaultsOnlyWithoutAgent⟩

end Sys2Proof.Machine
end

section
/-!
The integer words (R124), CLZ and POPC (R126), and CMP.cc, SEL and MOV (R125), on a pass and on a control core.
-/
namespace Sys2Proof.Machine
open Sys2Proof Sys2Proof.Machine Sys2Proof.Cert

/-- A scalar word does what its statement says where the model's function of its operands is the stated one. -/
theorem scalarGives_of_eq {i : Instr} {f : FmtA} {g g' : Word → Word → Word → Word} (run : ∀ s, exec i s = scalarWord i f s g)
    (same : ∀ a b c, g a b c = g' a b c) : ScalarGives i f g' :=
  have e : g = g' := funext fun a => funext fun b => funext fun c => same a b c
  e ▸ scalarGives_of_scalarWord run

/-! ### Arithmetic, logic, shifts, minimum and maximum (R124) -/

/-- The product of two sign-extended words is the product of their integers, of 128 bits. -/
theorem signExtend_mul_signExtend (a b : Word) : a.signExtend 128 * b.signExtend 128 = BitVec.ofInt 128 (a.toInt * b.toInt) := by
  rw [BitVec.ofInt_mul]; rfl

theorem mulHigh_eq (a b : Word) : mulHigh a b = (a.signExtend 128 * b.signExtend 128).extractLsb' 64 64 := by
  rw [mulHigh, signExtend_mul_signExtend]
  generalize a.toInt * b.toInt = z
  apply BitVec.eq_of_toNat_eq
  rw [BitVec.extractLsb'_toNat, BitVec.toNat_ofInt, BitVec.toNat_ofInt, Nat.shiftRight_eq_div_pow]
  omega

theorem mulHighU_eq (a b : Word) : mulHighU a b = (a.setWidth 128 * b.setWidth 128).extractLsb' 64 64 := by
  have fits : a.toNat * b.toNat < 2 ^ 128 := (Nat.mul_lt_mul'' a.isLt b.isLt).trans_eq (Nat.pow_add 2 64 64).symm
  apply BitVec.eq_of_toNat_eq
  rw [mulHighU, BitVec.toNat_ofNat, BitVec.extractLsb'_toNat, BitVec.toNat_mul, BitVec.toNat_setWidth_of_le (by decide),
    BitVec.toNat_setWidth_of_le (by decide), Nat.mod_eq_of_lt fits, Nat.shiftRight_eq_div_pow]

theorem divU_eq (a b : Word) : divU a b = if b = 0 then 0xFFFFFFFFFFFFFFFF else a / b := by
  rw [divU, ← BitVec.toNat_udiv, BitVec.ofNat_toNat, BitVec.setWidth_eq]
  rfl

theorem remU_eq (a b : Word) : remU a b = if b = 0 then a else a % b := by
  rw [remU, ← BitVec.toNat_umod, BitVec.ofNat_toNat, BitVec.setWidth_eq]

/-- A choice of the second operand where a strict comparison holds is the choice of the first where its converse does. -/
theorem ite_lt_eq_ite_le {α β : Type} [LinearOrder β] (x y : β) (a b : α) :
    (if decide (y < x) = true then b else a) = if x ≤ y then a else b := by
  rw [← ite_not]
  simp only [decide_eq_true_eq, not_lt]

/-- Settles O9: each word runs as a scalar word of its function, which is the stated one: by definition, or as the lemma of its operation
says. -/
theorem integerWords : Obligations.IntegerWords := fun _ =>
  ⟨scalarGives_of_scalarWord fun _ => rfl, scalarGives_of_scalarWord fun _ => rfl, scalarGives_of_scalarWord fun _ => rfl,
    scalarGives_of_eq (g := fun a b _ => mulHigh a b) (fun _ => rfl) fun a b _ => mulHigh_eq a b,
    scalarGives_of_eq (g := fun a b _ => mulHighU a b) (fun _ => rfl) fun a b _ => mulHighU_eq a b,
    scalarGives_of_eq (g := fun a b _ => divU a b) (fun _ => rfl) fun a b _ => divU_eq a b,
    scalarGives_of_eq (g := fun a b _ => remU a b) (fun _ => rfl) fun a b _ => remU_eq a b,
    scalarGives_of_scalarWord fun _ => rfl, scalarGives_of_scalarWord fun _ => rfl, scalarGives_of_scalarWord fun _ => rfl,
    scalarGives_of_scalarWord fun _ => rfl,
    scalarGives_of_eq (g := fun a b _ => a <<< fld b 0 6) (fun _ => rfl) fun a b _ => congrArg (a <<< ·) (fld_pos b),
    scalarGives_of_eq (g := fun a b _ => a >>> fld b 0 6) (fun _ => rfl) fun a b _ => congrArg (a >>> ·) (fld_pos b),
    scalarGives_of_eq (g := fun a b _ => a.sshiftRight (fld b 0 6)) (fun _ => rfl) fun a b _ => congrArg a.sshiftRight (fld_pos b),
    scalarGives_of_eq (g := fun a b _ => if b.slt a then b else a) (fun _ => rfl) fun a b _ => ite_lt_eq_ite_le a.toInt b.toInt a b,
    scalarGives_of_eq (g := fun a b _ => if a.slt b then b else a) (fun _ => rfl) fun a b _ => ite_lt_eq_ite_le b.toInt a.toInt a b,
    scalarGives_of_eq (g := fun a b _ => if b.ult a then b else a) (fun _ => rfl) fun a b _ => ite_lt_eq_ite_le a.toNat b.toNat a b,
    scalarGives_of_eq (g := fun a b _ => if a.ult b then b else a) (fun _ => rfl) fun a b _ => ite_lt_eq_ite_le b.toNat a.toNat a b⟩

/-! ### CLZ and POPC (R126) -/

/-- Above the highest set bit of the low `n` bits stand the leading zeros. -/
theorem leadingZeros_eq (x n : Nat) : leadingZeros x n = n - (x % 2 ^ n).size := by
  induction n with
  | zero => simp [leadingZeros]
  | succ n ih =>
    have low : x % 2 ^ n < 2 ^ n := Nat.mod_lt _ (Nat.two_pow_pos n)
    rw [leadingZeros, Nat.mod_pow_succ, ← Nat.toNat_testBit]
    cases x.testBit n with
    | true =>
      have top : n < (x % 2 ^ n + 2 ^ n).size := Nat.lt_size.mpr (Nat.le_add_left ..)
      rw [if_pos rfl, Bool.toNat_true, Nat.mul_one]
      omega
    | false =>
      have top : (x % 2 ^ n).size ≤ n := Nat.size_le.mpr low
      simp only [Bool.false_eq_true, if_false, Bool.toNat_false, Nat.mul_zero, Nat.add_zero, ih]
      omega

/-- Each set bit counts once. -/
theorem popCount_eq (x n : Nat) : popCount x n = (List.range n).countP fun k => x.testBit k := by
  induction n with
  | zero => rfl
  | succ n ih =>
    have bit (b : Bool) : b2n b = if b then 1 else 0 := rfl
    rw [popCount, ih, bit, List.range_succ, List.countP_append, List.countP_singleton, Nat.add_comm]

/-- A word of one source has no second operand (R125, R126). -/
theorem FmtA.second_zero_of_int1 {f : FmtA} (h : f.int1 = true) : f.sb = 0 ∧ f.imm = 0 := by
  simp only [FmtA.int1, FmtA.only, Bool.and_eq_true, Bool.or_eq_true, beq_iff_eq, Bool.false_eq_true, false_or, and_assoc] at h
  obtain ⟨-, -, sb, -, -, -, -, -, -, -, imm⟩ := h
  exact ⟨sb, imm⟩

/-- Settles O10: both counts by induction on the bits that they look at. -/
theorem countBits : Obligations.CountBits := fun f =>
  ⟨scalarGives_of_eq (g := fun a _ _ => BitVec.ofNat 64 (leadingZeros a.toNat 64)) (fun _ => rfl) fun a _ _ => by
      rw [leadingZeros_eq, Nat.mod_eq_of_lt a.isLt],
    scalarGives_of_eq (g := fun a _ _ => BitVec.ofNat 64 (popCount a.toNat 64)) (fun _ => rfl) fun a _ _ =>
      congrArg (BitVec.ofNat 64) (popCount_eq a.toNat 64),
    FmtA.second_zero_of_int1, FmtA.second_zero_of_int1⟩

/-! ### CMP.cc, SEL and MOV (R125) -/

/-- The conditions of R89 by their codes. -/
theorem condHolds_eq (cc : BitVec 4) (a b : Word) : condHolds cc.toNat a b = condOf cc a b := by
  unfold condOf
  simp only [← not_lt, decide_not]
  generalize cc.toNat = n
  match n with
  | 0 => exact beq_eq_decide a b
  | 1 => exact congrArg (!·) (beq_eq_decide a b)
  | 2 | 3 | 4 | 5 | 6 | 7 | 8 | 9 | _ + 10 => rfl

section
variable {i : Instr} {f : FmtA} {pick : Word → Word → Word → Bool} {h : Word → Prop}

theorem copyWord_pass (s : State) (e sl : Nat) (a : Active) (hc : s.cur = .pass e sl) (ha : s.active e sl = some a) :
    let va := a.pass.rd s.tick f.sa
    let vb := immB f (a.pass.rd s.tick f.sb)
    let first := pick va vb (a.pass.rd s.tick f.sc)
    copyWord i f s pick = .next (s.setPass e sl a
      (a.pass.wrD f.dst (if first then va else vb) fun t => a.pass.rdSh (if first then f.sa else f.sb) t)) := by
  simp only [copyWord, hc, ha]

theorem copyWord_core (s : State) (d : Nat) (hc : s.cur = .core d) :
    let c := s.core d
    copyWord i f s pick = .next (s.setCore d { c.wr f.dst (if pick (c.rd f.sa) (immB f (c.rd f.sb)) (c.rd f.sc) then c.rd f.sa
      else immB f (c.rd f.sb)) with pc := c.npc }) := by
  simp only [copyWord, hc, CoreState.adv_eq, CoreState.wr_npc]

variable (run : ∀ s, exec i s = copyWord i f s pick)
include run

/-- A copying word copies its first operand wherever it picks it. -/
theorem copiesA_of_copyWord (first : ∀ a b c, h c → pick a b c = true) : CopiesA i f h :=
  ⟨fun s e sl a ⟨hc, ha⟩ hh => by simp only [run, copyWord_pass s e sl a hc ha, first _ _ _ hh, if_true],
    fun s d hc hh => by simp only [run, copyWord_core s d hc, first _ _ _ hh, if_true]⟩

/-- A copying word copies its second operand wherever it does not pick the first. -/
theorem copiesB_of_copyWord (second : ∀ a b c, h c → pick a b c = false) : CopiesB i f h :=
  ⟨fun s e sl a ⟨hc, ha⟩ hh => by
      simp only [run, copyWord_pass s e sl a hc ha, second _ _ _ hh, Bool.false_eq_true, if_false]; rfl,
    fun s d hc hh => by simp only [run, copyWord_core s d hc, second _ _ _ hh, Bool.false_eq_true, if_false]; rfl⟩

end

/-- Settles O12: CMP by the table of conditions, SEL and MOV by the operand that a copying word picks. -/
theorem movesAndSelects : Obligations.MovesAndSelects := fun f =>
  ⟨scalarGives_of_eq (g := fun a b _ => BitVec.ofNat 64 (b2n (condHolds f.f1.toNat a b))) (fun _ => rfl) fun a b _ => by
      rw [condHolds_eq, ofNat_b2n],
    copiesA_of_copyWord (pick := fun _ _ c => c != 0) (fun _ => rfl) fun _ _ _ => bne_iff_ne.mpr,
    copiesB_of_copyWord (pick := fun _ _ c => c != 0) (fun _ => rfl) fun _ _ _ hc => bne_eq_false_iff_eq.mpr hc,
    copiesA_of_copyWord (pick := fun _ _ _ => true) (fun _ => rfl) fun _ _ _ _ => rfl,
    FmtA.second_zero_of_int1,
    fun p tick v _ low high => p.rd_wr_same tick v (.inr ⟨low, high⟩)⟩

end Sys2Proof.Machine
end

section
/-!
Accesses at their homes: what they write, what they reply, and what an uncorrectable error leaves (R234, R249, R250, R454).
-/
namespace Sys2Proof.Machine
open Sys2Proof Sys2Proof.Machine Sys2Proof.Cert

/-! ### The value of an atomic (R249) -/

section
variable {n m v : Nat}

/-- What an atomic of `n` bytes leaves of old value `m` and operand `b`, by its operation (R134, R249). -/
def AtomValue (k n m b x : Nat) : Prop :=
  let fmt := if n = 8 then 0 else 1
  let sg := fun (x : Nat) => (BitVec.ofNat (8 * n) x).toInt
  let f := fun (y : FV) => encFloat fmt 0 0 y % 2 ^ (8 * n)
  let A := fvOf fmt m
  let B := fvOf fmt b
  let pick := fun (mx : Bool) => f (if A.isNan then A else if B.isNan then B else if minMaxSecond mx A B then B else A).quiet
  k = 0 ∧ x = (m + b) % 2 ^ (8 * n) ∨ k = 1 ∧ x = m &&& b ∨ k = 2 ∧ x = m ||| b ∨ k = 3 ∧ x = m ^^^ b ∨
    k = 4 ∧ x = (if sg b < sg m then b else m) ∨ k = 5 ∧ x = (if sg m < sg b then b else m) ∨
    k = 6 ∧ x = Nat.min m b ∨ k = 7 ∧ x = Nat.max m b ∨ k = 8 ∧ x = b ∨
    k = 9 ∧ x = f (A.add 0 B) ∨ k = 10 ∧ x = pick false ∨ k = 11 ∧ x = pick true

/-- Bytes of an access stand for a number that a 64-bit word holds. -/
theorem toNat_ofNat_of_size (hn : n = 4 ∨ n = 8) {x : Nat} (hx : x < 2 ^ (8 * n)) : (BitVec.ofNat 64 x).toNat = x := by
  refine Nat.mod_eq_of_lt (Nat.lt_of_lt_of_le hx (Nat.pow_le_pow_right (by decide) ?_))
  omega

/-- The operation of an atomic gives its value, of which as many bytes are stored as the access has. -/
theorem atomNew_mod {k x : Nat} (hn : n = 4 ∨ n = 8) (hm : m < 2 ^ (8 * n)) (h : AtomValue k n m (v % 2 ^ (8 * n)) x) :
    atomNew k n m v % 2 ^ (8 * n) = x := by
  have hb : v % 2 ^ (8 * n) < 2 ^ (8 * n) := Nat.mod_lt _ (Nat.two_pow_pos _)
  have wb := toNat_ofNat_of_size hn hb
  have wm := toNat_ofNat_of_size hn hm
  have signed : ∀ x, sintOf (8 * n) x = (BitVec.ofNat (8 * n) x).toInt := fun x => sintOf_eq_toInt _ _ (by omega)
  have chosen : ∀ (c : Prop) [Decidable c], (if c then v % 2 ^ (8 * n) else m) < 2 ^ (8 * n) := fun c _ => by split <;> assumption
  obtain ⟨rfl, rfl⟩ | ⟨rfl, rfl⟩ | ⟨rfl, rfl⟩ | ⟨rfl, rfl⟩ | ⟨rfl, rfl⟩ | ⟨rfl, rfl⟩ | ⟨rfl, rfl⟩ | ⟨rfl, rfl⟩ | ⟨rfl, rfl⟩ |
    ⟨rfl, rfl⟩ | ⟨rfl, rfl⟩ | ⟨rfl, rfl⟩ := h
  all_goals simp only [atomNew, BitVec.toNat_and, BitVec.toNat_or, BitVec.toNat_xor, wb, wm, signed]
  · rw [Nat.mod_mod, Nat.add_mod_mod]
  · exact Nat.mod_eq_of_lt (Nat.and_lt_two_pow _ hb)
  · exact Nat.mod_eq_of_lt (Nat.or_lt_two_pow hm hb)
  · exact Nat.mod_eq_of_lt (Nat.xor_lt_two_pow hm hb)
  · exact Nat.mod_eq_of_lt (chosen _)
  · exact Nat.mod_eq_of_lt (chosen _)
  · exact Nat.mod_eq_of_lt (Nat.lt_of_le_of_lt (Nat.min_le_left ..) hm)
  · exact Nat.mod_eq_of_lt (Nat.max_lt.mpr ⟨hm, hb⟩)
  · exact Nat.mod_mod ..
  all_goals rfl

end

/-! ### An access acts at its home (R234) -/

/-- What follows the read of an access that has written: the result token sets out with the old value, and an acquire is noted. -/
def State.replied (s : State) (a : Access) (m : Nat) : State :=
  ((s.sendReply a.reply (BitVec.ofNat 64 m)).acquireAt a.who.ctx a.acq).2

section
variable {s : State} {a : Access}

theorem State.replied_mem (s : State) (a : Access) (m : Nat) : (s.replied a m).mem = s.mem :=
  (acquireAt_mem ..).trans (s.sendReply_kept ..).1

theorem State.replied_rdByte (s : State) (a : Access) (m h : Nat) : (s.replied a m).rdByte h = s.rdByte h :=
  congrArg (tget memDefault · h) (State.replied_mem ..)

theorem State.replied_rdHomes (s : State) (a : Access) (m : Nat) (hs : List Nat) : (s.replied a m).rdHomes hs = s.rdHomes hs :=
  List.map_congr_left fun h _ => State.replied_rdByte s a m h

/-- The token that the reply of an access sends to an engine. -/
theorem State.replied_pend_some {r : Reply} (m : Nat) (hr : a.reply = some r) (hu : tokUnit r.tok ≤ 71) :
    (s.replied a m).pend.map (·.ev) = s.pend.map (·.ev) ++
      [.tokenArrival (tokDie r.tok) (tokUnit r.tok) (tokWithPay r.tok (BitVec.ofNat 64 m)) ⟨false, 256 * r.who.die + r.who.unit⟩] := by
  have sent : SamePend (s.sendReply a.reply (BitVec.ofNat 64 m)) (s.replied a m) := .acquireAt ..
  rw [sent, hr, State.sendReply_arrival _ hu, State.postDep, List.map_append]
  rfl

theorem State.replied_pend_none (m : Nat) (hr : a.reply = none) : (s.replied a m).pend = s.pend := by
  have sent : SamePend (s.sendReply a.reply (BitVec.ofNat 64 m)) (s.replied a m) := .acquireAt ..
  rw [sent, hr]
  rfl

theorem State.accessHome_store {bs : List Byte} (op : a.op = .store bs) : s.accessHome a = s.storeHomes a.homes bs := by
  simp only [State.accessHome, op]

theorem State.accessHome_atom {k n : Nat} {v : Word} (op : a.op = .atom k n v) (readable : s.eccHomes a.homes = false) :
    let m := leNat (s.rdHomes a.homes)
    s.accessHome a =
      (s.storeHomes a.homes (leBytes a.homes.length (atomNew k a.homes.length m v.toNat))).replied a m := by
  simp only [State.accessHome, op, readable, Bool.false_eq_true, if_false, State.replied]

theorem State.accessHome_cas {n : Nat} {new cmp : Word} (op : a.op = .cas n new cmp) (readable : s.eccHomes a.homes = false) :
    let m := leNat (s.rdHomes a.homes)
    s.accessHome a = (if m = cmp.toNat % 2 ^ (8 * a.homes.length) then s.storeHomes a.homes (leBytes a.homes.length new.toNat)
      else s).replied a m := by
  simp only [State.accessHome, op, readable, Bool.false_eq_true, if_false, State.replied]

/-- An atomic or CAS that can be read replies after a write that puts nothing in flight. -/
theorem State.accessHome_replied (reads : ∀ bs, a.op ≠ .store bs) (readable : s.eccHomes a.homes = false) :
    ∃ u, SamePend s u ∧ s.accessHome a = u.replied a (leNat (s.rdHomes a.homes)) := by
  match op : a.op with
  | .store bs => exact absurd op (reads bs)
  | .atom .. => exact ⟨_, .storeHomes .., State.accessHome_atom op readable⟩
  | .cas .. =>
    refine ⟨_, ?_, State.accessHome_cas op readable⟩
    split <;> [exact .storeHomes ..; exact .refl s]

/-- An atomic or CAS that meets an uncorrectable error only reports it. -/
theorem State.accessHome_ecc (reads : ∀ bs, a.op ≠ .store bs) (bad : s.eccHomes a.homes = true) :
    s.accessHome a = s.report a.who.die cEcc a.who 0 (Config.eccPlace (a.homes.headD 0)) none := by
  match op : a.op with
  | .store bs => exact absurd op (reads bs)
  | .atom .. | .cas .. => simp only [State.accessHome, op, bad, if_true]

/-- A number that an access has written is read back as its low bytes, and no other byte has changed. -/
theorem State.rdHomes_and_frame_of_replied {t : State} {x m : Nat} (nd : a.homes.Nodup)
    (e : t = (s.storeHomes a.homes (leBytes a.homes.length x)).replied a m) :
    leNat (t.rdHomes a.homes) = x % 2 ^ (8 * a.homes.length) ∧ ∀ h, h ∉ a.homes → t.rdByte h = s.rdByte h := by
  subst e
  refine ⟨?_, fun h hn => (State.replied_rdByte ..).trans (State.rdByte_storeHomes_of_not_mem hn)⟩
  rw [State.replied_rdHomes, State.rdHomes_storeHomes nd (length_leBytes ..).symm, leNat_leBytes, Nat.pow_mul]

end

/-- Settles O41: a store, an atomic and a CAS by what they write, the reply by its token, an error by its record. -/
theorem accessesAtHome : Obligations.AccessesAtHome := by
  intro s a n m fmt t others
  have hm : m < 2 ^ (8 * n) := by
    simpa [n, m, State.rdHomes, Nat.pow_mul] using leNat_lt (s.rdHomes a.homes)
  refine ⟨?_, fun nd => ⟨?_, ?_, ?_, ?_⟩, fun reads readable => ?_, State.accessHome_ecc⟩
  · rintro i hi
    obtain rfl | rfl : i = .accessAtHome a ∨ i = .windowAccessArrival a := by simpa using hi
    all_goals rfl
  · intro bs op len
    have e : t = s.storeHomes a.homes bs := State.accessHome_store op
    rw [e]
    exact ⟨State.rdHomes_storeHomes nd len.symm, fun h hn => e ▸ State.rdByte_storeHomes_of_not_mem hn, SamePend.storeHomes ..⟩
  · intro k v op size readable b sg f A B pick x value
    obtain ⟨wrote, rest⟩ := State.rdHomes_and_frame_of_replied nd (State.accessHome_atom op readable)
    exact ⟨wrote.trans (atomNew_mod size hm value), rest⟩
  · intro new cmp op readable same
    exact State.rdHomes_and_frame_of_replied nd
      ((State.accessHome_cas op readable).trans (congrArg (State.replied · a m) (if_pos same)))
  · intro new cmp op readable differs
    have e := (State.accessHome_cas op readable).trans (congrArg (State.replied · a m) (if_neg differs))
    exact (congrArg State.mem e).trans (State.replied_mem ..)
  · obtain ⟨u, quiet, e⟩ := State.accessHome_replied reads readable
    refine ⟨fun hr => (congrArg State.pend e).trans ((State.replied_pend_none m hr).trans quiet), fun r hr hu => ?_⟩
    have fields := tokFields_withPay r.tok (BitVec.ofNat 64 m)
    refine ⟨tokWithPay r.tok (BitVec.ofNat 64 m), congrArg TokF.pay fields, congrArg TokF.col fields, ?_⟩
    show (s.accessHome a).pend.map (·.ev) = _
    rw [e, State.replied_pend_some m hr hu, quiet]

end Sys2Proof.Machine
end

section
/-!
The element-wise vector words (R139–R152, R166), and VMSK (R149).
-/
namespace Sys2Proof.Machine
open Sys2Proof Sys2Proof.Machine Sys2Proof.Cert

/-! ### Words with checks -/

/-- What a vector word answers: a fault of its operands, a failure of its own checks or an error of what it reads (R140, R454), or the
result `r` of what it does. -/
def vecChecked (fault : Option Nat) (bad : Prop) [Decidable bad] (ecc : Option Failure) (r : Except Failure Pass) : Except Failure Pass :=
  match fault with
  | some c => .error (plain c)
  | none =>
    if bad then .error (plain cDesc)
    else
      match ecc with
      | some g => .error g
      | none => r

/-- A vector word gives the pass that it answers wherever its checks pass. -/
theorem passGives_of_vecChecked {i : Instr} {H : State → Nat → Active → Prop} {fault : State → Nat → Active → Option Nat}
    {bad : State → Nat → Active → Prop} [∀ s e a, Decidable (bad s e a)] {ecc : State → Nat → Active → Option Failure}
    {r : State → Nat → Active → Except Failure Pass} {p : State → Nat → Active → Pass}
    (run : ∀ s, exec i s = vecWord i s fun e a => vecChecked (fault s e a) (bad s e a) (ecc s e a) (r s e a))
    (pass : ∀ s e a, H s e a → fault s e a = none ∧ ¬ bad s e a ∧ ecc s e a = none ∧ r s e a = .ok (p s e a)) :
    PassGives i H p := by
  refine passGives_of_vecWord run fun s e a h => ?_
  obtain ⟨sound, good, readable, same⟩ := pass s e a h
  simp only [vecChecked, sound, if_neg good, readable, same]

/-! ### Element-wise words -/

/-- The pass that an element-wise word leaves. -/
def State.elementPass (s : State) (e : Nat) (a : Active) (f : FmtA) (ins : List VIn) (prim : Nat → List Nat → Nat)
    (tan : Option (List Nat → Nat → List Nat → Nat)) : Pass :=
  let p := a.pass
  let d := p.rd s.tick f.dst
  let str := s.shadowStride e a.fr.op
  let els := fun r i => ins.map fun x => at2 (x.vals s e p (dRows d) (dEpr d)) r i
  let out := grid (dRows d) (dEpr d) fun r i => prim (r * dEpr d + i) (els r i)
  s.writeDual e p str d (p.masked f (out.map (·.map some))) (tan.map fun g t => grid (dRows d) (dEpr d) fun r i =>
    g (els r i) (at2 out r i) (ins.map fun x => at2 (x.tans s e p str t (dRows d) (dEpr d)) r i))

section
variable {f : FmtA} {ok : Nat → Bool}

/-- An element-wise word whose checks pass writes its elements and their tangents (R140–R142, R195). -/
theorem State.vecMap_of_ready {s : State} {e : Nat} {a : Active} {ins : List VIn} {prim : Nat → List Nat → Nat}
    {tan : Option (List Nat → Nat → List Nat → Nat)} (ready : tilesReady s e a f ok ins tan.isSome) :
    s.vecMap e a f ok ins prim tan = .ok (s.elementPass e a f ins prim tan) := by
  obtain ⟨operands, format, scales, sources, readable⟩ := ready
  have shaped : (ins.any fun x => x.scal.isNone && !srcOk x.desc x.fmt (dRows (a.pass.rd s.tick f.dst))
      (dEpr (a.pass.rd s.tick f.dst))) = false := by
    simpa [Option.isSome_iff_ne_none, or_iff_not_imp_left] using sources
  simp [State.vecMap, operands, format, scales, shaped, readable, State.elementPass, grid, List.map_map, Function.comp_def]

/-- A word that runs as an element-wise word gives what that writes. -/
theorem elementGives_of_vecMap {i : Instr} {ins : State → Active → List VIn}
    {prim : State → Nat → Active → Nat → List Nat → Nat} {tan : Option (List Nat → Nat → List Nat → Nat)}
    (run : ∀ s, exec i s = vecWord i s fun e a => s.vecMap e a f ok (ins s a) (prim s e a) tan) :
    ElementGives i f ok ins prim tan :=
  passGives_of_vecWord run fun _ _ _ => State.vecMap_of_ready

end

/-! ### Arithmetic (R145, R166) -/

/-- The operands of an arithmetic word of `n` sources: a tile, and after it tiles or scalars. -/
abbrev arithOperands (f : FmtA) (n : Nat) (s : State) (a : Active) : List VIn :=
  [a.pass.tileIn s.tick f.sa f.f1.toNat, a.pass.maybeScal s.tick f.sb f.f1.toNat (f.imm.getLsbD 0),
    a.pass.maybeScal s.tick f.sc f.f1.toNat (f.imm.getLsbD 1)].take n

section
variable {i : Instr} {f : FmtA} {n : Nat} {fl : Nat → Nat → Nat → Nat → Nat} {it : Int → Int → Int → Int}
  {tan : FV → FV → FV → FV → FV → FV → FV} (run : ∀ s, exec i s = vArith i f s n fl it tan)
include run

/-- An arithmetic word on a floating format gives its floating results and tangents. -/
theorem elementGives_of_vArith_float (float : f.f1.toNat ≤ 3) :
    let m := f.f1.toNat
    let v := fun (o : List Nat) (k : Nat) => fvOf m (arg o k)
    let w := fun (t : List Nat) (k : Nat) => tanVal m (arg t k)
    ElementGives i f (· == m) (arithOperands f n)
      (fun s e a k o => fl (if f.rm = 4 then s.sr e a 0 k else 0) (arg o 0) (arg o 1) (arg o 2))
      (some fun o _ t => tanEnc m (tan (v o 0) (v o 1) (v o 2) (w t 0) (w t 1) (w t 2))) := by
  refine elementGives_of_vecMap fun s => (run s).trans ?_
  simp only [vArith, if_pos float]
  rfl

/-- An arithmetic word on an integer format gives its exact results, reduced or clamped, and no tangents. -/
theorem elementGives_of_vArith_int (int : 8 ≤ f.f1.toNat) :
    let m := f.f1.toNat
    ElementGives i f (· == m) (arithOperands f n)
      (fun _ _ _ _ o => intRes m (f.imm.getLsbD 2) (it (intVal m (arg o 0)) (intVal m (arg o 1)) (intVal m (arg o 2)))) none := by
  refine elementGives_of_vecMap fun s => (run s).trans ?_
  simp only [vArith, if_neg (show ¬ f.f1.toNat ≤ 3 by omega)]
  rfl

end

section
variable (f : FmtA) (s : State)

theorem exec_vadd : exec (.vadd f) s = vArith (.vadd f) f s 2
    (fun k x y _ => rndF f k ((fvOf f.f1.toNat x).add f.rm.toNat (fvOf f.f1.toNat y)))
    (fun x y _ => x + y) fun _ _ _ ta tb _ => ta.add 0 tb := rfl
theorem exec_vsub : exec (.vsub f) s = vArith (.vsub f) f s 2
    (fun k x y _ => rndF f k ((fvOf f.f1.toNat x).sub f.rm.toNat (fvOf f.f1.toNat y)))
    (fun x y _ => x - y) fun _ _ _ ta tb _ => ta.sub 0 tb := rfl
theorem exec_vmul : exec (.vmul f) s = vArith (.vmul f) f s 2
    (fun k x y _ => rndF f k ((fvOf f.f1.toNat x).mul (fvOf f.f1.toNat y)))
    (fun x y _ => x * y) fun a b _ ta tb _ => a.prodTan b ta tb := rfl
theorem exec_vfma : exec (.vfma f) s = vArith (.vfma f) f s 3
    (fun k x y z => rndF f k ((fvOf f.f1.toNat x).fma f.rm.toNat (fvOf f.f1.toNat y) (fvOf f.f1.toNat z)))
    (fun x y z => x * y + z) fun a b _ ta tb tc => (a.prodTan b ta tb).add 0 tc := rfl
theorem exec_vmin : exec (.vmin f) s = vArith (.vmin f) f s 2
    (fun _ x y _ => encFloat f.f1.toNat 0 0 (minMaxVal false (fvOf f.f1.toNat x) (fvOf f.f1.toNat y)))
    (fun x y _ => min x y) fun a b _ ta tb _ => if minMaxPick false a b then tb else ta := rfl
theorem exec_vmax : exec (.vmax f) s = vArith (.vmax f) f s 2
    (fun _ x y _ => encFloat f.f1.toNat 0 0 (minMaxVal true (fvOf f.f1.toNat x) (fvOf f.f1.toNat y)))
    (fun x y _ => max x y) fun a b _ ta tb _ => if minMaxPick true a b then tb else ta := rfl
theorem exec_vabs : exec (.vabs f) s = vArith (.vabs f) f s 1 (fun _ x _ _ => x % 2 ^ (fmtBits f.f1.toNat - 1))
    (fun x _ _ => |x|) fun a _ _ ta _ _ => if a.isZero then .zero else if a.sign then ta.neg else ta := rfl
theorem exec_vneg : exec (.vneg f) s = vArith (.vneg f) f s 1
    (fun _ x _ _ => (x + 2 ^ (fmtBits f.f1.toNat - 1)) % 2 ^ fmtBits f.f1.toNat)
    (fun x _ _ => -x) fun _ _ _ ta _ _ => ta.neg := rfl

end

theorem vectorFloat : VectorFloat := fun f float =>
  ⟨(elementGives_of_vArith_float (exec_vadd f) float :), (elementGives_of_vArith_float (exec_vsub f) float :),
    (elementGives_of_vArith_float (exec_vmul f) float :), (elementGives_of_vArith_float (exec_vfma f) float :),
    (elementGives_of_vArith_float (exec_vmin f) float :), (elementGives_of_vArith_float (exec_vmax f) float :),
    (elementGives_of_vArith_float (exec_vabs f) float :), (elementGives_of_vArith_float (exec_vneg f) float :)⟩

theorem vectorInteger : VectorInteger := fun f int =>
  ⟨(elementGives_of_vArith_int (exec_vadd f) int :), (elementGives_of_vArith_int (exec_vsub f) int :),
    (elementGives_of_vArith_int (exec_vmul f) int :), (elementGives_of_vArith_int (exec_vfma f) int :),
    (elementGives_of_vArith_int (exec_vmin f) int :), (elementGives_of_vArith_int (exec_vmax f) int :),
    (elementGives_of_vArith_int (exec_vabs f) int :), (elementGives_of_vArith_int (exec_vneg f) int :)⟩

/-! ### Logic and shifts (R146) -/

/-- A logic or shift word gives its function of the operands' bits. -/
theorem elementGives_of_vLogic {i : Instr} {f : FmtA} {g : Nat → Nat → Nat} (run : ∀ s, exec i s = vLogic i f s g) :
    let m := f.f1.toNat
    ElementGives i f (· == m) (fun s a => [a.pass.tileIn s.tick f.sa m, a.pass.maybeScal s.tick f.sb m (f.imm.getLsbD 0)])
      (fun _ _ _ _ o => g (arg o 0) (arg o 1)) none :=
  elementGives_of_vecMap run

section
variable (f : FmtA) (s : State)

theorem exec_vand : exec (.vand f) s = vLogic (.vand f) f s fun x y => x &&& y := rfl
theorem exec_vor : exec (.vor f) s = vLogic (.vor f) f s fun x y => x ||| y := rfl
theorem exec_vxor : exec (.vxor f) s = vLogic (.vxor f) f s fun x y => x ^^^ y := rfl

theorem exec_vshl : exec (.vshl f) s = vLogic (.vshl f) f s fun x y =>
    if y < fmtBits f.f1.toNat then x * 2 ^ y % 2 ^ fmtBits f.f1.toNat else 0 := by
  simp only [← not_le, ite_not]
  rfl

theorem exec_vshr : exec (.vshr f) s = vLogic (.vshr f) f s fun x y => if y < fmtBits f.f1.toNat then x / 2 ^ y else 0 := by
  simp only [← not_le, ite_not]
  rfl

theorem exec_vsra : exec (.vsra f) s = vLogic (.vsra f) f s fun x y =>
    intEnc f.f1.toNat (intVal f.f1.toNat x / 2 ^ (if y < fmtBits f.f1.toNat then y else fmtBits f.f1.toNat)) := by
  simp only [← min_def_lt]
  rfl

end

theorem vectorLogic : VectorLogic := fun f =>
  ⟨(elementGives_of_vLogic (exec_vand f) :), (elementGives_of_vLogic (exec_vor f) :), (elementGives_of_vLogic (exec_vxor f) :),
    (elementGives_of_vLogic (exec_vshl f) :), (elementGives_of_vLogic (exec_vshr f) :), (elementGives_of_vLogic (exec_vsra f) :)⟩

/-- Settles O17: the integer words as arithmetic words on an integer format, the logic words by their functions of element bits. -/
theorem vectorIntegerAndLogic : Obligations.VectorIntegerAndLogic := ⟨vectorInteger, vectorLogic⟩

/-! ### Comparison and selection (R147, R148) -/

/-- A matrix whose elements are mapped. -/
theorem grid_map {α β : Type} (h : α → β) (rows cols : Nat) (g : Nat → Nat → α) :
    (grid rows cols g).map (·.map h) = grid rows cols fun r i => h (g r i) := by
  simp [grid, Function.comp_def]

/-- The conditions of VCMP between floating values (R135, R147). -/
theorem vcmpHolds_of_float {m : Nat} (float : m ≤ 7) (cc x y : Nat) : vcmpHolds m cc x y = fcond cc (fvOf m x) (fvOf m y) := by
  rw [vcmpHolds, if_pos float]

/-- The conditions of VCMP between integers, by their codes (R89, R147). -/
theorem vcmpHolds_of_int {m : Nat} (int : 8 ≤ m) (cc x y : Nat) :
    let u := intVal m x
    let v := intVal m y
    vcmpHolds m cc x y = [decide (u = v), decide (u ≠ v), decide (u < v), decide (v ≤ u), decide (x < y), decide (y ≤ x),
      decide (v < u), decide (u ≤ v), decide (y < x), decide (x ≤ y)].getD cc false := by
  intro u v
  rw [vcmpHolds, if_neg (by omega)]
  match cc with
  | 0 => exact beq_eq_decide u v
  | 1 => exact (congrArg (!·) (beq_eq_decide u v)).trans decide_not.symm
  | 2 | 3 | 4 | 5 | 6 | 7 | 8 | 9 | _ + 10 => rfl

section
variable (f : FmtA) (s : State)

theorem exec_vcmp : exec (.vcmp f) s = execVcmp f s := rfl

theorem exec_vsel : exec (.vsel f) s = vecWord (.vsel f) s fun e a =>
    let m := f.f1.toNat
    let c := a.pass.rd s.tick f.sc
    let ins := [a.pass.tileIn s.tick f.sa m, a.pass.maybeScal s.tick f.sb m (f.imm.getLsbD 0), a.pass.plainIn s.tick f.sc (dFmt c)]
    let pick := fun (o : List Nat) => elemNonzero (dFmt c) (o.getD 2 0)
    if c ≠ 0 ∧ dFmt c = 13 then
      .error (plain ((s.operandFault e a [a.pass.rd s.tick f.dst] (VIn.descs ins (decide (m ≤ 7)))).getD cDesc))
    else s.vecMap e a f (· == m) ins (fun _ o => if pick o then o.getD 0 0 else o.getD 1 0)
      (if m ≤ 7 then some fun o _ t => if pick o then t.getD 0 0 else t.getD 1 0 else none) := rfl

end

theorem vectorCompareSelect : VectorCompareSelect := by
  intro f m A B
  refine ⟨fun df _ => ?_, fun cf flag => ?_⟩
  · intro one gives
    have gives_of : ∀ holds, (∀ x y, vcmpHolds m f.f2.toNat x y = holds x y) → gives holds := by
      intro holds same
      refine passGives_of_vecWord (exec_vcmp f) ?_
      rintro s e a ⟨rfl, ready⟩
      refine (State.vecMap_of_ready ready).trans ?_
      simp only [State.elementPass, grid_map, ← same]
      rfl
    clear_value gives
    refine ⟨fun float => gives_of _ fun x y => vcmpHolds_of_float float .., ?_, ?_, ?_, ?_, ?_, ?_, ?_, ?_, ?_, ?_⟩ <;>
      exact fun int cc => gives_of _ fun x y => by rw [vcmpHolds_of_int int, cc]; rfl
  · intro set
    refine passGives_of_vecWord (exec_vsel f) ?_
    rintro s e a ⟨rfl, ready⟩
    have tans : ∀ g : List Nat → Nat → List Nat → Nat, (if m ≤ 7 then some g else none).isSome = decide (m ≤ 7) := fun g => by
      split_ifs with h <;> simp [h]
    refine (if_neg fun bad => flag bad.2).trans ((State.vecMap_of_ready ((tans _).symm ▸ ready)).trans ?_)
    simp only [State.elementPass, grid_map]
    split_ifs <;> rfl

/-! ### VMSK (R149) -/

/-- The bits of flags packed into a number. -/
theorem testBit_packRow_flags {α : Type} (bit : α → Bool) (l : List α) (r : Nat) :
    (packRow 1 (l.map fun x => b2n (bit x))).testBit r = (l[r]?.map bit).getD false := by
  induction l generalizing r with
  | nil => simp [packRow]
  | cons x l ih =>
    have flag : ∀ b, b2n b % 2 ^ 1 = b.toNat := by decide
    rw [List.map_cons, packRow, flag, Nat.pow_one, Nat.add_comm, ← Nat.bit_val]
    cases r with
    | zero => exact Nat.testBit_bit_zero ..
    | succ r => exact (Nat.testBit_bit_succ ..).trans (ih r)

/-- A mask of one flag for each row is the word that has those bits. -/
theorem ofNat_packRow_flags {t : List (List Nat)} {bit : List Nat → Bool} {v : Word}
    (bits : ∀ r < 64, v.getLsbD r = (decide (r < t.length) && bit (t.getD r []))) :
    BitVec.ofNat 64 (packRow 1 (t.map fun row => b2n (bit row))) = v := by
  apply BitVec.eq_of_getLsbD_eq
  intro r hr
  rw [bits r hr, BitVec.getLsbD_ofNat, testBit_packRow_flags]
  by_cases h : r < t.length <;> simp [hr, h]

@[simp] theorem State.length_tile (s : State) (e : Nat) (p : Pass) (rows epr : Nat) (d : Word) :
    (s.tile e p rows epr d).length = rows := by
  unfold State.tile
  split_ifs <;> simp [zeros]

/-- What VMSK asks of a row (R149). -/
def maskBit (f : FmtA) (row : List Nat) : Bool :=
  match fld f.imm 0 2 with
  | 0 => row.any (elemNonzero f.f1.toNat)
  | 1 => row.all (elemNonzero f.f1.toNat)
  | 2 => elemNonzero f.f1.toNat (row.getD (fld f.imm 2 8) 0)
  | _ => !isEmptyEnc f.f1.toNat (row.getD (fld f.imm 2 8) 0)

theorem exec_vmsk (f : FmtA) (s : State) : exec (.vmsk f) s = execVmsk f s := rfl

theorem maskWords : MaskWords := by
  intro f m D j set rows epr ready v bits
  refine passGives_of_vecChecked (exec_vmsk f) fun s e a here => ?_
  have mask := ofNat_packRow_flags (t := s.tile e a.pass (rows s a) (epr s a) (D s a)) (bit := maskBit f) fun r hr => by
    rw [State.length_tile]
    exact bits s e a here r hr
  obtain ⟨sound, shape, readable⟩ := here
  refine ⟨sound, ?_, readable, congrArg (fun w => Except.ok (a.pass.wr f.dst w)) mask⟩
  simp only [ne_eq, not_or, not_and, not_not, not_le]
  intro nz
  obtain ⟨format, scales, inside⟩ := shape nz
  exact ⟨format, scales, inside.trans_eq (if_neg nz).symm⟩

/-- Settles O18: VCMP by its conditions and VSEL by its choice, element by element, and VMSK bit by bit. -/
theorem vectorSelectAndMasks : Obligations.VectorSelectAndMasks := ⟨vectorCompareSelect, maskWords⟩

/-! ### Conversion and special functions (R150–R152) -/

/-- A special function of one source gives its result and tangent. -/
theorem elementGives_of_vFun {i : Instr} {f : FmtA} {fn : Nat → FV → Nat} {tan : FV → FV → FV → FV}
    (run : ∀ s, exec i s = vFun i f s fn tan) :
    let m := f.f1.toNat
    ElementGives i f (· == m) (fun s a => [a.pass.tileIn s.tick f.sa m])
      (fun s e a n o => fn (if f.rm = 4 then s.sr e a 0 n else 0) (fvOf m (arg o 0)))
      (some fun o y t => tanEnc m (tan (fvOf m (arg o 0)) (fvOf m y) (tanVal m (arg t 0)))) :=
  elementGives_of_vecMap run

section
variable (f : FmtA) (s : State)

theorem exec_vrcp : exec (.vrcp f) s = vFun (.vrcp f) f s (fun _ a => approxEnc f.f1.toNat a.rcp) fun _ y ta => y.rcpTan ta := rfl
theorem exec_vrsq : exec (.vrsq f) s = vFun (.vrsq f) f s (fun _ a => approxEnc f.f1.toNat a.rsq) fun _ y ta => y.rsqTan ta := rfl
theorem exec_vexp2 : exec (.vexp2 f) s = vFun (.vexp2 f) f s (fun k a => rndF f k a.exp2) fun _ y ta => (ta.mul y).mulLn2 := rfl
theorem exec_vlog2 : exec (.vlog2 f) s = vFun (.vlog2 f) f s (fun k a => rndF f k a.log2) fun a _ ta => (ta.div a).divLn2 := rfl
theorem exec_vtanh : exec (.vtanh f) s = vFun (.vtanh f) f s (fun k a => rndF f k a.tanh) fun _ y ta =>
    ta.mul ((FV.fin false 1 0).sub 0 (y.mul y)) := rfl

theorem exec_vcvt : exec (.vcvt f) s = execVcvt f s := rfl

theorem exec_vnrs : exec (.vnrs f) s = execVnrs f s := rfl

end

theorem vectorFunctions : VectorFunctions := fun f =>
  ⟨elementGives_of_vecMap (exec_vcvt f), (elementGives_of_vFun (exec_vrcp f) :), (elementGives_of_vFun (exec_vrsq f) :),
    (elementGives_of_vFun (exec_vexp2 f) :), (elementGives_of_vFun (exec_vlog2 f) :), (elementGives_of_vFun (exec_vtanh f) :),
    elementGives_of_vecMap (exec_vnrs f)⟩

/-- Settles O19: the arithmetic words on a floating format, and the functions by the one element that each computes. -/
theorem vectorFloatAndFunctions : Obligations.VectorFloatAndFunctions := ⟨vectorFloat, vectorFunctions⟩

end Sys2Proof.Machine
end

section
/-!
Row reductions and scans (R153, R154), tile moves (R155–R158), multi-limb integers (R161–R163) and VTOPK (R164).
-/
namespace Sys2Proof.Machine
open Sys2Proof Sys2Proof.Machine Sys2Proof.Cert

/-! ### Reductions and scans (R153, R154) -/

section
variable (f : FmtA) (s : State)

theorem exec_vsumr : exec (.vsumr f) s = vecWord (.vsumr f) s fun e a =>
    s.vecReduce e a f (f.imm.getLsbD 8) (fun df v => reduceEnc df f.rm.toNat f.red.toNat v)
      fun df _ w => reduceEnc (tanFmt df) 0 f.red.toNat w := rfl
theorem exec_vmaxr : exec (.vmaxr f) s = vecWord (.vmaxr f) s fun e a =>
    s.vecReduce e a f (f.imm.getLsbD 8)
      (fun df v =>
        let x := (bestOf (!f.imm.getLsbD 9) df v).2
        if df ≤ 7 then encFloat df 0 0 (fvOf df x).quiet else x)
      fun df v w => w.getD (bestOf (!f.imm.getLsbD 9) df v).1 0 := rfl

theorem exec_vscan : exec (.vscan f) s = execVscan f s := rfl

end

theorem rowWords : RowWords := by
  intro f m j all D X rows epr src tsrc ready reduces
  have reduces_of : ∀ {i : Instr} {g : Nat → List Nat → Nat} {tn : Nat → List Nat → List Nat → Nat},
      (∀ s, exec i s = vecWord i s fun e a => s.vecReduce e a f all g tn) → reduces i g tn := by
    intro i g tn run
    refine passGives_of_vecChecked run ?_
    rintro s e a ⟨sound, format, scales, inside, source, shape, readable⟩
    refine ⟨sound, ?_, readable, rfl⟩
    simp only [ne_eq, not_or, not_and, not_not, not_le, Bool.not_eq_false]
    exact ⟨format, scales, inside, source, fun part => shape.resolve_left (Bool.eq_false_iff.mp part)⟩
  clear_value reduces
  refine ⟨reduces_of (exec_vsumr f), reduces_of (exec_vmaxr f), passGives_of_vecChecked (exec_vscan f) ?_, ?_, ?_, ?_⟩
  · rintro s e a ⟨sound, format, scales, source, readable⟩
    refine ⟨sound, ?_, readable, ?_⟩
    · simp only [ne_eq, not_or, not_not, Bool.not_eq_false]
      exact ⟨format, scales, source⟩
    · simp only [List.map_map]
      rfl
  · decide +kernel
  · decide +kernel
  · decide +kernel

/-! ### Moves (R155–R158) -/

/-- What is left of a movement word once its checks pass (R140, R144). -/
theorem moveWord_passes {s : State} {e : Nat} {a : Active} {src : List Word} {d : Word} {m : Nat} {ok : Bool}
    {r : Except Failure Pass} {p : Pass}
    (ready : s.vecFault e a [d] src true = none ∧ dFmt d = m ∧ dGs d = 0 ∧ s.tileEcc e src = none) (shape : ok = true)
    (gives : r = .ok p) :
    s.vecFault e a [d] src true = none ∧ ¬ (dFmt d ≠ m ∨ dGs d ≠ 0 ∨ ok = false) ∧ s.tileEcc e src = none ∧ r = .ok p := by
  obtain ⟨sound, format, scales, readable⟩ := ready
  exact ⟨sound, by simp [format, scales, shape], readable, gives⟩

/-- A source that is not the zero descriptor has the format of a movement word, no scales and the shape asked for. -/
theorem moveSrc_shape {x : Word} {m : Nat} {shape : Bool} :
    (moveSrc x m && (x == 0 || shape)) = true ↔ (x ≠ 0 → dFmt x = m ∧ dGs x = 0 ∧ shape = true) := by
  by_cases zero : x = 0 <;> simp_all [moveSrc, and_assoc]

/-- The shape of a source as VBCST of a column takes it. -/
theorem moveSrc_of_srcOk {x : Word} {m rows epr : Nat} (h : srcOk x m rows epr = true) :
    (moveSrc x m && (x == 0 || (dRows x == rows && dEpr x == epr))) = true := by
  by_cases zero : x = 0 <;> simp_all [srcOk, moveSrc]

section
variable (f : FmtA) (s : State)

theorem exec_vbcst : exec (.vbcst f) s = execVbcst f s := rfl
theorem exec_vlsh : exec (.vlsh f) s = execVlsh f s := rfl
theorem exec_vperm : exec (.vperm f) s = execVperm f s := rfl
theorem exec_vtrn : exec (.vtrn f) s = execVtrn f s := rfl

end

theorem moveWords : MoveWords := by
  intro f m j ep D X Y ready moves srcRows
  refine ⟨fun mode => passGives_of_vecChecked (exec_vbcst f) ?_, fun mode => passGives_of_vecChecked (exec_vbcst f) ?_,
    fun mode => passGives_of_vecChecked (exec_vbcst f) ?_, passGives_of_vecChecked (exec_vlsh f) ?_,
    passGives_of_vecChecked (exec_vperm f) ?_, passGives_of_vecChecked (exec_vtrn f) ?_⟩
  · rintro s e a ⟨here, source, inside⟩
    have column : fld f.imm 8 2 = 0 := congrArg BitVec.toNat mode
    simp only [column]
    exact moveWord_passes here (Bool.and_eq_true_iff.mpr ⟨moveSrc_of_srcOk source, decide_eq_true inside⟩) rfl
  · rintro s e a ⟨here, inside, source⟩
    have row : fld f.imm 8 2 = 1 := congrArg BitVec.toNat mode
    simp only [row]
    refine moveWord_passes here (Bool.and_eq_true_iff.mpr ⟨moveSrc_shape.mpr fun nz => ?_, decide_eq_true inside⟩) rfl
    obtain ⟨format, scales, width⟩ := source nz
    exact ⟨format, scales, beq_iff_eq.mpr width⟩
  · rintro s e a here
    have scalar : fld f.imm 8 2 = 2 := congrArg BitVec.toNat mode
    simp only [scalar]
    exact moveWord_passes here rfl rfl
  · rintro s e a ⟨here, source⟩
    exact moveWord_passes here source rfl
  · rintro s e a ⟨here, source, index, format⟩
    refine moveWord_passes here ?_ rfl
    simp only [Bool.and_eq_true, Bool.or_eq_true, beq_iff_eq]
    exact ⟨⟨source, index⟩, or_assoc.mpr format⟩
  · rintro s e a ⟨here, source⟩
    refine moveWord_passes here (moveSrc_shape.mpr fun nz => ?_) rfl
    obtain ⟨format, scales, low, rows, width⟩ := source nz
    simp only [Bool.and_eq_true, beq_iff_eq, decide_eq_true_eq]
    exact ⟨format, scales, ⟨low, rows⟩, width⟩

/-- Settles O20: the reductions by their one form and VSCAN by its rows; each move by the position that an element comes from. -/
theorem rowAndMoveWords : Obligations.RowAndMoveWords := ⟨rowWords, moveWords⟩

/-! ### Multi-limb integers (R161–R163) -/

section
variable (f : FmtA) (s : State)

theorem exec_vaddc : exec (.vaddc f) s = execVaddc f s := rfl
theorem exec_vmulw : exec (.vmulw f) s = execVmulw f s := rfl
theorem exec_vtopk : exec (.vtopk f) s = execVtopk f s := rfl

end

/-- The checks of a word on limbs pass: its tiles are plain INT32 tiles of whole numbers, and `rest`, what else it refuses, is not so. -/
theorem limbWord_good {d x y : Word} {rows epr n : Nat} {rest : Prop} (format : dFmt d = 8) (scales : dGs d = 0)
    (left : srcOk x 8 rows epr = true) (right : srcOk y 8 rows epr = true) (whole : rows * epr % n = 0) (good : ¬ rest) :
    ¬ (dFmt d ≠ 8 ∨ dGs d ≠ 0 ∨ srcOk x 8 rows epr = false ∨ srcOk y 8 rows epr = false ∨ rows * epr % n ≠ 0 ∨ rest) := by
  simp [format, scales, left, right, whole, good]

/-- A carry comes in where the word takes one and the mask has it. -/
theorem carryIn_eq (takes bit : Bool) : (if takes = true then (b2n bit : Int) else 0) = if takes = true ∧ bit = true then 1 else 0 := by
  cases takes <;> cases bit <;> rfl

/-- A carry goes out where a sum lies below or above the numbers of its limbs. -/
theorem carryOut_eq (z w : Int) : b2n (decide (z < 0) || decide (w ≤ z)) = if z < 0 ∨ w ≤ z then 1 else 0 := by
  simp [b2n]

/-- Settles O22: each word by its checks, after which it writes what is stated; the carries of VADDC by the bits that they are. -/
theorem limbAndRankWords : Obligations.LimbAndRankWords := by
  intro f D X Y n nums
  refine ⟨?_, passGives_of_vecChecked (exec_vmulw f) ?_, passGives_of_vecChecked (exec_vtopk f) ?_⟩
  · intro rows epr ready mask sums written
    refine ⟨fun out => passGives_of_vecChecked (exec_vaddc f) ?_, fun out => passGives_of_vecChecked (exec_vaddc f) ?_⟩
    · rintro s e a ⟨sound, format, scales, left, right, whole, carries, readable⟩
      refine ⟨sound, limbWord_good format scales left right whole fun bad => not_lt.mpr (carries bad.1) bad.2, readable, ?_⟩
      simp only [out, carryIn_eq]
      rfl
    · rintro s e a ⟨sound, format, scales, left, right, whole, carries, readable⟩
      refine ⟨sound, limbWord_good format scales left right whole fun bad => not_lt.mpr (carries bad.1) bad.2, readable, ?_⟩
      simp only [out, carryIn_eq, carryOut_eq]
      rfl
  · rintro s e a ⟨sound, format, scales, left, right, whole, double, readable⟩
    exact ⟨sound, limbWord_good format scales left right whole (not_not_intro double), readable, rfl⟩
  · rintro s e a ⟨sound, format, scales, flat, index, rows, fitsD, fitsY, fitsX, source, own, readable⟩
    refine ⟨sound, ?_, readable, rfl⟩
    simp only [ne_eq, not_or, not_and, not_not, not_lt, Bool.not_eq_false]
    exact ⟨format, scales, flat, index.resolve_left, rows, fitsD, fitsY, fitsX, source, own⟩

end Sys2Proof.Machine
end

section
/-!
The accumulators of the multiply array: their cells and views (R167), and the words that clear, load and store them (R181–R183).
-/
namespace Sys2Proof.Machine
open Sys2Proof Sys2Proof.Machine Sys2Proof.Cert

/-! ### Cells and views (R167) -/

/-- No two cells of the accumulators have one key. -/
theorem cellKey_inj {i r c i' r' c' : Nat} (hr : r < 64) (hc : c < 64) (hr' : r' < 64) (hc' : c' < 64)
    (h : cellKey i r c = cellKey i' r' c') : (i, r, c) = (i', r', c') := by
  unfold cellKey at h
  simp only [Prod.mk.injEq]
  omega

section
variable (p : Pass) (i r j v : Nat)

/-- An FP64 element is two FP32 elements, the low half first. -/
theorem Pass.accRd_fp64 : p.accRd 0 i r j = p.accRd 1 i r (2 * j) + 2 ^ 32 * p.accRd 1 i r (2 * j + 1) := rfl

theorem Pass.accWr_fp64 : p.accWr 0 i r j v = (p.accWr 1 i r (2 * j) v).accWr 1 i r (2 * j + 1) (v / 2 ^ 32) := rfl

theorem Pass.accRd_accWr_fp32 : (p.accWr 1 i r j v).accRd 1 i r j = v % 2 ^ 32 :=
  (congrArg BitVec.toNat (tget_tset_same ..)).trans (BitVec.toNat_ofNat ..)

variable {p i r j v}

theorem Pass.accRd_accWr_fp32_ne {i' r' j' : Nat} (h : cellKey i r j ≠ cellKey i' r' j') :
    (p.accWr 1 i r j v).accRd 1 i' r' j' = p.accRd 1 i' r' j' :=
  congrArg BitVec.toNat (tget_tset_ne _ _ _ _ _ h)

end

/-- The FP32 elements of an FP64 element that is written are the halves of its value. -/
theorem Pass.accRd_accWr_halves (p : Pass) (i r j v : Nat) :
    (p.accWr 0 i r j v).accRd 1 i r (2 * j) = v % 2 ^ 32 ∧
      (p.accWr 0 i r j v).accRd 1 i r (2 * j + 1) = v / 2 ^ 32 % 2 ^ 32 := by
  have apart : cellKey i r (2 * j + 1) ≠ cellKey i r (2 * j) := by simp [cellKey]
  rw [Pass.accWr_fp64]
  exact ⟨(Pass.accRd_accWr_fp32_ne apart).trans (Pass.accRd_accWr_fp32 ..), Pass.accRd_accWr_fp32 ..⟩

theorem accumulatorReadsBack : AccumulatorReadsBack := by
  intro p i r j i' r' j' v _ hr _ hr'
  obtain ⟨low, high⟩ := p.accRd_accWr_halves i r j v
  refine ⟨fun _ => p.accRd_accWr_fp32 i r j v, fun _ => ?_, fun _ => ⟨low, high⟩, fun hj hj' other => ?_, rfl, rfl, rfl⟩
  · rw [Pass.accRd_fp64, low, high]
    exact (Nat.mod_mul (a := 2 ^ 32) (b := 2 ^ 32)).symm
  · exact Pass.accRd_accWr_fp32_ne fun same => other (cellKey_inj hr hj hr' hj' same)

/-! ### MZRO, MLDQ and MSTQ (R181–R183) -/

/-- The placement of a tile in an accumulator passes its checks (R182). -/
theorem pwPlain_regionOk {d pw : Word} {view : Nat}
    (fits : pw.extractLsb' 12 52 = 0 ∧ pwRow pw + dRows d ≤ 64 ∧ pwCol pw + dEpr d ≤ viewCols view) :
    pwPlain pw = true ∧ regionOk d pw view = true := by
  obtain ⟨plain, rows, columns⟩ := fits
  simp [pwPlain, fld, plain, regionOk, rows, columns]

section
variable (f : FmtA) (s : State)

theorem exec_mzro : exec (.mzro f) s = execMzro f s := rfl
theorem exec_mldq : exec (.mldq f) s = execMldq f s := rfl
theorem exec_mstq : exec (.mstq f) s = execMstq f s := rfl

end

theorem accumulatorWords : AccumulatorWords := by
  intro f
  dsimp only
  refine ⟨passGives_of_vecWord (exec_mzro f) ?_, passGives_of_vecWord (exec_mldq f) ?_, passGives_of_vecWord (exec_mstq f) ?_⟩
  · intro s e a dst
    simp only [accOf_eq dst]
  · rintro s e a ⟨dst, sound, nz, format, scales, placed, readable⟩
    obtain ⟨plain, region⟩ := pwPlain_regionOk placed
    have good : ¬ (opndA s a f = 0 ∨ dFmt (opndA s a f) ≠ f.f1.toNat ∨ dGs (opndA s a f) ≠ 0 ∨ pwPlain (pitchWord s a f) = false ∨
        regionOk (opndA s a f) (pitchWord s a f) f.f2.toNat = false) := by
      simp only [ne_eq, not_or, not_not, Bool.not_eq_false]
      exact ⟨nz, format, scales, plain, region⟩
    simp only [accOf_eq dst, sound, if_neg good, readable]
  · rintro s e a ⟨src, sound, format, scales, placed⟩
    obtain ⟨plain, region⟩ := pwPlain_regionOk placed
    have good : ¬ (dFmt (a.pass.rd s.tick f.dst) ≠ f.f2.toNat ∨ dGs (a.pass.rd s.tick f.dst) ≠ 0 ∨
        pwPlain (pitchWord s a f) = false ∨ regionOk (a.pass.rd s.tick f.dst) (pitchWord s a f) f.f1.toNat = false) := by
      simp only [ne_eq, not_or, not_not, Bool.not_eq_false]
      exact ⟨format, scales, plain, region⟩
    simp only [accOf_eq src, sound, if_neg good]
    rfl

/-- Settles O24: the words by their checks, each cell of an accumulator by a key of its own, an FP64 element by its two cells. -/
theorem accumulators : Obligations.Accumulators := ⟨accumulatorWords, accumulatorReadsBack⟩

end Sys2Proof.Machine
end

section
/-!
The words that write, read and clear tangents (R205–R209).
-/
namespace Sys2Proof.Machine
open Sys2Proof Sys2Proof.Machine Sys2Proof.Cert

/-! ### The tangent that a word names (R205) -/

section
variable {p : Pass} {t : Nat}

theorem Pass.carried_eq_singleton (h : 1 ≤ t ∧ t ≤ p.kfire) : p.carried t = [t] := if_pos h

theorem Pass.carried_eq_nil (h : ¬ (1 ≤ t ∧ t ≤ p.kfire)) : p.carried t = [] := if_neg h

end

/-- The tangents that DTZRO clears: tangent 0 names every one of the pass (R205). -/
def Pass.cleared (p : Pass) (t : Nat) : List Nat := if t = 0 then (List.range p.kfire).map (· + 1) else p.carried t

/-! ### The direction of DSEED: a tile or a scalar (R206) -/

section
variable (p : Pass) (tick : Word) (sp : Spec) (m : Nat) (scalar : Bool)

/-- The tiles that a word reads of an operand that may be a scalar. -/
theorem Pass.maybeScal_tiles : (if (p.maybeScal tick sp m scalar).scal.isNone = true then [(p.maybeScal tick sp m scalar).desc] else []) =
    if scalar = true then [] else [p.rd tick sp] := by
  cases scalar <;> rfl

/-- An operand that may be a scalar passes the check of its shape as a scalar or as a tile of the shape (R140). -/
theorem Pass.maybeScal_shaped {rows epr : Nat} (h : scalar = true ∨ srcOk (p.rd tick sp) m rows epr = true) :
    ¬ ((p.maybeScal tick sp m scalar).scal.isNone = true ∧ srcOk (p.maybeScal tick sp m scalar).desc m rows epr = false) := by
  rintro ⟨tile, bad⟩
  cases scalar with
  | true => cases tile
  | false => exact absurd (h.resolve_left Bool.false_ne_true) (Bool.eq_false_iff.mp bad)

end

/-! ### The words by their forms (R206–R209) -/

/-- A tile of zeros, element by element. -/
theorem zeros_map_some (rows epr : Nat) : (zeros rows epr).map (·.map some) = grid rows epr fun _ _ => some 0 := by
  simp [zeros, grid, List.map_const']

section
variable (f : FmtA) (s : State)

/-- DSEED reads its operand, and may meet an error there, only where the pass carries the tangent (R205, R206). -/
theorem exec_dseed : exec (.dseed f) s = vecWord (.dseed f) s fun e a =>
    let d := a.pass.rd s.tick f.dst
    let x := a.pass.maybeScal s.tick f.sa f.f1.toNat (f.imm.getLsbD 3)
    let tiles := if x.scal.isNone then [x.desc] else []
    vecChecked (s.seedFault e a d tiles (a.pass.carried (tanNum f)) [])
      (8 ≤ dFmt d ∨ (x.scal.isNone ∧ srcOk x.desc f.f1.toNat (dRows d) (dEpr d) = false)) none
      (if a.pass.carried (tanNum f) = [] then .ok a.pass
      else match s.tileEcc e tiles with
        | some g => .error g
        | none => .ok (s.writeTan e a.pass (s.shadowStride e a.fr.op) (tanNum f) d (a.pass.masked f
            ((x.vals s e a.pass (dRows d) (dEpr d)).map fun row => row.map fun b =>
              some (if (fvOf f.f1.toNat b).isNan then 0 else tanEnc (dFmt d) (fvOf f.f1.toNat b)))))) := rfl

theorem exec_dtset : exec (.dtset f) s = passWord (.dtset f) s fun _ a =>
    .ok ((a.pass.carried (tanNum f)).foldl (fun q t => q.wrSh f.dst t (a.pass.rd s.tick f.sa)) a.pass) := rfl

variable {f}

theorem exec_dtget_register (register : f.imm.getLsbD 4 = true) : exec (.dtget f) s = vecWord (.dtget f) s fun _ a =>
    let p := a.pass.wr f.dst (if a.pass.carried (tanNum f) = [] then 0 else a.pass.rdSh f.sa (tanNum f))
    .ok (if a.pass.kfire = 0 then p else p.wrShs f.dst 1 [0, 0, 0, 0]) :=
  congrArg (vecWord (.dtget f) s) (funext₂ fun _ _ => if_pos register)

theorem exec_dtget_tile (tile : f.imm.getLsbD 4 = false) : exec (.dtget f) s = vecWord (.dtget f) s fun e a =>
    let d := a.pass.rd s.tick f.dst
    let x := a.pass.rd s.tick f.sa
    let str := s.shadowStride e a.fr.op
    vecChecked (s.seedFault e a d [x] ((List.range a.pass.kfire).map (· + 1)) (a.pass.carried (tanNum f)))
      (dFmt d ≠ f.f1.toNat ∨ dGs d ≠ 0 ∨ (x ≠ 0 ∧ (8 ≤ dFmt x ∨ dRows x ≠ dRows d ∨ dEpr x ≠ dEpr d))) (s.tileEcc e [x])
      (.ok (s.writeDual e a.pass str d (a.pass.masked f (grid (dRows d) (dEpr d) fun r i =>
        some (encFloat f.f1.toNat f.rm.toNat (if f.rm = 4 then s.sr e a (tanNum f) (r * dEpr d + i) else 0)
          (tanVal (dFmt x) (at2 (if a.pass.carried (tanNum f) = [] then []
            else s.tanTile e a.pass str (tanNum f) (dRows d) (dEpr d) x) r i))))) none)) :=
  congrArg (vecWord (.dtget f) s) (funext₂ fun _ _ => if_neg (Bool.eq_false_iff.mp tile))

theorem exec_dtzro_register (register : f.imm.getLsbD 4 = true) : exec (.dtzro f) s = vecWord (.dtzro f) s fun _ a =>
    .ok ((a.pass.cleared (tanNum f)).foldl (fun q t => q.wrSh f.dst t 0) a.pass) :=
  congrArg (vecWord (.dtzro f) s) (funext₂ fun _ _ => if_pos register)

theorem exec_dtzro_tile (tile : f.imm.getLsbD 4 = false) : exec (.dtzro f) s = vecWord (.dtzro f) s fun e a =>
    let d := a.pass.rd s.tick f.dst
    vecChecked (s.seedFault e a d [] (a.pass.cleared (tanNum f)) []) (dGs d ≠ 0) none
      (.ok ((a.pass.cleared (tanNum f)).foldl (fun q t => s.writeTan e q (s.shadowStride e a.fr.op) t d
        (a.pass.masked f (grid (dRows d) (dEpr d) fun _ _ => some 0))) a.pass)) := by
  simp only [← zeros_map_some]
  exact congrArg (vecWord (.dtzro f) s) (funext₂ fun _ _ => if_neg (Bool.eq_false_iff.mp tile))

end

/-- Settles O26: each form of the words by its checks, after which the tangents that the pass carries say what it does. -/
theorem tangentWords : Obligations.TangentWords := by
  intro f t D X str carries every named
  have carried : ∀ {a}, carries a → a.pass.carried (tanNum f) = [tanNum f] := Pass.carried_eq_singleton
  have missed : ∀ {a}, ¬ carries a → a.pass.carried (tanNum f) = [] := Pass.carried_eq_nil
  refine ⟨?_, fun register => ⟨?_, ?_, ?_⟩, fun tile => ⟨?_, ?_⟩, ?_, ?_⟩
  · intro m src ready
    refine ⟨passGives_of_vecChecked (exec_dseed f) ?_, passGives_of_vecChecked (exec_dseed f) ?_⟩
    · rintro s e a ⟨⟨sound, format, shape⟩, missing⟩
      refine ⟨?_, not_or_intro (not_le.mpr format) (a.pass.maybeScal_shaped s.tick f.sa m _ shape), rfl, ?_⟩
      · rwa [Pass.maybeScal_tiles]
      · exact if_pos (missed missing)
    · rintro s e a ⟨⟨sound, format, shape⟩, present, readable⟩
      refine ⟨?_, not_or_intro (not_le.mpr format) (a.pass.maybeScal_shaped s.tick f.sa m _ shape), rfl, ?_⟩
      · rwa [Pass.maybeScal_tiles]
      · rw [carried present, if_neg (List.cons_ne_nil _ _), Pass.maybeScal_tiles, readable]
        rfl
  · refine passGives_of_vecWord (exec_dtget_register · register) fun s e a present => ?_
    have firing : a.pass.kfire ≠ 0 := Nat.ne_of_gt (present.1.trans present.2)
    simp only [carried present, List.cons_ne_nil, if_false, firing]
    rfl
  · refine passGives_of_vecWord (exec_dtget_register · register) fun s e a missing => ?_
    simp only [missed missing, if_true]
  · exact passGives_of_vecWord (exec_dtzro_register · register) fun _ _ _ _ => rfl
  · refine passGives_of_vecChecked (exec_dtget_tile · tile) ?_
    rintro s e a ⟨sound, format, scales, source, readable⟩
    refine ⟨sound, ?_, readable, rfl⟩
    simp only [ne_eq, not_or, not_and, not_not, not_le]
    exact ⟨format, scales, source⟩
  · refine passGives_of_vecChecked (exec_dtzro_tile · tile) ?_
    rintro s e a ⟨sound, scales⟩
    exact ⟨sound, not_not_intro scales, rfl, rfl⟩
  · refine passGives_of_passWord (exec_dtset f) fun s e a present => ?_
    rw [carried present]
    rfl
  · refine passGives_of_passWord (exec_dtset f) fun s e a missing => ?_
    rw [missed missing]
    rfl

end Sys2Proof.Machine
end

section
/-!
CS.WAIT, CS.LOOP, CS.PEER and CS.END (R416–R419), and what the end of a COLL leaves of the programs (R296, R420).
-/
namespace Sys2Proof.Machine
open Sys2Proof Sys2Proof.Machine Sys2Proof.Cert

/-! ### What leaves every program as it was -/

/-- From `s` to `t` every sequencer slot holds what it held. -/
structure SameProgs (s t : State) : Prop where
  prog : ∀ d k, t.prog d k = s.prog d k

namespace SameProgs
variable {s t u : State}

theorem of_dies (h : t.dies = s.dies) : SameProgs s t := ⟨fun d k => by rw [State.prog, State.die, h]; rfl⟩
theorem refl (s : State) : SameProgs s s := of_dies rfl
theorem trans (h : SameProgs s t) (k : SameProgs t u) : SameProgs s u := ⟨fun d n => (k.prog d n).trans (h.prog d n)⟩

theorem each {f : Nat → State → State} (l : List Nat) (h : ∀ n t, SameProgs t (f n t)) (s : State) : SameProgs s (s.each l f) :=
  foldl_of_trans SameProgs.refl SameProgs.trans l (fun n _ t => h n t) s

/-- What replaces another part of a die leaves its programs. -/
theorem setDie {d : Nat} {x : Die} (h : x.progs = (s.die d).progs) : SameProgs s (s.setDie d x) := ⟨fun a k => by
  by_cases e : d = a
  · subst e; simp [State.prog, h]
  · simp [State.prog, State.die_setDie_ne _ _ _ _ e]⟩

theorem setUnits (s : State) (d : Nat) (x : DieUnits) : SameProgs s (s.setUnits d x) := setDie rfl

theorem post (s : State) (i : Instr) : SameProgs s (s.post i) := of_dies rfl

theorem faultInst (s : State) (c i : Nat) : SameProgs s (s.faultInst c i) := by
  unfold State.faultInst
  split
  · exact refl s
  · dsimp only
    split <;> [exact of_dies rfl; exact refl s]

theorem raise (s : State) (d : Nat) (r : Record) : SameProgs s (s.raise d r) := by
  unfold State.raise
  refine trans (t := _) ?_ (post ..)
  split
  · split <;> [exact faultInst ..; exact refl s]
  · exact refl s

theorem translate (s : State) (d c va : Nat) (pre : List PreByte) : SameProgs s (s.translate d c va pre).2 := by
  unfold State.translate
  dsimp only
  repeat' split
  case h_2.isFalse => exact setUnits ..
  all_goals exact refl s

theorem setDirty (s : State) (d c : Nat) (x : Trans) : SameProgs s (s.setDirty d c x) := by
  have dirty : ∀ h v u, SameProgs s ((s.wrWord h v).setUnits d u) := fun h v u =>
    trans (t := s.wrWord h v) (of_dies rfl) (setUnits ..)
  rw [State.setDirty]
  split_ifs
  · exact refl s
  · exact trans (t := (s.wrWord _ _).setUnits d _) (dirty ..) (post ..)
  · exact dirty ..

theorem byteHome (s : State) (v : Via) (a : Word) : SameProgs s (s.byteHome v a).2 := by
  unfold State.byteHome
  dsimp only
  split
  case h_5 =>
    split
    · split_ifs <;> exact refl s
    · next c _ =>
      have ht := translate s v.by_.die c (addrVa a) (s.walkPre v)
      split
      · next h => rw [h] at ht; exact ht
      · next h =>
        rw [h] at ht
        split
        · exact ht
        · dsimp only
          split_ifs <;> [exact ht.trans (setDirty ..); exact ht]
  all_goals
    repeat' split
    all_goals exact refl s

theorem byteHomes (s : State) (v : Via) (a : Word) (n : Nat) : SameProgs s (s.byteHomes v a n).2 := by
  induction n generalizing s a with
  | zero => exact refl s
  | succ n ih =>
    have first := byteHome s v a
    rw [State.byteHomes]
    split
    · next h => rw [h] at first; exact first
    · next t h =>
      rw [h] at first
      have rest := ih t (a + 1)
      split <;> next k => rw [k] at rest; exact first.trans rest

theorem resolve (s : State) (v : Via) (ps : List Nat) (a : Word) (n : Nat) (al : Bool) : SameProgs s (s.resolve v ps a n al).2 := by
  rw [State.resolve]
  split_ifs <;> [exact refl s; exact refl s; exact refl s; exact byteHomes ..]

theorem checkRod (s : State) (u : RodUser) (use : RodUse) (r : Word) : SameProgs s (s.checkRod u use r).2 := by
  rw [State.checkRod]
  split
  · exact refl s
  · split
    · exact refl s
    · have homes := resolve s (u.via .atomic) [0] (put 0 48 (addrVa r)) 8 true
      split
      · next h => rw [h] at homes; exact homes
      · next h => rw [h] at homes; split_ifs <;> exact homes
    · exact refl s

theorem cpAdd (s : State) (deps : List Nat) (c tag : Nat) (ref : Word) (amount : Nat) : SameProgs s (s.cpAdd deps c tag ref amount) := by
  have checked := checkRod s ⟨.cp, some c⟩ .add ref
  unfold State.cpAdd State.cpRod
  dsimp only
  split
  · next h => rw [h] at checked; exact checked.trans (raise ..)
  · next h => rw [h] at checked; exact checked.trans (of_dies rfl)

theorem commandDone (s : State) (q i : Nat) (ids : List Nat) : SameProgs s (s.commandDone q i ids) := of_dies rfl

theorem retireGen (s : State) (c t gen : Nat) : SameProgs s (s.retireGen c t gen) := by
  unfold State.retireGen
  refine trans (t := s.setPgt c t _) (of_dies rfl) (each _ (fun _ _ => ?_) _)
  exact setDie rfl

/-- The end of a COLL takes no program from a sequencer (R296). -/
theorem completeColl (s : State) (y : Coll) : SameProgs s (s.completeColl y) := by
  let ended : State := { s with cp := { s.cp with colls := s.cp.colls.filter (· != y) } }
  have retired : SameProgs s (ended.retireGen y.ctx y.tbl y.gen) := trans (t := ended) (of_dies rfl) (retireGen ..)
  unfold State.completeColl
  refine retired.trans (trans (t := _) ?_ (commandDone ..))
  split <;> [exact cpAdd ..; exact refl _]

end SameProgs

/-! ### CS.WAIT (R416) -/

/-- An acquire at PACKAGE or SYSTEM scope is the latest of its context (R222). -/
theorem State.acquireAt_wide (s : State) (c : Nat) {acq : Nat} (wide : 4 ≤ acq) : (s.acquireAt c acq).2 = acquiredState s c acq := by
  simp only [State.acquireAt, acquiredState, if_neg (show ¬ acq = 0 by omega), if_neg (show ¬ acq < 4 by omega)]

/-- What CS.WAIT.ROD waits for: a count of its rod. -/
def rodAwaited (r : Word) (h : Nat) (target : Word) (c : Nat) : RodWaiter := ⟨rodKey r h, target.toNat, c, true⟩

/-- A program of context `c` after CS.WAIT.ROD: it goes on after an acquire, or waits on. -/
def State.rodWaited (t : State) (d k c : Nat) (q : CProg) (w : Option RodWaiter) : State :=
  match w with
  | none => (acquiredState t c 5).setProg d k (some { q with rodw := none, pc := q.npc })
  | w => t.setProg d k (some { q with rodw := w })

section
variable {s t : State} {d k h : Nat} {p q : CProg} {f : FmtA}

/-- A wait whose count has been reached, now or at a notification, is over once what it has to see first has acted. -/
theorem State.rodWaitStep_met {u : RodUser} {old : Option RodWaiter} {r target count : Word} {acq : Nat}
    (met : target.toNat ≤ count.toNat ∨ old = some (rodAwaited r h target (u.ctx.getD 64))) :
    s.rodWaitStep u old r h target count acq =
      if s.seen u.by_ acq (rodKeys r h) = [] then none else some (rodAwaited r h target (u.ctx.getD 64)) := by
  have ended : waitStep old (rodKey r h) target count (u.ctx.getD 64) = none := by
    unfold waitStep
    refine if_pos (met.symm.imp_left fun same => ?_)
    simp [same, rodAwaited, Option.filter]
  simp only [State.rodWaitStep, ended]
  rfl

/-- A wait whose count has not been reached goes on. -/
theorem State.rodWaitStep_unmet {u : RodUser} {old : Option RodWaiter} {r target count : Word} {acq : Nat}
    (unmet : ¬ (target.toNat ≤ count.toNat ∨ old = some (rodAwaited r h target (u.ctx.getD 64)))) :
    s.rodWaitStep u old r h target count acq = some { rodAwaited r h target (u.ctx.getD 64) with met := false } := by
  obtain ⟨below, other⟩ := not_or.mp unmet
  have on : waitStep old (rodKey r h) target count (u.ctx.getD 64) =
      some { rodAwaited r h target (u.ctx.getD 64) with met := false } := by
    unfold waitStep
    rcases old with _ | ⟨key, aim, c, m⟩
    · simp [below, rodAwaited]
    · by_cases mine : key = rodKey r h ∧ aim = target.toNat ∧ c = u.ctx.getD 64
      · obtain ⟨rfl, rfl, rfl⟩ := mine
        have fresh : m = false := by simpa [rodAwaited] using other
        simp [below, rodAwaited, fresh, Option.filter]
      · have foreign : (key == rodKey r h && aim == target.toNat && c == u.ctx.getD 64) = false := by
          simpa [and_assoc] using mine
        simp [below, rodAwaited, foreign, Option.filter]
  simp only [State.rodWaitStep, on]

variable (cur : s.cur = .seq d k) (prog : s.prog d k = some p)
include cur prog

theorem exec_csWait_outs (plain : f.imm = 0) : exec (.csWait f) s = .next
    (if p.outs = [] then (acquiredState s p.ctx 5).setProg d k (some { p with pc := p.npc }) else s) := by
  refine (onSeq_seq _ s d k p _ cur prog).trans (congrArg _ ?_)
  rw [if_pos plain, State.acquireAt_wide _ _ (by decide)]
  rfl

theorem exec_csWait_rod (rod : f.imm ≠ 0) (check : s.checkRod ⟨.seq d, some p.ctx⟩ .wait (s.progRd d p f.sa) = (.ok h, t))
    (now : t.prog d k = some q) : exec (.csWait f) s = .next
      (t.rodWaited d k p.ctx q (t.rodWaitStep ⟨.seq d, some p.ctx⟩ q.rodw (s.progRd d p f.sa) h (s.progRd d p f.sb)
        (t.rodCount (s.progRd d p f.sa) h) 5)) := by
  refine (onSeq_seq _ s d k p _ cur prog).trans (congrArg _ ?_)
  rw [if_neg rod]
  simp only [check, now, Option.getD_some, State.acquireAt_wide t p.ctx (show 4 ≤ 5 by decide)]
  rfl

theorem exec_csWait_error {g : Failure} (rod : f.imm ≠ 0)
    (check : s.checkRod ⟨.seq d, some p.ctx⟩ .wait (s.progRd d p f.sa) = (.error g, t)) :
    exec (.csWait f) s = .next (t.stepFault d k g) := by
  refine (onSeq_seq _ s d k p _ cur prog).trans (congrArg _ ?_)
  rw [if_neg rod]
  simp only [check]

/-! ### CS.LOOP and CS.PEER (R417, R418) -/

theorem exec_csLoop {target : Int} (at_ : target = (p.pc : Int) + f.imm.toInt) : exec (.csLoop f) s = .next
    (if target < 0 ∨ f.imm = 0 ∨ target.toNat ∉ wordStarts p.words then s.collAbort d k 3 0
     else s.setProg d k (some { p.wr f.dst (s.progRd d p f.dst - 1) with
       pc := if s.progRd d p f.dst = 1 then p.npc else target.toNat })) := by
  subst at_
  refine (onSeq_seq _ s d k p _ cur prog).trans (congrArg _ ?_)
  simp only [sub_eq_zero]

theorem exec_csPeer : exec (.csPeer f) s = .next (s.setProg d k (some { p.wr f.dst (peerResult f.f1.toNat (s.pgt p.ctx p.tbl).n
    (f.f2.getLsbD 0) (s.progRd d p f.sa) (s.progRd d p f.sb + f.imm.signExtend 64)) with pc := p.npc })) := by
  have kept : ∀ v, (p.wr f.dst v).npc = p.npc := fun v => by unfold CProg.wr; split <;> rfl
  refine (onSeq_seq _ s d k p _ cur prog).trans (congrArg _ ?_)
  simp only [State.nextStep, kept]

/-! ### CS.END (R419) -/

theorem exec_csEnd : exec (.csEnd f) s = .next (if p.outs = [] then s.endProgram d k p else s) := onSeq_seq _ s d k p _ cur prog

end

section
variable (s : State) (d k : Nat) (p : CProg)

/-- The COLL that a program serves. -/
def State.collOf (s : State) (p : CProg) : Option Coll := s.cp.colls.find? fun y => y.ctx == p.ctx && y.tbl == p.tbl && y.gen == p.gen

/-- A COLL whose program has ended on a die. -/
def Coll.endedOn (y : Coll) (d : Nat) : Coll := { y with ended := y.ended ||| BitVec.ofNat 4 (2 ^ d) }

theorem State.endProgram_eq : s.endProgram d k p = match s.collOf p with
    | none => s.setProg d k none
    | some y =>
      if y.mask &&& ~~~ (y.endedOn d).ended = 0 then (s.setProg d k none).completeColl y
      else { s.setProg d k none with cp := { s.cp with colls := s.cp.colls.map fun w => if w = y then y.endedOn d else w } } := rfl

/-- The program that has ended is gone from its slot. -/
theorem State.prog_endProgram : (s.endProgram d k p).prog d k = none := by
  have gone : (s.setProg d k none).prog d k = none := State.prog_setProg ..
  rw [State.endProgram_eq]
  split
  · exact gone
  · split
    · exact ((SameProgs.completeColl ..).prog d k).trans gone
    · exact gone

end

theorem peerVal_eq {op : BitVec 4} {n : Nat} {a b r : Word}
    (h : op = 0 ∧ r = a + b ∨ op = 1 ∧ r = a - b ∨ op = 2 ∧ r = a ^^^ b ∨ op = 3 ∧ r = a &&& b ∨
      op = 4 ∧ r = a >>> (b.toNat % 64) ∨ op = 5 ∧ r = a <<< (b.toNat % 64) ∨ op = 6 ∧ r = a * b ∨
      op = 7 ∧ r = (if b = 0 then BitVec.allOnes 64 else BitVec.ofNat 64 (a.toNat / b.toNat)) ∨
      op = 8 ∧ r = BitVec.ofNat 64 ((a.toNat + b.toNat) % n) ∨ op = 9 ∧ r = BitVec.ofNat 64 n) :
    peerVal op.toNat n a b = r := by
  rcases h with ⟨rfl, rfl⟩ | ⟨rfl, rfl⟩ | ⟨rfl, rfl⟩ | ⟨rfl, rfl⟩ | ⟨rfl, rfl⟩ |
    ⟨rfl, rfl⟩ | ⟨rfl, rfl⟩ | ⟨rfl, rfl⟩ | ⟨rfl, rfl⟩ | ⟨rfl, rfl⟩ <;> rfl

/-- Settles O47: CS.WAIT by its count, CS.LOOP by its target, CS.PEER by its operation and CS.END by the COLL that it serves. -/
theorem collectiveControlWords : Obligations.CollectiveControlWords := by
  intro s d k p f cur prog
  refine ⟨exec_csWait_outs cur prog, fun rod h t q check now => ?_, fun rod g t => exec_csWait_error cur prog rod, ⟨?_, ?_⟩,
    fun r value => ⟨fun plain => ?_, fun ranked => ?_⟩, fun busy => ?_, fun idle => ?_⟩
  · have word := exec_csWait_rod cur prog rod check now
    refine ⟨fun met clear => ?_, fun met seen => ?_, fun unmet => ?_⟩
    · rw [word, State.rodWaitStep_met met, if_pos clear]; rfl
    · rw [word, State.rodWaitStep_met met, if_neg seen]; rfl
    · rw [word, State.rodWaitStep_unmet unmet]; rfl
  · intro low off start
    rw [exec_csLoop cur prog rfl, if_neg (not_or.mpr ⟨not_lt.mpr low, not_or.mpr ⟨off, not_not_intro start⟩⟩)]
  · intro bad
    rw [exec_csLoop cur prog rfl, if_pos bad]
  · rw [exec_csPeer cur prog, peerResult, peerVal_eq value, if_neg fun rk => Bool.false_ne_true (plain.symm.trans rk.1)]
  · rw [exec_csPeer cur prog, peerResult, peerVal_eq value]
    simp only [ranked, true_and]
    rfl
  · rw [exec_csEnd cur prog, if_neg busy]
  · refine ⟨_, (exec_csEnd cur prog).trans (congrArg _ (if_pos idle)), s.prog_endProgram d k p, fun y found => ?_⟩
    have serves : s.collOf p = some y := found
    rw [State.endProgram_eq, serves]
    refine ⟨fun more => ?_, fun last => if_pos last⟩
    have others : ¬ y.mask &&& ~~~ (y.endedOn d).ended = 0 := more
    dsimp only
    rw [if_neg others]
    exact List.mem_map.mpr ⟨y, List.mem_of_find?_eq_some found, if_pos rfl⟩

end Sys2Proof.Machine
end

section
/-!
CS.SEND, CS.RECV, CS.RRS and CS.COPY: the checks of R408, what a step that issues leaves, and the request of a message (R408–R415).
-/
namespace Sys2Proof.Machine
open Sys2Proof Sys2Proof.Machine Sys2Proof.Cert

/-! ### Legal lengths and addresses (R408) -/

theorem stepLegal_iff {n : Nat} {a : Word} : stepLegal n a ↔ stepLenOk n = true ∧ stepAddrOk a = true := by
  simp [stepLegal, stepLenOk, stepAddrOk, and_assoc]

/-- What a step of a length raises where the length or an address breaks R408: PRIV for an address on path 0xF (R216). -/
def isBreach (n : Nat) (f : Failure) : Prop :=
  f = ⟨cBadpath, BitVec.ofNat 64 n, 0⟩ ∨ ∃ a : Word, f = ⟨if addrPath a = 0xF then cPriv else cBadpath, a, 0⟩

/-- What becomes of a step once its length and its addresses have been looked at. -/
def stepChecked (n : Nat) (l : List Word) (r : StepRes) : StepRes :=
  match stepFailure n l with
  | some f => .abort f
  | none => r

theorem stepChecked_legal {n : Nat} {a : Word} {l : List Word} {r : StepRes} (legal : ∀ b ∈ a :: l, stepLegal n b) :
    stepChecked n (a :: l) r = r := by
  have len : stepLenOk n = true := (stepLegal_iff.mp (legal a List.mem_cons_self)).1
  have found : ((a :: l).find? fun b => !stepAddrOk b) = none :=
    List.find?_eq_none.mpr fun b hb => by simp [(stepLegal_iff.mp (legal b hb)).2]
  simp only [stepChecked, stepFailure, len, found, Bool.true_eq_false, if_false, Option.map_none]

theorem stepChecked_breach {n : Nat} {l : List Word} {r : StepRes} (illegal : ¬ ∀ a ∈ l, stepLegal n a) :
    ∃ f, stepChecked n l r = .abort f ∧ isBreach n f := by
  unfold stepChecked stepFailure
  by_cases len : stepLenOk n = true
  · obtain ⟨a, found⟩ : ∃ a, (l.find? fun a => !stepAddrOk a) = some a := by
      by_contra no
      refine illegal fun a ha => stepLegal_iff.mpr ⟨len, ?_⟩
      simpa using List.find?_eq_none.mp (Option.eq_none_iff_forall_ne_some.mpr fun b hb => no ⟨b, hb⟩) a ha
    exact ⟨⟨pathCause (.seq 0) a, a, 0⟩, by simp [len, found], .inr ⟨a, rfl⟩⟩
  · exact ⟨⟨cBadpath, BitVec.ofNat 64 n, 0⟩, by simp [len], .inl rfl⟩

/-- Whether a step takes messages. -/
def CStepKind.takes : CStepKind → Bool
  | .recv => true
  | .rrs _ _ _ => true
  | _ => false

/-! ### A step that issues (R408) -/

section
variable {s : State} {d k : Nat} {p : CProg}

/-- A ninth step waits. -/
theorem State.issueStep_full (r : StepRes) (full : 8 ≤ p.outs.length) : s.issueStep d k p r = s := if_pos full

theorem State.issueStep_abort (f : Failure) (room : p.outs.length < 8) : s.issueStep d k p (.abort f) = s.stepFault d k f :=
  if_neg (Nat.not_le.mpr room)

section
variable {y : CStep} (may : mayIssue s d k p y.rod)
include may

/-- The rod of a step that may issue raises nothing. -/
theorem State.issueStep_free : s.issueStep d k p (.done y) = (issued s d k p y).finishStep d k y ∧
    s.issueStep d k p (.start y) = (issued s d k p y).startStep d k y := by
  obtain ⟨-, -, room, rod⟩ := may
  have few : ¬ 8 ≤ p.outs.length := Nat.not_le.mpr room
  cases named : y.rod with
  | none =>
    simp only [State.issueStep, few, named, if_false]
    exact ⟨rfl, rfl⟩
  | some w =>
    obtain ⟨h, ok⟩ := rod w named
    simp only [State.issueStep, few, named, ok, if_false]
    exact ⟨rfl, rfl⟩

end

theorem State.prog_issued (y : CStep) : (issued s d k p y).prog d k = some { p with pc := p.npc, outs := p.outs ++ [y] } :=
  State.prog_setProg ..

/-- A step that waits for requests has those of its die tried. -/
theorem State.startStep_of_takes {y : CStep} (takes : y.kind.takes = true) :
    (issued s d k p y).startStep d k y = (issued s d k p y).reqSweep d := by
  unfold State.startStep
  split
  · next h _ => rw [h] at takes; cases takes
  · next h => rw [h] at takes; cases takes
  · rfl

theorem State.startStep_of_copy {y : CStep} (copy : y.kind = .copy) : (issued s d k p y).startStep d k y = issued s d k p y := by
  unfold State.startStep
  rw [copy]

/-- A step that is done at once leaves the program at its next word, without it (R411). -/
theorem State.finishStep_issued {y : CStep} (mine : y.id = s.nextId) (rod : y.rod = none) (trace : y.trace = []) :
    ((issued s d k p y).finishStep d k y).mem = s.mem ∧
      (((issued s d k p y).finishStep d k y).prog d k).map (fun q => (q.pc, q.outs)) =
        some (p.npc, p.outs.filter fun z => z.id != s.nextId) := by
  have left : (p.outs ++ [y]).filter (fun z => z.id != y.id) = p.outs.filter fun z => z.id != s.nextId := by
    simp [List.filter_append, mine]
  simp [State.finishStep, State.prog_issued, State.writeTrace, trace, rod, left]
  rfl

/-! ### The request of a message (R409) -/

/-- What XDATA of a request says of the message: the extension word and the colour of CS.SEND.G. -/
def CStep.marks (y : CStep) : Nat :=
  match y.graph with
  | some w => w.toNat + (y.col % 4096) * 2 ^ 64 + 2 ^ 76
  | none => 0

theorem CStep.marks_lt (y : CStep) : y.marks < 2 ^ 128 := by
  unfold CStep.marks
  split
  · next w _ =>
    have := w.isLt
    omega
  · decide

/-- Below the step, XDATA is what it says of the message. -/
theorem ofNat_marks_and (m id : Nat) (h : m < 2 ^ 128) :
    BitVec.ofNat 192 (m + id * 2 ^ 128) &&& BitVec.ofNat 192 (2 ^ 128 - 1) = BitVec.ofNat 192 m := by
  apply BitVec.eq_of_toNat_eq
  rw [BitVec.toNat_and, BitVec.toNat_ofNat, BitVec.toNat_ofNat, BitVec.toNat_ofNat]
  rw [Nat.mod_eq_of_lt (show 2 ^ 128 - 1 < 2 ^ 192 by decide), Nat.and_two_pow_sub_one_eq_mod]
  omega

/-- The request of a step that sends, as the state it leaves says. -/
def Requested (s u : State) (d k : Nat) (p : CProg) (z : CStep) (pk : Packet) (xd : BitVec 192) : Prop :=
  let g := s.pgt p.ctx p.tbl
  u.prog d k = (issued s d k p z).prog d k ∧ u.mem = s.mem ∧
    u.pend.map (·.ev) = s.pend.map (·.ev) ++ [.packetForward d 16 pk] ∧ pk.kind = 0x20 ∧ pk.dnode = s.rankNode g z.peer ∧
    pk.gkey = g.gkey ∧ pk.srank = BitVec.ofNat 16 g.own ∧ pk.drank = BitVec.ofNat 16 z.peer ∧
    pk.gen = BitVec.ofNat 16 p.gen ∧ pk.tag = BitVec.ofNat 16 z.tag ∧ pk.len = BitVec.ofNat 32 z.len ∧
    pk.xdata &&& (BitVec.ofNat 192 (2 ^ 128 - 1)) = xd

theorem State.startStep_requests {z : CStep} (sends : z.kind = .send) :
    ∃ pk, Requested s ((issued s d k p z).startStep d k z) d k p z pk (BitVec.ofNat 192 z.marks) := by
  have request : (issued s d k p z).startStep d k z =
      (issued s d k p z).sendCreq d { p with pc := p.npc, outs := p.outs ++ [z] } z := by
    simp only [State.startStep, sends, State.prog_issued]
  rw [request]
  exact ⟨_, rfl, rfl, by simp [State.sendCreq, State.sendPacket, State.postDep, issued]; rfl, rfl, rfl, rfl, rfl, rfl, rfl, rfl, rfl,
    ofNat_marks_and _ _ z.marks_lt⟩

end
/-! ### CS.SEND and CS.RECV (R411–R413) -/

section
variable {s : State} {d k : Nat} {p : CProg} {y : CStep} {peer : Word}

theorem State.peerStep_none : s.peerStep p peerNone y = .done y := if_pos rfl

theorem State.peerStep_unknown (some_ : peer ≠ peerNone) (unknown : (s.pgt p.ctx p.tbl).n ≤ peer.toNat) :
    s.peerStep p peer y = .abort ⟨cBadpath, peer, 0⟩ := by
  have bad : s.badPeer p peer = true := by simp [State.badPeer, some_, unknown]
  simp only [State.peerStep, some_, bad, if_false, if_true]

theorem State.peerStep_known (some_ : peer ≠ peerNone) (known : peer.toNat < (s.pgt p.ctx p.tbl).n) :
    s.peerStep p peer y = stepChecked y.len [y.addr] (.start { y with peer := peer.toNat }) := by
  have good : s.badPeer p peer = false := by simp [State.badPeer, known]
  simp only [State.peerStep, some_, good, if_false, Bool.false_eq_true]
  rfl

theorem State.peerStep_legal (some_ : peer ≠ peerNone) (known : peer.toNat < (s.pgt p.ctx p.tbl).n) (legal : stepLegal y.len y.addr) :
    s.peerStep p peer y = .start { y with peer := peer.toNat } :=
  (State.peerStep_known some_ known).trans (stepChecked_legal (by simpa using legal))

end

section
variable {s : State} {d k : Nat} {p : CProg} {f : FmtA} (cur : s.cur = .seq d k) (prog : s.prog d k = some p)
include cur prog

/-- The step of a message that a word issues: its length, its tag, its address and its rod. -/
def State.messageOf (s : State) (d : Nat) (p : CProg) (f : FmtA) (x : Option Word) : CStep :=
  { id := s.nextId, word := p.pc, len := (s.progRd d p f.sc).toNat, tag := f.imm.toNat, rod := x, addr := s.progRd d p f.sb,
    start := s.tick.toNat, kind := .send }

theorem exec_csSend (x : Option Word) : exec (.csSend f x) s = .next (s.issueStep d k p (s.peerStep p (s.progRd d p f.sa)
    (s.messageOf d p f x))) := onSeq_seq _ s d k p _ cur prog

theorem exec_csSendG (w : Word) : exec (.csSendG f w) s = .next (s.issueStep d k p (s.peerStep p (s.progRd d p f.sa)
    { s.messageOf d p f none with graph := some w, col := (s.progRd d p f.dst).toNat % 4096 })) := by
  have colour : fld (s.progRd d p f.dst) 0 12 = (s.progRd d p f.dst).toNat % 4096 := by simp [fld_eq_div_mod]
  refine (onSeq_seq _ s d k p _ cur prog).trans (congrArg _ ?_)
  rw [colour]
  rfl

theorem exec_csRecv (x : Option Word) : exec (.csRecv f x) s = .next (s.issueStep d k p (s.peerStep p (s.progRd d p f.sa)
    { s.messageOf d p f x with kind := .recv })) := onSeq_seq _ s d k p _ cur prog

/-! ### CS.RRS (R414) and CS.COPY (R415) -/

/-- The messages that a CS.RRS takes: one in TREE, else as many as SA says. -/
def State.rrsCount (s : State) (d : Nat) (p : CProg) (f : FmtA) : Nat := if f.red == 0 then 1 else (s.progRd d p f.sa).toNat

/-- The rank that a CS.RRS sends its buffer on to. -/
def State.rrsForward (s : State) (d : Nat) (p : CProg) (f : FmtA) : Option Nat :=
  if f.dst = 56 ∨ s.progRd d p f.dst = peerNone then none else some (s.progRd d p f.dst).toNat

/-- The step that a CS.RRS issues. -/
def State.reduceOf (s : State) (d : Nat) (p : CProg) (f : FmtA) (x : Option Word) : CStep :=
  { s.messageOf d p f x with
    kind := .rrs (!(f.red == 0)) (s.rrsCount d p f) (s.rrsForward d p f), fmt := f.f1.toNat, op := f.f2.toNat,
    peer := if f.red == 0 then (s.progRd d p f.sa).toNat else 0 }

theorem exec_csRrs (x : Option Word) : exec (.csRrs f x) s = .next (s.issueStep d k p (s.rrsStep d p f x)) :=
  onSeq_seq _ s d k p _ cur prog

theorem exec_csCopy (x : Option Word) : exec (.csCopy f x) s = .next (s.issueStep d k p
    (stepChecked (s.progRd d p f.sc).toNat [s.progRd d p f.sa, s.progRd d p f.sb]
      (.start { s.messageOf d p f x with
        kind := .copy, tag := 0, addr := s.progRd d p f.sa, addr2 := s.progRd d p f.sb,
        todo := stepChunks (s.progRd d p f.sc).toNat }))) := onSeq_seq _ s d k p _ cur prog

end

section
variable {s : State} {d : Nat} {p : CProg} {f : FmtA} {x : Option Word}

theorem State.rrsStep_eq : s.rrsStep d p f x =
    if (f.red == 0) = true ∧ s.progRd d p f.sa = peerNone then .done (s.reduceOf d p f x)
    else if (f.red == 0) = true ∧ s.badPeer p (s.progRd d p f.sa) = true then .abort ⟨cBadpath, s.progRd d p f.sa, 0⟩
    else if f.dst ≠ 56 ∧ s.badPeer p (s.progRd d p f.dst) = true then .abort ⟨cBadpath, s.progRd d p f.dst, 0⟩
    else if (f.red == 0) = false ∧ 4095 < s.rrsCount d p f then .abort ⟨cBadpath, s.progRd d p f.sa, 0⟩
    else if f.red = 2 ∧ (s.progRd d p f.sc).toNat % 192 ≠ 0 then .abort ⟨cBadpath, BitVec.ofNat 64 (s.progRd d p f.sc).toNat, 0⟩
    else stepChecked (s.progRd d p f.sc).toNat [s.progRd d p f.sb]
      (if s.rrsCount d p f = 0 then (s.reduceOf d p f x).forward (s.rrsForward d p f) else .start (s.reduceOf d p f x)) := rfl

/-- A TREE step without a peer does nothing, whatever its DST (R411). -/
theorem State.rrsStep_none (tree : f.red = 0) (none_ : s.progRd d p f.sa = peerNone) :
    s.rrsStep d p f x = .done (s.reduceOf d p f x) := by
  rw [State.rrsStep_eq, if_pos ⟨beq_iff_eq.mpr tree, none_⟩]

theorem State.reduceOf_tree (tree : f.red = 0) : s.reduceOf d p f x = { s.messageOf d p f x with
    kind := .rrs false 1 (s.rrsForward d p f), fmt := f.f1.toNat, op := f.f2.toNat, peer := (s.progRd d p f.sa).toNat } := by
  simp [State.reduceOf, State.rrsCount, tree]

theorem State.reduceOf_all (all : f.red ≠ 0) : s.reduceOf d p f x = { s.messageOf d p f x with
    kind := .rrs true (s.progRd d p f.sa).toNat (s.rrsForward d p f), fmt := f.f1.toNat, op := f.f2.toNat } := by
  have many : (f.red == 0) = false := beq_eq_false_iff_ne.mpr all
  simp only [State.reduceOf, State.rrsCount, many]
  rfl

section
variable (dst : f.dst = 56 ∨ s.progRd d p f.dst = peerNone ∨ (s.progRd d p f.dst).toNat < (s.pgt p.ctx p.tbl).n)
  (src : f.red = 0 ∧ (s.progRd d p f.sa).toNat < (s.pgt p.ctx p.tbl).n ∧ s.progRd d p f.sa ≠ peerNone ∨
    f.red ≠ 0 ∧ (s.progRd d p f.sa).toNat ≤ 4095)
include dst src

/-- Ranks that exist and a count of at most 4,095: the length and the address are left to be looked at. -/
theorem State.rrsStep_checked :
    s.rrsStep d p f x =
      if f.red = 2 ∧ (s.progRd d p f.sc).toNat % 192 ≠ 0 then .abort ⟨cBadpath, BitVec.ofNat 64 (s.progRd d p f.sc).toNat, 0⟩
      else stepChecked (s.progRd d p f.sc).toNat [s.progRd d p f.sb]
        (if s.rrsCount d p f = 0 then (s.reduceOf d p f x).forward (s.rrsForward d p f) else .start (s.reduceOf d p f x)) := by
  have known : ∀ {v : Word}, v.toNat < (s.pgt p.ctx p.tbl).n → ¬ s.badPeer p v = true := fun h bad => by
    simp [State.badPeer, Nat.not_le.mpr h] at bad
  have dst_ok : ¬ (f.dst ≠ 56 ∧ s.badPeer p (s.progRd d p f.dst) = true) := fun ⟨named, bad⟩ => by
    rcases dst with other | none_ | rank
    · exact named other
    · simp [State.badPeer, none_] at bad
    · exact known rank bad
  rw [State.rrsStep_eq]
  rcases src with ⟨tree, rank, some_⟩ | ⟨all, few⟩
  · have one : (f.red == 0) = true := beq_iff_eq.mpr tree
    rw [if_neg fun h => some_ h.2, if_neg fun h => known rank h.2, if_neg dst_ok, if_neg fun h => Bool.false_ne_true (h.1.symm.trans one)]
  · have many : ¬ (f.red == 0) = true := fun h => all (beq_iff_eq.mp h)
    have count : s.rrsCount d p f = (s.progRd d p f.sa).toNat := if_neg many
    rw [if_neg fun h => many h.1, if_neg fun h => many h.1, if_neg dst_ok, if_neg fun h => absurd few (Nat.not_le.mpr (count ▸ h.2))]

theorem State.rrsStep_legal (legal : stepLegal (s.progRd d p f.sc).toNat (s.progRd d p f.sb))
    (lanes : f.red = 2 → (s.progRd d p f.sc).toNat % 192 = 0) :
    s.rrsStep d p f x =
      if s.rrsCount d p f = 0 then (s.reduceOf d p f x).forward (s.rrsForward d p f) else .start (s.reduceOf d p f x) := by
  rw [State.rrsStep_checked dst src, if_neg fun h => h.2 (lanes h.1)]
  exact stepChecked_legal (by simpa using legal)

end

end

/-! ### What a word answers, by what becomes of its step -/

section
variable {s : State} {d k n : Nat} {p : CProg} {i : Instr} {y : CStep} {l : List Word} {r : StepRes}

theorem issues_of_eq {r' : StepRes} (run : exec i s = .next (s.issueStep d k p r)) (h : r = r') :
    exec i s = .next (s.issueStep d k p r') := h ▸ run

/-- A step that is done at once leaves the program at its next word and memory as it was. -/
theorem endsAtOnce_of_done (run : exec i s = .next (s.issueStep d k p (.done y))) (may : mayIssue s d k p y.rod)
    (mine : y.id = s.nextId) (rod : y.rod = none) (trace : y.trace = []) :
    ∃ u, exec i s = .next u ∧ u.mem = s.mem ∧
      (u.prog d k).map (fun q => (q.pc, q.outs)) = some (p.npc, p.outs.filter fun z => z.id != s.nextId) :=
  ⟨_, run.trans (congrArg _ (State.issueStep_free may).1), State.finishStep_issued mine rod trace⟩

theorem requests_of_start (run : exec i s = .next (s.issueStep d k p (.start y))) (may : mayIssue s d k p y.rod)
    (sends : y.kind = .send) {xd : BitVec 192} (marks : BitVec.ofNat 192 y.marks = xd) :
    ∃ pk u, exec i s = .next u ∧ Requested s u d k p y pk xd := by
  subst marks
  obtain ⟨pk, request⟩ := State.startStep_requests (s := s) (d := d) (k := k) (p := p) sends
  exact ⟨pk, _, run.trans (congrArg _ (State.issueStep_free may).2), request⟩

theorem takes_of_start (run : exec i s = .next (s.issueStep d k p (.start y))) (may : mayIssue s d k p y.rod)
    (takes : y.kind.takes = true) : exec i s = .next ((issued s d k p y).reqSweep d) :=
  run.trans (congrArg _ ((State.issueStep_free may).2.trans (State.startStep_of_takes takes)))

theorem copies_of_start (run : exec i s = .next (s.issueStep d k p (.start y))) (may : mayIssue s d k p y.rod)
    (copy : y.kind = .copy) : exec i s = .next (issued s d k p y) :=
  run.trans (congrArg _ ((State.issueStep_free may).2.trans (State.startStep_of_copy copy)))

theorem refused_of_abort {f : Failure} (run : exec i s = .next (s.issueStep d k p (.abort f))) (room : p.outs.length < 8) :
    exec i s = .next (s.stepFault d k f) := run.trans (congrArg _ (State.issueStep_abort f room))

theorem illegal_of_checked (run : exec i s = .next (s.issueStep d k p (stepChecked n l r))) (room : p.outs.length < 8)
    (illegal : ¬ ∀ a ∈ l, stepLegal n a) :
    exec i s = .next (s.stepFault d k ⟨cBadpath, BitVec.ofNat 64 n, 0⟩) ∨
      ∃ a : Word, exec i s = .next (s.stepFault d k ⟨if addrPath a = 0xF then cPriv else cBadpath, a, 0⟩) := by
  obtain ⟨f, abort, rfl | ⟨a, rfl⟩⟩ := stepChecked_breach (r := r) illegal
  · exact .inl (refused_of_abort (abort ▸ run) room)
  · exact .inr ⟨a, refused_of_abort (abort ▸ run) room⟩

end

/-- Settles O46: each word issues its step, which the checks of its peers, its length and its addresses refuse, end or start. -/
theorem collectiveStepWords : Obligations.CollectiveStepWords := by
  refine ⟨fun s d k p f x may => ?_, fun s d k p f x w cur prog full => ?_, fun s d k p f prog cause => ?_⟩
  · obtain ⟨cur, prog, room, rod⟩ := id may
    have send := exec_csSend (f := f) cur prog x
    have sendG := fun w => exec_csSendG (f := f) cur prog w
    have recv := exec_csRecv (f := f) cur prog x
    have rrs := exec_csRrs (f := f) cur prog x
    have copy := exec_csCopy (f := f) cur prog x
    refine ⟨fun known some_ legal => ?_, fun none_ free => ?_, fun some_ unknown => ?_, fun known some_ illegal => ?_, ?_, ?_, ?_, ?_⟩
    · refine ⟨requests_of_start (issues_of_eq send (State.peerStep_legal some_ known legal)) may rfl rfl, fun free w => ?_,
        takes_of_start (issues_of_eq recv (State.peerStep_legal some_ known legal)) may rfl⟩
      subst free
      refine requests_of_start (issues_of_eq (sendG w) (State.peerStep_legal some_ known legal)) may rfl ?_
      simp [CStep.marks]
    · subst free
      have stop : ∀ y, s.peerStep p (s.progRd d p f.sa) y = .done y := fun y => none_ ▸ State.peerStep_none
      exact ⟨endsAtOnce_of_done (issues_of_eq send (stop _)) may rfl rfl rfl,
        endsAtOnce_of_done (issues_of_eq recv (stop _)) may rfl rfl rfl,
        fun w => endsAtOnce_of_done (issues_of_eq (sendG w) (stop _)) may rfl rfl rfl⟩
    · have bad := fun y => State.peerStep_unknown (y := y) some_ unknown
      exact ⟨refused_of_abort (issues_of_eq send (bad _)) room, refused_of_abort (issues_of_eq recv (bad _)) room,
        fun w => refused_of_abort (issues_of_eq (sendG w) (bad _)) room⟩
    · have here := fun y => State.peerStep_known (y := y) some_ known
      have bad : ¬ ∀ a ∈ [s.progRd d p f.sb], stepLegal (s.progRd d p f.sc).toNat a := by simpa using illegal
      exact ⟨illegal_of_checked (issues_of_eq send (here _)) room bad, illegal_of_checked (issues_of_eq recv (here _)) room bad,
        fun w => illegal_of_checked (issues_of_eq (sendG w) (here _)) room bad⟩
    · refine ⟨fun dst illegal src => ?_, fun dst legal lanes =>
        ⟨fun tree known some_ => ?_, fun all count few => ?_, fun r fwd all zero => ?_⟩⟩
      · have bad : ¬ ∀ a ∈ [s.progRd d p f.sb], stepLegal (s.progRd d p f.sc).toNat a := by simpa using illegal
        have checked := State.rrsStep_checked (x := x) dst src
        by_cases ragged : f.red = 2 ∧ (s.progRd d p f.sc).toNat % 192 ≠ 0
        · exact .inl (refused_of_abort (issues_of_eq rrs (checked.trans (if_pos ragged))) room)
        · exact illegal_of_checked (issues_of_eq rrs (checked.trans (if_neg ragged))) room bad
      · have start := State.rrsStep_legal (x := x) dst (.inl ⟨tree, known, some_⟩) legal lanes
        have one : s.rrsCount d p f = 1 := if_pos (beq_iff_eq.mpr tree)
        rw [if_neg (one ▸ Nat.one_ne_zero), State.reduceOf_tree tree] at start
        exact takes_of_start (issues_of_eq rrs start) may rfl
      · have start := State.rrsStep_legal (x := x) dst (.inr ⟨all, few⟩) legal lanes
        have many : s.rrsCount d p f = (s.progRd d p f.sa).toNat := if_neg fun h => all (beq_iff_eq.mp h)
        have pos : (s.progRd d p f.sa).toNat ≠ 0 := fun h => count (BitVec.eq_of_toNat_eq h)
        rw [if_neg (many ▸ pos), State.reduceOf_all all] at start
        exact takes_of_start (issues_of_eq rrs start) may rfl
      · have few : (s.progRd d p f.sa).toNat ≤ 4095 := by rw [zero]; decide
        have start := State.rrsStep_legal (x := x) dst (.inr ⟨all, few⟩) legal lanes
        have none_ : s.rrsCount d p f = 0 := (if_neg fun h => all (beq_iff_eq.mp h)).trans (congrArg BitVec.toNat zero)
        have on : s.rrsForward d p f = some r := fwd
        rw [if_pos none_, State.reduceOf_all all, on] at start
        exact requests_of_start (issues_of_eq rrs start) may rfl rfl
    · intro tree none_ free
      subst free
      exact endsAtOnce_of_done (issues_of_eq rrs (State.rrsStep_none tree none_)) may rfl rfl rfl
    · intro z target source
      refine copies_of_start (issues_of_eq copy (stepChecked_legal ?_)) may rfl
      simpa using ⟨target, source⟩
    · intro illegal
      exact illegal_of_checked copy room (by simpa using illegal)
  · intro i hi
    simp only [List.mem_cons, List.not_mem_nil, or_false] at hi
    rcases hi with rfl | rfl | rfl | rfl | rfl
    · exact (exec_csSend cur prog x).trans (congrArg _ (State.issueStep_full _ full))
    · exact (exec_csSendG cur prog w).trans (congrArg _ (State.issueStep_full _ full))
    · exact (exec_csRecv cur prog x).trans (congrArg _ (State.issueStep_full _ full))
    · exact (exec_csRrs cur prog x).trans (congrArg _ (State.issueStep_full _ full))
    · exact (exec_csCopy cur prog x).trans (congrArg _ (State.issueStep_full _ full))
  · have recorded : stepRecorded f.cause = true := by rcases cause with h | h <;> rw [h] <;> decide
    simp only [State.stepFault, prog, recorded, if_true]
    rfl

end Sys2Proof.Machine
end

section
/-!
ATOM, CAS and the words to a peer (R217, R238, R241, R249–R255).
-/
namespace Sys2Proof.Machine
open Sys2Proof Sys2Proof.Machine Sys2Proof.Cert

/-! ### The output of an extension word (R241) -/

section
variable {s t : State} {e : Nat} {a : Active} {x : Option Word} {q : Pass}

/-- An output that has somewhere to go raises nothing (R23, R403). -/
theorem State.refFault_eq_none {o : Nat} (here : outHere s e a o) : s.refFault a (outRef s e a o) = none := by
  obtain ⟨unit, link⟩ := here
  unfold State.refFault
  rw [if_neg (by simp [unit])]
  split
  · next port =>
    obtain ⟨g, table, rank⟩ := link port.1 port.2
    simp only [table]
    exact if_neg fun bad => absurd (rank bad.1) (Nat.not_lt.mpr bad.2)
  · rfl

/-- The colour of a token that no transform of its word changes (R108). -/
theorem outCol_eq_sentColour (s : State) (e : Nat) (a : Active) (o : Nat) :
    a.pass.outCol ((s.engine e).ref (s.opOf e a) o) o none = sentColour s e a o none := by
  simp only [Pass.outCol, sentColour, Pass.out]
  cases (tget {} a.pass.b.outs o).dyn <;> rfl

/-- The pass that an extension word notes its output in. -/
theorem State.coOut_of_noted {tile : Option Word} (noted : resultNoted s e a x tile q) : s.coOut e a a.pass x tile = .ok q := by
  cases x with
  | none => exact congrArg Except.ok noted.symm
  | some w =>
    unfold resultNoted at noted
    unfold State.coOut
    dsimp only at noted ⊢
    by_cases silent : w.getLsbD 39 = false
    · rw [if_pos silent] at noted
      rw [noted]
      exact if_pos silent
    · rw [if_neg silent] at noted
      obtain ⟨here, sound, rfl⟩ := noted
      have named : s.refFault a ((s.engine e).ref (s.opOf e a) (extCout w)) = none := State.refFault_eq_none here
      have carries : (if (((s.engine e).refInfo (s.opOf e a) (extCout w)).tile && tile.isSome) = true
          then s.emitTileFault e a (tile.getD 0) else none) = none := by
        split <;> [exact sound ‹_›; rfl]
      refine (if_neg silent).trans ?_
      simp only [named, carries, outCol_eq_sentColour]
      rfl

end

theorem wordAddr_eq (s : State) (a : Active) (f : FmtM) : wordAddr s a f = a.pass.memAddr s.tick f := rfl

theorem accessBytes_eq (f : FmtM) : accessBytes f = sizeBytes f.size.toNat := rfl

/-! ### ATOM and CAS (R249, R250) -/

/-- The output that an extension word names is the one that a held effect of it uses (R241). -/
theorem resultOut_eq (x : Option Word) : resultOut x = coIdx x := rfl

section
variable {i : Instr} {f : FmtM} {x : Option Word} {s t : State} {e sl : Nat} {a : Active} {op : Pass → AccOp} {host : Bool}
  (h : InPass s e sl a)
include h

theorem atomWord_ok {hs : List Nat} {q : Pass}
    (r : s.resolve { madeBy e a .atomic with hostAtomic := host } [0x0, 0x1, 0x2, 0x8, 0x9, 0xA, 0xB] (wordAddr s a f)
      (accessBytes f) true = (.ok hs, t)) (noted : resultNoted t e a x none q) :
    atomWord i f x s op host = .next (t.setPass e sl a ((q.useLsid f.lsid.toNat).hold
      { storeBase s a f with co := resultOut x, eff := .access ⟨hs, op a.pass, wordAcq s a f, a.origin e, none⟩ })) := by
  have homes : s.resolve { a.via e .atomic with hostAtomic := host } [0x0, 0x1, 0x2, 0x8, 0x9, 0xA, 0xB] (a.pass.memAddr s.tick f)
      (sizeBytes f.size.toNat) true = (.ok hs, t) := r
  simp only [atomWord, memWord_pass h, homes, State.coOut_of_noted noted]
  rfl

theorem atomWord_error {g : Failure}
    (r : s.resolve { madeBy e a .atomic with hostAtomic := host } [0x0, 0x1, 0x2, 0x8, 0x9, 0xA, 0xB] (wordAddr s a f)
      (accessBytes f) true = (.error g, t)) : atomWord i f x s op host = .next (t.passFault e sl g) := by
  have refused : s.resolve { a.via e .atomic with hostAtomic := host } [0x0, 0x1, 0x2, 0x8, 0x9, 0xA, 0xB] (a.pass.memAddr s.tick f)
      (sizeBytes f.size.toNat) true = (.error g, t) := r
  simp only [atomWord, memWord_pass h, refused]

end

theorem exec_atom (f : FmtM) (x : Option Word) (s : State) : exec (.atom f x) s = atomWord (.atom f x) f x s
    (fun p => .atom f.aop.toNat (sizeBytes f.size.toNat) (p.rd s.tick f.dv)) (f.aop == 0 || f.aop == 8) := rfl

theorem exec_cas (f : FmtM) (x : Option Word) (s : State) : exec (.cas f x) s = atomWord (.cas f x) f x s
    (fun p => .cas (sizeBytes f.size.toNat) (p.rd s.tick f.dv) (p.rd s.tick f.sb)) true := rfl

theorem atomicWords : AtomicWords := by
  intro f x s e sl a h p n acq i op host which r t resolved
  obtain ⟨rfl, rfl, rfl⟩ | ⟨rfl, rfl, rfl⟩ := which
  · exact ⟨fun hs q ok noted => (exec_atom ..).trans (atomWord_ok h (ok ▸ resolved) noted),
      fun g bad => (exec_atom ..).trans (atomWord_error h (bad ▸ resolved))⟩
  · exact ⟨fun hs q ok noted => (exec_cas ..).trans (atomWord_ok h (ok ▸ resolved) noted),
      fun g bad => (exec_cas ..).trans (atomWord_error h (bad ▸ resolved))⟩

/-! ### RMT.FAA, RMT.ST and RMT.FLAG (R217, R253–R255) -/

/-- A remote address of `n` bytes is on path 0x3 throughout and names one rank, which the launch's group has. -/
def remoteGood (s : State) (a : Active) (ad : Word) (n : Nat) (aligned : Bool) : Prop :=
  let z := ad + BitVec.ofNat 64 (n - 1)
  addrPath ad = 3 ∧ addrPath z = 3 ∧ z.extractLsb' 48 12 = ad.extractLsb' 48 12 ∧
    (∃ t, s.launchTable a.fr.ctx a.fr.inst = some t ∧ (ad.extractLsb' 48 12).toNat < (s.pgt a.fr.ctx t).n) ∧
    (aligned = true → ad.toNat % n = 0)

section
variable {i : Instr} {f : FmtM} {x : Option Word} {s : State} {e sl : Nat} {a : Active} {aligned : Bool} {kind : BitVec 8}
  {xdata : BitVec 192} {payload : Pass → List Byte}

theorem State.rankFault_eq_none (ad : Word) : s.rankFault a ad = none ↔
    ∃ t, s.launchTable a.fr.ctx a.fr.inst = some t ∧ (ad.extractLsb' 48 12).toNat < (s.pgt a.fr.ctx t).n := by
  unfold State.rankFault
  cases s.launchTable a.fr.ctx a.fr.inst with
  | none => exact ⟨nofun, fun ⟨t, found, _⟩ => nomatch found⟩
  | some table =>
    show (if _ then _ else _) = none ↔ _
    rw [ite_eq_right_iff]
    refine ⟨fun inside => ⟨table, rfl, Nat.lt_of_not_le fun bad => nomatch inside bad⟩, fun ⟨t, found, inside⟩ bad => ?_⟩
    cases found
    exact absurd inside (Nat.not_lt.mpr bad)

theorem State.rankFault_cause {ad : Word} {g : Failure} (bad : s.rankFault a ad = some g) : g = ⟨cBadpath, ad, 0⟩ := by
  unfold State.rankFault at bad
  split at bad
  · exact (Option.some.inj bad).symm
  · split at bad <;> [exact (Option.some.inj bad).symm; cases bad]

/-- The checks of a remote word, one after the other. -/
theorem remoteGood_iff (ad : Word) (n : Nat) : remoteGood s a ad n aligned ↔
    ¬ (addrPath ad ≠ 3 ∨ addrPath (ad + BitVec.ofNat 64 (n - 1)) ≠ 3 ∨
        fld (ad + BitVec.ofNat 64 (n - 1)) 48 12 ≠ fld ad 48 12) ∧
      s.rankFault a ad = none ∧ ¬ (aligned = true ∧ ad.toNat % n ≠ 0) := by
  have ranks : fld (ad + BitVec.ofNat 64 (n - 1)) 48 12 = fld ad 48 12 ↔
      (ad + BitVec.ofNat 64 (n - 1)).extractLsb' 48 12 = ad.extractLsb' 48 12 := BitVec.toNat_inj
  simp only [remoteGood, State.rankFault_eq_none, ranks, not_or, not_and, not_not, ne_eq, and_assoc]

variable (h : InPass s e sl a)
include h

theorem remoteWord_good {q : Pass} (good : remoteGood s a (wordAddr s a f) (accessBytes f) aligned) (noted : resultNoted s e a x none q) :
    remoteWord i f x s aligned kind xdata payload = .next (s.setPass e sl a ((q.useLsid f.lsid.toNat).hold
      { lsid := f.lsid.toNat, ord := f.ord.toNat, scope := 4, co := resultOut x,
        eff := .remote kind (wordAddr s a f) xdata (payload a.pass) none })) := by
  obtain ⟨onPath, rank, even⟩ := (remoteGood_iff ..).mp good
  have remoteScope : scopeOn (wordAddr s a f) f.scope.toNat = 4 := if_pos (.inr good.1)
  rw [remoteWord, memWord_pass h]
  simp only [← wordAddr_eq, ← accessBytes_eq, if_neg onPath, rank, if_neg even, State.coOut_of_noted noted, heldOf, remoteScope]
  rfl

theorem remoteWord_bad (bad : ¬ remoteGood s a (wordAddr s a f) (accessBytes f) aligned) :
    remoteWord i f x s aligned kind xdata payload =
      .next (s.passFault e sl ⟨if addrPath (wordAddr s a f) = 0xF then cPriv else cBadpath, wordAddr s a f, 0⟩) := by
  rw [remoteGood_iff] at bad
  rw [remoteWord, memWord_pass h]
  rw [wordAddr_eq] at bad ⊢
  rw [accessBytes_eq] at bad
  by_cases offPath : addrPath (a.pass.memAddr s.tick f) ≠ 3 ∨
      addrPath (a.pass.memAddr s.tick f + BitVec.ofNat 64 (sizeBytes f.size.toNat - 1)) ≠ 3 ∨
      fld (a.pass.memAddr s.tick f + BitVec.ofNat 64 (sizeBytes f.size.toNat - 1)) 48 12 ≠ fld (a.pass.memAddr s.tick f) 48 12
  · simp only [if_pos offPath, pathCause]
  · have onPath : addrPath (a.pass.memAddr s.tick f) = 3 := not_not.mp fun other => offPath (.inl other)
    have cause : (if addrPath (a.pass.memAddr s.tick f) = 0xF then cPriv else cBadpath) = cBadpath :=
      if_neg (by rw [onPath]; decide)
    rw [cause]
    cases rank : s.rankFault a (a.pass.memAddr s.tick f) with
    | some g => simp only [if_neg offPath, rank, State.rankFault_cause rank]
    | none =>
      have odd : aligned = true ∧ (a.pass.memAddr s.tick f).toNat % sizeBytes f.size.toNat ≠ 0 :=
        not_not.mp fun even => bad ⟨offPath, rank, even⟩
      simp only [if_neg offPath, rank, if_pos odd]

end

theorem accessBytes_of_size_three {f : FmtM} (size : f.size = 3) : accessBytes f = 8 := by
  rw [accessBytes, size]
  rfl

theorem exec_rmtFaa (f : FmtM) (x : Option Word) (s : State) : exec (.rmtFaa f x) s =
    remoteWord (.rmtFaa f x) f x s true 0x12 0 fun p => leBytes 8 (p.rd s.tick f.dv).toNat := rfl

theorem exec_rmtSt (f : FmtM) (s : State) : exec (.rmtSt f) s =
    remoteWord (.rmtSt f) f none s false 0x10 0 fun p => leBytes (accessBytes f) (p.rd s.tick f.dv).toNat := rfl

theorem exec_rmtFlag (f : FmtM) (s : State) : exec (.rmtFlag f) s =
    remoteWord (.rmtFlag f) f none s true 0x13 (f.aop.setWidth 192) fun p => leBytes 8 (p.rd s.tick f.dv).toNat := by
  rw [← BitVec.ofNat_toNat]
  rfl

theorem remoteWords : RemoteWords := by
  intro f x s e sl a h p ad v remote
  refine ⟨fun size => ?_, ?_, fun size => ?_⟩
  · have bytes := accessBytes_of_size_three size
    exact ⟨fun q good noted => (exec_rmtFaa ..).trans (remoteWord_good h (bytes.symm ▸ good) noted),
      fun bad => (exec_rmtFaa ..).trans (remoteWord_bad h (bytes.symm ▸ bad))⟩
  · exact ⟨fun q good noted => (exec_rmtSt ..).trans (remoteWord_good h good noted),
      fun bad => (exec_rmtSt ..).trans (remoteWord_bad h bad)⟩
  · have bytes := accessBytes_of_size_three size
    exact ⟨fun q good noted => (exec_rmtFlag ..).trans (remoteWord_good h (bytes.symm ▸ good) noted),
      fun bad => (exec_rmtFlag ..).trans (remoteWord_bad h (bytes.symm ▸ bad))⟩

/-- Settles O30: every word is its access or packet where the checks pass, and their failure where they do not. -/
theorem atomicsAndRemotes : Obligations.AtomicsAndRemotes := ⟨atomicWords, remoteWords⟩

end Sys2Proof.Machine
end

section
/-!
How a stream fills its buffer and how an LDT empties it into scratch (R223, R225).
-/
namespace Sys2Proof.Machine
open Sys2Proof Sys2Proof.Machine Sys2Proof.Cert

/-! ### Tables and memory written from a function of the place -/

theorem tget_foldl_tput {α : Type} (dflt : α) (g : Nat → α) (l : List Nat) (b : Table α) (h : Nat) :
    tget dflt (l.foldl (fun t k => tput t k (g k)) b) h = if h ∈ l then g h else tget dflt b h := by
  induction l generalizing b with
  | nil => rfl
  | cons k r ih =>
    rw [List.foldl_cons, ih]
    by_cases same : k = h
    · subst same; simp [tget_tput_same]
    · simp [tget_tput_ne _ _ _ _ _ same, Ne.symm same]

section
variable {s : State} {hs : List Nat} {h : Nat}

theorem State.rdByte_wrHomes_map (g : Nat → Byte) (mem : h ∈ hs) : (s.wrHomes hs (hs.map g)).rdByte h = g h := by
  induction hs generalizing s with
  | nil => cases mem
  | cons k r ih =>
    rw [List.map_cons, State.wrHomes_cons]
    by_cases later : h ∈ r
    · exact ih later
    · obtain rfl := (List.mem_cons.mp mem).resolve_right later
      rw [State.rdByte_wrHomes_of_not_mem later, State.rdByte_wrByte, if_pos rfl]

theorem State.rdByte_storeHomes_map (g : Nat → Byte) (mem : h ∈ hs) : (s.storeHomes hs (hs.map g)).rdByte h = g h :=
  (State.rdByte_storeHomes ..).trans (State.rdByte_wrHomes_map g mem)

end

@[simp] theorem State.setStream_rdByte (s : State) (e n : Nat) (y : Option Stream) (h : Nat) :
    (s.setStream e n y).rdByte h = s.rdByte h := by
  rw [State.rdByte, State.setStream_mem]
  rfl

/-! ### The buffer -/

section
variable {s : State} {e : Nat} {d : Word} {hs : List Nat} {b : Table Byte} {h : Nat}

/-- A byte that the buffer has already stays as it was read. -/
theorem tget_fillBuf_of_has (has : bufHas b h = true) : tget 0 (s.fillBuf e d hs b) h = tget 0 b h := by
  unfold State.fillBuf
  split
  · rfl
  · rw [tget_foldl_tput, if_neg]
    simp [has]

/-- Where a byte is lacking, every lacking byte of its chunks is read. -/
theorem tget_fillBuf_of_lacks (lacks : bufHas b h = false) (short : ∃ k ∈ hs, bufHas b k = false)
    (mate : h ∈ s.chunkMates e d hs) : tget 0 (s.fillBuf e d hs b) h = s.rdByte h := by
  have some_short : ¬ hs.all (bufHas b) = true := by simpa using short
  rw [State.fillBuf, if_neg some_short, tget_foldl_tput, if_pos]
  simp [lacks, mate]

/-- The homes of the chunks that an LDT has whole once bytes have come: those that it writes. -/
def wholeHomes (got : Table Byte) (mates : List Nat) : List Nat :=
  mates.filter fun h => !((mates.filter fun h => !bufHas got h).map (· / 64)).contains (h / 64)

theorem mem_wholeHomes {got : Table Byte} {mates : List Nat} :
    h ∈ wholeHomes got mates ↔ h ∈ mates ∧ ∀ k ∈ mates, k / 64 = h / 64 → bufHas got k = true := by
  simp only [wholeHomes, List.mem_filter, Bool.not_eq_true', ← Bool.not_eq_true, List.contains_iff_mem,
    List.mem_map]
  refine and_congr_right fun _ => ⟨fun none_short k mate chunk => ?_,
    fun all ⟨k, ⟨mate, lacks⟩, chunk⟩ => lacks (all k mate chunk)⟩
  by_contra lacks
  exact none_short ⟨k, ⟨mate, lacks⟩, chunk⟩

theorem State.landLdt_eq (s : State) (x : Stream) (d : Word) (hs : List Nat) (bs : List Byte) {got : Table Byte}
    (new : got = (hs.zip bs).foldl (fun t y => tput t y.1 y.2) x.buf) :
    s.landLdt x d hs bs =
      (s.setStream x.eng x.n (some { x with buf := bufDrop got (wholeHomes got (s.chunkMates x.eng d hs)) })).storeHomes
        (wholeHomes got (s.chunkMates x.eng d hs)) ((wholeHomes got (s.chunkMates x.eng d hs)).map (tget 0 got)) := by
  subst new
  rfl

end

theorem streamBuffer : StreamBuffer := by
  refine ⟨fun s e d hs b h => ⟨tget_fillBuf_of_has, tget_fillBuf_of_lacks⟩, ?_⟩
  intro s x d hs bs got t whole
  have landed : t = _ := State.landLdt_eq s x d hs bs rfl
  rw [landed]
  refine ⟨fun h all => ?_, fun h part => ?_, ?_⟩
  · exact State.rdByte_storeHomes_map _ (mem_wholeHomes.mpr all)
  · rw [State.rdByte_storeHomes_of_not_mem (mt mem_wholeHomes.mp part), State.setStream_rdByte]
  · exact SamePend.trans (State.setStream_pend ..) (SamePend.storeHomes ..)

end Sys2Proof.Machine
end

section
/-!
The steps of a stream: a piece moves, walks end, the stream completes (R225, R241, R242, R384, R386).
-/
namespace Sys2Proof.Machine
open Sys2Proof Sys2Proof.Machine Sys2Proof.Cert

/-- The number of an engine is none of a sequencer slot. -/
theorem not_sequencer {e : Nat} (eng : e < 288) : ¬ 290 ≤ e := by omega

/-! ### A piece -/

/-- Where nothing is captured or replayed, the updates of a REDT piece leave the state as it is (R456). -/
theorem State.redtLogged_off {s : State} (off : s.root.cmode = 0) (d : Nat) (x : Stream) (p : Nat) :
    s.redtLogged d x p = some s := by
  have logs : ∀ l : List Nat, l.foldl (fun o k => o.bind fun t => t.decision 3 d (x.eng % 72) [x.n, p, k, x.q.addr.toNat])
      (some s) = some s := by
    intro l
    induction l with
    | nil => rfl
    | cons k r ih => rw [List.foldl_cons, Option.bind_some, State.decision_off off, ih]
  exact logs _

/-- The state with a piece taken off what is still to do of a stream. -/
def State.pieceGone (s : State) (e n p : Nat) : State :=
  s.setStream e n ((s.stream e n).map fun y => { y with todo := y.todo.filter (· != p) })

section
variable {s t : State} {e n p : Nat} {x : Stream} (eng : e < 288) (str : s.stream e n = some x)
  (ready : ¬ (x.phase ≠ .running ∨ p ∉ x.todo ∨ s.depsDone x.deps = false ∨ 256 ≤ n))
include eng str ready

theorem exec_chunkTransfer_moves (move : s.pieceMove x p = .ok (.ok t)) (off : x.q.kind ≠ .redt ∨ (t.pieceGone e n p).root.cmode = 0) :
    exec (.streamChunkTransfer e n p) s = .next (t.pieceGone e n p) := by
  simp only [exec, execStreamChunkTransfer, if_neg (not_sequencer eng),
    if_neg (Nat.ne_of_lt eng), str, if_neg ready, move]
  split
  · next redt =>
      have idle := off.resolve_left (not_not.mpr redt)
      exact congrArg (fun o => Host.Outcome.next (Option.getD o s)) (State.redtLogged_off idle ..)
  · rfl

theorem exec_chunkTransfer_misses {pl : Nat} {ad : Word} (move : s.pieceMove x p = .error (pl, ad)) :
    exec (.streamChunkTransfer e n p) s = .next (s.setStream e n (some (x.walks pl ad s.clock.cyc))) := by
  simp only [exec, execStreamChunkTransfer, if_neg (not_sequencer eng),
    if_neg (Nat.ne_of_lt eng), str, if_neg ready, move]

theorem exec_chunkTransfer_fails {f : Failure} (move : s.pieceMove x p = .ok (.error f)) :
    exec (.streamChunkTransfer e n p) s = .next ((s.report (e / 72) cEcc x.who f.addr f.detail none).failStream e n) := by
  simp only [exec, execStreamChunkTransfer, if_neg (not_sequencer eng),
    if_neg (Nat.ne_of_lt eng), str, if_neg ready, move]

end

section
variable {s : State} {x : Stream} {p lo hi : Nat} {row : Word} {hs : List Nat}

/-- A primal piece of an LDT: its bytes come into the stream's buffer. -/
theorem State.pieceMove_ldt (kind : x.q.kind = .ldt) (primal : piecePlane p = 0) (at_row : row = x.q.rowAddr (pieceRow p))
    (span : (lo, hi) = chunkSpan row (dRowBytes x.q.desc) (pieceChunk p))
    (homes : s.streamHomes x 0 (row + BitVec.ofNat 64 lo) (hi - lo) = .ok hs) (sound : s.eccHomes hs = false) :
    s.pieceMove x p = .ok (.ok (s.landLdt x x.q.desc (s.scratchHomes x.eng x.q.desc (pieceRow p) lo hi)
      (if addrPath (row + BitVec.ofNat 64 lo) = 1 then s.rdConst x.eng x.q.acq hs else s.rdHomes hs))) := by
  subst at_row
  simp [State.pieceMove, kind, primal, ← span, State.planeAd, StreamReq.planeDesc, homes, sound, Except.map]

/-- A primal piece of an STT: its bytes leave the stream's buffer. -/
theorem State.pieceMove_stt (kind : x.q.kind = .stt) (primal : piecePlane p = 0) (at_row : row = x.q.rowAddr (pieceRow p))
    (span : (lo, hi) = chunkSpan row (dRowBytes x.q.desc) (pieceChunk p))
    (homes : s.streamHomes x 0 (row + BitVec.ofNat 64 lo) (hi - lo) = .ok hs) {sc : List Nat} {buf : Table Byte}
    (scratch : sc = s.scratchHomes x.eng x.q.desc (pieceRow p) lo hi) (fill : buf = s.fillBuf x.eng x.q.desc sc x.buf)
    (sound : s.eccHomes (sc.filter fun h => !bufHas x.buf h) = false) :
    s.pieceMove x p = .ok (.ok ((s.setStream x.eng x.n (some { x with buf := bufDrop buf sc })).storeHomes hs
      (bufBytes buf sc))) := by
  subst at_row scratch fill
  simp [State.pieceMove, kind, primal, ← span, State.planeAd, StreamReq.planeDesc, homes, sound, Except.map]

end

/-! ### A walk -/

section
variable {s t u : State} {e n pl : Nat} {x : Stream} {ad : Word} {r : Except (Nat × Nat) Trans}

theorem exec_walkComplete_waits (str : s.stream e n = some x) (walks : x.phase = .walking pl ad) (queued : s.walkServed x = false) :
    exec (.translationWalkComplete e n) s = .next s := by
  simp only [exec, execTranslationWalkComplete, str, walks, if_pos queued]

theorem exec_walkComplete_ends (str : s.stream e n = some x) (walks : x.phase = .walking pl ad) (served : s.walkServed x = true)
    (walk : s.translate (x.eng / 72) x.who.ctx (addrVa ad) x.pre = (r, t)) : exec (.translationWalkComplete e n) s =
      .next (((s.walkers (x.eng / 72)).filter fun y => y.walkPage == x.walkPage).foldl (fun u y => u.walkEnds r y) t) := by
  have result : s.translate (x.via (decide (0 < pl))).by_.die ((x.via (decide (0 < pl))).ctx.getD 0) (addrVa ad)
      (x.via (decide (0 < pl))).pre = (r, t) := walk
  simp only [exec, execTranslationWalkComplete, str, walks, served, result]
  rfl

section
variable (walks : x.phase = .walking pl ad)
include walks

theorem State.walkEnds_loads {en : Trans} (gives : u.walkGives r (x.via (decide (0 < pl))) ad = (.ok en, t)) :
    u.walkEnds r x = t.setStream x.eng x.n (some { x with phase := .running, ents := tput x.ents pl en }) := by
  simp only [State.walkEnds, walks, gives]

theorem State.walkEnds_stalls {g : Failure} (gives : u.walkGives r (x.via (decide (0 < pl))) ad = (.error g, t)) (ok : g.cause ≠ cEcc) :
    u.walkEnds r x = (t.stallKey (x.eng / 72) x.who g).2.setStream x.eng x.n
      (some { x with phase := .stalled (t.stallKey (x.eng / 72) x.who g).1 }) := by
  simp only [State.walkEnds, walks, gives, if_neg ok]

theorem State.walkEnds_fails {g : Failure} (gives : u.walkGives r (x.via (decide (0 < pl))) ad = (.error g, t)) (ecc : g.cause = cEcc) :
    u.walkEnds r x = (t.report (x.eng / 72) cEcc x.who g.addr g.detail none).setStream x.eng x.n none := by
  simp only [State.walkEnds, walks, gives, if_pos ecc, State.failStream]

end
end

/-! ### The completion -/

section
variable {s : State} {e n : Nat} {x : Stream}

theorem State.stream_num (str : s.stream e n = some x) : x.n = n := by
  simpa using List.find?_some str

section
variable (eng : e < 288) (str : s.stream e n = some x)
include eng str

theorem exec_completion_ends (num : n < 256) (moved : x.todo = []) (acked : ∀ i ∈ x.acks, ∀ r ∈ s.net.remotes, r.id ≠ i) :
    exec (.streamCompletion e n) s = .next (s.completeStream x) := by
  have ends : x.todo = [] ∧ n < 256 ∧ (x.acks.all fun i => s.net.remotes.all fun r => r.id != i) = true :=
    ⟨moved, num, by simpa using acked⟩
  simp only [exec, execStreamCompletion, if_neg (not_sequencer eng),
    if_neg (Nat.ne_of_lt eng), str, if_pos ends]

theorem exec_completion_waits (open_ : x.todo ≠ []) : exec (.streamCompletion e n) s = .next s := by
  simp only [exec, execStreamCompletion, if_neg (not_sequencer eng),
    if_neg (Nat.ne_of_lt eng), str, if_neg fun ends : x.todo = [] ∧ _ => open_ ends.1]

end

/-! What a completion sends leaves the engines and memory as they are. -/

theorem SameEng.stream {t : State} (same : SameEng s t) (e n : Nat) : t.stream e n = s.stream e n := by
  rw [State.stream, same.engine]
  rfl

/-- From `s` to `t` the engines and memory are the same. -/
def SameEngMem (s t : State) : Prop := SameEng s t ∧ t.mem = s.mem

namespace SameEngMem
variable {s t u : State}

theorem refl (s : State) : SameEngMem s s := ⟨.refl s, rfl⟩
theorem trans (h : SameEngMem s t) (k : SameEngMem t u) : SameEngMem s u := ⟨h.1.trans k.1, k.2.trans h.2⟩

theorem postDep (s : State) (l : List Nat) (i : Instr) : SameEngMem s (s.postDep l i) := ⟨rfl, rfl⟩

theorem noteSoft (s : State) (id : Nat) (keys : List Nat) (who : Origin) (scope : Nat) (deps : List Nat) :
    SameEngMem s (s.noteSoft id keys who scope deps) := ⟨State.noteSoft_eng .., State.noteSoft_mem ..⟩

theorem sendTile (s : State) (deps : List Nat) (e : Nat) (t : Token) (push : Bool) (str k : Nat) (remote : Option Word) (who : Origin) :
    SameEngMem s (s.sendTile deps e t push str k remote who) := by
  unfold State.sendTile
  split <;> exact postDep ..

theorem streamAdd (s : State) (x : Stream) (r : Word) : SameEngMem s (s.streamAdd x r) := by
  unfold State.streamAdd
  dsimp only
  split
  · exact postDep ..
  · exact (postDep ..).trans (noteSoft ..)

theorem awaitMore (s : State) (id k : Nat) : SameEngMem s (s.awaitMore id k) := by
  unfold State.awaitMore
  refine foldl_of_trans refl trans _ (fun d _ t => ?_) s
  dsimp only
  split <;> exact ⟨rfl, rfl⟩

end SameEngMem

/-- The state in which a stream that ends is gone, before its token and add leave. -/
def State.streamOver (s : State) (x : Stream) : State := (s.setStream x.eng x.n none).touch (x.eng / 72) x.who.ctx

/-- The completion token of a stream that ends leaves, behind the streams that an ORDJ joins to it (R241, R248). -/
def State.streamToken (s : State) (x : Stream) : State :=
  match x.q.comp with
  | some t =>
    if x.dropTok then s
    else s.sendTile (s.joinDeps x.who t) x.eng t x.q.push x.q.str (Nat.min x.q.k (s.consumerK t (x.who.inst.getD 256))) x.q.remote x.who
  | none => s

/-- The completion add of a stream that ends leaves (R227, R242). -/
def State.streamRod (s : State) (x : Stream) : State :=
  match x.q.rod with
  | some r => if x.dropAdd then s else (s.streamAdd x r).awaitMore x.id s.nextId
  | none => s

theorem State.completeStream_eq (s : State) (x : Stream) : s.completeStream x = ((s.streamOver x).streamToken x).streamRod x := rfl

theorem SameEngMem.streamToken (s : State) (x : Stream) : SameEngMem s (s.streamToken x) := by
  unfold State.streamToken
  split
  · split <;> [exact refl s; exact sendTile ..]
  · exact refl s

theorem SameEngMem.streamRod (s : State) (x : Stream) : SameEngMem s (s.streamRod x) := by
  unfold State.streamRod
  split
  · split <;> [exact refl s; exact (streamAdd ..).trans (awaitMore ..)]
  · exact refl s

theorem State.completeStream_same (s : State) (x : Stream) : SameEngMem (s.streamOver x) (s.completeStream x) :=
  (SameEngMem.streamToken ..).trans (SameEngMem.streamRod ..)

theorem State.stream_completeStream (s : State) (x : Stream) : (s.completeStream x).stream x.eng x.n = none :=
  ((s.completeStream_same x).1.stream ..).trans (State.stream_setStream_none ..)

theorem State.completeStream_mem (s : State) (x : Stream) : (s.completeStream x).mem = s.mem :=
  (s.completeStream_same x).2.trans (State.setStream_mem ..)

/-- The walkers that wait for a stream wait for what it has sent: nothing is put in flight or noted (R391). -/
theorem State.awaitMore_same (s : State) (id k : Nat) : (s.awaitMore id k).pend = s.pend ∧ (s.awaitMore id k).soft = s.soft := by
  unfold State.awaitMore
  refine foldl_of_trans (R := fun a b : State => b.pend = a.pend ∧ b.soft = a.soft) (fun _ => ⟨rfl, rfl⟩)
    (fun h k => ⟨k.1.trans h.1, k.2.trans h.2⟩) _ (fun d _ t => ?_) s
  dsimp only
  split <;> exact ⟨rfl, rfl⟩

theorem State.streamOver_pend (s : State) (x : Stream) : (s.streamOver x).pend = s.pend := State.setStream_pend ..

section
variable {r : Word}

theorem State.completeStream_add (quiet : x.q.comp = none) (rod : x.q.rod = some r) (kept : x.dropAdd = false) :
    s.completeStream x = ((s.streamOver x).streamAdd x r).awaitMore x.id (s.streamOver x).nextId := by
  simp only [State.completeStream_eq, State.streamToken, State.streamRod, quiet, rod, kept]
  rfl

/-- A completion add at SYSTEM scope goes behind what the pass of its stream did before; else it goes at once (R227). -/
theorem State.streamAdd_pend (s : State) (x : Stream) (r : Word) : (s.streamAdd x r).pend =
    s.pend ++ [⟨s.nextId, if x.q.scope = 4 then x.rel else [], .rodAddArrival ⟨r, x.q.rodHome, x.q.cadd, x.who, 0⟩⟩] := by
  unfold State.streamAdd
  dsimp only
  split
  · rfl
  · exact State.noteSoft_pend ..

/-- What an observer outside its scope sees after a completion add is noted (R222, R227). -/
theorem State.mem_soft_streamAdd (narrow : x.q.scope ≠ 4) (before : x.rel ≠ []) :
    ⟨s.nextId, rodKeys r x.q.rodHome, x.q.scope, x.who, x.rel⟩ ∈ (s.streamAdd x r).soft := by
  unfold State.streamAdd
  dsimp only
  rw [if_neg narrow, State.noteSoft, if_neg before]
  exact List.mem_append_right _ (List.mem_singleton_self _)

end

section
variable {tok : Token}

theorem State.completeStream_token (comp : x.q.comp = some tok) (quiet : x.q.rod = none) (kept : x.dropTok = false)
    (plain : x.q.push = false) (unit : tokUnit tok ≤ 71) : s.completeStream x =
      (s.streamOver x).postDep ((s.streamOver x).joinDeps x.who tok)
        (.tokenArrival (tokDie tok) (tokUnit tok) tok ⟨false, x.who.src⟩) := by
  simp only [State.completeStream_eq, State.streamToken, State.streamRod, comp, quiet, kept, State.sendTile, plain,
    State.sendToken_arrival (Or.inl unit)]
  rfl

/-- A token on its way is nothing that another token of its pass follows (R226, R248). -/
theorem State.joinDeps_postDep_token (s : State) (deps : List Nat) (die unit : Nat) (tok t : Token) (sent : Sender) (who : Origin) :
    (s.postDep deps (.tokenArrival die unit tok sent)).joinDeps who t = s.joinDeps who t := by
  have acq : (s.postDep deps (.tokenArrival die unit tok sent)).acqDeps who = s.acqDeps who :=
    (List.filterMap_append ..).trans (List.append_nil _)
  rw [State.joinDeps, acq, State.postDep_engine]
  rfl

end
end

theorem streamSteps : StreamSteps := by
  intro s e n x eng num str q gone
  refine ⟨fun p running waits done => ?_, fun pl ad walks => ?_, fun moved own acked => ?_, exec_completion_waits eng str⟩
  · have ready : ¬ (x.phase ≠ .running ∨ p ∉ x.todo ∨ s.depsDone x.deps = false ∨ 256 ≤ n) := by
      simp [running, waits, done, num]
    refine ⟨fun t => exec_chunkTransfer_moves eng str ready, fun pl ad => exec_chunkTransfer_misses eng str ready,
      fun f => exec_chunkTransfer_fails eng str ready, fun primal => ?_⟩
    intro row lo hi sc buf hs homes
    exact ⟨fun kind sound => State.pieceMove_ldt kind primal rfl rfl homes sound,
      fun kind sound => State.pieceMove_stt kind primal rfl rfl homes rfl rfl sound⟩
  · exact ⟨exec_walkComplete_waits str walks, fun r t => exec_walkComplete_ends str walks, fun u t r =>
      ⟨fun en => State.walkEnds_loads walks,
        fun g gives => ⟨State.walkEnds_stalls walks gives, State.walkEnds_fails walks gives⟩⟩⟩
  · subst own
    obtain rfl := State.stream_num str
    intro t
    refine ⟨exec_completion_ends eng str num moved acked, s.stream_completeStream x, s.completeStream_mem x,
      fun r quiet rod kept => ⟨(s.streamOver x).nextId, ?_⟩, fun tok comp quiet kept plain unit => ⟨(s.streamOver x).nextId, ?_⟩⟩
    · have sent : t = _ := State.completeStream_add quiet rod kept
      obtain ⟨pend, soft⟩ := ((s.streamOver x).streamAdd x r).awaitMore_same x.id (s.streamOver x).nextId
      rw [sent, pend, soft, State.streamAdd_pend, State.streamOver_pend]
      exact ⟨rfl, State.mem_soft_streamAdd⟩
    · have sent : t = _ := State.completeStream_token comp quiet kept plain unit
      rw [sent, State.joinDeps_postDep_token, State.postDep, State.streamOver_pend]
      rfl

/-- Settles O42: the buffer, and the steps of a stream, one lemma for each thing that a step can do. -/
theorem streamEvents : Obligations.StreamEvents := ⟨streamBuffer, streamSteps⟩

end Sys2Proof.Machine
end

section
/-!
LDT, STT, CLRM, REDT and RMT.STT, held as streams (R238, R240–R246, R252, R254).
-/
namespace Sys2Proof.Machine
open Sys2Proof Sys2Proof.Machine Sys2Proof.Cert

/-! ### The checks of a stream (R238) -/

section
variable {s : State} {v : Via} {paths paths' : List Nat} {al : Nat} {spans : List (Word × Nat)} {ad : Word}

/-- A span that raises nothing starts on one of the paths of its word (R216). -/
theorem State.streamFault_path (sound : s.streamFault v paths al spans = none) : addrPath (spans.headD (0, 1)).1 ∈ paths := by
  by_contra off
  simp only [State.streamFault, if_pos (Or.inl off)] at sound
  cases sound

/-- The paths that a word lets through matter only where the span starts. -/
theorem State.streamFault_mono (sub : paths ⊆ paths') (sound : s.streamFault v paths al spans = none) :
    s.streamFault v paths' al spans = none := by
  have on := State.streamFault_path sound
  rw [← sound]
  simp only [State.streamFault, on, sub on]

/-- No span that raises nothing starts on a path that its word does not let through. -/
theorem State.streamFault_off {path : Nat} (sound : s.streamFault v paths al spans = none) (starts : (spans.headD (0, 1)).1 = ad)
    (no : path ∉ paths) : addrPath ad ≠ path := by
  rintro rfl
  exact no (starts ▸ State.streamFault_path sound)

/-- A memory image starts at the address of its word (R245). -/
theorem rowSpans_starts (ad d : Word) (pitch rb : Nat) : ((rowSpans ad pitch rb (dRows d)).headD (0, 1)).1 = ad := by
  simp [rowSpans, dRows, List.range_succ_eq_map]

end

section
variable {s t : State} {e : Nat} {a : Active}

theorem State.streamDesc_eq_none {d : Word} {k : Nat} (sound : d ≠ 0 ∧ descFault (s.nmemOf e) d = none ∧
    tanFault (s.nmemOf e) (s.shadowStride e a.fr.op) k d = none) : s.streamDesc e a d k = none := by
  obtain ⟨tile, own, tangents⟩ := sound
  simp only [State.streamDesc, if_neg tile, own, tangents, Option.map_none]

/-- The completion rod that an extension word names, and its home: without CR there is none, else the rod has passed its check (R242). -/
def rodChecked (s : State) (e : Nat) (a : Active) (x r : Word) (rod : Option Word) (home : Nat) (t : State) : Prop :=
  x.getLsbD 35 = false ∧ rod = none ∧ home = 0 ∧ t = s ∨
    x.getLsbD 35 = true ∧ rod = some r ∧ s.checkRod ⟨.engine e, some a.fr.ctx⟩ .add r = (.ok home, t)

theorem State.compRod_of_checked {x r : Word} {rod : Option Word} {home : Nat} (checked : rodChecked s e a x r rod home t) :
    s.compRod e a x r = (.ok (rod, home), t) := by
  obtain ⟨no, rfl, rfl, rfl⟩ | ⟨names, rfl, found⟩ := checked
  · exact if_pos no
  · have named : ¬ extCr x = false := by simp [extCr, names]
    have check : s.checkRod (a.rodUser e) .add r = (.ok home, t) := found
    simp only [State.compRod, if_neg named, check]

end

/-! ### What a word with its checks passed holds (R240–R246) -/

/-- The stream that a word holds: the request `mk` of its kind with what every stream takes from its words and its pass (R240–R242). -/
def streamHeld (i : Instr) (f : FmtM) (x : Word) (s : State) (e : Nat) (a : Active) (rod : Option Word) (home : Nat)
    (mk : StreamReq) : Held :=
  { storeBase s a f with
    co := resultOut (some x),
    eff := .stream { mk with
      f := wordOf i, ext := x, addr := wordAddr s a f, str := s.shadowStride e a.fr.op, rod := rod, rodHome := home,
      cadd := (x.extractLsb' 3 32).toNat, acq := a.pass.acq, scope := actScope s a f } }

section
variable {i : Instr} {f : FmtM} {x : Word} {s t : State} {e sl : Nat} {a : Active} {q : Pass} {rod : Option Word} {home : Nat}
  (h : InPass s e sl a) (checked : rodChecked s e a x (a.pass.rd s.tick f.sb) rod home t)
include h checked

theorem streamWord_held {tile : Pass → Option Word} {fault : Nat → Active → Option Failure} {mk : Nat → Active → StreamReq}
    (sound : fault e a = none) (noted : resultNoted t e a (some x) (tile a.pass) q) :
    streamWord i f x s tile fault mk =
      .next (t.setPass e sl a ((q.useLsid f.lsid.toNat).hold (streamHeld i f x s e a rod home (mk e a)))) := by
  simp only [streamWord, memWord_pass h, sound, State.compRod_of_checked checked, State.coOut_of_noted noted]
  rfl

theorem tileStream_held {kind : StreamKind} {paths : List Nat} {acc : AccKind} {k : Active → Nat}
    {extra : Nat → Active → Word → Option Failure}
    (tile : s.streamDesc e a (a.pass.rd s.tick f.dv) (k a) = none) (own : extra e a (a.pass.rd s.tick f.dv) = none)
    (rows : s.streamFault (madeBy e a acc) paths 16 (rowSpans (wordAddr s a f) (extPitch x (a.pass.rd s.tick f.dv))
      (dRowBytes (a.pass.rd s.tick f.dv)) (dRows (a.pass.rd s.tick f.dv))) = none)
    (writable : ¬ (addrPath (wordAddr s a f) = 1 ∧ acc ≠ .sread))
    (noted : resultNoted t e a (some x) (if kind = .ldt then some (a.pass.rd s.tick f.dv) else none) q) :
    tileStream i f x s kind paths acc k extra =
      .next (t.setPass e sl a ((q.useLsid f.lsid.toNat).hold (streamHeld i f x s e a rod home
        { kind := kind, desc := a.pass.rd s.tick f.dv, pitch := extPitch x (a.pass.rd s.tick f.dv), k := k a,
          planes := decide (1 ≤ a.pass.kp) }))) := by
  refine streamWord_held h checked ?_ noted
  have image : s.streamFault (a.via e acc) paths 16 (rowSpans (a.pass.memAddr s.tick f) (extPitch x (a.pass.rd s.tick f.dv))
      (dRowBytes (a.pass.rd s.tick f.dv)) (dRows (a.pass.rd s.tick f.dv))) = none := rows
  simp only [tile, own, image]
  exact if_neg writable

/-- A CLRM holds its stream where its length is legal and its bytes can be written (R246). -/
theorem exec_clrm_held (lines : (a.pass.rd s.tick f.dv).toNat % 64 = 0) (some_bytes : a.pass.rd s.tick f.dv ≠ 0)
    (most : (a.pass.rd s.tick f.dv).toNat ≤ 2 ^ 32)
    (bytes : s.streamFault (madeBy e a .swrite) [0x0, 0x2, 0x8, 0x9, 0xA, 0xB] 64
      [(wordAddr s a f, (a.pass.rd s.tick f.dv).toNat)] = none)
    (noted : resultNoted t e a (some x) none q) :
    exec (.clrm f x) s =
      .next (t.setPass e sl a ((q.useLsid f.lsid.toNat).hold (streamHeld (.clrm f x) f x s e a rod home
        { kind := .clrm, desc := a.pass.rd s.tick f.dv, planes := decide (1 ≤ a.pass.kp),
          k := if 1 ≤ a.pass.kp ∨ addrPath (wordAddr s a f) = 0xA ∨ addrPath (wordAddr s a f) = 0xB
            then a.pass.kfire else 0 }))) := by
  refine streamWord_held (tile := fun _ => none) h checked ?_ noted
  have legal : ¬ ((a.pass.rd s.tick f.dv).toNat % 64 ≠ 0 ∨ (a.pass.rd s.tick f.dv).toNat = 0 ∨
      2 ^ 32 < (a.pass.rd s.tick f.dv).toNat) := by
    have : (a.pass.rd s.tick f.dv).toNat ≠ 0 := fun zero => some_bytes (BitVec.eq_of_toNat_eq zero)
    omega
  have span : s.streamFault (a.via e .swrite) [0x0, 0x1, 0x2, 0x8, 0x9, 0xA, 0xB] 64
      [(a.pass.memAddr s.tick f, (a.pass.rd s.tick f.dv).toNat)] = none := State.streamFault_mono (by decide) bytes
  have writable : addrPath (a.pass.memAddr s.tick f) ≠ 1 := State.streamFault_off bytes rfl (by decide)
  simp only [if_neg legal, span, if_neg writable]

end

/-- The operations of a REDT and the formats that they combine (R252). -/
theorem redtFmtOk_of_pair {aop fmt : Nat} (pair : aop ∈ [9, 10, 11] ∧ fmt ≤ 3 ∨ aop ∈ [0, 4, 5] ∧ fmt = 8) :
    redtFmtOk aop fmt = true := by
  simp only [List.mem_cons, List.not_mem_nil, or_false] at pair
  unfold redtFmtOk
  obtain ⟨floating, narrow⟩ | ⟨integer, rfl⟩ := pair
  · rw [if_pos floating, decide_eq_true narrow]
  · rw [if_neg (by omega)]
    rfl

/-- Every row of an RMT.STT starts and ends at a rank that the launch's group has (R217). -/
theorem findSome?_rankFault {s : State} {a : Active} {rows : List (Word × Nat)}
    (ranks : ∀ r ∈ rows, s.rankFault a r.1 = none ∧ s.rankFault a (r.1 + BitVec.ofNat 64 (r.2 - 1)) = none) :
    (rows.findSome? fun (r, n) => (s.rankFault a r).or (s.rankFault a (r + BitVec.ofNat 64 (n - 1)))) = none := by
  refine List.findSome?_eq_none_iff.mpr fun r mem => ?_
  obtain ⟨first, last⟩ := ranks r mem
  exact Option.or_eq_none_iff.mpr ⟨first, last⟩

section
variable (f : FmtM) (x : Word) (s : State)

theorem exec_ldt : exec (.ldt f x) s = tileStream (.ldt f x) f x s .ldt [0x0, 0x1, 0x2, 0x8, 0x9] .sread (fun a => a.pass.kfire)
    fun _ _ _ => none := rfl

theorem exec_stt : exec (.stt f x) s = tileStream (.stt f x) f x s .stt [0x0, 0x1, 0x2, 0x8, 0x9] .swrite (fun a => a.pass.kp)
    fun _ _ _ => none := rfl

theorem exec_rmtStt : exec (.rmtStt f x) s = tileStream (.rmtStt f x) f x s .rmtStt [0x3] .swrite (fun a => a.pass.kp) fun _ a d =>
    if addrPath (wordAddr s a f) ≠ 3 then none
    else (rowSpans (wordAddr s a f) (extPitch x d) (dRowBytes d) (dRows d)).findSome? fun (r, n) =>
      (s.rankFault a r).or (s.rankFault a (r + BitVec.ofNat 64 (n - 1))) := rfl

theorem exec_redt : exec (.redt f x) s = tileStream (.redt f x) f x s .redt [0x0, 0x1, 0x2, 0x8, 0x9, 0xA, 0xB] .atomic
    (fun a => if f.aop = 9 then a.pass.kp else 0) fun _ a d =>
      if redtFmtOk f.aop.toNat (dFmt d) = false ∨ dGs d ≠ 0 then some (plain cDesc)
      else if addrPath (wordAddr s a f) = 2 ∧ fieldsOk (wordAddr s a f) ∧ (wordAddr s a f).toNat % 16 = 0
        then some ⟨cSysatom, wordAddr s a f, 0⟩ else none := rfl

end

/-- Settles O29: what every stream shares is said once, and each word adds its own checks. -/
theorem streamWords : Obligations.StreamWords := by
  intro f x s e sl a h p ad d pitch rows mem dual streams desc
  refine ⟨?ldt, ?stt, ?rmtStt, ?redt, ?clrm⟩
  case ldt =>
    intro rod home t q ⟨tile, image⟩ checked noted
    exact (exec_ldt f x s).trans
      (tileStream_held h checked (State.streamDesc_eq_none tile) rfl image (fun bad => bad.2 rfl) noted)
  case stt =>
    intro rod home t q ⟨tile, image, writable⟩ checked noted
    exact (exec_stt f x s).trans
      (tileStream_held h checked (State.streamDesc_eq_none tile) rfl image (fun bad => writable bad.1) noted)
  case rmtStt =>
    intro rod home t q ⟨tile, ranks, image⟩ checked noted
    have remote : addrPath ad = 3 := by
      by_contra other
      exact State.streamFault_off image (rowSpans_starts ..) (mt List.mem_singleton.mp other) rfl
    refine (exec_rmtStt f x s).trans (tileStream_held h checked (State.streamDesc_eq_none tile) ?_ image
      (fun bad => absurd (remote.symm.trans bad.1) (by decide)) noted)
    exact (if_neg (not_not.mpr remote)).trans (findSome?_rankFault ranks)
  case redt =>
    intro k rod home t q ⟨tile, plain, pair, image⟩ checked noted
    have notSystem : addrPath ad ≠ 2 := State.streamFault_off image (rowSpans_starts ..) (by decide)
    have notConst : addrPath ad ≠ 1 := State.streamFault_off image (rowSpans_starts ..) (by decide)
    have combines : ¬ (redtFmtOk f.aop.toNat (dFmt d) = false ∨ dGs d ≠ 0) := by simp [redtFmtOk_of_pair pair, plain]
    refine (exec_redt f x s).trans (tileStream_held h checked (State.streamDesc_eq_none tile) ?_
      (State.streamFault_mono (by decide) image) (fun bad => notConst bad.1) noted)
    exact (if_neg combines).trans (if_neg fun system => notSystem system.1)
  case clrm =>
    intro rod home t q ⟨lines, some_bytes, most, bytes⟩ checked noted
    exact exec_clrm_held h checked lines some_bytes most bytes noted

end Sys2Proof.Machine
end

section
/-!
The invariant of the control cores (R257, R260, R277, R450): what leaves it alone, what updates of a core keep it, and the moves of a core.
-/
namespace Sys2Proof.Machine
open Sys2Proof Sys2Proof.Machine Sys2Proof.Cert

/-! ### Multiples of 8 (R257) -/

theorem add_toNat_mod_eight {a b : Word} (ha : a.toNat % 8 = 0) (hb : b.toNat % 8 = 0) : (a + b).toNat % 8 = 0 := by
  rw [BitVec.toNat_add]; omega

theorem eight_mul_toNat_mod_eight (a : Word) : (8 * a).toNat % 8 = 0 := by
  rw [BitVec.toNat_mul, show (8 : Word).toNat = 8 from rfl]; omega

theorem branchTo_mod_eight {pc : Word} (h : pc.toNat % 8 = 0) (off : BitVec 35) : (branchTo pc off).toNat % 8 = 0 :=
  add_toNat_mod_eight h (eight_mul_toNat_mod_eight _)

theorem pcOf_mod_eight (a : Word) : (pcOf a).toNat % 8 = 0 := by
  rw [pcOf, BitVec.toNat_and, Nat.and_mod_two_pow (n := 3), show (~~~7 : Word).toNat % 2 ^ 3 = 0 from by decide, Nat.and_zero]

/-! ### The invariant, core by core -/

/-- What the invariant asks of the registers of one core. -/
structure CoreState.Sound (c : CoreState) : Prop where
  pc : c.pc.toNat % 8 = 0
  npc : c.npc.toNat % 8 = 0
  asel : c.csr.asel.toNat ≤ 64

/-- The invariant of the cores, with names. -/
structure CoresSound (s : State) : Prop where
  wf : Memory.wf s.mem = true
  core : ∀ d, d < 4 → (s.core d).Sound
  halt : ∀ d, d < 4 → s.root.halt.getLsbD d = (s.core d).halted

theorem coreInv_iff {s : State} : coreInv s ↔ CoresSound s :=
  ⟨fun ⟨wf, cores⟩ => ⟨wf,
      fun d hd => have ⟨pc, npc, asel, _⟩ := cores d hd; ⟨pc, npc, asel⟩,
      fun d hd => have ⟨_, _, _, halt⟩ := cores d hd; halt⟩,
    fun h => ⟨h.wf, fun d hd => ⟨(h.core d hd).pc, (h.core d hd).npc, (h.core d hd).asel, h.halt d hd⟩⟩⟩

/-- The fields of a core that the invariant speaks of. -/
def CoreState.view (c : CoreState) : Word × Word × Word × Bool := (c.pc, c.npc, c.csr.asel, c.halted)

/-- From `s` to `t` the cores keep what the invariant speaks of, the agent that moves is the same, memory keeps its form, and the
kernels are as they were. -/
structure KeepsCores (s t : State) : Prop where
  core : ∀ d, (t.core d).view = (s.core d).view
  root : t.root = s.root
  cur : t.cur = s.cur
  wf : Memory.wf s.mem = true → Memory.wf t.mem = true
  kernels : t.cp.kernels = s.cp.kernels

theorem CoresSound.kept {s t : State} (h : CoresSound s) (k : KeepsCores s t) : CoresSound t := by
  have same : ∀ d, _ := fun d => by simpa only [CoreState.view, Prod.mk.injEq] using k.core d
  refine ⟨k.wf h.wf, fun d hd => ?_, fun d hd => ?_⟩ <;> obtain ⟨pc, npc, asel, halted⟩ := same d
  · have sound := h.core d hd
    exact ⟨pc ▸ sound.pc, npc ▸ sound.npc, asel ▸ sound.asel⟩
  · rw [k.root, h.halt d hd, halted]

namespace KeepsCores
variable {s t u : State}

theorem refl (s : State) : KeepsCores s s := ⟨fun _ => rfl, rfl, rfl, id, rfl⟩

theorem trans (h : KeepsCores s t) (k : KeepsCores t u) : KeepsCores s u :=
  ⟨fun d => (k.core d).trans (h.core d), k.root.trans h.root, k.cur.trans h.cur, fun w => k.wf (h.wf w),
    k.kernels.trans h.kernels⟩

theorem of_dies (d : t.dies = s.dies) (r : t.root = s.root) (c : t.cur = s.cur) (m : t.mem = s.mem)
    (k : t.cp.kernels = s.cp.kernels) : KeepsCores s t :=
  ⟨fun n => by rw [State.core, State.die, d]; rfl, r, c, fun w => m ▸ w, k⟩

theorem foldl {α : Type} {f : State → α → State} (l : List α) (h : ∀ t a, KeepsCores t (f t a)) (s : State) :
    KeepsCores s (l.foldl f s) := foldl_of_trans KeepsCores.refl KeepsCores.trans l (fun a _ t => h t a) s

theorem each {f : Nat → State → State} (l : List Nat) (h : ∀ n t, KeepsCores t (f n t)) (s : State) : KeepsCores s (s.each l f) :=
  foldl l (fun t n => h n t) s

theorem setDie {d : Nat} {x : Die} (h : x.core.view = (s.core d).view) : KeepsCores s (s.setDie d x) := by
  refine ⟨fun a => ?_, rfl, rfl, id, rfl⟩
  by_cases e : d = a
  · subst e; rw [State.core_setDie]; exact h
  · rw [State.core_setDie_ne _ _ _ _ e]

theorem setCore {d : Nat} {c : CoreState} (h : c.view = (s.core d).view) : KeepsCores s (s.setCore d c) := setDie h
theorem setUnits (s : State) (d : Nat) (x : DieUnits) : KeepsCores s (s.setUnits d x) := setDie rfl
theorem setEngine (s : State) (e : Nat) (x : Engine) : KeepsCores s (s.setEngine e x) := of_dies rfl rfl rfl rfl rfl
theorem postDep (s : State) (l : List Nat) (i : Instr) : KeepsCores s (s.postDep l i) := of_dies rfl rfl rfl rfl rfl
theorem wrBytes (s : State) (h : Nat) (bs : List Byte) : KeepsCores s (s.wrBytes h bs) :=
  ⟨fun _ => rfl, rfl, rfl, memory_wf_wrBytes s h bs, rfl⟩

/-! #### What a write wakes -/

theorem acquireAt (s : State) (c q : Nat) : KeepsCores s (s.acquireAt c q).2 := by
  unfold State.acquireAt
  repeat' split
  all_goals exact of_dies rfl rfl rfl rfl rfl

theorem acquireEach (l : List Active) (s : State) : KeepsCores s (s.acquireEach l).2 := by
  induction l generalizing s with
  | nil => exact refl s
  | cons a r ih => exact (acquireAt ..).trans (ih _)

theorem endWaits (s : State) (e : Nat) (p : Active → Bool) (k : List Nat) : KeepsCores s (s.endWaits e p k) := by
  unfold State.endWaits
  split
  · exact refl s
  · exact (acquireEach _ s).trans (setEngine ..)

theorem wakeWaiters (s : State) (k : Nat) (v : Word) : KeepsCores s (s.wakeWaiters k v) := by
  unfold State.wakeWaiters
  dsimp only
  refine trans (each _ (fun d t => ?_) s) (of_dies rfl rfl rfl rfl rfl)
  exact setDie rfl

theorem wakePasses (s : State) (k : Nat) (l : List Nat) (v : Word) : KeepsCores s (s.wakePasses k l v) :=
  (each _ (fun _ _ => endWaits ..) _).trans (wakeWaiters ..)

theorem wakePorts (s : State) (p : Word → Bool) (v : Word) : KeepsCores s (s.wakePorts p v) :=
  (each _ (fun _ _ => setEngine ..) s).trans (each _ (fun _ _ => setUnits ..) _)

theorem notify (s : State) (hs : List Nat) : KeepsCores s (s.notify hs) := by
  have unit : ∀ (u : State) d n h w, KeepsCores u (u.notifyUnit d n h w) := fun u d n h w => by
    unfold State.notifyUnit
    dsimp only
    have woken := ((setUnits u d { u.units d with watch := tset {} (u.units d).watch n { w with last := u.rdWord h } }).trans
      (wakePasses _ (2 ^ 64 + h) (byteKeys (homes8 h)) (u.rdWord h))).trans
      (wakePorts _ (fun x => wwKind x == 3 && wwDie x == d && wwIndex x == n) (u.rdWord h))
    split
    · exact woken
    · exact woken.trans (setUnits ..)
  unfold State.notify
  refine foldl _ (fun t x => foldl _ (fun u y => ?_) t) s
  dsimp only
  split
  · split
    · split <;> [exact unit ..; exact refl _]
    · exact refl _
  · exact refl _

theorem storeHomes (s : State) (hs : List Nat) (bs : List Byte) : KeepsCores s (s.storeHomes hs bs) :=
  (foldl _ (fun _ _ => wrBytes ..) s).trans (notify ..)

/-! #### Translation -/

theorem translate (s : State) (d c va : Nat) (pre : List PreByte) : KeepsCores s (s.translate d c va pre).2 := by
  unfold State.translate
  dsimp only
  repeat' split
  case h_2.isFalse => exact setUnits ..
  all_goals exact refl s

theorem setDirty (s : State) (d c : Nat) (t : Trans) : KeepsCores s (s.setDirty d c t) := by
  unfold State.setDirty
  split
  · exact refl s
  · dsimp only
    split
    · exact ((wrBytes ..).trans (setUnits ..)).trans (postDep ..)
    · exact (wrBytes ..).trans (setUnits ..)

theorem byteHome (s : State) (v : Via) (a : Word) : KeepsCores s (s.byteHome v a).2 := by
  unfold State.byteHome
  dsimp only
  split
  case h_5 =>
    split
    · repeat' split
      all_goals exact refl s
    · next c _ =>
      have walked := translate s v.by_.die c (addrVa a) (s.walkPre v)
      split
      · next h => rw [h] at walked; exact walked
      · next h =>
        rw [h] at walked
        split
        · exact walked
        · show KeepsCores s (if _ then _ else _)
          split
          · exact walked.trans (setDirty ..)
          · exact walked
  all_goals
    repeat' split
    all_goals exact refl s

theorem byteHomes (s : State) (v : Via) (a : Word) (n : Nat) : KeepsCores s (s.byteHomes v a n).2 := by
  induction n generalizing s a with
  | zero => exact refl s
  | succ n ih =>
    have first := byteHome s v a
    rw [State.byteHomes]
    split
    · next h => rw [h] at first; exact first
    · next t h =>
      rw [h] at first
      have rest := ih t (a + 1)
      split <;> next k => rw [k] at rest; exact first.trans rest

theorem resolve (s : State) (v : Via) (ps : List Nat) (a : Word) (n : Nat) (al : Bool) :
    KeepsCores s (s.resolve v ps a n al).2 := by
  unfold State.resolve
  dsimp only
  repeat' split
  case isFalse.isFalse.isFalse => exact byteHomes ..
  all_goals exact refl s

/-- The state that an access of memory ends in, whether it succeeds or not. -/
theorem of_resolve {v : Via} {ps : List Nat} {a : Word} {n : Nat} {al : Bool} {r : Except Failure (List Nat)}
    (h : s.resolve v ps a n al = (r, t)) : KeepsCores s t := by
  have k := resolve s v ps a n al
  rwa [h] at k

/-! #### The turn of an event -/

theorem afresh (s : State) (i : Instr) : KeepsCores s (s.afresh i) := by
  unfold State.afresh
  split
  · exact each _ (fun _ _ => setUnits ..) s
  · exact refl s

theorem noted (s : State) (i : Instr) : KeepsCores s (s.noted i) :=
  of_dies (State.noted_dies ..) (State.noted_root ..) (State.noted_cur ..) (State.noted_mem ..)
    (congrArg Cp.kernels (State.noted_cp ..))

/-! #### The accesses of a core (R264) -/

theorem coreAcquired (s : State) (d acq : Nat) (keys : List Nat) : KeepsCores s (s.coreAcquired d acq keys) := by
  unfold State.coreAcquired
  dsimp only
  split
  · exact refl s
  · exact (acquireAt ..).trans (setCore rfl)

theorem noteSoft (s : State) (id : Nat) (keys : List Nat) (who : Origin) (scope : Nat) (deps : List Nat) :
    KeepsCores s (s.noteSoft id keys who scope deps) :=
  of_dies (State.noteSoft_dies ..) (State.noteSoft_root ..) (State.noteSoft_cur ..) (State.noteSoft_mem ..)
    (congrArg Cp.kernels (State.noteSoft_cp ..))

theorem corePost (s : State) (d : Nat) (hs : List Nat) (bs : List Byte) (release : Bool) (scope : Nat) :
    KeepsCores s (s.corePost d hs bs release scope) := by
  unfold State.corePost
  exact ((postDep ..).trans (noteSoft ..)).trans (setCore rfl)

theorem coreRead (s : State) (d : Nat) (a : Word) (n acq : Nat) : KeepsCores s (s.coreRead d a n acq).2 := by
  unfold State.coreRead
  split
  · next h => exact of_resolve h
  · next h => repeat' split
              all_goals exact of_resolve h

theorem fetchWord (s : State) (d : Nat) (a : Word) : KeepsCores s (s.fetchWord d a).2 := by
  unfold State.fetchWord
  split
  · exact refl s
  · split
    · next h => exact of_resolve h
    · next h => repeat' split
                all_goals exact of_resolve h

theorem of_coreRead {d : Nat} {a : Word} {n acq : Nat} {r : Except Failure (List Nat × List Byte)}
    (h : s.coreRead d a n acq = (r, t)) : KeepsCores s t := by
  have k := coreRead s d a n acq
  rwa [h] at k

theorem of_fetchWord {d : Nat} {a : Word} {r : Except Failure Word} (h : s.fetchWord d a = (r, t)) : KeepsCores s t := by
  have k := fetchWord s d a
  rwa [h] at k

end KeepsCores

/-! ### Updates of a core -/

namespace CoresSound
variable {s : State} {d : Nat}

/-- A core takes other registers that are sound, and is halted or not as it was. -/
theorem setDie (h : CoresSound s) {x : Die} (hx : (s.core d).Sound → x.core.Sound) (hh : x.core.halted = (s.core d).halted) :
    CoresSound (s.setDie d x) := by
  refine ⟨h.wf, fun a ha => ?_, fun a ha => ?_⟩ <;> by_cases e : d = a
  · subst e; rw [State.core_setDie]; exact hx (h.core d ha)
  · rw [State.core_setDie_ne _ _ _ _ e]; exact h.core a ha
  · subst e; rw [State.core_setDie, hh]; exact h.halt d ha
  · rw [State.core_setDie_ne _ _ _ _ e]; exact h.halt a ha

theorem setCore (h : CoresSound s) {c : CoreState} (hc : (s.core d).Sound → c.Sound) (hh : c.halted = (s.core d).halted) :
    CoresSound (s.setCore d c) := setDie h hc hh

/-- HALT shows a core that halts (R277, R450). -/
theorem haltCore (h : CoresSound s) (d : Nat) : CoresSound (s.haltCore d) := by
  have core : ∀ a, (s.haltCore d).core a = (s.setCore d { s.core d with halted := true }).core a := fun a => rfl
  have halt : ∀ a, a < 4 → (s.haltCore d).root.halt.getLsbD a = (s.root.halt.getLsbD a || decide (d = a)) := fun a ha => by
    rw [show (s.haltCore d).root.halt = s.root.halt ||| BitVec.ofNat 4 (2 ^ d) from rfl, BitVec.getLsbD_or, BitVec.getLsbD_ofNat,
      Nat.testBit_two_pow, decide_eq_true ha, Bool.true_and]
  refine ⟨h.wf, fun a ha => ?_, fun a ha => ?_⟩ <;> by_cases e : d = a
  · subst e; rw [core, State.core_setCore]; exact ⟨(h.core d ha).pc, (h.core d ha).npc, (h.core d ha).asel⟩
  · rw [core, State.core_setCore_ne _ _ _ _ e]; exact h.core a ha
  · subst e; rw [core, State.core_setCore, halt d ha, decide_eq_true rfl, Bool.or_true]
  · rw [core, State.core_setCore_ne _ _ _ _ e, halt a ha, decide_eq_false e, Bool.or_false]; exact h.halt a ha

/-- An exception, whatever it saves (R277). -/
theorem exception (h : CoresSound s) (d : Nat) (pc xc v : Word) : CoresSound (s.exception d pc xc v) := by
  unfold State.exception
  dsimp only
  split
  · exact h.haltCore d
  · split
    · refine haltCore (h.kept ?_) d
      exact .setCore rfl
    · refine setCore (h.kept ?_) (fun sound => ⟨pcOf_mod_eight _, sound.npc, sound.asel⟩) rfl
      exact .setCore rfl

theorem coreFault (h : CoresSound s) (d n : Nat) (v : Word) : CoresSound (s.coreFault d n v) := h.exception ..

end CoresSound
end Sys2Proof.Machine
end

section
/-!
The moves of a core keep the invariant of the cores: what the words and events of a core do (R257–R267, R276–R278), and what a core moves
next (R257, R262, R268, R276, R277).
-/
namespace Sys2Proof.Machine
open Sys2Proof Sys2Proof.Machine Sys2Proof.Cert

/-! ### The words and events of a core -/

/-- Whatever state the outcome is, it meets the invariant. -/
def KeepsSound (o : Host.Outcome State Fault Refusal) : Prop := ∀ t, o = .next t → CoresSound t

theorem keepsSound_next {t : State} (h : CoresSound t) : KeepsSound (.next t) := fun _ e => by injection e with e; exact e ▸ h

theorem CoreCsr.write_asel (c : CoreCsr) (n : Nat) (v : Word) (h : c.asel.toNat ≤ 64) : (c.write n v).asel.toNat ≤ 64 := by
  unfold CoreCsr.write
  split
  case h_9 =>
    split
    · assumption
    · exact h
  all_goals exact h

namespace CoresSound
section
variable {s : State} {d : Nat} (h : CoresSound s)
include h

/-- A core goes on to its next word. -/
theorem goOn {c : CoreState} (hc : c.view = (s.core d).view) : CoresSound (s.setCore d c.adv) := by
  simp only [CoreState.view, Prod.mk.injEq] at hc
  obtain ⟨-, npc, asel, halted⟩ := hc
  have next : (s.core d).Sound → c.npc.toNat % 8 = 0 := fun sound => npc ▸ sound.npc
  exact h.setCore (fun sound => ⟨next sound, next sound, asel ▸ sound.asel⟩) halted

/-- A word that writes a register of its core and goes on to the next word. -/
theorem writes (r : Spec) (v : Word) : CoresSound (s.setCore d ((s.core d).wr r v).adv) := h.goOn (by simp [CoreState.view])

/-- A return from an exception or a record (R278). -/
theorem eret (w : Word) : CoresSound (s.eret d w) := by
  unfold State.eret
  dsimp only
  split
  · exact h.coreFault ..
  · split
    · exact h.setCore (fun sound => ⟨pcOf_mod_eight _, sound.npc, sound.asel⟩) rfl
    · split
      · exact h.setDie (fun sound => ⟨pcOf_mod_eight _, sound.npc, sound.asel⟩) rfl
      · exact h.coreFault ..

/-- The delivery of a record (R276). -/
theorem deliverRecord (d : Nat) : CoresSound (s.deliverRecord d) := by
  cases head : (s.die d).trapq with
  | nil => rw [State.deliverRecord, head]; exact h
  | cons r l =>
    by_cases user : s.toHandler r
    · obtain ⟨n, of, -⟩ := id user
      rw [State.deliverRecord_user head user of]
      exact h.setCore (fun sound => ⟨pcOf_mod_eight _, sound.npc, sound.asel⟩) rfl
    · rw [State.deliverRecord_supervisor head user]
      split
      · exact h.haltCore d
      · exact h.setCore (fun sound => ⟨pcOf_mod_eight _, sound.npc, sound.asel⟩) rfl

/-- The end of a load (R263). -/
theorem loads (r : Spec) (acq : Nat) (hs : List Nat) (v : Word) : CoresSound ((s.setCore d
    { ((s.core d).wr r v).adv with pre := forget (s.core d).pre hs }).coreAcquired d acq (byteKeys hs)) :=
  (h.goOn (c := { (s.core d).wr r v with pre := forget (s.core d).pre hs }) (by simp [CoreState.view])).kept (.coreAcquired ..)

/-- The end of a store (R263). -/
theorem stored (acq : Nat) : CoresSound ((s.setCore d (s.core d).adv).coreAcquired d acq []) := (h.goOn rfl).kept (.coreAcquired ..)

/-- A word that waits where it is (R264). -/
theorem coreAgain (i : Instr) : CoresSound (s.coreAgain d i) := h.kept (.setCore rfl)

end
end CoresSound

section
variable {s : State} {d : Nat} (h : CoresSound s) (hc : s.cur = .core d)
include h hc

theorem scalarWord_keepsSound (i : Instr) (f : FmtA) (g : Word → Word → Word → Word) : KeepsSound (scalarWord i f s g) := by
  unfold scalarWord
  rw [hc]
  exact keepsSound_next (h.writes ..)

theorem copyWord_keepsSound (i : Instr) (f : FmtA) (pick : Word → Word → Word → Bool) : KeepsSound (copyWord i f s pick) := by
  unfold copyWord
  rw [hc]
  exact keepsSound_next (h.writes ..)

theorem li_keepsSound (f : FmtB) (x : Option Word) : KeepsSound (execLi f x s) := by
  unfold execLi
  rw [hc]
  exact keepsSound_next (h.writes ..)

theorem csrWord_keepsSound (i : Instr) (f : FmtCS) (new : Option (Word → Word → Word)) : KeepsSound (csrWord i f s new) := by
  rw [csrWord, onCore_core _ _ _ _ hc]
  apply keepsSound_next
  dsimp only
  split
  · exact h.coreFault ..
  · split
    · exact h.coreFault ..
    · split
      · exact h.writes ..
      · split
        · exact h.coreFault ..
        · refine h.setCore (fun sound => ⟨?_, ?_, CoreCsr.write_asel _ _ _ sound.asel⟩) (by simp [CoreState.adv])
          all_goals simpa [CoreState.adv] using sound.npc

theorem branch_keepsSound (f : FmtCB) : KeepsSound (execBr f s) := by
  rw [execBr, onCore_core _ _ _ _ hc]
  apply keepsSound_next
  split
  · exact h.setCore (fun sound => ⟨branchTo_mod_eight sound.pc _, sound.npc, sound.asel⟩) rfl
  · exact h.goOn rfl

theorem jal_keepsSound (f : FmtCJ) : KeepsSound (execJal f s) := by
  rw [execJal, onCore_core _ _ _ _ hc]
  refine keepsSound_next (h.setCore (fun sound => ⟨branchTo_mod_eight sound.pc _, ?_, ?_⟩) (by simp))
  · simpa using sound.npc
  · simpa using sound.asel

theorem jalr_keepsSound (f : FmtCJ) : KeepsSound (execJalr f s) := by
  rw [execJalr, onCore_core _ _ _ _ hc]
  apply keepsSound_next
  dsimp only
  split
  · exact h.coreFault ..
  · next aligned =>
    refine h.setCore (fun sound => ⟨not_not.mp aligned, ?_, ?_⟩) (by simp)
    · simpa using sound.npc
    · simpa using sound.asel

theorem ld_keepsSound (f : FmtCM) : KeepsSound (execLd f s) := by
  rw [execLd, onCore_core _ _ _ _ hc]
  apply keepsSound_next
  dsimp only
  split
  · exact h.coreAgain _
  · split
    · split
      · exact h.coreFault ..
      · exact h.loads ..
    · split
      · next e => exact (h.kept (.of_coreRead e)).coreFault ..
      · next e => exact (h.kept (.of_coreRead e)).loads ..

theorem st_keepsSound (f : FmtCM) (memory : addrPath (cmAddr f (s.core d)) ≠ 0xF) : KeepsSound (execSt f s) := by
  rw [execSt, onCore_core _ _ _ _ hc]
  apply keepsSound_next
  dsimp only
  rw [if_neg memory]
  split
  · exact h.coreAgain _
  · split
    · exact h.coreFault ..
    · next e =>
      have homes := h.kept (.of_resolve e)
      split
      · exact (homes.kept (.storeHomes ..)).stored _
      · split
        · exact (homes.kept (.corePost ..)).stored _
        · exact (homes.kept (.foldl _ (fun _ _ => .corePost ..) _)).stored _

theorem wfe_keepsSound (f : FmtCG) : KeepsSound (execWfe f s) := by
  rw [execWfe, onSup, onCore_core _ _ _ _ hc]
  apply keepsSound_next
  split
  · exact h.setCore (fun sound => ⟨sound.npc, sound.npc, sound.asel⟩) rfl
  · exact h.coreFault ..

/-- Everything that `coreOwn` lists keeps the invariant, a fault at decode where it is that of a core. -/
theorem exec_keepsSound {i : Instr} (own : coreOwn (s.core d) i = true)
    (decode : ∀ g n w, i = .wordDecodeFault g n w → ∃ a, g = .core a) : KeepsSound (exec i s) := by
  unfold exec
  unfold coreOwn at own
  cases i
  case add | sub | mul | mulh | mulhu | divu | remu | and | or | xor | andn | shl | shr | sra | min | max | minu | maxu | cmp |
    clz | popc | bfx | bfi => exact scalarWord_keepsSound h hc _ _ _
  case sel | mov => exact copyWord_keepsSound h hc _ _ _
  case li f x => exact li_keepsSound h hc f x
  case csrr | csrw | csrs | csrc => exact csrWord_keepsSound h hc _ _ _
  case br f => exact branch_keepsSound h hc f
  case jal f => exact jal_keepsSound h hc f
  case jalr f => exact jalr_keepsSound h hc f
  case ld f => exact ld_keepsSound h hc f
  case st f => exact st_keepsSound h hc f (bne_iff_ne.mp own)
  case wfe f => exact wfe_keepsSound h hc f
  case trapc f =>
    show KeepsSound (execTrapc f s)
    rw [execTrapc, onCore_core _ _ _ _ hc]
    exact keepsSound_next (h.exception ..)
  case eret f =>
    show KeepsSound (execEret f s)
    rw [execEret, onCore_core _ _ _ _ hc]
    exact keepsSound_next (h.eret _)
  case trapDelivery a =>
    refine keepsSound_next ?_
    split
    · exact h.deliverRecord a
    · exact h
  case handlerTimeout a =>
    show KeepsSound (execHandlerTimeout a s)
    unfold execHandlerTimeout
    split
    · exact keepsSound_next ((h.exception ..).kept (.setCore rfl))
    · exact keepsSound_next h
  case wordDecodeFault g n w =>
    obtain ⟨a, rfl⟩ := decode g n w rfl
    exact keepsSound_next (h.coreFault ..)
  all_goals exact absurd own Bool.false_ne_true

end

/-! ### What a core moves next -/

/-- A move of core `d`: a state that meets the invariant, in which the core runs a word or an event of its own, or nothing. -/
def Sel.Sound (d : Nat) : Sel → Prop
  | .run i v => CoresSound v ∧ v.cur = .core d ∧ ∀ g n w, i = .wordDecodeFault g n w → ∃ a, g = .core a
  | .stay v => CoresSound v
  | .bad => True

section
variable {s : State} {d : Nat} (h : CoresSound s) (hc : s.cur = .core d)
include h hc

theorem Sel.sound_decodeFault (n : Nat) (w : Word) : (Sel.run (.wordDecodeFault (.core d) n w) s).Sound d :=
  ⟨h, hc, fun _ _ _ e => ⟨d, by injection e with g; exact g.symm⟩⟩

theorem State.coreEvent_sound (w : Word) (x : Option Word) {len : Nat} (hl : len < 2 ^ 64) (h8 : len % 8 = 0) :
    (s.coreEvent d w x len).Sound d := by
  have moved : ∀ c : CoreState, c.pc = (s.core d).pc → c.npc = (s.core d).pc + BitVec.ofNat 64 len →
      c.csr = (s.core d).csr → c.halted = (s.core d).halted → CoresSound (s.setCore d c) := fun c hp hn ha hh => by
    refine h.setCore (fun sound => ⟨hp ▸ sound.pc, hn ▸ add_toNat_mod_eight sound.pc ?_, ha ▸ sound.asel⟩) hh
    rw [BitVec.toNat_ofNat, Nat.mod_eq_of_lt hl, h8]
  unfold State.coreEvent
  dsimp only
  split
  · exact h
  · have next := moved { s.core d with
      npc := (s.core d).pc + BitVec.ofNat 64 len, step := none, pre := if waitsForAll w then [] else (s.core d).pre } rfl rfl rfl rfl
    split
    · next i _ =>
      split
      · next ok => exact ⟨next, hc, fun g n v e => by subst e; cases ok⟩
      · exact Sel.sound_decodeFault next hc ..
    · exact Sel.sound_decodeFault next hc ..

end

/-- The word at an address, fetched (R257, R262). -/
def State.coreFetches (s : State) (d : Nat) (a : Word) : Sel :=
  match s.fetchWord d a with
  | (.error f, t) => .run (.wordDecodeFault (.core d) f.cause f.addr) t
  | (.ok w, t) =>
    let u := t.setCore d { t.core d with wfe := false }
    if wordXt w then
      match u.fetchWord d (a + 8) with
      | (.error f, v) => .run (.wordDecodeFault (.core d) f.cause f.addr) v
      | (.ok x, v) => v.coreEvent d w (some x) 16
    else u.coreEvent d w none 8

theorem State.coreFetches_sound {s : State} {d : Nat} (h : CoresSound s) (hc : s.cur = .core d) (a : Word) :
    (s.coreFetches d a).Sound d := by
  unfold State.coreFetches
  split
  · next e =>
    have failed := KeepsCores.of_fetchWord e
    exact Sel.sound_decodeFault (h.kept failed) (failed.cur.trans hc) ..
  · next w t e =>
    have awake : KeepsCores s (t.setCore d { t.core d with wfe := false }) := (KeepsCores.of_fetchWord e).trans (.setCore rfl)
    dsimp only
    split
    · split
      · next e' =>
        have failed := awake.trans (.of_fetchWord e')
        exact Sel.sound_decodeFault (h.kept failed) (failed.cur.trans hc) ..
      · next e' =>
        have fetched := awake.trans (.of_fetchWord e')
        exact State.coreEvent_sound (h.kept fetched) (fetched.cur.trans hc) _ _ (by decide) rfl
    · exact State.coreEvent_sound (h.kept awake) (awake.cur.trans hc) _ _ (by decide) rfl

theorem State.selectCore_sound {s : State} (h : CoresSound s) (d : Nat) : (s.selectCore d).Sound d := by
  have moves : CoresSound { s with cur := .core d } := ⟨h.wf, h.core, h.halt⟩
  unfold State.selectCore
  dsimp only
  split
  · exact moves
  · split
    · show CoresSound _
      split
      · exact moves.kept (.setCore rfl)
      · exact moves
    · split
      · exact State.coreEvent_sound moves rfl _ _ (by decide) rfl
      · split
        · exact moves
        · split
          · exact ⟨moves, rfl, fun _ _ _ e => nomatch e⟩
          · split
            · exact ⟨moves, rfl, fun _ _ _ e => nomatch e⟩
            · split
              · exact moves
              · split
                · exact State.coreEvent_sound moves rfl _ _ (by decide) rfl
                · exact State.coreFetches_sound moves rfl _

/-- The turn of a core's event keeps the invariant (R275). -/
theorem State.select_sound {s u : State} {d : Nat} (hm : s.nextMove = (.core d, u)) (hd : d < 4) (h : CoresSound u) :
    s.select.Sound d := by
  have sound := State.selectCore_sound h d
  rw [State.select, hm]
  show (u.inTurn (u.moveEvent (.core d))).Sound d
  rw [State.moveEvent_core hd]
  unfold State.inTurn
  split
  · next i t e =>
    rw [e] at sound
    obtain ⟨inv, cur, decode⟩ := sound
    split
    · exact h
    · have turn : KeepsCores t ((t.afresh i).noted i) := (KeepsCores.afresh ..).trans (.noted ..)
      exact ⟨inv.kept turn, turn.cur.trans cur, decode⟩
  · exact sound

theorem State.nextMove_kept {s u : State} {m : Move} (h : s.nextMove = (m, u)) : KeepsCores s u := by
  have : KeepsCores s s.nextMove.2 := by
    unfold State.nextMove
    split <;> exact .of_dies rfl rfl rfl rfl rfl
  rwa [h] at this

/-- Settles O58: a move of a core is sound, and what it runs keeps the invariant. -/
theorem coreStepsKeepInvariant : Obligations.CoreStepsKeepInvariant := by
  intro s u t d hm inv hs
  have before : CoresSound u := (coreInv_iff.mp inv).kept (State.nextMove_kept hm)
  have hd : d < 4 := by
    by_contra no
    have bad : u.moveEvent (.core d) = .bad := if_pos (Nat.le_of_not_lt no)
    rw [step_of_moveEvent_bad hm bad] at hs
    cases hs
  have sound := State.select_sound hm hd before
  refine ⟨fun v hv => coreInv_iff.mpr ?_, fun i v hv own => coreInv_iff.mpr ?_⟩ <;> rw [step, hv] at hs <;> rw [hv] at sound
  · injection hs with e
    exact e ▸ sound
  · obtain ⟨inv, cur, decode⟩ := sound
    exact exec_keepsSound inv cur own decode t hs

/-- Settles O59: after reset every core has its default registers and none has halted. -/
theorem resetHasInvariant : Obligations.ResetHasInvariant :=
  coreInv_iff.mpr ⟨memory_wf_reset, fun _ _ => ⟨rfl, rfl, Nat.le_refl 64⟩, fun _ _ => BitVec.getLsbD_zero⟩

end Sys2Proof.Machine
end

section
/-!
Branches, exceptions and the returns of a control core (R265, R277, R278).
-/
namespace Sys2Proof.Machine
open Sys2Proof Sys2Proof.Machine Sys2Proof.Cert

/-! ### BR.cc, JAL and JALR (R265) -/

section
variable {s : State} {d : Nat} (hc : s.cur = .core d)
include hc

theorem exec_br (f : FmtCB) : exec (.br f) s = .next (s.setCore d (if condHolds f.cc.toNat ((s.core d).rd f.ga) ((s.core d).rd f.gb)
    then { s.core d with pc := branchTo (s.core d).pc f.off } else (s.core d).adv)) := by
  show execBr f s = _
  rw [execBr, onCore_core _ _ _ _ hc]

theorem exec_jal (f : FmtCJ) : exec (.jal f) s = .next (s.setCore d
    { (s.core d).wr f.gd ((s.core d).pc + 8) with pc := branchTo (s.core d).pc f.off }) := by
  show execJal f s = _
  rw [execJal, onCore_core _ _ _ _ hc]

theorem exec_jalr (f : FmtCJ) : exec (.jalr f) s = .next (if ((s.core d).rd f.ga + f.off.signExtend 64).toNat % 8 ≠ 0
    then s.coreFault d cBadpath ((s.core d).rd f.ga + f.off.signExtend 64)
    else s.setCore d { (s.core d).wr f.gd ((s.core d).pc + 8) with pc := (s.core d).rd f.ga + f.off.signExtend 64 }) := by
  show execJalr f s = _
  rw [execJalr, onCore_core _ _ _ _ hc]

end

/-- Settles O33: each word by what it leaves in its core. -/
theorem controlFlowWords : Obligations.ControlFlowWords := by
  refine ⟨fun f s d hc _ => ?_, fun f => ⟨fun s d hc _ => exec_jal hc f, fun s d hc aligned => ?_, fun s d hc misaligned => ?_, ?_⟩⟩
  · rw [exec_br hc, condHolds_eq]
    rfl
  · rw [exec_jalr hc, if_neg (not_not.mpr aligned)]
  · rw [exec_jalr hc, if_pos misaligned]
  · intro wf
    have fields : (f.ga == 0 && f.rsv == 0) = true := wf
    exact eq_of_beq (Bool.and_elim_left fields)

/-! ### Exceptions (R277) -/

@[simp] theorem State.setCore_setCore (s : State) (d : Nat) (x y : CoreState) : (s.setCore d x).setCore d y = s.setCore d y := by
  simp only [State.setCore, State.die_setDie, State.setDie_setDie]

/-- A core as an exception leaves it, its PC apart: what is saved, in supervisor mode (R277). -/
def CoreState.excepted (c : CoreState) (pc xc v : Word) : CoreState :=
  { c with csr := { c.csr with xpc := pc, xst := c.csr.status, xcause := xc, xval := v, xbusy := true, ie := false, mode := true },
           wfe := false, step := none, rodw := none, busy := none, held := none, img := none }

section
variable {s : State} {d : Nat} {pc xc v : Word}

theorem State.exception_twice (busy : (s.core d).csr.xbusy = true) : s.exception d pc xc v = s.haltCore d := if_pos busy

theorem State.exception_nowhere (idle : (s.core d).csr.xbusy = false) (none_ : (s.core d).csr.sxvec = 0) :
    s.exception d pc xc v = (s.setCore d ((s.core d).excepted pc xc v)).haltCore d :=
  (if_neg (Bool.eq_false_iff.mp idle)).trans (if_pos none_)

theorem State.exception_enters (idle : (s.core d).csr.xbusy = false) (some_ : (s.core d).csr.sxvec ≠ 0) :
    s.exception d pc xc v = s.setCore d { (s.core d).excepted pc xc v with pc := pcOf (s.core d).csr.sxvec } := by
  refine ((if_neg (Bool.eq_false_iff.mp idle)).trans (if_neg some_)).trans ?_
  rw [State.core_setCore, State.setCore_setCore]
  rfl

/-- What a core that halts leaves (R277, R450). -/
theorem State.haltCore_leaves (s : State) (d : Nat) : (s.haltCore d).core d = { s.core d with halted := true } ∧
    (s.haltCore d).root.halt = s.root.halt ||| BitVec.ofNat 4 (2 ^ d) ∧ (s.haltCore d).mem = s.mem ∧ (s.haltCore d).eng = s.eng ∧
    (∀ a, a ≠ d → (s.haltCore d).die a = s.die a) ∧ ((s.haltCore d).die d).trapq = (s.die d).trapq :=
  ⟨State.core_setCore .., rfl, rfl, rfl, fun _ h => State.die_setDie_ne _ _ _ _ h.symm, State.trapq_setCore ..⟩

end

theorem exec_trapc {s : State} {d : Nat} (hc : s.cur = .core d) (f : FmtCG) :
    exec (.trapc f) s = .next (s.exception d (s.core d).npc (put 16 8 (fld f.imm 0 8) ||| put 8 1 1) 0) := by
  show execTrapc f s = _
  rw [execTrapc, onCore_core _ _ _ _ hc]

/-- XCAUSE of TRAPC (R267). -/
theorem trapc_cause (n : Nat) (h : n < 256) : put 16 8 n ||| put 8 1 1 = BitVec.ofNat 64 (65536 * n + 256) := by
  have sum : 65536 * n + 256 = 2 ^ 16 * n ||| 256 := Nat.two_pow_add_eq_or_of_lt (by decide : 256 < 2 ^ 16) n
  rw [sum, BitVec.ofNat_or, put, Nat.mod_eq_of_lt (show n < 2 ^ 8 from h), Nat.mul_comm]
  rfl

theorem exceptionEntry : ExceptionEntry := by
  intro s d pc cause val c csr saved halted
  have same : c.csr.cctx < 128 → c.excepted pc cause val = saved := fun h => by
    rw [CoreState.excepted, CoreCsr.status_eq h]
  refine ⟨fun cctx idle some_ => ?_, fun cctx idle none_ => ?_, fun busy => ?_, fun _ _ => rfl, fun f hc => ?_⟩
  · rw [State.exception_enters idle some_]
    exact congrArg (fun k => s.setCore d { k with pc := c.csr.sxvec &&& ~~~ 7 }) (same cctx)
  · rw [State.exception_nowhere idle none_, show (s.core d).excepted pc cause val = saved from same cctx]
    obtain ⟨core, halt, mem, eng, dies, trapq⟩ := (s.setCore d saved).haltCore_leaves d
    rw [State.core_setCore] at core
    exact ⟨core, halt, mem, eng, fun a h => (dies a h).trans (State.die_setDie_ne _ _ _ _ h.symm), trapq.trans (State.trapq_setCore ..)⟩
  · rw [State.exception_twice busy]
    exact s.haltCore_leaves d
  · rw [exec_trapc hc, trapc_cause _ (BitVec.isLt _)]
    rfl

/-! ### The return (R278) -/

theorem exec_eret {s : State} {d : Nat} (hc : s.cur = .core d) (f : FmtCG) :
    exec (.eret f) s = .next (s.eret d (wordOf (.eret f))) := by
  show execEret f s = _
  rw [execEret, onCore_core _ _ _ _ hc]

theorem returnWords : ReturnWords := by
  intro f s d hc x c handled
  rw [exec_eret hc]
  have core : (s.die d).core = c := rfl
  refine ⟨fun may busy => congrArg _ ?_, fun idle busy => congrArg _ ?_, fun idle none_ => congrArg _ ?_⟩ <;>
    simp only [State.eret, core]
  · have may : ¬ (c.csr.mode = false ∧ c.csr.ebusy = false) := by simpa [or_iff_not_imp_left] using may
    rw [if_neg may, if_pos busy]
    rfl
  · rw [if_neg (by simp [busy]), if_neg (by simp [idle]), if_pos busy]
    rfl
  · obtain user | idle' := none_
    · rw [if_pos ⟨user, idle⟩]
    · rw [if_neg (c := c.csr.xbusy = true) (by simp [idle']), if_neg (c := c.csr.ebusy = true) (by simp [idle]), ite_self]

/-- Settles O35: the two ways in and the two ways back. -/
theorem exceptionsAndReturn : Obligations.ExceptionsAndReturn := ⟨exceptionEntry, returnWords⟩

end Sys2Proof.Machine
end

section
/-!
The lock words of a pass, LNCH and TRIG (R301–R303, R370–R375).
-/
namespace Sys2Proof.Machine
open Sys2Proof Sys2Proof.Machine Sys2Proof.Cert

/-- What an acquire, or the reading of `keys` without one, leaves in a pass and in its context (R226, R230). -/
theorem State.acquired_eq (u : State) (e : Nat) (a : Active) (acq : Nat) (keys : List Nat) (q : Pass) :
    u.acquired e a acq keys q = (afterAcquire u e a acq keys q, acquiredState u a.fr.ctx acq) := by
  simp only [State.acquired, State.acquireAt, acquiredState, afterAcquire]
  by_cases none : acq = 0
  · subst none; rfl
  · by_cases narrow : acq < 4 <;> simp [Pass.acquire, none, narrow]

section
variable {f : FmtM} {s : State} {e sl : Nat} {a : Active} (h : InPass s e sl a)
include h

/-! ### LK.ACQ and LK.UPG (R372) -/

/-- The request of a lock word on its way to the home of its name, and its pass waiting for the grant. -/
def State.lockAsked (s : State) (e sl : Nat) (a : Active) (f : FmtM) (n : Word) : State :=
  let q := a.pass.useLsid f.lsid.toNat
  (s.setPass e sl a { q with
    b := { q.b with locks := if n ∈ q.b.locks then q.b.locks else q.b.locks ++ [n] }
    wait := .lock n (f.scope.toNat + 1) }).postDep (s.reverting a.fr.ctx a.age n)
      (.lockRequestDecide ⟨a.fr.ctx, a.age, n, f.aop.toNat, f.size.getLsbD 0, e, a.fr.uid⟩)

theorem lockWord_pass (i : Instr) (upg : Bool) : lockWord i f s upg = .next (
    if s.lkNameOk a.fr.ctx (a.pass.rd s.tick f.sa) = false ∨
        (lkLevel (a.pass.rd s.tick f.sa) = 2 ∧ (f.aop.toNat = 1 ∨ f.aop.toNat = 2 ∨ f.aop.toNat = 4)) ∨
        (upg ∧ (s.reckoner (lockHome (a.pass.rd s.tick f.sa))).rec? a.fr.ctx a.age (a.pass.rd s.tick f.sa) = none)
      then s.passFault e sl ⟨cFrame, 0, 0⟩ else s.lockAsked e sl a f (a.pass.rd s.tick f.sa)) := by
  rw [lockWord, onPass_pass _ _ _ _ _ _ h.1 h.2]
  rfl

/-- LK.ACQ and LK.UPG by their checks; LK.UPG asks for a record of the name besides. -/
theorem lockWord_cases {i : Instr} {upg : Bool} (run : exec i s = lockWord i f s upg) :
    let n := a.pass.rd s.tick f.sa
    let fits := lkLevel n = 2 → f.aop.toNat ∉ [1, 2, 4]
    let known := upg = true → (s.reckoner (lockHome n)).rec? a.fr.ctx a.age n ≠ none
    (s.lkNameOk a.fr.ctx n = true → fits → known → exec i s = .next (s.lockAsked e sl a f n)) ∧
    (¬ (s.lkNameOk a.fr.ctx n = true ∧ fits ∧ known) → exec i s = .next (s.passFault e sl ⟨cFrame, 0, 0⟩)) := by
  intro n fits known
  have refused : (s.lkNameOk a.fr.ctx n = false ∨ (lkLevel n = 2 ∧ (f.aop.toNat = 1 ∨ f.aop.toNat = 2 ∨ f.aop.toNat = 4)) ∨
      (upg = true ∧ (s.reckoner (lockHome n)).rec? a.fr.ctx a.age n = none)) ↔ ¬ (s.lkNameOk a.fr.ctx n = true ∧ fits ∧ known) := by
    simp [fits, known, imp_iff_not_or, not_or]
  rw [run, lockWord_pass h]
  refine ⟨fun good hf hk => congrArg _ (if_neg ?_), fun bad => congrArg _ (if_pos ?_)⟩
  · exact fun no => refused.mp no ⟨good, hf, hk⟩
  · exact refused.mpr bad

/-! ### Held lock words and TRIG (R303, R373, R375) -/

/-- The pass with an effect held under the word's LSID, a release in program order. -/
def Active.heldBy (a : Active) (f : FmtM) (x : Effect) : Pass :=
  (a.pass.useLsid f.lsid.toNat).hold { lsid := f.lsid.toNat, ord := 2, scope := f.scope.toNat, eff := x }

theorem heldLock_some {i : Instr} {eff : Nat → Word → Option Effect} {x : Effect} (run : exec i s = heldLock i f s eff)
    (good : eff a.fr.ctx (a.pass.rd s.tick f.sa) = some x) : exec i s = .next (s.setPass e sl a (a.heldBy f x)) := by
  rw [run, heldLock, passWord_pass _ _ _ _ _ _ h.1 h.2, good]
  rfl

theorem heldLock_none {i : Instr} {eff : Nat → Word → Option Effect} (run : exec i s = heldLock i f s eff)
    (bad : eff a.fr.ctx (a.pass.rd s.tick f.sa) = none) : exec i s = .next (s.passFault e sl ⟨cFrame, 0, 0⟩) := by
  rw [run, heldLock, passWord_pass _ _ _ _ _ _ h.1 h.2, bad]

omit h in
theorem exec_lkRel : exec (.lkRel f) s = heldLock (.lkRel f) f s fun c n => if s.lkNameOk c n then some (.lockRel (some n)) else none :=
  rfl
omit h in
theorem exec_lkRall : exec (.lkRall f) s = heldLock (.lkRall f) f s fun _ _ => some (.lockRel none) := rfl
omit h in
theorem exec_lkmLd : exec (.lkmLd f) s = heldLock (.lkmLd f) f s fun _ v => if fld v 37 27 = 0 then some (.lockMatrix v) else none :=
  rfl
omit h in
theorem exec_lkeSet : exec (.lkeSet f) s = heldLock (.lkeSet f) f s fun _ _ => some (.lockEsc (fld f.off 0 6)) := rfl

omit h in
/-- What is held beside the effect, the reservations made and the registers are as before. -/
theorem Active.heldBy_leaves (x : Effect) : (a.heldBy f x).b.held = a.pass.b.held ++
    [{ lsid := f.lsid.toNat, ord := 2, scope := f.scope.toNat, eff := x }] ∧
    (a.heldBy f x).b.lnches = a.pass.b.lnches ∧ (a.heldBy f x).r = a.pass.r := by
  unfold Active.heldBy Pass.useLsid
  split <;> exact ⟨rfl, rfl, rfl⟩

theorem exec_trig : exec (.trig f) s = .next (s.setPass e sl a (a.heldBy f .trig)) := by
  show execTrig f s = _
  rw [execTrig, passWord_pass _ _ _ _ _ _ h.1 h.2]
  rfl

/-! ### LK.QRY (R374) -/

theorem exec_lkQry : exec (.lkQry f) s = .next (if s.lkNameOk a.fr.ctx (a.pass.rd s.tick f.sa) = false
    then s.passFault e sl ⟨cFrame, 0, 0⟩
    else (acquiredState s a.fr.ctx (acqCode f.ord.toNat f.scope.toNat)).setPass e sl a
      (afterAcquire s e a (acqCode f.ord.toNat f.scope.toNat) [] ((a.pass.useLsid f.lsid.toNat).wrP f.dv
        ((s.reckoner (lockHome (a.pass.rd s.tick f.sa))).query a.fr.ctx a.age (a.pass.rd s.tick f.sa))))) := by
  show execLkQry f s = _
  rw [execLkQry, memWord_pass h]
  by_cases bad : s.lkNameOk a.fr.ctx (a.pass.rd s.tick f.sa) = false
  · simp only [bad, if_true]
  · simp only [if_neg bad, State.acquired_eq]
    rfl

end

theorem lockWords : LockWords := by
  intro f s e sl a h p n l q good fits held asks frame
  obtain ⟨acq, noAcq⟩ := lockWord_cases h (show exec (.lkAcq f) s = lockWord (.lkAcq f) f s false from rfl)
  obtain ⟨upg, noUpg⟩ := lockWord_cases h (show exec (.lkUpg f) s = lockWord (.lkUpg f) f s true from rfl)
  refine ⟨fun g x => acq g x nofun, fun g x k => upg g x fun _ => k, fun bad => noAcq ?_, fun bad => noUpg ?_,
    fun g => ?_, fun g => ?_, fun g => ?_,
    fun g => ?_, ?_, fun g => ?_, fun g => ?_, ?_⟩
  · exact fun ⟨g, x, _⟩ => bad.elim (· g) (· x)
  · exact fun ⟨g, x, k⟩ => bad.elim (· g) fun bad => bad.elim (· x) (k rfl)
  · exact heldLock_some h exec_lkRel (if_pos g)
  · exact heldLock_none h exec_lkRel (if_neg g)
  · rw [exec_lkQry h, if_neg ((Bool.not_eq_false _).mpr g)]
  · rw [exec_lkQry h, if_pos (Bool.eq_false_iff.mpr g)]
  · exact heldLock_some h exec_lkRall rfl
  · exact heldLock_some h exec_lkmLd (if_pos (congrArg BitVec.toNat g))
  · exact heldLock_none h exec_lkmLd (if_neg fun z => g (BitVec.eq_of_toNat_eq z))
  · exact heldLock_some h exec_lkeSet rfl

/-! ### LNCH (R301, R302) -/

/-- The pass with the launch of a command held, and one more reservation to wait for. -/
def Active.launching (a : Active) (f : FmtM) (cmd : List Word) : Pass :=
  let q := a.heldBy f (.lnch cmd)
  { q with b := { q.b with lnches := q.b.lnches + 1 } }

section
variable {f : FmtM} {s t : State} {e sl : Nat} {a : Active} (h : InPass s e sl a)
include h

/-- The command that LNCH reads. -/
def lnchCommand (t : State) (a : Active) (f : FmtM) (hs : List Nat) : List Word :=
  let bytes := hs.map fun x => a.pass.loadByte f.lsid.toNat x (t.rdByte x)
  (List.range 8).map fun i => BitVec.ofNat 64 (leNat ((bytes.drop (8 * i)).take 8))

theorem exec_lnch_error {g : Failure} (r : s.resolve (madeBy e a .load) [0xA] (wordAddr s a f) 64 true = (.error g, t)) :
    exec (.lnch f) s = .next (t.passFault e sl ⟨cBadpath, wordAddr s a f, 0⟩) := by
  have homes : s.resolve (a.via e .load) [0xA] (a.pass.memAddr s.tick f) 64 true = (.error g, t) := r
  show execLnch f s = _
  rw [execLnch, onPass_pass _ _ _ _ _ _ h.1 h.2]
  simp only [homes]
  rfl

theorem exec_lnch_ok {hs : List Nat} (r : s.resolve (madeBy e a .load) [0xA] (wordAddr s a f) 64 true = (.ok hs, t))
    (good : t.eccHomes hs = false) : exec (.lnch f) s = .next (
      let cmd := lnchCommand t a f hs
      if cmdOpc cmd ≠ 1 ∨ (f.size.getLsbD 0 ∧ cmdNarg cmd = 0) then t.passFault e sl ⟨cDesc, 0, 0⟩
      else
        let u := t.setPass e sl a (a.launching f (if f.size.getLsbD 0 then cmd.set 5 (a.pass.rd s.tick f.dv) else cmd))
        { u with cp := { u.cp with resv := u.cp.resv ++ [{ ctx := a.fr.ctx, eng := e, uid := a.fr.uid }] } }) := by
  have homes : s.resolve (a.via e .load) [0xA] (a.pass.memAddr s.tick f) 64 true = (.ok hs, t) := r
  have bytes : ((hs.zip (t.rdHomes hs)).map fun x => a.pass.loadByte f.lsid.toNat x.1 x.2) =
      hs.map fun x => a.pass.loadByte f.lsid.toNat x (t.rdByte x) := by
    rw [State.rdHomes, List.zip_eq_zipWith, List.map_zipWith, List.zipWith_map_right, List.zipWith_self]
  show execLnch f s = _
  rw [execLnch, onPass_pass _ _ _ _ _ _ h.1 h.2]
  simp only [homes, good, Bool.false_eq_true, if_false, bytes]
  rfl

end

/-- The checks of a command that LNCH has read: a LAUNCH, with an argument to replace where A0 asks for it (R301). -/
theorem lnchRefused_iff (cmd : List Word) (a0 : Bool) : (cmdOpc cmd ≠ 1 ∨ (a0 = true ∧ cmdNarg cmd = 0)) ↔
    ¬ ((cmd.getD 0 0).extractLsb' 0 8 = 1 ∧ (a0 = true → (cmd.getD 1 0).extractLsb' 32 2 ≠ 0)) := by
  have opc : cmdOpc cmd = 1 ↔ (cmd.getD 0 0).extractLsb' 0 8 = 1 := BitVec.toNat_inj (y := 1#8)
  have narg : cmdNarg cmd = 0 ↔ (cmd.getD 1 0).extractLsb' 32 2 = 0 := BitVec.toNat_inj (y := 0#2)
  rw [ne_eq, opc, narg]
  tauto

theorem launchWords : LaunchWords := by
  intro f s e sl a h p ad l
  refine ⟨exec_trig h, fun hs t r good => ?_, fun g t r => exec_lnch_error h r⟩
  intro bytes cmd a0 launch held
  rw [exec_lnch_ok h r good]
  obtain ⟨holds, count, regs⟩ := a.heldBy_leaves (f := f) (.lnch (if a0 then cmd.set 5 (p.rd s.tick f.dv) else cmd))
  exact ⟨fun ok => ⟨_, congrArg _ (if_neg fun bad => (lnchRefused_iff cmd a0).mp bad ok),
      ⟨a.launching f _, holds, congrArg (· + 1) count, regs, rfl⟩, rfl, rfl, rfl⟩,
    fun bad => congrArg _ (if_pos ((lnchRefused_iff cmd a0).mpr bad))⟩

/-- Settles O32: each word by its checks and by what it holds or asks for. -/
theorem lockAndLaunchWords : Obligations.LockAndLaunchWords := ⟨lockWords, launchWords⟩

end Sys2Proof.Machine
end


section
/-!
Link ports and the routing of packets (R392–R404). Two things can become of a port while packets move: what is lost changes a counter of
it only, and what leaves goes to the end of its wire.
-/
namespace Sys2Proof.Machine
open Sys2Proof Sys2Proof.Machine Sys2Proof.Cert

/-! ### The ports of a state and of the next -/

/-- Every port is related to what it becomes. -/
def PortsBy (R : LinkPort → LinkPort → Prop) (s t : State) : Prop := ∀ d i, R (s.port d i) (t.port d i)

theorem State.port_setPort_eq (s : State) (d i e j : Nat) (x : LinkPort) :
    (s.setPort d i x).port e j = x ∧ e = d ∧ j = i ∨ (s.setPort d i x).port e j = s.port e j := by
  by_cases he : e = d
  · subst he
    by_cases hj : j = i
    · subst hj; exact .inl ⟨s.port_setPort .., rfl, rfl⟩
    · right
      simp [State.port, State.setPort, tget_tput_ne _ _ _ _ _ (Ne.symm hj)]
  · right
    simp only [State.port, State.setPort, State.die, State.setDie, tget_tput_ne _ _ _ _ _ (Ne.symm he)]

namespace PortsBy
variable {R : LinkPort → LinkPort → Prop} {s t u : State}

theorem of_dies (refl : ∀ x, R x x) (h : t.dies = s.dies) : PortsBy R s t := fun d i => by
  rw [show t.port d i = s.port d i by simp only [State.port, State.die, h]]
  exact refl _

theorem trans (tr : ∀ {x y z}, R x y → R y z → R x z) (h : PortsBy R s t) (k : PortsBy R t u) : PortsBy R s u :=
  fun d i => tr (h d i) (k d i)

theorem setPort (refl : ∀ x, R x x) {d i : Nat} {x : LinkPort} (h : R (s.port d i) x) : PortsBy R s (s.setPort d i x) := fun e j => by
  obtain ⟨eq, rfl, rfl⟩ | eq := s.port_setPort_eq d i e j x <;> rw [eq]
  · exact h
  · exact refl _

end PortsBy

/-! ### What is lost -/

/-- The port `y` differs from `x` in its counters only. -/
structure LinkPort.Counted (x y : LinkPort) : Prop where
  st    : y.st = x.st
  tx    : y.tx = x.tx
  queue : y.queue = x.queue

/-- Packets are lost: memory stays, and every port but for its counters. -/
structure Loses (s t : State) : Prop where
  mem   : t.mem = s.mem
  ports : PortsBy LinkPort.Counted s t

theorem LinkPort.Counted.refl (x : LinkPort) : x.Counted x := ⟨rfl, rfl, rfl⟩
theorem LinkPort.Counted.trans {x y z : LinkPort} (h : x.Counted y) (k : y.Counted z) : x.Counted z :=
  ⟨k.st.trans h.st, k.tx.trans h.tx, k.queue.trans h.queue⟩

/-- A fault changes the kernels only (R310). -/
theorem State.faultInst_kernels (s : State) (c i : Nat) : ∃ l, s.faultInst c i = { s with cp := { s.cp with kernels := l } } := by
  unfold State.faultInst
  split
  · exact ⟨_, rfl⟩
  · dsimp only
    split <;> exact ⟨_, rfl⟩

/-- A record that is raised changes the kernels, and follows what is in flight. -/
theorem State.raise_kernels (s : State) (d : Nat) (r : Record) :
    ∃ l, s.raise d r = ({ s with cp := { s.cp with kernels := l } } : State).post (.trapRecordEnqueue d r) := by
  unfold State.raise
  dsimp only
  split
  · split
    · next c i _ _ _ =>
      obtain ⟨l, eq⟩ := s.faultInst_kernels c i
      exact ⟨l, by rw [eq]⟩
    · exact ⟨_, rfl⟩
  · exact ⟨_, rfl⟩

theorem State.raise_dies (s : State) (d : Nat) (r : Record) : (s.raise d r).dies = s.dies := by
  obtain ⟨l, eq⟩ := s.raise_kernels d r
  rw [eq]; rfl

theorem State.report_dies (s : State) (d cause : Nat) (who : Origin) (ad det : Word) (tok : Option Token) :
    (s.report d cause who ad det tok).dies = s.dies := State.raise_dies ..

namespace Loses
variable {s t u : State}

theorem of_dies (m : t.mem = s.mem) (h : t.dies = s.dies) : Loses s t := ⟨m, .of_dies .refl h⟩
theorem refl (s : State) : Loses s s := of_dies rfl rfl
theorem trans (h : Loses s t) (k : Loses t u) : Loses s u := ⟨k.mem.trans h.mem, h.ports.trans .trans k.ports⟩
theorem setPort {d i : Nat} {x : LinkPort} (h : (s.port d i).Counted x) : Loses s (s.setPort d i x) := ⟨rfl, .setPort .refl h⟩

theorem report (s : State) (d cause : Nat) (who : Origin) (ad det : Word) (tok : Option Token) :
    Loses s (s.report d cause who ad det tok) := of_dies (Aside.report ..).mem (s.report_dies ..)

theorem peerLost (s : State) (p : Packet) : Loses s (s.peerLost p) := by
  unfold State.peerLost
  split <;> exact of_dies rfl rfl

theorem failRemote (s : State) (r : RemoteOp) : Loses s (s.failRemote r) := of_dies rfl rfl

theorem losePacket (s : State) (d i : Nat) (p : Packet) (who : Option Origin) : Loses s (s.losePacket d i p who) := by
  have counted : Loses s (s.setPort d i { s.port d i with lost := sat32 (s.port d i).lost 1 }) := setPort ⟨rfl, rfl, rfl⟩
  refine counted.trans ?_
  unfold State.losePacket
  dsimp only
  split
  · exact refl _
  · split
    · exact peerLost ..
    · split
      · exact (failRemote ..).trans (report ..)
      · split
        · exact report ..
        · exact refl _

end Loses

/-- A port that goes down holds no flit and no packet, and memory stays (R396). -/
theorem State.portDown_lost (s : State) (d i : Nat) :
    ((s.portDown d i).port d i).st = .down ∧ ((s.portDown d i).port d i).tx = [] ∧ ((s.portDown d i).port d i).queue = [] ∧
      (s.portDown d i).mem = s.mem := by
  have lose : ∀ (l : List (Packet × Option Origin)) (t : State), Loses t (l.foldl (fun t (p, w) => t.losePacket d i p w) t) :=
    fun l t => foldl_of_trans Loses.refl Loses.trans l (fun _ _ _ => .losePacket ..) t
  have after := lose ((s.port d i).tx.filterMap (fun t => t.pkt.map fun p => (p, t.who)) ++ (s.port d i).queue.map fun (p, _, w) => (p, w))
    (s.setPort d i { s.port d i with st := .down, tx := [], queue := [], wire := [], rx := [], nextSeq := 0, expSeq := 0, tries := 0 })
  obtain ⟨st, tx, queue⟩ := after.ports d i
  rw [State.port_setPort] at st tx queue
  exact ⟨st, tx, queue, after.mem⟩

/-! ### What leaves -/

/-- The port `y` is `x` after flits have gone to the end of its wire. -/
structure LinkPort.Sends (x y : LinkPort) : Prop where
  st     : y.st = x.st
  expSeq : y.expSeq = x.expSeq
  wire   : x.wire <+: y.wire

/-- Flits leave the ports: memory and what is in flight stay. -/
structure Pumps (s t : State) : Prop where
  mem   : t.mem = s.mem
  pend  : t.pend = s.pend
  ports : PortsBy LinkPort.Sends s t

theorem LinkPort.Sends.refl (x : LinkPort) : x.Sends x := ⟨rfl, rfl, List.prefix_refl _⟩
theorem LinkPort.Sends.trans {x y z : LinkPort} (h : x.Sends y) (k : y.Sends z) : x.Sends z :=
  ⟨k.st.trans h.st, k.expSeq.trans h.expSeq, h.wire.trans k.wire⟩

/-- The flits of a packet go to the end of the wire. -/
theorem LinkPort.sends_push (x : LinkPort) (p : Packet) (who : Option Origin) (since tick : Nat) : x.Sends (x.push p who since tick) := by
  unfold LinkPort.push
  dsimp only
  generalize p.bodies.zipIdx = l
  induction l generalizing x with
  | nil => exact .refl x
  | cons b l ih =>
    rw [List.foldl_cons]
    refine .trans ?_ (ih _)
    exact ⟨rfl, rfl, List.prefix_append ..⟩

namespace Pumps
variable {s t u : State}

theorem refl (s : State) : Pumps s s := ⟨rfl, rfl, fun _ _ => .refl _⟩
theorem trans (h : Pumps s t) (k : Pumps t u) : Pumps s u :=
  ⟨k.mem.trans h.mem, k.pend.trans h.pend, h.ports.trans .trans k.ports⟩
theorem setPort {d i : Nat} {x : LinkPort} (h : (s.port d i).Sends x) : Pumps s (s.setPort d i x) := ⟨rfl, rfl, .setPort .refl h⟩
theorem countDrop (s : State) (d i : Nat) : Pumps s (s.countDrop d i) := setPort ⟨rfl, rfl, List.prefix_refl _⟩

theorem pump (d i n : Nat) (s : State) : Pumps s (s.pump d i n) := by
  induction n generalizing s with
  | zero => exact refl s
  | succ n ih =>
    unfold State.pump
    dsimp only
    split
    · exact refl s
    next p since who r _ =>
      have taken : (s.port d i).Sends { s.port d i with queue := r } := ⟨rfl, rfl, List.prefix_refl _⟩
      split
      · exact refl s
      · split
        · exact ((setPort taken).trans (countDrop ..)).trans (ih _)
        · exact (setPort (taken.trans (LinkPort.sends_push ..))).trans (ih _)

theorem drainPort (s : State) (d i : Nat) : Pumps s (s.drainPort d i) := pump ..

end Pumps

theorem State.pump_empty (s : State) (d i n : Nat) (h : (s.port d i).queue = []) : s.pump d i n = s := by
  cases n with
  | zero => rfl
  | succ n => unfold State.pump; simp only [h]

theorem State.drainPort_empty (s : State) (d i : Nat) (h : (s.port d i).queue = []) : s.drainPort d i = s := s.pump_empty d i _ h

/-- Nothing leaves a port that is not UP (R394). -/
theorem State.drainPort_notUp (s : State) (d i : Nat) (h : (s.port d i).st ≠ .up) : s.drainPort d i = s := by
  unfold State.drainPort State.pump
  dsimp only
  split
  · rfl
  · simp [h]

/-! ### The words of a port -/

theorem exec_attempt_idle {s : State} {d i : Nat} (b : Bool) (st : (s.port d i).st ≠ .training) :
    exec (.linkTrainAttemptDone d i b) s = .next s := by
  show execLinkTrainAttemptDone d i b s = _
  simp only [execLinkTrainAttemptDone, st, ne_eq, not_false_eq_true, or_true, if_true]

section
variable {s : State} {d i : Nat} (hd : d < 4) (hi : i < 4)
include hd hi

theorem exec_linkTrain : exec (.linkTrain d i) s = .next (s.trainPort d i) := by
  show execLinkTrain d i s = _
  rw [execLinkTrain, if_neg (by omega)]

theorem exec_linkDown : exec (.linkDown d i) s = .next (s.downPort d i) := by
  show execLinkDown d i s = _
  rw [execLinkDown, if_neg (by omega)]

/-- An attempt that succeeds puts the replay buffer on the wire again, and behind it what has waited (R395). -/
theorem exec_attempt_ok (st : (s.port d i).st = .training) :
    exec (.linkTrainAttemptDone d i true) s = .next ((s.setPort d i { s.port d i with
      st := .up, tries := 0, ackTick := s.tick.toNat,
      wire := (s.port d i).wire ++ (s.port d i).tx.map fun t => mkFlit t.body t.seq t.fk (s.port d i).ackOut }).drainPort d i) := by
  show execLinkTrainAttemptDone d i true s = _
  simp only [execLinkTrainAttemptDone]
  rw [if_neg (by simp only [st]; simp; omega)]
  rfl

theorem exec_attempt_fails (st : (s.port d i).st = .training) :
    exec (.linkTrainAttemptDone d i false) s =
      .next (if 2 ≤ (s.port d i).tries then s.portDown d i else s.setPort d i { s.port d i with tries := (s.port d i).tries + 1 }) := by
  show execLinkTrainAttemptDone d i false s = _
  simp only [execLinkTrainAttemptDone]
  rw [if_neg (by simp only [st]; simp; omega), if_neg (by decide)]
  split <;> rfl

/-- A flit with a bad CRC or out of sequence is discarded (R393). -/
theorem exec_flit_discarded (st : (s.port d i).st = .up) (f : BitVec 512)
    (bad : flitCrcOk f = false ∨ flitSeq f ≠ (s.port d i).expSeq) : exec (.flitReceive d i f) s = .next (s.discardFlit d i) := by
  show execFlitReceive d i f s = _
  simp only [execFlitReceive]
  rw [if_neg (by simp only [st]; simp; omega), if_pos (by tauto)]

/-- The port that has taken the header flit `f` at a tick, and answers it. -/
def LinkPort.headed (x : LinkPort) (f : BitVec 512) (tick : Nat) : LinkPort :=
  let y := x.acked (flitAck f) tick
  ({ y with rx := [f.extractLsb' 0 448], rxTick := tick, expSeq := (y.expSeq + 1) % 4096 } : LinkPort).ackFlit

/-- A header flit is taken: it begins a packet, or is one (R393). -/
theorem exec_flit_header (st : (s.port d i).st = .up) (f : BitVec 512) (crc : flitCrcOk f = true)
    (seq : flitSeq f = (s.port d i).expSeq) (kind : flitKind f = 1) :
    exec (.flitReceive d i f) s =
      let z := (s.port d i).headed f s.tick.toNat
      match rxPacket [f.extractLsb' 0 448] with
      | none => .next ((s.setPort d i z).drainPort d i)
      | some p => match s.decision 1 d (224 + i) [p.header.toNat, leNat p.payload] with
        | none => .next s
        | some t => .next (((t.setPort d i { z with rx := [] }).drainPort d i).arrivePacket d i
            { p with age := BitVec.ofNat 16 (p.age.toNat + usOf (s.tick.toNat - s.tick.toNat) + 1) }) := by
  show execFlitReceive d i f s = _
  simp only [execFlitReceive]
  rw [if_neg (by simp only [st]; simp; omega), if_neg (by simp [crc, seq, kind]), if_neg (by simp [kind]), if_neg (by simp [kind])]
  simp only [kind, if_true]
  rfl

end

@[simp] theorem LinkPort.acked_expSeq (x : LinkPort) (ack : Option Nat) (tick : Nat) : (x.acked ack tick).expSeq = x.expSeq := by
  unfold LinkPort.acked
  split
  · rfl
  · dsimp only; split <;> split <;> rfl

/-- A packet for another node that arrives whole is sent on (R399). -/
theorem State.arrivePacket_other (s : State) (d i : Nat) (p : Packet) (ok : kindOk p.kind = true) (young : p.age.toNat < 1024)
    (other : p.dnode ≠ s.net.nodeid) : s.arrivePacket d i p = s.post (.packetForward d i p) := by
  unfold State.arrivePacket
  rw [if_neg (by simp [ok]; omega), if_pos other]

theorem State.pump_net (d i n : Nat) (s : State) : (s.pump d i n).net = s.net := by
  induction n generalizing s with
  | zero => rfl
  | succ n ih =>
    unfold State.pump
    dsimp only
    split
    · rfl
    · split
      · rfl
      · split <;> rw [ih] <;> rfl

/-- The replay of a port that is UP (R394). -/
theorem State.replayPort_up (s : State) (d i : Nat) (st : (s.port d i).st = .up) (full : (s.port d i).tx ≠ []) :
    s.replayPort d i = if (s.port d i).tx.any fun t => decide (8 ≤ t.tries) then
      s.setPort d i { s.port d i with st := .training, tries := 0, tx := (s.port d i).tx.map fun t => { t with tries := 0 } }
      else s.setPort d i { (s.port d i).resend with ackTick := s.tick.toNat } := by
  unfold State.replayPort
  dsimp only
  rw [if_neg (by simp [st, full])]

/-- A header flit that is a whole packet for another node, taken outside capture: the packet is sent on, one microsecond older (R399). -/
theorem exec_flit_packet {s : State} {d i : Nat} (hd : d < 4) (hi : i < 4) (st : (s.port d i).st = .up) (f : BitVec 512)
    (crc : flitCrcOk f = true) (seq : flitSeq f = (s.port d i).expSeq) (kind : flitKind f = 1) {p : Packet}
    (whole : rxPacket [f.extractLsb' 0 448] = some p) (off : s.root.cmode = 0) (ok : kindOk p.kind = true) (young : p.age.toNat < 1000)
    (other : p.dnode ≠ s.net.nodeid) :
    ∃ t q, exec (.flitReceive d i f) s = .next t ∧ (t.port d i).expSeq = ((s.port d i).expSeq + 1) % 4096 ∧
      t.pend.map (·.ev) = s.pend.map (·.ev) ++ [.packetForward d i q] ∧ q.age.toNat = p.age.toNat + 1 ∧
      { q with age := p.age } = p := by
  have taken := exec_flit_header hd hi st f crc seq kind
  simp only [whole, State.decision_off off] at taken
  have sent := Pumps.drainPort (s.setPort d i { (s.port d i).headed f s.tick.toNat with rx := [] }) d i
  have age : p.age.toNat + usOf (s.tick.toNat - s.tick.toNat) + 1 = p.age.toNat + 1 := by simp [usOf, ticksPerUs]
  have fits : (BitVec.ofNat 16 (p.age.toNat + 1)).toNat = p.age.toNat + 1 := by
    rw [BitVec.toNat_ofNat]; omega
  rw [age, State.arrivePacket_other] at taken
  · refine ⟨_, { p with age := BitVec.ofNat 16 (p.age.toNat + 1) }, taken, ?_, ?_, fits, rfl⟩
    · refine (sent.ports d i).expSeq.trans ?_
      rw [State.port_setPort]
      show (((s.port d i).acked (flitAck f) s.tick.toNat).expSeq + 1) % 4096 = _
      rw [LinkPort.acked_expSeq]
    · show List.map _ ((State.drainPort _ d i).pend ++ _) = _
      rw [sent.pend]
      simp
  · exact ok
  · show (BitVec.ofNat 16 (p.age.toNat + 1)).toNat < 1024
    omega
  · exact fun h => other (h.trans (by rw [State.drainPort, State.pump_net]; rfl))

/-- Settles O51. -/
theorem linkPorts : Obligations.LinkPorts := by
  intro s d i hd hi x
  refine ⟨fun st => ?_, fun st => ⟨?_, ?_⟩, fun st => ?_, fun st => ⟨?_, fun few => ?_, fun many => ?_⟩,
    fun st b => exec_attempt_idle b st, fun st f => ⟨fun bad => ?_, fun crc seq kind empty noAck more => ?_, ?_, ?_⟩⟩
  · rw [exec_linkTrain hd hi, State.trainPort]
    exact congrArg _ (if_pos st)
  · rw [exec_linkTrain hd hi, State.trainPort]
    exact congrArg _ (if_neg st)
  · rw [exec_linkDown hd hi, State.downPort, if_neg st]
    exact ⟨_, rfl, s.portDown_lost d i⟩
  · rw [exec_linkDown hd hi, State.downPort, if_pos st]
  · have sent := Pumps.drainPort (s.setPort d i { x with
      st := .up, tries := 0, ackTick := s.tick.toNat, wire := x.wire ++ x.tx.map fun t => mkFlit t.body t.seq t.fk x.ackOut }) d i
    obtain ⟨up, _, wire⟩ := sent.ports d i
    rw [State.port_setPort] at up wire
    exact ⟨_, exec_attempt_ok hd hi st, up, wire.imp fun _ h => h.symm⟩
  · rw [exec_attempt_fails hd hi st, if_neg (by show ¬ 2 ≤ x.tries; omega)]
  · rw [exec_attempt_fails hd hi st, if_pos many]
  · refine exec_flit_discarded hd hi st f (bad.imp_left fun h => ?_)
    simpa [flitCrcOk] using h
  · rw [exec_flit_header hd hi st f (by simpa [flitCrcOk] using crc) seq (congrArg BitVec.toNat kind), more]
    have acked : x.acked (flitAck f) s.tick.toNat = x := by simp only [flitAck, noAck]; rfl
    show Host.Outcome.next ((s.setPort d i (x.headed f s.tick.toNat)).drainPort d i) = _
    rw [LinkPort.headed, acked, State.drainPort_empty _ _ _ (by rw [State.port_setPort]; exact empty)]
    rfl
  · exact fun p crc seq kind whole off ok young other =>
      exec_flit_packet hd hi st f (by simpa [flitCrcOk] using crc) seq (congrArg BitVec.toNat kind) whole off ok young other
  · intro again train full
    have replay : exec (.replayRequest d i) s = .next (s.replayPort d i) := rfl
    refine ⟨fun few => ?_, fun many => ?_, fun late => ?_, fun early => ?_⟩
    · rw [replay, State.replayPort_up s d i st full]
      exact congrArg _ (if_neg (by simpa using few))
    · rw [replay, State.replayPort_up s d i st full]
      exact congrArg _ (if_pos (by simpa using many))
    · exact if_pos late
    · exact if_neg (by show ¬ x.ackTick + 16 * 850 ≤ s.tick.toNat; omega)

/-! ### Routing -/

/-- A packet that is no collective's or operation's has a header flit only (R397). -/
theorem Packet.dataFlits_token {p : Packet} (h : p.kind = 0x01) : p.dataFlits = 0 := by
  simp [Packet.dataFlits, Packet.payloadLen, opKind, h]

/-- What becomes of a port when a packet without data becomes its flit (R394). -/
theorem LinkPort.push_token (x : LinkPort) (p : Packet) (who : Option Origin) (since tick : Nat) (h : p.kind = 0x01) :
    x.push p who since tick = { x with
      tx := x.tx ++ [{ seq := x.nextSeq, body := p.header, fk := 1, pkt := some p, who := who, since := since }],
      nextSeq := (x.nextSeq + 1) % 4096, wire := x.wire ++ [mkFlit p.header x.nextSeq 1 x.ackOut],
      ackTick := if x.tx = [] then tick else x.ackTick } := by
  have alone : p.bodies = [(1, p.header)] := by simp [Packet.bodies, Packet.dataFlits_token h]
  simp [LinkPort.push, alone]

section
variable {s : State} {d i : Nat} {p : Packet} (who : Option Origin)

/-- The port of a packet's route. -/
def State.routePort (s : State) (p : Packet) : Nat := fld (tget 0 s.net.routes p.dnode.toNat) 0 4

theorem State.forward_unrouted (other : p.dnode ≠ s.net.nodeid) (token : p.kind = 0x01)
    (lost : (tget 0 s.net.routes p.dnode.toNat).getLsbD 7 = false ∨ 1024 ≤ p.age.toNat) : s.forward d i p who = s.countDrop d i := by
  have plain : collKind p.kind = false := by rw [token]; decide
  unfold State.forward
  simp only [if_neg other]
  rw [if_pos lost, if_neg (by simp [plain])]

section
variable (other : p.dnode ≠ s.net.nodeid) (valid : (tget 0 s.net.routes p.dnode.toNat).getLsbD 7 = true) (young : p.age.toNat < 1024)
include other valid young

/-- A packet with a route goes to its port, where it is lost or queues (R399). -/
theorem State.forward_routed : s.forward d i p who =
    let n := s.routePort p
    if (s.port (n / 4) (n % 4)).st = .down then s.losePacket (n / 4) (n % 4) p who
    else (s.setPort (n / 4) (n % 4) { s.port (n / 4) (n % 4) with
      queue := (s.port (n / 4) (n % 4)).queue ++ [(p, s.tick.toNat, who)] }).drainPort (n / 4) (n % 4) := by
  unfold State.forward
  simp only [if_neg other]
  rw [if_neg (not_or.2 ⟨by rw [valid]; decide, by omega⟩)]
  rfl

end

/-- A token packet alone in the queue of a port that is UP becomes a flit at once (R394, R399). -/
theorem State.drainPort_token {a b : Nat} (up : (s.port a b).st = .up) (empty : (s.port a b).queue = []) (none : (s.port a b).tx = [])
    (token : p.kind = 0x01) (young : p.age.toNat < 1024) :
    ∃ x : LinkPort, (s.setPort a b { s.port a b with queue := (s.port a b).queue ++ [(p, s.tick.toNat, who)] }).drainPort a b =
        (s.setPort a b { s.port a b with queue := [(p, s.tick.toNat, who)] }).setPort a b x ∧
      x.wire = (s.port a b).wire ++ [mkFlit p.header (s.port a b).nextSeq 1 (s.port a b).ackOut] ∧
      x.nextSeq = ((s.port a b).nextSeq + 1) % 4096 := by
  have age : BitVec.ofNat 16 (p.age.toNat + usOf (s.tick.toNat - s.tick.toNat)) = p.age := by simp [usOf, ticksPerUs]
  have same : p.age.toNat + usOf (s.tick.toNat - s.tick.toNat) = p.age.toNat := by simp [usOf, ticksPerUs]
  refine ⟨({ s.port a b with queue := [] } : LinkPort).push p who s.tick.toNat s.tick.toNat, ?_, ?_, ?_⟩
  · rw [empty, List.nil_append, State.drainPort, State.pump]
    simp only [State.port_setPort, up, none, Packet.dataFlits_token token, State.setPort_tick, age]
    rw [if_neg (by simp), if_neg (by omega), State.pump_empty]
    rw [State.port_setPort, LinkPort.push_token _ _ _ _ _ token]
  · rw [LinkPort.push_token _ _ _ _ _ token]; rfl
  · rw [LinkPort.push_token _ _ _ _ _ token]

/-- A packet of no collective for a table of this package is its own event (R399, R402). -/
theorem State.receive_event {c t : Nat} (key : s.keyTable p.gkey = some (c, t)) (own : (s.pgt c t).own = p.drank.toNat)
    (ok : kindOk p.kind = true) (plain : collKind p.kind = false) :
    s.receive d i p = (if p.kind = 0x01 then s.touch d c else s).post (packetEvent d i c t p) := by
  unfold State.receive
  simp only [key]
  rw [if_neg (by simp [own, ok, plain])]

theorem packetEvent_plain (d i c t : Nat) (plain : collKind p.kind = false) :
    packetEvent d i c t p = match p.kind.toNat with
      | 0x01 => .tokenPacket d i c p
      | 0x18 => .rack c p
      | 0x19 => .rfail c p
      | 0x20 => .creq c t p
      | 0x21 => .cclr c t p
      | 0x22 => .cdata c t p
      | 0x23 => .cdone c t p
      | 0x24 => .cbusy c t p
      | 0x28 => .cabt c t p
      | 0x29 => .cack c t p
      | _ => .remoteOpArrival d i c p := by
  simp only [packetEvent, plain]
  rfl

end

/-- Settles O52. -/
theorem packetRouting : Obligations.PacketRouting := by
  intro s d i p r n x who
  have run : exec (.packetForward d i p) s = .next (s.forward d i p who) := rfl
  refine ⟨fun other valid young => ?_, fun other lost token => ?_, fun here => ?_⟩
  · have routed := State.forward_routed (d := d) (i := i) who other valid young
    change s.forward d i p who = if x.st = .down then s.losePacket (n / 4) (n % 4) p who else
      (s.setPort (n / 4) (n % 4) { x with queue := x.queue ++ [(p, s.tick.toNat, who)] }).drainPort (n / 4) (n % 4) at routed
    rw [run, routed]
    refine ⟨fun training => ?_, fun up empty none token => ?_, fun down => ?_⟩
    · rw [if_neg (by simp [training]), State.drainPort_notUp _ _ _ (by rw [State.port_setPort]; simp [training])]
    · obtain ⟨y, eq, wire, next⟩ := State.drainPort_token who up empty none token young
      rw [if_neg (by simp [up]), eq]
      exact ⟨_, rfl, rfl, by rw [State.port_setPort]; exact wire, by rw [State.port_setPort]; exact next⟩
    · rw [if_pos down]
  · rw [run, State.forward_unrouted who other token lost]
  · have taken : s.forward d i p who = s.receive d i p := if_pos here
    rw [run, taken]
    refine ⟨fun unknown => ?_, fun c t key own => ?_⟩
    · unfold State.receive
      simp only [unknown]
    · have event (ok : kindOk p.kind = true) (plain : collKind p.kind = false) := State.receive_event (d := d) (i := i) key own ok plain
      refine ⟨fun token => ?_, fun add => ?_, fun ack => ?_⟩
      · rw [event (by rw [token]; decide) (by rw [token]; decide), if_pos token, packetEvent_plain _ _ _ _ (by rw [token]; decide), token]
        rfl
      · rw [event (by rw [add]; decide) (by rw [add]; decide), if_neg (by rw [add]; decide),
          packetEvent_plain _ _ _ _ (by rw [add]; decide), add]
        rfl
      · rw [event (by rw [ack]; decide) (by rw [ack]; decide), if_neg (by rw [ack]; decide),
          packetEvent_plain _ _ _ _ (by rw [ack]; decide), ack]
        rfl

end Sys2Proof.Machine
end


section
/-!
The Root Core (R449–R458): boot and its image, freeze and reset, capture, replay and power.
-/
namespace Sys2Proof.Machine
open Sys2Proof Sys2Proof.Machine Sys2Proof.Cert

/-! ### BSTATE and the cores -/

/-- What a core is once it has been released at `entry` (R452). -/
def CoreState.Released (entry : Word) (c : CoreState) : Prop :=
  c.pc = entry ∧ c.run = true ∧ c.csr.mode = true ∧ c.csr.asel = 64

theorem State.releaseCore_released (d : Nat) (s : State) (entry : Word) : ((s.releaseCore d entry).core d).Released entry := by
  simp [State.releaseCore, CoreState.Released]

theorem State.released_each (s : State) (entry : Word) {d : Nat} (hd : d < 4) :
    ((s.each (List.range 4) fun d t => t.releaseCore d entry).core d).Released entry :=
  State.each_own (part := State.core) (fun e t => t.releaseCore_released e entry)
    (fun _ _ t h => State.core_setCore_ne t _ _ _ h) _ s d (.inl (List.mem_range.2 hd))

theorem State.releaseEach_root (s : State) (entry : Word) (l : List Nat) :
    (s.each l fun d t => t.releaseCore d entry).root = s.root ∧ (s.each l fun d t => t.releaseCore d entry).mem = s.mem :=
  foldl_of_trans (R := fun s t => t.root = s.root ∧ t.mem = s.mem) (f := fun t d => t.releaseCore d entry) (fun _ => ⟨rfl, rfl⟩)
    (fun h k => ⟨k.1.trans h.1, k.2.trans h.2⟩) l (fun _ _ _ => ⟨rfl, rfl⟩) s

theorem State.setBoot_root (s : State) (b : BootSt) : (s.setBoot b).root = { s.root with bstate := b } := by
  unfold State.setBoot
  split
  next h => rw [← h]
  next => rfl

theorem State.setBoot_mem (s : State) (b : BootSt) : (s.setBoot b).mem = s.mem := by unfold State.setBoot; split <;> rfl
theorem State.setBoot_core (s : State) (b : BootSt) (d : Nat) : (s.setBoot b).core d = s.core d := by
  unfold State.setBoot; split <;> rfl

/-! ### The image -/

section
variable {s : State}

/-- A number of the image that breaks a rule of its header (R451). -/
theorem State.imgHeader_bad (bad : s.root.imglen.toNat < 178 ∨ s.imgAt 0 4 ≠ 0x57464756 ∨ s.imgAt 4 2 ≠ 1 ∨
    addrPath (BitVec.ofNat 64 (s.imgAt 8 8)) ≠ 0 ∨ (BitVec.ofNat 64 (s.imgAt 8 8)).toNat % 8 ≠ 0 ∨
    s.root.imglen.toNat < 178 + s.imgAt 16 4) : s.imgHeaderOk = false := by
  rw [← Bool.not_eq_true]
  intro ok
  simp only [State.imgHeaderOk, Bool.and_eq_true, beq_iff_eq, decide_eq_true_eq] at ok
  omega

theorem State.imgHeader_long (ok : s.imgHeaderOk = true) : 178 ≤ s.root.imglen.toNat := by
  simp only [State.imgHeaderOk, Bool.and_eq_true, beq_iff_eq, decide_eq_true_eq] at ok
  omega

theorem exec_imageVerify_fails (st : s.root.bstate = .verify) {e : Nat} (bad : s.imgFault = some e) :
    exec .imageVerifyDone s = .next ({ s with root := { s.root with berr := e } }.setBoot .failed) := by
  show execImageVerifyDone s = _
  simp only [execImageVerifyDone, st, bad]
  rfl

/-- A good image runs: its prehash is kept, and the cores start at its entry (R452). -/
theorem exec_imageVerify_good (st : s.root.bstate = .verify) (good : s.imgFault = none) :
    ∃ t, exec .imageVerifyDone s = .next t ∧ t.root.bstate = .running ∧ t.root.digest = s.imgPrehash ∧ t.mem = s.mem ∧
      ∀ d, d < 4 → (t.core d).Released (BitVec.ofNat 64 (s.imgAt 8 8)) := by
  have run : exec .imageVerifyDone s = execImageVerifyDone s := rfl
  rw [run]
  simp only [execImageVerifyDone, st, good]
  refine ⟨_, rfl, ?_, ?_, ?_, fun d hd => ?_⟩
  · rw [State.setBoot_root]
  · rw [State.setBoot_root, (State.releaseEach_root ..).1]
  · rw [State.setBoot_mem, (State.releaseEach_root ..).2]
  · rw [State.setBoot_core]
    exact State.released_each _ _ hd

section
variable (fits : s.root.imgaddr.toNat + s.root.imglen.toNat ≤ 2 ^ 39)
  (clean : s.eccAt (hbmHome s.root.imgaddr.toNat) s.root.imglen.toNat = false)
include fits clean

/-- The tests of an image that can be read (R451). -/
theorem State.imgFault_readable : s.imgFault = if s.imgHeaderOk = false then some 1
    else if Config.firmwareSigOk s.imgPrehash (s.rdBytes (hbmHome (s.root.imgaddr.toNat + s.root.imglen.toNat - 114)) 114) = false
      then some 2 else none := by
  unfold State.imgFault
  dsimp only
  rw [if_neg (not_or.2 ⟨by omega, by rw [clean]; decide⟩)]

end

theorem State.imgFault_unreadable (bad : 2 ^ 39 < s.root.imgaddr.toNat + s.root.imglen.toNat ∨
    s.eccAt (hbmHome s.root.imgaddr.toNat) s.root.imglen.toNat = true) : s.imgFault = some 3 := by
  unfold State.imgFault
  dsimp only
  rw [if_pos bad]

end

/-! ### Boot, freeze and reset -/

theorem bootAndFreeze : BootAndFreeze := by
  intro s st
  refine ⟨fun rom => ⟨congrArg _ (if_pos rom), congrArg _ (if_pos rom)⟩,
    fun late => ⟨congrArg _ (if_neg late), congrArg _ (if_neg late)⟩,
    fun idle => congrArg _ (if_pos idle), fun notWait notFailed => congrArg _ (if_neg (not_or.2 ⟨notWait, notFailed⟩)),
    fun other => if_pos other, ?_, rfl, fun d w x hd frozen => ?_, fun d w x running => ?_,
    ⟨_, rfl, rfl, rfl, rfl, rfl, rfl, rfl, rfl, rfl, rfl⟩⟩
  · intro a len bytes entry fails verify
    refine ⟨fun bad => exec_imageVerify_fails verify (State.imgFault_unreadable bad), fun fits clean => ?_⟩
    have fault := State.imgFault_readable fits clean
    refine ⟨fun bad => exec_imageVerify_fails verify ?_, fun ok => ?_⟩
    · rw [fault, if_pos (State.imgHeader_bad bad)]
    · have tail : a + len - 114 = a + (len - 114) := Nat.add_sub_assoc (le_trans (by decide) (State.imgHeader_long ok)) a
      change s.imgFault = if s.imgHeaderOk = false then some 1 else
        if Config.firmwareSigOk s.imgPrehash (s.rdBytes (hbmHome (a + len - 114)) 114) = false then some 2 else none at fault
      rw [if_neg (by rw [ok]; decide), tail] at fault
      intro h
      refine ⟨fun wrong => exec_imageVerify_fails verify ?_, fun signed => exec_imageVerify_good verify ?_⟩
      · rw [fault]; exact if_pos wrong
      · have holds : Config.firmwareSigOk s.imgPrehash (s.rdBytes (hbmHome (a + (len - 114))) 114) = true := signed
        rw [fault, if_neg (by rw [holds]; decide)]
  · exact if_neg (not_or.2 ⟨by omega, by simp [State.isFrozen, show s.root.bstate = .frozen from frozen]⟩)
  · exact if_pos (.inr (by simpa [State.isFrozen] using running))

/-! ### Capture, replay and power -/

theorem State.fresh_iff (s : State) : (s.ctxs.all fun (_, c) => c.st == .free && !c.torn) = true ↔
    ∀ p ∈ s.ctxs, p.2.st = .free ∧ p.2.torn = false := by
  simp

theorem captureAndPower : CaptureAndPower := by
  intro s r
  refine ⟨rfl, rfl, fun running fresh => ?_, fun not => ?_, ⟨fun mode h => ?_, fun h => ?_⟩, fun w hot early => if_pos early,
    fun w hot late => ?_⟩
  · exact ⟨_, congrArg Host.Outcome.next (if_pos ⟨running, s.fresh_iff.2 fresh⟩), rfl, rfl, rfl, rfl, rfl⟩
  · refine congrArg _ (if_neg fun h => ?_)
    obtain ⟨running, fresh⟩ := h
    obtain other | ⟨p, hp, used⟩ := not
    · exact other running
    · obtain ⟨free, whole⟩ := s.fresh_iff.1 fresh p hp
      simp [free, whole] at used
  · obtain ⟨d, hd, stuck, old⟩ := h
    have found : (List.range 4).any s.stuckReplay = true :=
      List.any_eq_true.2 ⟨d, List.mem_range.2 hd, Bool.and_eq_true _ _ ▸ ⟨stuck, decide_eq_true old⟩⟩
    exact ⟨_, if_neg (not_or.2 ⟨not_not.2 mode, by rw [found]; decide⟩), rfl, rfl, rfl⟩
  · refine if_pos (h.imp_right fun none => ?_)
    rw [← Bool.not_eq_true]
    intro found
    obtain ⟨d, hd, stuck⟩ := List.any_eq_true.1 found
    exact none d (List.mem_range.1 hd) (by simpa [State.stuckReplay] using stuck)
  · refine ⟨_, if_neg (not_lt.2 late), ?_⟩
    have root (u : State) (c : Prop) [Decidable c] : (if c then u else u.fireMsix 4).root = u.root := by split <;> rfl
    rw [root]
    refine ⟨rfl, rfl, fun exceeded => if_pos exceeded, fun under cool low => ?_, fun under cool even => ?_⟩
    all_goals show nextMult _ _ _ _ = _
    · rw [nextMult, if_neg (not_or.2 ⟨not_lt.2 under, by rw [cool]; decide⟩), if_pos low]
    · rw [nextMult, if_neg (not_or.2 ⟨not_lt.2 under, by rw [cool]; decide⟩), if_neg (not_lt.2 even)]

/-- Settles O54. -/
theorem bootPowerAndCapture : Obligations.BootPowerAndCapture := ⟨bootAndFreeze, captureAndPower⟩

end Sys2Proof.Machine
end


section
/-!
Messages of collectives (R409–R414): requests and the steps that take them, clearances, data, completion and time-outs.
-/
namespace Sys2Proof.Machine
open Sys2Proof Sys2Proof.Machine Sys2Proof.Cert

/-! ### When a packet is handled (R287, R290, R399) -/

theorem collPacket_handled {i : Instr} {c t : Nat} {p : Packet} {s : State} (k : State) (h : handlesPacket s c p) :
    collPacket i c t p s k = .next k := by
  obtain ⟨live, young⟩ := h
  have going : ¬ ((s.ctx c).st = .tearing ∨ (s.ctx c).st = .free) ∧
      ¬ ((s.ctx c).st = .stopped ∨ (s.ctx c).st = .ready ∧ (s.ctx c).svalid = true) := by
    obtain st | st | ⟨st, sv⟩ := live
    · simp [st]
    · simp [st]
    · simp [st, sv]
  unfold collPacket
  dsimp only
  rw [if_neg going.1, if_neg going.2, if_neg (not_le.2 young)]

theorem collPacket_torn {i : Instr} {c t : Nat} {p : Packet} {s : State} (k : State)
    (h : (s.ctx c).st = .tearing ∨ (s.ctx c).st = .free) : collPacket i c t p s k = .next s := if_pos h

theorem collPacket_stopped {i : Instr} {c t : Nat} {p : Packet} {s : State} (k : State) (h : (s.ctx c).st = .stopped) :
    collPacket i c t p s k = .next { s with held := s.held ++ [(c, s.tick.toNat, i)] } := by
  unfold collPacket
  dsimp only
  rw [if_neg (by simp [h]), if_pos (.inl h)]

/-- Every packet of a message but a CABT is handled so. -/
theorem exec_coll {c t : Nat} {p : Packet} {s : State} {i : Instr}
    (hi : i ∈ [Instr.creq c t p, .cclr c t p, .cdata c t p, .cdone c t p, .cbusy c t p, .cack c t p]) :
    ∃ k, exec i s = collPacket i c t p s k := by
  simp only [List.mem_cons, List.not_mem_nil, or_false] at hi
  obtain rfl | rfl | rfl | rfl | rfl | rfl := hi <;> exact ⟨_, rfl⟩

/-- A reply to a packet answers it. -/
theorem answers_replyTo {s u : State} (pend : u.pend = s.pend) (net : u.net = s.net) (p : Packet) (kind : BitVec 8) :
    answers s (u.replyTo p kind) p kind :=
  ⟨{ p with kind := kind, dnode := p.snode, snode := u.net.nodeid, age := 0, srank := p.drank, drank := p.srank, addr := 0,
            payload := [] },
    by rw [State.replyTo, State.sendPacket, State.postDep, List.map_append, pend]; rfl, rfl, rfl,
    congrArg Net.nodeid net, rfl, rfl, rfl, rfl, rfl⟩

/-! ### Steps -/

theorem State.setStep_at {s : State} {d k : Nat} {q : CProg} (h : s.prog d k = some q) (y : CStep) :
    s.setStep d k y = s.setProg d k (some { q with outs := q.outs.map fun x => if x.id = y.id then y else x }) := by
  simp only [State.setStep, h]

theorem State.setStep_pend (s : State) (d k : Nat) (y : CStep) : (s.setStep d k y).pend = s.pend := by
  unfold State.setStep; split <;> rfl

section
variable {s : State} {c t : Nat} {p : Packet}

/-! ### Requests (R409, R410, R413) -/

section
variable (now : handlesPacket s c p) (die : p.die.toNat < 4)
include now die

theorem exec_creq : exec (.creq c t p) s = .next (match s.accept p.die.toNat c t p with
    | some u => u
    | none => if 256 ≤ (s.die p.die.toNat).reqs.length then s.replyTo p 0x24
      else s.setDie p.die.toNat { s.die p.die.toNat with reqs := (s.die p.die.toNat).reqs ++ [⟨c, t, p⟩] }) := by
  show execCreq c t p s = _
  rw [execCreq, Nat.mod_eq_of_lt die]
  exact collPacket_handled _ now

end

section
variable {d k : Nat} {q : CProg} {x : CStep} (prog : s.progOf d c t p.gen.toNat = some (k, q)) (plain : p.graph = false)
include prog plain

/-- A request for the only outstanding step, a CS.RECV that awaits it (R413). -/
theorem State.accept_recv (outs : q.outs = [x]) (kind : x.kind = .recv) (free : x.cleared = none) (tag : x.tag = p.tag.toNat)
    (peer : x.peer = p.srank.toNat) : s.accept d c t p = some (s.clearStep d k q x p) := by
  simp [State.accept, plain, prog, outs, State.acceptStep, kind, free, tag, peer]

end

theorem State.clearStep_length {d k : Nat} {q : CProg} {x : CStep} (h : p.len.toNat ≠ x.len) :
    s.clearStep d k q x p = s.collAbort d k 4 0 := if_pos h

/-- What a CS.RECV is once its request has been cleared. -/
def CStep.clearedFor (x : CStep) (p : Packet) : CStep :=
  { x with cleared := some p.srank.toNat, mark := p.mark, snode := p.snode.toNat, todo := stepChunks x.len, buf := [] }

theorem State.clearStep_recv {d k : Nat} {q : CProg} {x : CStep} (kind : x.kind = .recv) (len : p.len.toNat = x.len) :
    s.clearStep d k q x p = (s.setStep d k (x.clearedFor p)).replyTo p 0x21 := by
  have plain : x.isArr = false := by simp [CStep.isArr, kind]
  unfold State.clearStep
  rw [if_neg (not_not.2 len)]
  simp only [plain, Bool.false_and, Bool.or_false, Bool.false_eq_true, if_false]
  rfl

/-! ### Clearances and completion (R409, R410) -/

/-- The last chunk of a message to be read leaves: the sender goes no further. -/
theorem exec_cclr_last (now : handlesPacket s c p) {k : Nat} {q : CProg} {x : CStep}
    (send : s.sender c t p = some (k, q, x)) (cleared : x.cleared ≠ none) {o : Nat} (todo : x.todo = [o]) :
    exec (.cclr c t p) s = .next (s.drawFree.2.sendChunk (p.die.toNat % 4) k q x p o) := by
  have going : x.cleared.isNone = false := Option.isNone_eq_false_iff.2 (Option.isSome_iff_ne_none.2 cleared)
  show execCclr c t p s = _
  rw [execCclr, collPacket_handled _ now]
  simp only [send, going, Bool.false_eq_true, if_false]
  rw [todo]
  simp [Nat.mod_one]

/-- A message of one chunk leaves in one CDATA (R409). -/
theorem State.sendChunk_only {v : State} {d k : Nat} {q : CProg} {x : CStep} {bs : List Byte}
    (read : s.readChunk d q.ctx (x.addr + BitVec.ofNat 64 0) = (.ok bs, v)) (len : x.len = 64) (todo : x.todo = [0])
    (size : bs.length = 64) :
    ∃ pk : Packet, (s.sendChunk d k q x p 0).pend.map (·.ev) = v.pend.map (·.ev) ++ [.packetForward d 16 pk] ∧ pk.kind = 0x22 ∧
      pk.payload = bs ∧ pk.addr = 0 := by
  have whole : ({ x with todo := x.todo.filter (· != 0), buf := tsets 0 x.buf 0 bs } : CStep).runReady (0 / 256 * 256) = some bs := by
    have all := tgets_tsets (0 : Byte) x.buf 0 bs
    rw [size] at all
    simpa [CStep.runReady, todo, len] using all
  have sent : ∃ u : State, u.pend = v.pend ∧ ∃ pk : Packet, s.sendChunk d k q x p 0 = u.sendPacket [] d pk ∧ pk.kind = 0x22 ∧
      pk.payload = bs ∧ pk.addr = 0 := by
    unfold State.sendChunk
    simp only [read, whole]
    exact ⟨_, State.setStep_pend .., _, rfl, rfl, rfl, rfl⟩
  obtain ⟨u, pend, pk, eq, is⟩ := sent
  exact ⟨pk, by rw [eq, State.sendPacket, State.postDep, List.map_append, pend]; rfl, is⟩

/-! ### Data (R409) -/

/-- The chunk that a packet brings for an outstanding CS.RECV is taken. -/
theorem exec_cdata_chunk (now : handlesPacket s c p) (die : p.die.toNat < 4) {k : Nat} {q : CProg} {x : CStep} (plain : p.graph = false)
    (prog : s.progOf p.die.toNat c t p.gen.toNat = some (k, q)) (some_ : p.payload ≠ []) (one : p.payload.length ≤ 64)
    (due : p.addr.toNat ∈ x.todo)
    (step : (q.outs.find? fun x => x.kind != .send && x.cleared == some p.srank.toNat && x.mark == p.mark) = some x) :
    exec (.cdata c t p) s = .next (s.takeChunk p.die.toNat k q x p) := by
  show execCdata c t p s = _
  rw [execCdata, collPacket_handled _ now, Nat.mod_eq_of_lt die]
  simp only [List.drop_eq_nil_of_le one, some_, plain, if_true, prog, step, due, if_false, Bool.false_eq_true]

theorem State.takeChunk_recv {d k : Nat} {q : CProg} {x : CStep} (kind : x.kind = .recv) (one : p.payload.length ≤ 64) {hs : List Nat}
    {u : State} (homes : s.chunkHomes d q.ctx .swrite (x.addr + BitVec.ofNat 64 p.addr.toNat) = (.ok hs, u)) :
    s.takeChunk d k q x p =
      let rest := x.todo.filter (· != p.addr.toNat)
      let v := (u.storeHomes hs p.payload).setStep d k { x with todo := rest }
      if rest = [] then (v.replyTo p 0x23).finishStep d k { x with todo := rest } else v := by
  unfold State.takeChunk
  simp only [kind, homes, List.take_of_length_le one, State.messageDone]

end

/-! ### Steps whose time has come (R410) -/

section
variable {s : State} {d k n : Nat} {p : CProg} {x : CStep} (prog : s.prog d k = some p) (step : p.step? n = some x)
include prog step

theorem exec_creqResend : exec (.creqResend d k n) s = .next (if x.resend.any fun t => decide (t ≤ s.tick.toNat) then
    (s.setStep d k { x with resend := none }).sendCreq d p { x with resend := none } else s) := by
  show execCreqResend d k n s = _
  simp only [execCreqResend, prog, step]
  split <;> rfl

theorem exec_collStepTimeout (kind : x.kind ≠ .copy) (going : p.stop = false) (run : (s.ctx p.ctx).st = .running)
    (tmo : (s.pgt p.ctx p.tbl).tmo.toNat ≠ 0) : exec (.collStepTimeout d k n) s =
      .next (if x.start + (s.pgt p.ctx p.tbl).tmo.toNat * 850 ≤ s.tick.toNat then s.collAbort d k 1 0 else s) := by
  show execCollStepTimeout d k n s = _
  simp only [execCollStepTimeout, prog, step]
  rw [apply_ite Host.Outcome.next]
  refine if_congr ⟨fun h => h.2.2.2.2, fun h => ⟨tmo, kind, going, run, h⟩⟩ rfl rfl

end

/-- Settles O49. -/
theorem collectiveMessages : Obligations.CollectiveMessages := by
  refine ⟨fun s c t p now die => ?_, fun s c t p i hi => ?_, fun s d k n p x prog step => ?_⟩
  · intro d
    refine ⟨fun waits room => ?_, fun waits full => ?_, fun k q x plain prog outs here kind free tag peer => ?_,
      fun k q x send => ⟨fun cleared o todo => ⟨?_, ?_⟩, ?_, ?_⟩, ?_⟩
    · rw [exec_creq now die, waits]
      exact congrArg _ (if_neg (not_le.2 room))
    · refine ⟨s.replyTo p 0x24, ?_, answers_replyTo rfl rfl p _, rfl⟩
      rw [exec_creq now die, waits]
      exact congrArg _ (if_pos full)
    · have taken : exec (.creq c t p) s = .next (s.clearStep d k q x p) := by
        rw [exec_creq now die, State.accept_recv prog plain outs kind free tag peer]
      refine ⟨fun len => ⟨_, by rw [taken, State.clearStep_recv kind len.symm], ?_, ?_⟩, fun len => ?_⟩
      · rw [State.setStep_at here]
        exact answers_replyTo rfl rfl p _
      · show Option.map _ ((s.setStep d k _).prog d k) = _
        rw [State.setStep_at here, State.prog_setProg, outs]
        simp [CStep.clearedFor, stepChunks]
      · rw [taken, State.clearStep_length (Ne.symm len)]
    · rw [exec_cclr_last now send cleared todo, Nat.mod_eq_of_lt die]
    · rintro bs v read len rfl size
      exact State.sendChunk_only read len todo size
    · show execCdone c t p s = _
      rw [execCdone, collPacket_handled _ now, Nat.mod_eq_of_lt die, send]
    · show execCbusy c t p s = _
      rw [execCbusy, collPacket_handled _ now, Nat.mod_eq_of_lt die, send]
      rfl
    · intro k q x plain prog kind some_ one due step o rest hs u homes v
      have taken := exec_cdata_chunk now die plain prog some_ one due step
      rw [State.takeChunk_recv kind one homes] at taken
      refine ⟨fun more => taken.trans (congrArg _ (if_neg more)), fun last => taken.trans ((congrArg _ (if_pos last)).trans ?_)⟩
      show Host.Outcome.next ((v.replyTo p 0x23).finishStep d k { x with todo := rest }) = _
      rw [last]
  · obtain ⟨k, eq⟩ := exec_coll (s := s) hi
    exact ⟨fun torn => eq.trans (collPacket_torn k torn), fun stopped => eq.trans (collPacket_stopped k stopped)⟩
  · refine ⟨fun at_ resend due => ?_, fun at_ resend early => ?_, ?_⟩
    · rw [exec_creqResend prog step, if_pos (by simpa [resend] using due)]
    · rw [exec_creqResend prog step, if_neg (by simpa [resend] using early)]
    · intro tmo kind going run positive
      have timed := exec_collStepTimeout prog step kind going run positive
      exact ⟨fun late => timed.trans (congrArg _ (if_pos late)), fun early => timed.trans (congrArg _ (if_neg (not_le.2 early)))⟩

end Sys2Proof.Machine
end


section
/-!
Aborts of collectives (R422–R424), the timers of RECV ports (R405) and the check of a table (R401).
-/
namespace Sys2Proof.Machine
open Sys2Proof Sys2Proof.Machine Sys2Proof.Cert

/-! ### What an abort leaves as it is -/

/-- The programs and the aborts stay; what is in flight stays, and more may follow it. -/
structure Follows (s t : State) : Prop where
  prog   : ∀ d k, t.prog d k = s.prog d k
  aborts : t.cp.aborts = s.cp.aborts
  pend   : s.pend <+: t.pend

namespace Follows
variable {s t u : State}

theorem refl (s : State) : Follows s s := ⟨fun _ _ => rfl, rfl, List.prefix_refl _⟩
theorem trans (h : Follows s t) (k : Follows t u) : Follows s u :=
  ⟨fun d n => (k.prog d n).trans (h.prog d n), k.aborts.trans h.aborts, h.pend.trans k.pend⟩

theorem of_dies (d : t.dies = s.dies) (a : t.cp.aborts = s.cp.aborts) (p : t.pend = s.pend) : Follows s t :=
  ⟨fun n k => by simp only [State.prog, State.die, d], a, p ▸ List.prefix_refl _⟩

theorem setReqs (s : State) (d : Nat) (l : List CReqEntry) : Follows s (s.setDie d { s.die d with reqs := l }) :=
  have same : SameProgs s (s.setDie d { s.die d with reqs := l }) := .setDie rfl
  ⟨same.prog, rfl, List.prefix_refl _⟩

theorem sendPacket (s : State) (l : List Nat) (d : Nat) (p : Packet) : Follows s (s.sendPacket l d p) :=
  ⟨fun _ _ => rfl, rfl, List.prefix_append ..⟩

theorem raise (s : State) (d : Nat) (r : Record) : Follows s (s.raise d r) := by
  obtain ⟨l, eq⟩ := s.raise_kernels d r
  rw [eq]
  exact ⟨fun _ _ => rfl, rfl, List.prefix_append ..⟩

theorem foldl {α : Type} {f : State → α → State} (l : List α) (h : ∀ t a, Follows t (f t a)) (s : State) :
    Follows s (l.foldl f s) :=
  foldl_of_trans refl trans l (fun a _ t => h t a) s

theorem each {f : Nat → State → State} (l : List Nat) (h : ∀ n t, Follows t (f n t)) (s : State) : Follows s (s.each l f) :=
  foldl l (fun t n => h n t) s

theorem keepReqs (keep : CReqEntry → Bool) (l : List Nat) (s : State) :
    Follows s (s.each l fun d u => u.setDie d { u.die d with reqs := (u.die d).reqs.filter keep }) :=
  each (f := fun d u => u.setDie d { u.die d with reqs := (u.die d).reqs.filter keep }) l (fun d u => setReqs u d _) s

theorem retireGen (s : State) (c t gen : Nat) : Follows s (s.retireGen c t gen) := by
  unfold State.retireGen
  refine trans ?_ (keepReqs _ _ _)
  exact of_dies rfl rfl rfl

theorem dropReqs (s : State) (c t gen : Nat) : Follows s (s.dropReqs c t gen) := keepReqs _ _ _

end Follows

/-! ### The programs of a generation (R423) -/

theorem State.prog_setProg_eq (s : State) (d k a b : Nat) (x : Option CProg) :
    (s.setProg d k x).prog a b = x ∧ d = a ∧ k = b ∨ (s.setProg d k x).prog a b = s.prog a b := by
  by_cases ha : d = a
  · subst ha
    by_cases hb : k = b
    · subst hb; exact .inl ⟨s.prog_setProg .., rfl, rfl⟩
    · right
      simp [State.prog, State.setProg, tget_tset_ne _ _ _ _ _ hb]
  · right
    simp only [State.prog, State.setProg, State.die_setDie_ne _ _ _ _ ha]

/-- What runs after slots have been emptied ran before, in another slot. -/
theorem State.prog_emptied (l : List (Nat × Nat × CProg)) (s : State) {a b : Nat} {p : CProg}
    (h : (l.foldl (fun u (d, k, _) => u.setProg d k none) s).prog a b = some p) :
    s.prog a b = some p ∧ ∀ e ∈ l, ¬ (e.1 = a ∧ e.2.1 = b) := by
  induction l generalizing s with
  | nil => exact ⟨h, by simp⟩
  | cons e l ih =>
    obtain ⟨before, others⟩ := ih _ h
    obtain ⟨gone, -⟩ | same := s.prog_setProg_eq e.1 e.2.1 a b none
    · simp [gone] at before
    · refine ⟨same.symm.trans before, List.forall_mem_cons.2 ⟨?_, others⟩⟩
      rintro ⟨rfl, rfl⟩
      simp [State.prog_setProg] at before

theorem State.mem_genProgs {s : State} {c t gen : Nat} {e : Nat × Nat × CProg} : e ∈ s.genProgs c t gen ↔
    e.1 < 4 ∧ e.2.1 < 8 ∧ s.prog e.1 e.2.1 = some e.2.2 ∧ e.2.2.ctx = c ∧ e.2.2.tbl = t ∧ e.2.2.gen = gen := by
  obtain ⟨d, k, p⟩ := e
  simp only [State.genProgs, List.mem_flatMap, List.mem_filterMap, List.mem_range]
  constructor
  · rintro ⟨a, ha, b, hb, eq⟩
    split at eq
    next q prog =>
      split at eq
      next is =>
        cases eq
        exact ⟨ha, hb, prog, is⟩
      · cases eq
    · cases eq
  · rintro ⟨hd, hk, prog, is⟩
    exact ⟨d, hd, k, hk, by simp only [show s.prog d k = some p from prog]; rw [if_pos is]⟩

theorem State.genProgs_eq_nil {s : State} {c t gen : Nat} : s.genProgs c t gen = [] ↔
    ∀ d k p, d < 4 → k < 8 → s.prog d k = some p → ¬ (p.ctx = c ∧ p.tbl = t ∧ p.gen = gen) := by
  rw [List.eq_nil_iff_forall_not_mem]
  simp only [State.mem_genProgs, Prod.forall]
  exact ⟨fun h d k p hd hk prog is => h d k p ⟨hd, hk, prog, is⟩, fun h d k p ⟨hd, hk, prog, is⟩ => h d k p hd hk prog is⟩

theorem Follows.genProgs {s t : State} (h : Follows s t) (c n gen : Nat) : t.genProgs c n gen = s.genProgs c n gen := by
  simp only [State.genProgs, h.prog]

/-- The state without the programs of a generation. -/
def State.dropProgs (s : State) (c t gen : Nat) : State :=
  (s.genProgs c t gen).foldl (fun u (d, k, _) => u.setProg d k none) s

theorem State.dropProgs_genProgs (s : State) (c t gen : Nat) : (s.dropProgs c t gen).genProgs c t gen = [] :=
  State.genProgs_eq_nil.2 fun d k p hd hk prog is =>
    have ⟨before, others⟩ := State.prog_emptied _ _ prog
    others (d, k, p) (State.mem_genProgs.2 ⟨hd, hk, before, is⟩) ⟨rfl, rfl⟩

theorem State.dropProgs_pend (s : State) (c t gen : Nat) :
    (s.dropProgs c t gen).pend = s.pend ∧ (s.dropProgs c t gen).cp.aborts = s.cp.aborts :=
  foldl_of_trans (R := fun s t => t.pend = s.pend ∧ t.cp.aborts = s.cp.aborts)
    (f := fun u (e : Nat × Nat × CProg) => u.setProg e.1 e.2.1 none)
    (fun _ => ⟨rfl, rfl⟩) (fun h k => ⟨k.1.trans h.1, k.2.trans h.2⟩) (s.genProgs c t gen) (fun _ _ _ => ⟨rfl, rfl⟩) s

/-- Beyond its programs a generation loses requests, messages and its entry among the collectives. -/
theorem State.dropGen_follows (s : State) (c t gen : Nat) : Follows (s.dropProgs c t gen) (s.dropGen c t gen) := by
  have engines (u : State) (l : List Nat) (f : Engine → Engine) :
      Follows u (u.each l fun e v => v.setEngine e (f (v.engine e))) :=
    Follows.each (f := fun e v => v.setEngine e (f (v.engine e))) l (fun _ _ => Follows.of_dies rfl rfl rfl) u
  exact (Follows.dropReqs (s.dropProgs c t gen) c t gen).trans ((engines ((s.dropProgs c t gen).dropReqs c t gen)
    (((s.dropProgs c t gen).dropReqs c t gen).eng.map (·.1)) fun x =>
      { x with recvs := x.recvs.filter fun r => !(r.ctx == c && r.tbl == t && r.gen == gen) }).trans (Follows.of_dies rfl rfl rfl))

/-! ### The first CABT of a generation (R423) -/

/-- The CABT that goes on to a neighbour. -/
def State.cabtTo (s : State) (c t gen reason det : Nat) (addr : Word) (r : Nat) : Packet :=
  { s.collPkt 0x28 0 c t gen r 0 0 (BitVec.ofNat 192 (reason + 16 * det)) with addr := addr }

theorem State.sendCabts_pend (c t gen reason det : Nat) (addr : Word) (nb : List Nat) (s : State) :
    (nb.foldl (fun u r => u.sendPacket [] 0 (u.cabtTo c t gen reason det addr r)) s).pend.map (·.ev) =
      s.pend.map (·.ev) ++ nb.map fun r => .packetForward 0 16 (s.cabtTo c t gen reason det addr r) := by
  induction nb generalizing s with
  | nil => simp
  | cons r nb ih =>
    rw [List.foldl_cons, ih, State.sendPacket, State.postDep]
    simp only [List.map_append, List.map_cons, List.map_nil, List.append_assoc, List.singleton_append]
    rfl

/-- The state in which an abort is over (R423). -/
def State.abortOver (s : State) (w : AbortWait) : State :=
  { s with cp := { s.cp with aborts := (s.cp.aborts.filter fun a => !(a.ctx == w.ctx && a.tbl == w.tbl && a.gen == w.gen)) ++
      [{ w with done := true, await := [] }] } }

theorem State.finishAbort_follows (s : State) (w : AbortWait) (ackd : Bool) : Follows (s.abortOver w) (s.finishAbort w ackd) := by
  unfold State.finishAbort
  dsimp only
  refine Follows.trans ?_ (Follows.foldl _ (fun _ _ => Follows.raise ..) _)
  split
  · exact Follows.sendPacket ..
  · exact Follows.refl _

theorem State.abortOf_isSome {s : State} {w : AbortWait} (h : w ∈ s.cp.aborts) : (s.abortOf w.ctx w.tbl w.gen).isSome = true := by
  rw [State.abortOf, List.find?_isSome]
  exact ⟨w, h, by simp⟩

section
variable (s : State) (c t gen reason det : Nat) (addr : Word) (sender : Option Nat)

/-- The neighbours to which a first CABT goes on. -/
def State.abortNeighbours : List Nat := (treeNeighbours (s.pgt c t).own (s.pgt c t).n).filter fun r => sender != some r

/-- The state once the first CABT has gone on to the neighbours. -/
def State.abortSent : State :=
  (s.abortNeighbours c t sender).foldl (fun u r => u.sendPacket [] 0 (u.cabtTo c t gen reason det addr r)) s

/-- The state once a first CABT has dropped its generation, its entry among the aborts apart. -/
def State.abortDropped : State :=
  let s2 := (s.abortSent c t gen reason det addr sender).dropGen c t gen
  if gen ∈ (s.pgt c t).live then s2.retireGen c t gen else s2

/-- The record of a first CABT that drops a program (R424). -/
def State.abortRecs : List Record :=
  match s.genProgs c t gen with
  | [] => []
  | (_, _, p) :: _ =>
    [s.record cCabort ⟨c, none, 0, 255, 0, 0⟩ (if reason = 6 then addr else 0) (cabortDetail p.pc reason det t gen) none]

/-- The abort that a first CABT begins. -/
def State.abortWait : AbortWait :=
  { ctx := c, tbl := t, gen := gen, reason := reason, det := det, toward := sender, await := s.abortNeighbours c t sender,
    start := s.tick.toNat, recs := s.abortRecs c t gen reason det addr,
    early := gen ∉ (s.pgt c t).live ∧ (gen + 65536 - (s.pgt c t).gen.toNat) % 65536 < 8 }

/-- The abort is over at once, or awaits its neighbours. -/
theorem State.firstAbort_eq : s.firstAbort c t gen reason det addr sender =
    let u := s.abortDropped c t gen reason det addr sender
    let w := s.abortWait c t gen reason det addr sender
    if s.abortNeighbours c t sender = [] then u.finishAbort w true
    else if (s.ctx c).st = .tearing ∨ (s.ctx c).st = .free then u.finishAbort w false
    else { u with cp := { u.cp with aborts := u.cp.aborts ++ [w] } } := rfl

theorem State.abortDropped_spec : (s.abortDropped c t gen reason det addr sender).genProgs c t gen = [] ∧
    (s.abortSent c t gen reason det addr sender).pend <+: (s.abortDropped c t gen reason det addr sender).pend := by
  have drop := State.dropGen_follows (s.abortSent c t gen reason det addr sender) c t gen
  have after : Follows ((s.abortSent c t gen reason det addr sender).dropProgs c t gen)
      (s.abortDropped c t gen reason det addr sender) := by
    unfold State.abortDropped
    dsimp only
    split
    · exact drop.trans (Follows.retireGen ..)
    · exact drop
  exact ⟨by rw [after.genProgs, State.dropProgs_genProgs], by
    rw [← (State.dropProgs_pend (s.abortSent c t gen reason det addr sender) c t gen).1]; exact after.pend⟩

/-- The first CABT of a generation: its programs are gone, the abort is known, and what follows in flight comes behind its CABTs. -/
theorem State.firstAbort_spec {u : State} (h : s.firstAbort c t gen reason det addr sender = u) :
    u.genProgs c t gen = [] ∧ (u.abortOf c t gen).isSome = true ∧ (s.abortSent c t gen reason det addr sender).pend <+: u.pend := by
  obtain ⟨gone, sent⟩ := s.abortDropped_spec c t gen reason det addr sender
  have finished (b : Bool) :
      let v := (s.abortDropped c t gen reason det addr sender).finishAbort (s.abortWait c t gen reason det addr sender) b
      v.genProgs c t gen = [] ∧ (v.abortOf c t gen).isSome = true ∧ (s.abortSent c t gen reason det addr sender).pend <+: v.pend := by
    have done := State.finishAbort_follows (s.abortDropped c t gen reason det addr sender) (s.abortWait c t gen reason det addr sender) b
    refine ⟨by rw [done.genProgs]; exact gone, ?_, sent.trans done.pend⟩
    exact State.abortOf_isSome (w := { s.abortWait c t gen reason det addr sender with done := true, await := [] })
      (by rw [done.aborts]; simp [State.abortOver])
  rw [State.firstAbort_eq] at h
  dsimp only at h
  split at h
  · exact h ▸ finished true
  · split at h
    · exact h ▸ finished false
    · subst h
      exact ⟨gone, State.abortOf_isSome (w := s.abortWait c t gen reason det addr sender) (by simp), sent⟩

end

/-! ### Aborts that are known (R423) -/

section
variable {s : State} {c t : Nat} {p : Packet}

/-- A CABT of another package, or of another rank of this one. -/
theorem exec_cabt_other (now : handlesPacket s c p) (other : p.srank ≠ p.drank ∨ p.snode ≠ s.net.nodeid) :
    exec (.cabt c t p) s = .next (s.takeCabt c t p false) := by
  have foreign : (p.srank == p.drank && p.snode == s.net.nodeid) = false := by
    rw [← Bool.not_eq_true, Bool.and_eq_true, beq_iff_eq, beq_iff_eq]
    tauto
  show execCabt c t p s = _
  rw [execCabt, collPacket_handled _ now]
  simp only [foreign, Bool.false_eq_true, if_false]

theorem exec_cack (now : handlesPacket s c p) {w : AbortWait} (known : s.abortOf c t p.gen.toNat = some w) :
    exec (.cack c t p) s = .next (
      let y := { w with await := w.await.filter (· != p.srank.toNat) }
      if w.done then s else if y.await = [] then s.finishAbort y true
      else { s with cp := { s.cp with aborts := s.cp.aborts.map fun a => if a = w then y else a } }) := by
  show execCack c t p s = _
  rw [execCack, collPacket_handled _ now, known]

end

theorem exec_abortAckTimeout {s : State} {c t gen : Nat} {w : AbortWait} (known : s.abortOf c t gen = some w) (open_ : w.done = false)
    (run : (s.ctx c).st = .running) : exec (.abortAckTimeout c t gen) s =
      .next (if s.tick.toNat < w.start + (if (s.pgt c t).tmo.toNat = 0 then 2048 else (s.pgt c t).tmo.toNat) * 850 then s
        else s.finishAbort w false) := by
  show execAbortAckTimeout c t gen s = _
  simp only [execAbortAckTimeout, known]
  rw [apply_ite Host.Outcome.next]
  refine if_congr ⟨fun h => ?_, fun h => .inr (.inr h)⟩ rfl rfl
  obtain done | idle | early := h
  · simp [open_] at done
  · exact absurd run idle
  · exact early

theorem mem_treeNeighbours (i n j : Nat) : j ∈ treeNeighbours i n ↔
    i ≠ 0 ∧ j = (i - 1) / 2 ∨ j < n ∧ (j = 2 * i + 1 ∨ j = 2 * i + 2) := by
  by_cases root : i = 0
  · simp [treeNeighbours, root, and_comm]
  · simp [treeNeighbours, root, and_comm]

/-! ### The check of a table (R401) -/

/-- The entries of a list that hold `a`, with their places, are each found once. -/
theorem nodup_filter_zipIdx {α : Type} (l : List α) (q : α × Nat → Bool) : (l.zipIdx.filter q).Nodup :=
  List.Nodup.filter _ (List.Nodup.of_map Prod.snd (List.nodup_zipIdx_map_snd l))

section
variable (s : State) (c t : Nat)

/-- The places of the node list of a table that name this package. -/
def State.ownPlaces : List (BitVec 16 × Nat) :=
  (s.nodeList (s.pgt c t)).zipIdx.filter fun (n, _) => n == s.net.nodeid

theorem State.mem_ownPlaces (x : BitVec 16 × Nat) :
    x ∈ s.ownPlaces c t ↔ x.1 = s.net.nodeid ∧ (s.nodeList (s.pgt c t))[x.2]? = some s.net.nodeid := by
  obtain ⟨n, j⟩ := x
  simp only [State.ownPlaces, List.mem_filter, List.mem_zipIdx_iff_getElem?, beq_iff_eq]
  constructor
  · rintro ⟨h, rfl⟩; exact ⟨rfl, h⟩
  · rintro ⟨rfl, h⟩; exact ⟨h, rfl⟩

theorem State.validatePgt_once {i : Nat} (once : s.ownPlaces c t = [(s.net.nodeid, i)]) :
    s.validatePgt c t = if 1 ≤ (s.pgt c t).n ∧ (s.pgt c t).n ≤ 4096 ∧ s.keyTaken c t (s.pgt c t).gkey = false then
      s.setPgt c t { s.pgt c t with v := true, own := i } else s := by
  unfold State.validatePgt
  dsimp only
  rw [show List.filter _ _ = _ from once]

/-- V stays 0 where the package is not found exactly once. -/
theorem State.validatePgt_not_once (other : ∀ i, s.ownPlaces c t ≠ [(s.net.nodeid, i)]) : s.validatePgt c t = s := by
  unfold State.validatePgt
  dsimp only
  split
  next n i one =>
    have mine : (n, i) ∈ s.ownPlaces c t := by
      show (n, i) ∈ List.filter _ _
      rw [one]; exact List.mem_singleton.2 rfl
    obtain rfl := ((s.mem_ownPlaces c t (n, i)).1 mine).1
    exact absurd one (other i)
  · rfl

theorem State.ownPlaces_once {i : Nat} (found : (s.nodeList (s.pgt c t))[i]? = some s.net.nodeid)
    (only : ∀ j, (s.nodeList (s.pgt c t))[j]? = some s.net.nodeid → j = i) : s.ownPlaces c t = [(s.net.nodeid, i)] := by
  have all : ∀ x ∈ s.ownPlaces c t, x = (s.net.nodeid, i) := fun x hx =>
    have ⟨node, place⟩ := (s.mem_ownPlaces c t x).1 hx
    Prod.ext node (only _ place)
  have one := List.eq_replicate_iff.2 ⟨rfl, all⟩
  have distinct : (s.ownPlaces c t).Nodup := nodup_filter_zipIdx ..
  have here : (s.net.nodeid, i) ∈ s.ownPlaces c t := (s.mem_ownPlaces c t _).2 ⟨rfl, found⟩
  rw [one] at distinct here ⊢
  have small := List.nodup_replicate.1 distinct
  have some_ : (s.ownPlaces c t).length ≠ 0 := (List.mem_replicate.1 here).1
  rw [show (s.ownPlaces c t).length = 1 by omega]
  rfl

end

/-! ### The timer of a RECV port (R405) -/

/-- The token of a port whose time is up: empty, with the error flag. -/
def State.lateToken (s : State) (e op k c : Nat) : Token :=
  { die := e / 72, unit := e % 72, op := op, port := k, col := c, frame := ((s.engine e).op op).frame, e := true,
    ctx := (tget {} (s.engine e).t.ft ((s.engine e).op op).frame).ctx : TokF }.mk128

theorem exec_recvPortTimeout {s : State} {e op k c : Nat} {m : RecvTimer}
    (timer : ((s.engine e).timers.find? fun t => t.op == op && t.port == k && t.col == c) = some m) (waits : s.recvWaits e op k c = true) :
    exec (.recvPortTimeout e op k c) s =
      .next (if s.tick.toNat < m.start + upTmo (((s.engine e).op op).upRef k) * 64 * 850 then s
        else (s.setEngine e { s.engine e with timers := (s.engine e).timers.filter (· != m) }).arriveCtx (.eng e)
          (s.lateToken e op k c) false) := by
  show execRecvPortTimeout e op k c s = _
  simp only [execRecvPortTimeout, timer, waits]
  rw [apply_ite Host.Outcome.next]
  exact if_congr ⟨fun h => h.resolve_right (by decide), .inl⟩ rfl rfl

/-- Settles O50. -/
theorem abortsAndTables : Obligations.AbortsAndTables := by
  refine ⟨fun s c t p now => ?_, fun s c t gen w known open_ run => ?_, mem_treeNeighbours, fun s e op k c m => ?_,
    fun s c t unset => ?_, fun s c t set => congrArg _ (if_pos set)⟩
  · intro gen g
    refine ⟨fun new other => ?_, fun w known => ⟨fun other => ?_, fun open_ last => ?_, fun open_ more => ?_, fun done => ?_⟩⟩
    · have first : exec (.cabt c t p) s =
          .next (s.firstAbort c t gen (fld p.xdata 0 4) (fld p.xdata 4 12) p.addr (some p.srank.toNat)) := by
        rw [exec_cabt_other now other, State.takeCabt]
        simp only [show s.abortOf c t p.gen.toNat = none from new]
        rfl
      obtain ⟨gone, found, more, pend⟩ := s.firstAbort_spec c t gen (fld p.xdata 0 4) (fld p.xdata 4 12) p.addr (some p.srank.toNat) rfl
      let packets := (s.abortNeighbours c t (some p.srank.toNat)).map (s.cabtTo c t gen (fld p.xdata 0 4) (fld p.xdata 4 12) p.addr)
      refine ⟨_, first, gone, found, packets, ?_, ?_, ?_⟩
      · rw [← pend, List.map_append, State.abortSent, State.sendCabts_pend, List.take_left' (by simp [packets])]
        simp [packets]
      · simp only [packets, List.map_map]
        refine congrArg₂ List.map (funext fun r => BitVec.toNat_ofNat ..) (List.filter_congr fun r _ => ?_)
        simp [bne, eq_comm]
      · intro k hk
        obtain ⟨r, -, rfl⟩ := List.mem_map.1 hk
        exact ⟨rfl, by simp [State.cabtTo, State.collPkt, gen], rfl⟩
    · rw [exec_cabt_other now (.inl other), State.takeCabt]
      simp only [show s.abortOf c t p.gen.toNat = some w from known]
      rfl
    · rw [exec_cack now known]
      simp only [open_, last]
      rfl
    · rw [exec_cack now known]
      simp only [open_]
      refine ⟨_, congrArg _ (if_neg more), ?_, rfl⟩
      exact List.mem_map.2 ⟨w, List.mem_of_find?_eq_some known, if_pos rfl⟩
    · rw [exec_cack now known]
      exact congrArg _ (if_pos done)
  · have timed := exec_abortAckTimeout known open_ run
    exact ⟨fun late => timed.trans (congrArg _ (if_neg (not_lt.2 late))), fun early => timed.trans (congrArg _ (if_pos early))⟩
  · intro x o timer waits
    have timed := exec_recvPortTimeout timer waits
    refine ⟨fun late => ⟨s.lateToken e op k c, ?_, ?_, ?_, ?_, timed.trans (congrArg _ (if_neg (not_lt.2 late)))⟩,
      fun early => timed.trans (congrArg _ (if_pos early))⟩
    · have unit := congrArg TokF.unit (tokFields_mk128 _ : tokFields (s.lateToken e op k c) = _)
      exact unit.trans (Nat.mod_eq_of_lt (lt_trans (Nat.mod_lt _ (by decide)) (by decide)))
    · exact congrArg TokF.e (tokFields_mk128 _)
    · exact congrArg TokF.op (tokFields_mk128 _)
    · exact congrArg TokF.port (tokFields_mk128 _)
  · intro g nodes
    have run : exec (.pgtValidate c t) s = .next (s.validatePgt c t) := congrArg _ (if_neg (by simp [unset]))
    have short : ∀ j a, nodes[j]? = some a → j < g.n := fun j a h => by
      have := (List.getElem?_eq_some_iff.1 h).1
      simpa [nodes] using this
    refine ⟨fun i hi small only fresh => ?_, fun bad => ?_⟩
    · have once := s.ownPlaces_once c t ((only i hi).2 rfl) fun j h => (only j (short j _ h)).1 h
      rw [run, s.validatePgt_once c t once, if_pos ⟨by show 1 ≤ g.n; omega, small, fresh⟩]
    · rw [run]
      by_cases once : ∃ i, s.ownPlaces c t = [(s.net.nodeid, i)]
      · obtain ⟨i, once⟩ := once
        have places : ∀ j, nodes[j]? = some s.net.nodeid → j = i := fun j h => by
          have mem := (s.mem_ownPlaces c t (s.net.nodeid, j)).2 ⟨rfl, h⟩
          rw [once] at mem
          exact congrArg Prod.snd (List.mem_singleton.1 mem)
        have found : nodes[i]? = some s.net.nodeid :=
          ((s.mem_ownPlaces c t (s.net.nodeid, i)).1 (by rw [once]; exact List.mem_singleton.2 rfl)).2
        rw [s.validatePgt_once c t once, if_neg]
        rintro ⟨-, small, fresh⟩
        obtain absent | taken | large | ⟨a, b, lt, -, ha, hb⟩ := bad
        · exact absent (List.mem_of_getElem? found)
        · exact absurd (fresh.symm.trans taken) (by decide)
        · exact absurd small (not_le.2 large)
        · exact absurd ((places a ha).trans (places b hb).symm) (by omega)
      · rw [s.validatePgt_not_once c t fun i h => once ⟨i, h⟩]

end Sys2Proof.Machine
end


section
/-!
RETRYF of a fault that holds a stream of a context which is not resident (R271, R288): it writes 0, and the fault stays open.
-/
namespace Sys2Proof.Machine
open Sys2Proof Sys2Proof.Machine Sys2Proof.Cert

/-- Core 0 in supervisor mode names FID 1, whose fault holds a stream that SNAP has taken out of engine 0's numbers. -/
def parkedFault : State :=
  let r := State.reset
  let s := r.setDie 0 { r.die 0 with core := { r.core 0 with g := [(1, 1)] }, fids := [{ key := 3, fid := 1 }] }
  { s.setEngine 0 { s.engine 0 with streams := [{ n := 256, phase := .stalled 3 }] } with cur := .core 0 }

/-- RETRYF with its result in register 2 and the FID in register 1. -/
def retryWord : FmtCG := ⟨2, 1, 0, 0, 0⟩

/-- RETRYF of a fault that is parked answers 0 and retries nothing (R288). -/
theorem exec_retryf_parked {f : FmtCG} {s : State} {d : Nat} {g : OpenFid} (hc : s.cur = .core d)
    (named : s.fidNamed d ((s.core d).rd f.ga) = some g) (may : (s.core d).mayName g.ctx = true) (parked : s.faultParked g.key = true) :
    exec (.retryf f) s = .next (s.setCore d ((s.core d).wr f.gd 0).adv) := by
  show execRetryf f s = _
  rw [execRetryf, onCore_core _ _ _ _ hc]
  simp only [named, may, parked, Bool.true_eq_false, if_false, if_true]

theorem parkedFault_spec : parkedFault.cur = .core 0 ∧ (parkedFault.core 0).csr.mode = true ∧
    parkedFault.fidNamed 0 ((parkedFault.core 0).rd retryWord.ga) = some { key := 3, fid := 1 } ∧
    parkedFault.faultParked 3 = true := by decide +kernel

/-- Refutes O37: RETRYF writes 0, and not 1, where a stream that the fault holds stands in a save area. -/
theorem not_privilegedWordsInBothModes : ¬ Obligations.PrivilegedWordsInBothModes := by
  rintro ⟨words, -⟩
  obtain ⟨cur, sup, named, parked⟩ := parkedFault_spec
  obtain ⟨-, -, -, -, retries, -⟩ := words retryWord parkedFault 0 cur sup
  have claimed := (retries _ named).1
  rw [exec_retryf_parked cur named (by rw [CoreState.mayName, sup]; rfl) parked] at claimed
  have result := congrArg (fun t : State => (t.core 0).rd 2) (Host.Outcome.next.inj claimed)
  simp only [State.core_setCore] at result
  exact absurd result (by decide +kernel)

end Sys2Proof.Machine
end


section
/-!
What a kernel that has retired keeps: no lock that is released, no add and no report takes it out of ARMED (R315).
-/
namespace Sys2Proof.Machine
open Sys2Proof Sys2Proof.Machine Sys2Proof.Cert

/-- Every kernel that is ARMED stays so, with how its last run has ended. -/
structure KeepsArmed (s t : State) : Prop where
  kernel : ∀ k, (s.kernel k).st = .armed → (t.kernel k).st = .armed ∧ (t.kernel k).last = (s.kernel k).last

namespace KeepsArmed
variable {s t u : State}

theorem of_kernels (h : t.cp.kernels = s.cp.kernels) : KeepsArmed s t := ⟨fun k armed => by
  have same : t.kernel k = s.kernel k := by simp only [State.kernel, h]
  rw [same]; exact ⟨armed, rfl⟩⟩

theorem refl (s : State) : KeepsArmed s s := of_kernels rfl

theorem trans (h : KeepsArmed s t) (g : KeepsArmed t u) : KeepsArmed s u := ⟨fun k armed =>
  have ⟨there, last⟩ := h.kernel k armed
  have ⟨still, last'⟩ := g.kernel k there
  ⟨still, last'.trans last⟩⟩

theorem foldl {α : Type} {f : State → α → State} (l : List α) (h : ∀ t a, KeepsArmed t (f t a)) (s : State) :
    KeepsArmed s (l.foldl f s) := foldl_of_trans KeepsArmed.refl KeepsArmed.trans l (fun a _ t => h t a) s

theorem each {f : Nat → State → State} (l : List Nat) (h : ∀ n t, KeepsArmed t (f n t)) (s : State) : KeepsArmed s (s.each l f) :=
  foldl l (fun t n => h n t) s

theorem ite {p : Prop} [Decidable p] (h : KeepsArmed s t) (k : KeepsArmed s u) : KeepsArmed s (if p then t else u) := by
  split <;> assumption

theorem setReckoner (s : State) (d : Nat) (x : Reckoner) : KeepsArmed s (s.setReckoner d x) := of_kernels rfl
theorem postDep (s : State) (l : List Nat) (i : Instr) : KeepsArmed s (s.postDep l i) := of_kernels rfl
theorem post (s : State) (i : Instr) : KeepsArmed s (s.post i) := of_kernels rfl
theorem touch (s : State) (d c : Nat) : KeepsArmed s (s.touch d c) := of_kernels rfl
theorem commandDone (s : State) (q i : Nat) (ids : List Nat) : KeepsArmed s (s.commandDone q i ids) := of_kernels rfl

/-- A fault moves no kernel but one that runs or drains (R310). -/
theorem faultInst (s : State) (c i : Nat) : KeepsArmed s (s.faultInst c i) := by
  unfold State.faultInst
  split
  · exact refl s
  · next k _ =>
    dsimp only
    split
    · next running => exact ⟨fun a armed => by
        by_cases same : k = a
        · subst same; simp [armed] at running
        · rw [State.kernel_setKernel_ne _ _ _ _ same]; exact ⟨armed, rfl⟩⟩
    · exact refl s

theorem raise (s : State) (d : Nat) (r : Record) : KeepsArmed s (s.raise d r) := by
  unfold State.raise
  refine trans (t := _) ?_ (post ..)
  split
  · split <;> [exact faultInst ..; exact refl s]
  · exact refl s

theorem report (s : State) (d cause : Nat) (who : Origin) (ad det : Word) (tok : Option Token) :
    KeepsArmed s (s.report d cause who ad det tok) := raise ..

/-! #### Adds (R296) -/

theorem checkRod (s : State) (u : RodUser) (use : RodUse) (r : Word) : KeepsArmed s (s.checkRod u use r).2 := by
  rw [State.checkRod]
  split
  · exact refl s
  · split
    · exact refl s
    · have homes := of_kernels (KeepsCores.resolve s (u.via .atomic) [0] (put 0 48 (addrVa r)) 8 true).kernels
      split
      · next h => rw [h] at homes; exact homes
      · next h => rw [h] at homes; split_ifs <;> exact homes
    · exact refl s

theorem cpAdd (s : State) (deps : List Nat) (c tag : Nat) (ref : Word) (amount : Nat) : KeepsArmed s (s.cpAdd deps c tag ref amount) := by
  have checked := checkRod s ⟨.cp, some c⟩ .add ref
  unfold State.cpAdd State.cpRod
  dsimp only
  split
  · next h => rw [h] at checked; exact checked.trans (report ..)
  · next h => rw [h] at checked; exact checked.trans (postDep ..)

/-! #### Locks (R362–R369) -/

theorem decision {cls die unit : Nat} {what : List Nat} (h : s.decision cls die unit what = some t) : KeepsArmed s t := by
  have stored : ∀ hs bs r, KeepsArmed s { s.storeHomes hs bs with root := r } := fun hs bs r =>
    (of_kernels (KeepsCores.storeHomes ..).kernels).trans (of_kernels rfl)
  have fired : ∀ hs bs r, KeepsArmed s (State.fireMsix { s.storeHomes hs bs with root := r } 3) := fun hs bs r =>
    (stored hs bs r).trans (of_kernels rfl)
  unfold State.decision at h
  dsimp only at h
  split at h
  · split at h <;> obtain rfl := Option.some.inj h
    · exact of_kernels rfl
    · split <;> [exact fired ..; exact stored ..]
  · split at h
    · split at h
      · obtain rfl := Option.some.inj h; exact refl s
      · split at h
        · obtain rfl := Option.some.inj h; exact of_kernels rfl
        · exact absurd h (by simp)
    · obtain rfl := Option.some.inj h; exact refl s

theorem woundAll (s : State) (h c : Nat) (age o : Word) (want : Nat) : KeepsArmed s (s.woundAll h c age o want) := by
  unfold State.woundAll
  refine foldl _ (fun t x => ?_) s
  split
  · exact report ..
  · exact (setReckoner ..).trans (foldl _ (fun _ _ => post ..) _)

theorem escalate (s : State) (h : Nat) (r : LockReq) : KeepsArmed s (s.escalate h r) := by
  unfold State.escalate
  exact ite (refl s) (ite (setReckoner ..) (refl s))

theorem lkLevels (s : State) (h : Nat) (r : LockReq) (l : List Word) : KeepsArmed s (s.lkLevels h r l) := by
  induction l generalizing s with
  | nil => exact ((escalate ..).trans (of_kernels (KeepsCores.endWaits ..).kernels)).trans (touch ..)
  | cons o rest ih =>
    rw [State.lkLevels]
    dsimp only
    split
    · exact (setReckoner ..).trans (ih _)
    · split
      · next t granted =>
        have decided : KeepsArmed s t := by
          split at granted <;> [exact decision granted; exact absurd granted (by simp)]
        exact decided.trans (((setReckoner ..).trans (touch ..)).trans (ih _))
      · split
        · exact woundAll ..
        · exact (woundAll ..).trans (setReckoner ..)

theorem lkScan (s : State) (h n : Nat) : KeepsArmed s (s.lkScan h n) := by
  induction n generalizing s with
  | zero => exact refl s
  | succ n ih =>
    rw [State.lkScan]
    split
    · exact refl s
    · exact ((setReckoner ..).trans (lkLevels ..)).trans (ih _)

theorem dropLocks (s : State) (c : Nat) (seq : Word) (p : Nat → Bool) : KeepsArmed s (s.dropLocks c seq p) :=
  each _ (fun _ _ => (setReckoner ..).trans (lkScan ..)) s

end KeepsArmed

/-! ### How a kernel retires (R315), step by step -/

section
variable (s s1 : State) (n k : Nat)

/-- What the adds of the kernel follow, where its tokens and frames are gone. -/
def State.retireIds : List Nat :=
  (s1.effectIds fun w => w.ctx == (s.kernel k).ctx && w.inst == some (s.kernel k).inst) ++ (s.kernel k).launch.trigIds

/-- The trigger add has been made. -/
def State.retireTriggered : State :=
  let x := s.kernel k
  if x.launch.trigDone then s1 else match x.launch.trod with
    | some r => s1.cpAdd (s.retireIds s1 k) x.ctx x.launch.tag r x.launch.tadd.toNat
    | none => s1

/-- The kernel is ARMED. -/
def State.retireArmed : State :=
  let t := s.retireTriggered s1 k
  t.setKernel k { t.kernel k with st := .armed, last := 1, left := BitVec.ofNat 32 n }

/-- The kernel's locks are released, and the completion add has been made. -/
def State.retireAdded : State :=
  let x := s.kernel k
  let t := (s.retireArmed s1 n k).dropLocks x.ctx x.launch.seq fun _ => true
  match x.launch.crod with
  | some r => t.cpAdd (s.retireIds s1 k ++ (s.retireTriggered s1 k).idsSince s1) x.ctx x.launch.tag r x.launch.cadd.toNat
  | none => t

/-- The command that launched the kernel is done. -/
def State.retireDone : State :=
  let t := s.retireAdded s1 n k
  match (s.kernel k).launch.queue with
  | some (q, i) => t.commandDone q i (s.retireIds s1 k ++ t.idsSince s1)
  | none => t

theorem State.retire_eq : s.retire k =
    let p := s.dropTokens (s.kernel k).ctx (s.kernel k).inst (fun _ => true) false
    s.retireDone (p.2.dropFrames k false) p.1 k := by
  unfold State.retire
  dsimp only
  generalize s.dropTokens (s.kernel k).ctx (s.kernel k).inst (fun _ => true) false = p
  rfl

/-- From the moment at which its kernel is ARMED, a retirement keeps it so. -/
theorem State.retireDone_keeps : KeepsArmed (s.retireArmed s1 n k) (s.retireDone s1 n k) := by
  have added : KeepsArmed (s.retireArmed s1 n k) (s.retireAdded s1 n k) := by
    unfold State.retireAdded
    dsimp only
    split <;> [exact (KeepsArmed.dropLocks ..).trans (KeepsArmed.cpAdd ..); exact KeepsArmed.dropLocks ..]
  unfold State.retireDone
  dsimp only
  split <;> [exact added.trans (KeepsArmed.commandDone ..); exact added]

/-- A kernel that has retired is ARMED, ended by quiescence (R315). -/
theorem State.retire_armed : ((s.retire k).kernel k).st = .armed ∧ ((s.retire k).kernel k).last = 1 := by
  rw [State.retire_eq]
  have kept := (s.retireDone_keeps ((s.dropTokens (s.kernel k).ctx (s.kernel k).inst (fun _ => true) false).2.dropFrames k false)
    (s.dropTokens (s.kernel k).ctx (s.kernel k).inst (fun _ => true) false).1 k).kernel k
  simp only [State.retireArmed, State.kernel_setKernel] at kept
  exact kept trivial

end

end Sys2Proof.Machine
end


section
/-!
The pool, the clearing of a group, quiescence and the deadlock detector (R315, R320, R330, R337, R338).
-/
namespace Sys2Proof.Machine
open Sys2Proof Sys2Proof.Machine Sys2Proof.Cert

/-! ### What the record of the deadlock detector is read from (R317, R322) -/

/-- Memory, contexts, engines, time, and of every die its pool and its walker are the same. -/
structure SameStores (s t : State) : Prop where
  mem  : t.mem = s.mem
  ecc  : t.ecc = s.ecc
  ctxs : t.ctxs = s.ctxs
  eng  : t.eng = s.eng
  tick : t.tick = s.tick
  pool : ∀ d, t.pool d = s.pool d
  walker : ∀ d, (t.units d).walk = (s.units d).walk

namespace SameStores
variable {s t : State}

theorem engine (h : SameStores s t) (e : Nat) : t.engine e = s.engine e := by simp only [State.engine, h.eng]
theorem ctx (h : SameStores s t) (c : Nat) : t.ctx c = s.ctx c := by simp only [State.ctx, h.ctxs]

/-- The detector of a die is no part of this. -/
theorem setDet (s : State) (d : Nat) (x : Detector) : SameStores s (s.setUnits d { s.units d with det := x }) := by
  refine ⟨rfl, rfl, rfl, rfl, rfl, fun a => ?_, fun a => ?_⟩
  all_goals
    by_cases same : d = a
    · subst same; simp [State.pool]
    · simp only [State.pool, State.units_setUnits_ne _ _ _ _ same]

theorem walk (h : SameStores s t) (root va : Nat) (pre : List PreByte) : t.walk root va pre = s.walk root va pre := by
  have entry : ∀ a, t.pte pre a = s.pte pre a := fun a => by
    simp only [State.pte, State.rdWord, State.rdBytes, h.mem]
  have bad : ∀ a, t.pteBad pre a = s.pteBad pre a := fun a => by simp only [State.pteBad, State.eccAt, h.ecc]
  simp only [State.walk, entry, bad]

/-- A walker keeps the same new translation in both. -/
theorem setWalker (h : SameStores s t) (d : Nat) (w : Walker) :
    SameStores (s.setUnits d { s.units d with walk := w }) (t.setUnits d { t.units d with walk := w }) := by
  refine ⟨h.mem, h.ecc, h.ctxs, h.eng, h.tick, fun a => ?_, fun a => ?_⟩ <;> by_cases same : d = a
  · subst same; simpa only [State.pool, State.units_setUnits] using h.pool d
  · simpa only [State.pool, State.units_setUnits_ne _ _ _ _ same] using h.pool a
  · subst same; simp only [State.units_setUnits]
  · simpa only [State.units_setUnits_ne _ _ _ _ same] using h.walker a

theorem translate (h : SameStores s t) (d c va : Nat) (pre : List PreByte) :
    (t.translate d c va pre).1 = (s.translate d c va pre).1 ∧ SameStores (s.translate d c va pre).2 (t.translate d c va pre).2 := by
  unfold State.translate
  simp only [h.walker, h.walk, h.ctx]
  repeat' split
  case h_2.isFalse => exact ⟨rfl, h.setWalker ..⟩
  all_goals exact ⟨rfl, h⟩

/-! A read by a port of the fabric: its paths into vaults and scratch need no state. -/

section
variable (h : SameStores s t) {v : Via} {b : Nat} (link : v.by_ = .link b) (reads : v.kind.writes = false)
include h link reads

theorem byteHome (a : Word) : (t.byteHome v a).1 = (s.byteHome v a).1 ∧ SameStores (s.byteHome v a).2 (t.byteHome v a).2 := by
  have walked := fun c => h.translate b c (addrVa a) (s.walkPre v)
  have pre : t.walkPre v = s.walkPre v := by simp only [State.walkPre, link, h.walker]
  unfold State.byteHome
  simp only [link, reads, pre, Accessor.die, Bool.false_eq_true, and_false, if_false]
  generalize addrPath a = p
  split
  case h_5 h8 h9 hA hB =>
    cases ctx : v.ctx with
    | none =>
      by_cases host : p = 2
      · simp only [host, if_true]; exact ⟨trivial, h⟩
      · by_cases low : addrVa a < 2 ^ 39
        · simp only [host, low, if_true, if_false]; exact ⟨trivial, h⟩
        · simp only [host, low, if_false]; exact ⟨trivial, h⟩
    | some c =>
      obtain ⟨same, after⟩ := walked c
      dsimp only
      generalize s.translate b c (addrVa a) (s.walkPre v) = x at same after ⊢
      generalize t.translate b c (addrVa a) (s.walkPre v) = y at same after ⊢
      obtain ⟨rx, s1⟩ := x
      obtain ⟨ry, t1⟩ := y
      obtain rfl : ry = rx := same
      obtain ⟨l, r⟩ | m := ry
      · exact ⟨rfl, after⟩
      · dsimp only
        cases leafCheck m p v.kind v.hostAtomic <;> exact ⟨rfl, after⟩
  all_goals exact ⟨rfl, h⟩

theorem byteHomes (a : Word) (n : Nat) :
    (t.byteHomes v a n).1 = (s.byteHomes v a n).1 ∧ SameStores (s.byteHomes v a n).2 (t.byteHomes v a n).2 := by
  induction n generalizing s t a with
  | zero => exact ⟨rfl, h⟩
  | succ n ih =>
    obtain ⟨same, after⟩ := h.byteHome link reads a
    simp only [State.byteHomes]
    generalize s.byteHome v a = x at same after
    generalize t.byteHome v a = y at same after
    obtain ⟨rx, s1⟩ := x
    obtain ⟨ry, t1⟩ := y
    obtain rfl : ry = rx := same
    cases ry with
    | error f => exact ⟨rfl, after⟩
    | ok home =>
      obtain ⟨same, last⟩ := ih after (a + 1)
      dsimp only at same last ⊢
      generalize s1.byteHomes v (a + 1) n = x at same last ⊢
      generalize t1.byteHomes v (a + 1) n = y at same last ⊢
      obtain ⟨rx, s2⟩ := x
      obtain ⟨ry, t2⟩ := y
      obtain rfl : ry = rx := same
      cases ry <;> exact ⟨rfl, last⟩

theorem resolve (ps : List Nat) (a : Word) (n : Nat) (al : Bool) :
    (t.resolve v ps a n al).1 = (s.resolve v ps a n al).1 := by
  have window : ∀ x, t.windowOk v x = s.windowOk v x := fun x => by
    unfold State.windowOk
    simp only [h.ctx, link]
  unfold State.resolve
  dsimp only
  simp only [window]
  split
  · rfl
  · split
    · rfl
    · split
      · rfl
      · exact (h.byteHomes link reads a n).1

end

/-! The overflow entries of a die's share, and the record that is made of what stands in the stores. -/

section
variable (h : SameStores s t)
include h

theorem ovUsed (d c : Nat) : t.ovUsed d c = s.ovUsed d c := by
  have homes : ∀ i, (t.ovHomes d c i .load).1 = (s.ovHomes d c i .load).1 := fun i => by
    simp only [State.ovHomes, h.ctx]
    exact h.resolve rfl rfl ..
  have bytes : ∀ hs, t.rdHomes hs = s.rdHomes hs := fun hs => List.map_congr_left fun _ _ => by simp only [State.rdByte, h.mem]
  have entry : ∀ i, t.ovEntry d c i = s.ovEntry d c i := fun i => by
    simp only [State.ovEntry, homes, bytes]
  simp only [State.ovUsed, entry, h.ctx]

theorem ctxSlots (l : Loc) (c : Nat) : t.ctxSlots l c = s.ctxSlots l c := by
  cases l <;> simp only [State.ctxSlots, State.ms, h.engine, h.pool]

theorem tokOrigin (l : Loc) (k : Token) : t.tokOrigin l k = s.tokOrigin l k := by
  have frame : t.frame l (tokFrame k) = s.frame l (tokFrame k) := by
    cases l <;> simp only [State.frame, State.ft, h.engine, h.pool]
  unfold State.tokOrigin
  rw [frame]

theorem stallRecord (d c : Nat) : t.stallRecord d c = s.stallRecord d c := by
  simp only [State.stallRecord, State.record, h.ovUsed, h.ctxSlots, h.tokOrigin, h.engine, h.tick]

end

end SameStores

/-! ### The dispatch of the pool (R337) -/

section
variable {s : State} {d g : Nat}

/-- A group without a ready colour has no priority to dispatch from. -/
theorem State.poolAt_none (quiet : ∀ p < 8, s.poolAt d g p = []) :
    ([7, 6, 5, 4, 3, 2, 1, 0].find? fun p => s.poolAt d g p != []) = none := by
  refine List.find?_eq_none.2 fun p hp => ?_
  have small : p < 8 := by
    simp only [List.mem_cons, List.not_mem_nil, or_false] at hp
    omega
  simp [quiet p small]

theorem State.poolAim_quiet (quiet : ∀ p < 8, s.poolAt d g p = []) : s.poolAim d g = s := by
  unfold State.poolAim
  rw [State.poolAt_none quiet]

theorem State.dispatchFrom_quiet (quiet : ∀ p < 8, s.poolAt d g p = []) : s.dispatchFrom d g = none := by
  unfold State.dispatchFrom
  rw [State.poolAt_none quiet]

/-- The scan passes over the groups that have nothing ready. -/
theorem State.poolScan_skip (before rest : List Nat) (quiet : ∀ k ∈ before, ∀ p < 8, s.poolAt d k p = []) :
    s.poolScan d (before ++ rest) = s.poolScan d rest := by
  induction before with
  | nil => rfl
  | cons k before ih =>
    have none := quiet k (List.mem_cons_self ..)
    rw [List.cons_append, State.poolScan, State.poolAim_quiet none, State.dispatchFrom_quiet none]
    exact ih fun j hj => quiet j (List.mem_cons_of_mem _ hj)

theorem State.poolScan_dispatch {t : State} (rest : List Nat) (sent : (s.poolAim d g).dispatchFrom d g = some t) :
    s.poolScan d (g :: rest) = t.setPool d { t.pool d with did := true } := by
  rw [State.poolScan, sent]

end

/-! ### The deadlock detector (R319–R322) -/

theorem State.raise_pend (s : State) (d : Nat) (r : Record) :
    ∃ n, (s.raise d r).pend = s.pend ++ [⟨n, [], .trapRecordEnqueue d r⟩] := by
  obtain ⟨l, eq⟩ := s.raise_kernels d r
  exact ⟨_, by rw [eq]; rfl⟩

theorem State.raise_units (s : State) (d : Nat) (r : Record) (a : Nat) : (s.raise d r).units a = s.units a := by
  simp only [State.units, State.die, State.raise_dies]

section
variable {s : State} {d c : Nat} (hd : d < 4) (hc : c < 64) (en : (s.units d).det.en = true)
  (due : 2 ^ (s.units d).det.log2 ≤ tget 0 (s.units d).det.cnt c) (new : c ∉ (s.units d).det.rep)
include hd hc en due new

/-- At the threshold the detector reports, or its counter restarts. -/
theorem exec_stall_due : exec (.stall d c) s = .next (
    let t := s.ovLook d c none
    let det := (s.units d).det
    if t.stalled d c then
      let s1 := t.setUnits d { t.units d with det := { det with rep := det.rep ++ [c] } }
      s1.raise d (s1.stallRecord d c)
    else t.setUnits d { t.units d with det := { det with cnt := tset 0 det.cnt c 0 } }) := by
  show execStall d c s = _
  rw [execStall, if_neg (by omega)]
  unfold State.stallTest
  dsimp only
  rw [if_neg]
  rintro (off | early | told)
  · simp [en] at off
  · omega
  · exact new (by simpa using told)

end

/-- Settles O40. -/
theorem poolAndInstanceEvents : Obligations.PoolAndInstanceEvents := by
  refine ⟨fun s t d g before after hd fresh scan quiet sent => ?_, fun s d n r => ?_, fun s d g t clear due => ?_, fun s k => ?_,
    fun s d c hd hc => ?_⟩
  · show execPoolDispatch d s = _
    rw [execPoolDispatch, if_neg (by omega), State.poolCycle]
    simp only [fresh, Bool.false_eq_true, if_false, scan]
    rw [State.poolScan_skip before _ quiet, State.poolScan_dispatch after sent]
  · intro p ready on low waited
    show execPoolPriorityPromote d n s = _
    rw [execPoolPriorityPromote]
    simp only [show (s.pool d).ready[n]? = some r from ready]
    exact if_neg (not_or.2 ⟨on, not_or.2 ⟨not_le.2 low, not_lt.2 waited⟩⟩)
  · show execGroupClearComplete d g s = _
    rw [execGroupClearComplete]
    simp only [clear]
    exact if_neg (not_lt.2 due)
  · intro x quiet
    have run : exec (.instanceQuiesce k) s =
        .next (if quiet then s.setKernel k { x with st := .quiesced } else if x.st = .quiesced then s.retire k else s) := rfl
    rw [run]
    refine ⟨fun yes => by rw [if_pos yes], fun ended => ⟨_, rfl, ?_⟩, fun no other => by rw [if_neg no, if_neg other]⟩
    rw [if_neg (by rintro ⟨draining, -⟩; rw [ended] at draining; cases draining), if_pos ended]
    exact s.retire_armed k
  · intro u en due new v
    have tested := exec_stall_due hd hc en due new
    refine ⟨fun stalled => ?_, fun going => ?_⟩
    · have told : exec (.stall d c) s = _ := tested.trans (congrArg _ (if_pos stalled))
      refine ⟨_, told, ?_, ?_⟩
      · rw [State.raise_units, State.units_setUnits]
        simp
      · obtain ⟨n, pend⟩ := State.raise_pend (v.setUnits d { v.units d with det := { u.det with rep := u.det.rep ++ [c] } }) d
          ((v.setUnits d { v.units d with det := { u.det with rep := u.det.rep ++ [c] } }).stallRecord d c)
        exact ⟨n, pend.trans (by rw [(SameStores.setDet v d _).stallRecord]; rfl)⟩
    · refine ⟨_, tested.trans (congrArg _ (if_neg (by simp [show (s.ovLook d c none).stalled d c = false from going]))), ?_, rfl⟩
      rw [State.units_setUnits]
      simp [tget_tset_same]

end Sys2Proof.Machine
end
